-- ==== Sys2Proof/Word.lean ====
section
/-! DEFINITION. The word types of the Skoholt Thoner Varvovor module and their plainest arithmetic
(spec/00_scope.md R4: bit 0 is the least significant bit; multi-byte values are little-endian). -/

namespace Sys2Proof

/-- A byte of memory. -/
abbrev Byte := BitVec 8

/-- A scalar register, mask, control register or snapshot word: 64 bits (R38). -/
abbrev Word := BitVec 64

/-- A vector register, an accumulator row or a data-queue entry: 2,048 bits (R38, R42, R45). -/
abbrev Vec := BitVec 2048

/-- A bundle: 512 bits (R8). -/
abbrev BundleWord := BitVec 512

/-- A field of `n` at bits `lo + w - 1 : lo`, as the spec writes `n[lo+w-1:lo]` (R4). -/
def fieldOf (n lo w : Nat) : Nat := n / 2 ^ lo % 2 ^ w

/-- Bit `i` of `n` (R4). -/
def bitOf (n i : Nat) : Bool := n / 2 ^ i % 2 == 1

end Sys2Proof
end

