-- ==== Sys2Proof/Syntax.lean ====
section
/-! DEFINITION. The instructions of the module, as syntax: one constructor of `Instr` for each row of
spec/opcode_table.json. The operand structures are the classes of Table 1-9 (spec/01_bundle_and_opcode_map.md);
the rows after `trap` are the steps of engines, packets, firmware, host, side band and supply. -/

namespace Sys2Proof

/-- Type codes, Table 1-6. -/
inductive Ty where
  | s8 | s16 | s32 | s64 | n8 | n16 | n32 | n64 | f32 | f16 | bf16 | e4m3 | e5m2
  deriving DecidableEq, Repr

/-- Rounding modes, Table 1-7. -/
inductive Rm where
  | rne | rtz | rdn | rup | rsr
  deriving DecidableEq, Repr

/-- Scopes, Table 1-8. -/
inductive Scope where
  | core | quad | die | pkg | pod
  deriving DecidableEq, Repr, Inhabited

/-- Orderings, Table 1-8. -/
inductive Ordering where
  | rlx | acq | rel | ar
  deriving DecidableEq, Repr, Inhabited

/-- One test of a tree bundle (R8): enable, polarity and predicate index. -/
structure TreeTest where
  en  : Bool
  pol : Bool
  idx : BitVec 4
  deriving DecidableEq, Repr

/-- The tree of a tree bundle (R12): shape, tests 0-3 and targets 0-3 in order. -/
structure Tree where
  shape : BitVec 3
  t0 : TreeTest
  t1 : TreeTest
  t2 : TreeTest
  t3 : TreeTest
  g0 : BitVec 20
  g1 : BitVec 20
  g2 : BitVec 20
  g3 : BitVec 20
  deriving DecidableEq, Repr

/-- Class SR (Table 1-9): three scalar registers. -/
structure ClsSR where
  d : BitVec 6
  a : BitVec 6
  b : BitVec 6
  deriving DecidableEq, Repr

/-- Class SS: a predicate and three scalar registers. -/
structure ClsSS where
  d : BitVec 6
  a : BitVec 6
  b : BitVec 6
  p : BitVec 4
  deriving DecidableEq, Repr

/-- Class SA: a shift of 0 to 7. -/
structure ClsSA where
  d : BitVec 6
  a : BitVec 6
  b : BitVec 6
  sh : BitVec 3
  deriving DecidableEq, Repr

/-- Class S4: four scalar registers. -/
structure ClsS4 where
  d : BitVec 6
  a : BitVec 6
  b : BitVec 6
  c : BitVec 6
  deriving DecidableEq, Repr

/-- Class SI: a 20-bit immediate. -/
structure ClsSI where
  d : BitVec 6
  a : BitVec 6
  imm : BitVec 20
  deriving DecidableEq, Repr

/-- Class SL: the 64-bit immediate of the long form goes with it (R90). -/
structure ClsSL where
  d : BitVec 6
  a : BitVec 6
  imm : BitVec 64
  deriving DecidableEq, Repr

/-- Class SP: a register compare. -/
structure ClsSP where
  pd : BitVec 4
  a : BitVec 6
  b : BitVec 6
  deriving DecidableEq, Repr

/-- Class SPI: an immediate compare. -/
structure ClsSPI where
  pd : BitVec 4
  a : BitVec 6
  imm : BitVec 22
  deriving DecidableEq, Repr

/-- Class PL: predicate logic. -/
structure ClsPL where
  pd : BitVec 4
  pa : BitVec 4
  pb : BitVec 4
  na : Bool
  nb : Bool
  deriving DecidableEq, Repr

/-- Class SB: bit fields; `len1` is the length less 1. -/
structure ClsSB where
  d : BitVec 6
  a : BitVec 6
  pos : BitVec 6
  len1 : BitVec 6
  deriving DecidableEq, Repr

/-- Class SO: a signed 26-bit bundle offset. -/
structure ClsSO where
  d : BitVec 6
  off : BitVec 26
  deriving DecidableEq, Repr

/-- Class SJ: a register jump. -/
structure ClsSJ where
  d : BitVec 6
  a : BitVec 6
  deriving DecidableEq, Repr

/-- Class SK: a mask and a scalar register. -/
structure ClsSK where
  s : BitVec 6
  k : BitVec 3
  deriving DecidableEq, Repr

/-- Class SCR: a control register address. -/
structure ClsSCR where
  s : BitVec 6
  creg : BitVec 12
  deriving DecidableEq, Repr

/-- Class VR: up to three vector sources. -/
structure ClsVR where
  vd : BitVec 5
  va : BitVec 5
  vb : BitVec 5
  vc : BitVec 5
  k : BitVec 3
  ty : Ty
  rm : Rm
  deriving DecidableEq, Repr

/-- Class VS: a vector and a scalar source. -/
structure ClsVS where
  vd : BitVec 5
  va : BitVec 5
  s : BitVec 6
  k : BitVec 3
  ty : Ty
  rm : Rm
  deriving DecidableEq, Repr

/-- Class VX: an element index. -/
structure ClsVX where
  vd : BitVec 5
  va : BitVec 5
  imm : BitVec 10
  k : BitVec 3
  ty : Ty
  deriving DecidableEq, Repr

/-- Class VK: masks. -/
structure ClsVK where
  kd : BitVec 3
  ka : BitVec 3
  kb : BitVec 3
  deriving DecidableEq, Repr

/-- Class VL: one element. -/
structure ClsVL where
  v : BitVec 5
  s : BitVec 6
  lane : BitVec 6
  ty : Ty
  deriving DecidableEq, Repr

/-- Class VT: a source and a result type. -/
structure ClsVT where
  vd : BitVec 5
  va : BitVec 5
  res : Ty
  src : Ty
  rm : Rm
  k : BitVec 3
  deriving DecidableEq, Repr

/-- Class VF: BFP records; `bm2` is b less 2. -/
structure ClsVF where
  vd : BitVec 5
  va : BitVec 5
  bm2 : BitVec 3
  ty : Ty
  rm : Rm
  k : BitVec 3
  deriving DecidableEq, Repr

/-- Class MC without its routine field, which the constructor names (Table 6-3). -/
structure ClsMC where
  acc : BitVec 2
  acq : Bool
  rel : Bool
  scope : Scope
  deriving DecidableEq, Repr

/-- Class MP: a parameter register. -/
structure ClsMP where
  mp : BitVec 3
  s : BitVec 6
  deriving DecidableEq, Repr

/-- Class MA: an accumulator. -/
structure ClsMA where
  acc : BitVec 2
  v : BitVec 5
  s : BitVec 6
  deriving DecidableEq, Repr

/-- Class Q: a stream register. -/
structure ClsQ where
  r : BitVec 6
  q : BitVec 4
  deriving DecidableEq, Repr

/-- Class LL: a declared-latency load. -/
structure ClsLL where
  d : BitVec 6
  a : BitVec 6
  D : BitVec 12
  ty : Ty
  deriving DecidableEq, Repr

/-- Class LT: a scratchpad load. -/
structure ClsLT where
  d : BitVec 6
  a : BitVec 6
  deriving DecidableEq, Repr

/-- Class LG: a gather. -/
structure ClsLG where
  d : BitVec 6
  q : BitVec 4
  vi : BitVec 5
  D : BitVec 12
  deriving DecidableEq, Repr

/-- Class RL: a remote load. -/
structure ClsRL where
  d : BitVec 6
  a : BitVec 6
  D : BitVec 12
  deriving DecidableEq, Repr

/-- Class AT: an atomic; D is 8 times `dx`. -/
structure ClsAT where
  d : BitVec 6
  a : BitVec 6
  b : BitVec 6
  dx : BitVec 9
  ord : Ordering
  scope : Scope
  deriving DecidableEq, Repr

/-- Class FS: a store. -/
structure ClsFS where
  s : BitVec 6
  a : BitVec 6
  ty : Ty
  deriving DecidableEq, Repr

/-- Class SG: a scatter. -/
structure ClsSG where
  s : BitVec 6
  q : BitVec 4
  vi : BitVec 5
  deriving DecidableEq, Repr

/-- Class RS: a remote store. -/
structure ClsRS where
  s : BitVec 6
  a : BitVec 6
  c : BitVec 6
  scope : Scope
  rel : Bool
  deriving DecidableEq, Repr

/-- Class CC: a copy command. -/
structure ClsCC where
  ch : BitVec 3
  a : BitVec 6
  b : BitVec 6
  c : BitVec 6
  acq : Bool
  rel : Bool
  scope : Scope
  func : BitVec 4
  deriving DecidableEq, Repr

/-- Class CT: a slot command. -/
structure ClsCT where
  ch : BitVec 3
  slot : BitVec 6
  a : BitVec 6
  acq : Bool
  rel : Bool
  scope : Scope
  deriving DecidableEq, Repr

/-- Class CQ: a channel or slot query. -/
structure ClsCQ where
  s : BitVec 6
  ch : BitVec 3
  sel : BitVec 2
  slot : BitVec 6
  deriving DecidableEq, Repr

/-- Class CM: a migration. -/
structure ClsCM where
  a : BitVec 6
  b : BitVec 6
  m : BitVec 6
  ch : BitVec 3
  deriving DecidableEq, Repr

/-- Class CF: a channel mask. -/
structure ClsCF where
  mask : BitVec 8
  deriving DecidableEq, Repr

/-- Class YM: a semaphore and an immediate. -/
structure ClsYM where
  sem : BitVec 8
  imm : BitVec 16
  deriving DecidableEq, Repr

/-- Class YX: a semaphore and a register. -/
structure ClsYX where
  sem : BitVec 8
  s : BitVec 6
  deriving DecidableEq, Repr

/-- Class YB: a barrier. -/
structure ClsYB where
  scope : Scope
  id : BitVec 5
  deriving DecidableEq, Repr

/-- Class YC: the broadcast bus. -/
structure ClsYC where
  x : BitVec 6
  bslot : BitVec 5
  rank : BitVec 2
  deriving DecidableEq, Repr

/-- Class YF without its kind, which the constructor names. -/
structure ClsYF where
  scope : Scope
  deriving DecidableEq, Repr

/-- Class YW: a counter wait. -/
structure ClsYW where
  a : BitVec 6
  b : BitVec 6
  scope : Scope
  deriving DecidableEq, Repr

/-- Class YU: one register. -/
structure ClsYU where
  a : BitVec 6
  deriving DecidableEq, Repr

/-- Class YT: a trap code. -/
structure ClsYT where
  code : BitVec 16
  deriving DecidableEq, Repr

/-- What ages at the end of an AGE (R214): a ready record of a die's list, or a ream. -/
inductive AgingTarget where
  | record (die idx : Nat)
  | ream (rid : Nat)
  deriving DecidableEq, Repr

/-- A setting that a supervisor sets through the control interface (Table 11-1, R315, R319, R321, R322, R348, R371, R375). Two more
are asked for there: a frame of a VF joins its spare list (R295), and a unit of a tensor is shot down (R286). -/
inductive Setting where
  | age | qmq | crpb (vf : Nat) | crpn (vf : Nat) | cplm | psta (vf : Nat) | tto | staging | rwt
  | apb | apn | stq | srt | rjt | hostTimeout | spare (vf : Nat) | shootdown (vf tid : Nat)
  deriving DecidableEq, Repr

/-- A diapause priority list, as a supervisor sets it (R362). -/
structure PriorityList where
  pid  : Nat
  dpri : Nat
  plb  : Nat
  pln  : Nat
  deriving DecidableEq, Repr

/-- What a supervisor records of a software queue (R374): its ring base, its size 2^log, whether the ring lies in host
memory, and its MSI-X vector. -/
structure QueueRecord where
  base   : Nat
  log    : Nat
  host   : Bool
  vector : Nat
  deriving DecidableEq, Repr

/-- What a supervisor does with a software queue (R219, R374): it records it, maps it to a hardware slot, or unmaps it. -/
inductive QueueMapping where
  | record (r : QueueRecord)
  | map (slot : Nat)
  | unmap
  deriving DecidableEq, Repr

/-- A request for a partition (R329): the bulkheads, and the supervisor firmware that is measured. -/
structure PartitionRequest where
  bulkheads : List Nat
  firmware  : BitVec 512
  version   : Nat
  deriving DecidableEq, Repr

/-- A service firmware image (R339): its security version, digest, and whether its signature verifies. -/
structure Firmware where
  version : Nat
  digest  : BitVec 512
  signed  : Bool
  deriving DecidableEq, Repr

/-- Declared worst-case occupancy of an image (Table 1-20). -/
structure Occupancy where
  streams  : Nat
  channels : Nat
  ssb      : Nat
  semLo    : Nat
  semHi    : Nat
  bcast    : Nat
  deriving DecidableEq, Repr

/-- What an image is (Table 1-20, R37): a task image of kind CORE or QUAD, or the world's handler image. -/
inductive ImageKind where
  | core | quad | handler
  deriving DecidableEq, Repr

/-- A program image as its owner seals it to the monitor (R340): the SPDM session of the mailbox that carries it, the key under
which its signature verifies (none where it verifies under none), its bundles, constant memory, data section with the flat address it is placed at, the streams it
loads at task start (stream, offset in constant memory) and its occupancy. `routinePack` says that it brings
the routine pack with security version `version` (R133, R338). -/
structure ImageFile where
  session  : Nat
  signer   : Option (BitVec 512)
  kind     : ImageKind
  bundles  : List (BitVec 512)
  consts   : List (BitVec 8)
  data     : List (BitVec 8)
  dataBase : Nat
  streams  : List (Nat × Nat)
  occ      : Occupancy
  replaces : Option Nat
  digest   : BitVec 512
  deriving DecidableEq, Repr

/-- A fabric world entry (R314): the local world that answers, its FWID and its membership mask, and the world's two keys, which every
member gets (R330). -/
structure FabricWorld where
  vf      : Nat
  fwid    : BitVec 12
  members : BitVec 64
  dataKey : BitVec 512
  codeKey : BitVec 512
  deriving DecidableEq, Repr

/-- A packet of the fabric after its checks (R308, R311): the module and the plane whose lane carried it, then the fields of
Table 19-1 but for those the constructor names (OP) or the link consumed (CRC, MAC, VL), then its data bytes. `rsv` holds the
reserved bits of the header, `code` the OP where it is a reserved one, for which no event is named; `count` is the lane's count
under which the packet was sealed, which is not transmitted (R311). -/
structure Packet where
  src    : Nat
  plane  : Nat
  orig   : Nat
  gen    : Nat
  tag    : Nat
  fwid   : BitVec 12
  scope  : Scope
  rel    : Bool
  acq    : Bool
  addr   : BitVec 48
  caddr  : BitVec 48
  data   : List (BitVec 8)
  rsv    : BitVec 10 := 0
  code   : Option (BitVec 6) := none
  count  : Nat := 0
  deriving DecidableEq, Repr

/-- A step of a key's installation (R196, R343): this module installs a key that a peer opened for the world of a VF, or
a module answers an opening, or reports the seal point of an ending, of this module's key engine. -/
inductive KeyStep where
  | peer (vf slot gen : Nat) (reach : BitVec 64) (key : BitVec 256)
  | answer (idx module : Nat) (ok : Bool)
  deriving DecidableEq, Repr

/-- Sources of the package event arbiter, Table 14-7. -/
inductive ArbSource where
  | shelf | input | bulkheads | pcie | sideBand | supervisors | keyEngine | pyrty | memory | cores
  deriving DecidableEq, Repr

/-- An event as its signal reaches the arbiter (R264): the source and the bulkhead, core or VF number. -/
structure ArbEvent where
  source : ArbSource
  number : Nat
  deriving DecidableEq, Repr

/-- What one step of boot finds (Table 25-3): whether it succeeds, and the version and digest of what it reads. -/
structure BootInputs where
  ok      : Bool
  version : Nat
  digest  : BitVec 512
  deriving DecidableEq, Repr

/-- What eclosion finds in the manifest slots (R368, R369): whether each reads back as it was sealed and signed, each PID whose restarted supervisor
firmware measures to another value than the recorded one, and the regions of the chosen manifest whose Merkle root fails. -/
structure EclosionInputs where
  sigA     : Bool
  sigB     : Bool
  changed  : List Nat
  badRoots : List Nat
  deriving DecidableEq, Repr

/-- What the monitor assigns at LOCK_INTERFACE (R330, R345): the partition, the FWID and the owner key; and the session of the mailbox
that carries the request. -/
structure WorldGrant where
  pid   : Nat
  fwid  : BitVec 12
  owner : BitVec 512
  session : Nat
  deriving DecidableEq, Repr

/-- Where an SPDM request comes from (R337, R372, R376). -/
inductive SpdmPort where
  | doe | sideBand
  deriving DecidableEq, Repr

/-- A request for an interface's report, with the SPDM session that carries it (R337). -/
structure ReportRequest where
  vf : Nat
  session : Nat
  deriving DecidableEq, Repr

/-- A packet that fails its check on a lane: the count it was sealed under, and whether its MAC failed (else its CRC) (R311, R312). -/
structure FailedPacket where
  count : Nat
  mac : Bool
  deriving DecidableEq, Repr

/-- An SPDM request: its port, the secure session that carries it if any, and its code. -/
structure SpdmRequest where
  port    : SpdmPort
  session : Option Nat
  code    : Nat
  deriving DecidableEq, Repr

/-- What a side-band reset request names (R376). -/
inductive ResetTarget where
  | bulkhead (b : Nat)
  | vf (v : Nat)
  | hostLink
  deriving DecidableEq, Repr

/-- What the device discards of its own accord (R236, R281). -/
inductive Evicted where
  | line (die idx : Nat)
  | remoteGranule (die idx : Nat)
  | translation (idx : Nat)
  | owner (die idx : Nat)
  | descriptor (idx : Nat)
  deriving DecidableEq, Repr

/-- Where a bit of a protected structure changes (Table 17-1). -/
inductive ErrorSite where
  | scalar (core r : Nat)
  | vector (core r : Nat)
  | mask (core r : Nat)
  | predicate (core : Nat)
  | accumulator (core acc : Nat)
  | streamEntry (core q : Nat)
  | matrixParameter (core r : Nat)
  | gatherIndex (core : Nat)
  | control (core : Nat) (creg : Nat)
  | addressEntry (core q : Nat)
  | scratchpad (core addr : Nat)
  | storeBuffer (core idx : Nat)
  | instructionMemory (core idx : Nat)
  | hbmLine (line : Nat) (always : Bool)
  | hbmCorrected (line : Nat)
  | l2Clean (line : Nat)
  | l2Dirty (line : Nat)
  | remoteDataCache (die idx : Nat)
  | storage (slot line : Nat)
  deriving DecidableEq, Repr

/-- A host write over PCIe: into the flat space of the world of a VF (R216), or into host memory the module reads (R374). -/
inductive HostStore where
  | flat (vf la : Nat) (data : List (BitVec 8))
  | host (addr : Nat) (data : List (BitVec 8))
  deriving DecidableEq, Repr

/-- The eight slots of a bundle (R9). -/
inductive Slot where
  | sc | va | vb | mx | ld | st | cp | sy
  deriving DecidableEq, Repr

/-- A wait/signal field (R17). -/
structure WS where
  sinc : BitVec 8
  ssem : BitVec 8
  wthr : BitVec 8
  wsem : BitVec 8
  deriving DecidableEq, Repr

/-- The three forms of a bundle (R8). -/
inductive Form where
  | compute | tree | long
  deriving DecidableEq, Repr


/-- The instructions: one constructor per row of spec/opcode_table.json. -/
inductive Instr where
  /-- Empty slot operation, code 0x00 in every slot map, with no effect (R22). -/
  | nop
  /-- A tree-form bundle evaluates its tests, walks its shape to a leaf, runs the ops whose path tags select that leaf and passes control to the chosen target (R14). -/
  | treeBranch (x : Tree)
  /-- d := A + B mod 2^64 (R86). -/
  | add (x : ClsSR)
  /-- d := A − B mod 2^64 (R86). -/
  | sub (x : ClsSR)
  /-- Low 64 bits of the product, latency 3 (R86). -/
  | mul (x : ClsSR)
  /-- Upper 64 bits of the signed 128-bit product (R86). -/
  | mulh (x : ClsSR)
  /-- Upper 64 bits of the natural 128-bit product (R86). -/
  | mulhn (x : ClsSR)
  /-- Signed division toward zero with fixed results for zero divisor and overflow, latency 18 (R88). -/
  | div (x : ClsSR)
  /-- Natural division, all ones for a zero divisor (R88). -/
  | divn (x : ClsSR)
  /-- Signed remainder with the sign of A (R88). -/
  | rem (x : ClsSR)
  /-- Natural remainder, A for a zero divisor (R88). -/
  | remn (x : ClsSR)
  /-- Bitwise and of two registers (R86). -/
  | and (x : ClsSR)
  /-- Bitwise or of two registers (R86). -/
  | or (x : ClsSR)
  /-- Bitwise xor of two registers (R86). -/
  | xor (x : ClsSR)
  /-- Left shift by the whole natural value of B (R86). -/
  | shl (x : ClsSR)
  /-- Logical right shift by the whole natural value of B (R86). -/
  | shr (x : ClsSR)
  /-- Arithmetic right shift by the whole natural value of B (R86). -/
  | sra (x : ClsSR)
  /-- Adds a sign-extended 20-bit immediate (R89). -/
  | addi (x : ClsSI)
  /-- Ands with a sign-extended immediate (R89). -/
  | andi (x : ClsSI)
  /-- Ors with a sign-extended immediate (R89). -/
  | ori (x : ClsSI)
  /-- Xors with a sign-extended immediate (R89). -/
  | xori (x : ClsSI)
  /-- Left shift by an immediate 0–63 (R89). -/
  | shli (x : ClsSI)
  /-- Logical right shift by an immediate 0–63 (R89). -/
  | shri (x : ClsSI)
  /-- Arithmetic right shift by an immediate 0–63 (R89). -/
  | srai (x : ClsSI)
  /-- Multiplies by a sign-extended immediate, latency 3 (R89). -/
  | muli (x : ClsSI)
  /-- d := immediate · 2^12 (R89). -/
  | lui (x : ClsSI)
  /-- d := PC + immediate, a bundle index for register jumps (R89). -/
  | lpc (x : ClsSI)
  /-- Loads a 64-bit immediate from the long-immediate form (R90). -/
  | movl (x : ClsSL)
  /-- Adds a 64-bit long immediate (R90). -/
  | addl (x : ClsSL)
  /-- Ands with a 64-bit long immediate (R90). -/
  | andl (x : ClsSL)
  /-- d := A + B · 2^sh without checks (R91). -/
  | lea (x : ClsSA)
  /-- d := A · B + C mod 2^64, latency 3 (R87). -/
  | madd (x : ClsS4)
  /-- Signed minimum (R92). -/
  | min (x : ClsSR)
  /-- Natural minimum (R92). -/
  | minn (x : ClsSR)
  /-- Signed maximum (R92). -/
  | max (x : ClsSR)
  /-- Natural maximum (R92). -/
  | maxn (x : ClsSR)
  /-- Absolute value mod 2^64 (R92). -/
  | abs (x : ClsSR)
  /-- Selects A or B by a predicate, reading both (R92). -/
  | sel (x : ClsSS)
  /-- Extracts a bit field, sign-extended (R93). -/
  | bext (x : ClsSB)
  /-- Extracts a bit field, zero-extended (R93). -/
  | bextn (x : ClsSB)
  /-- Inserts the low bits of A into a field of d (R93). -/
  | bins (x : ClsSB)
  /-- Counts leading zeros (R94). -/
  | clz (x : ClsSR)
  /-- Counts trailing zeros (R94). -/
  | ctz (x : ClsSR)
  /-- Counts ones (R94). -/
  | popc (x : ClsSR)
  /-- Reverses byte order (R94). -/
  | bswap (x : ClsSR)
  /-- Reverses bit order (R94). -/
  | brev (x : ClsSR)
  /-- Predicate := A = B (R95). -/
  | ceq (x : ClsSP)
  /-- Predicate := A ≠ B (R95). -/
  | cne (x : ClsSP)
  /-- Predicate := signed A < B (R95). -/
  | clt (x : ClsSP)
  /-- Predicate := natural A < B (R95). -/
  | cltn (x : ClsSP)
  /-- Predicate := signed A ≤ B (R95). -/
  | cle (x : ClsSP)
  /-- Predicate := natural A ≤ B (R95). -/
  | clen (x : ClsSP)
  /-- Predicate := (A and B) ≠ 0 (R95). -/
  | ctst (x : ClsSP)
  /-- Predicate := A equals the immediate (R95). -/
  | ceqi (x : ClsSPI)
  /-- Predicate := A differs from the immediate (R95). -/
  | cnei (x : ClsSPI)
  /-- Predicate := signed A < immediate (R95). -/
  | clti (x : ClsSPI)
  /-- Predicate := natural A < immediate (R95). -/
  | cltni (x : ClsSPI)
  /-- Predicate := signed A ≤ immediate (R95). -/
  | clei (x : ClsSPI)
  /-- Predicate := natural A ≤ immediate (R95). -/
  | cleni (x : ClsSPI)
  /-- Predicate and with optional inversions (R96). -/
  | pand (x : ClsPL)
  /-- Predicate or with optional inversions (R96). -/
  | por (x : ClsPL)
  /-- Predicate xor with optional inversions (R96). -/
  | pxor (x : ClsPL)
  /-- Predicate complement (R96). -/
  | pnot (x : ClsPL)
  /-- Predicate copy (R96). -/
  | pmov (x : ClsPL)
  /-- Copies p0–p15 into a scalar register (R97). -/
  | movp (x : ClsSR)
  /-- Writes predicates 1–15 from A under the mask B (R97). -/
  | pmovs (x : ClsSR)
  /-- Copies a scalar register into a mask (R97). -/
  | movk (x : ClsSK)
  /-- Copies a mask into a scalar register (R97). -/
  | kmov (x : ClsSK)
  /-- Relative jump checked at decode (R98). -/
  | jmp (x : ClsSO)
  /-- Relative jump writing PC + 1 as link (R98). -/
  | call (x : ClsSO)
  /-- Jump to a register-held bundle index checked at issue (R99). -/
  | jr (x : ClsSJ)
  /-- Register jump writing PC + 1 as link (R99). -/
  | jalr (x : ClsSJ)
  /-- Reads a control register, with privilege checks (R47). -/
  | crr (x : ClsSCR)
  /-- Writes a control register at privilege H (R47). -/
  | crw (x : ClsSCR)
  /-- Reads one word of the snapshot space at H (R192). -/
  | snrd (x : ClsSR)
  /-- Writes a latched snapshot word, or sets p15 when refused (R193). -/
  | snwr (x : ClsSR)
  /-- Leaves the handler to TPC at privilege T and sends any replay entries (R189). -/
  | eret
  /-- Retires the task after engines idle and stores commit, adding 1 to the completion counter (R190). -/
  | halt
  /-- Opens a sequence key on its reach set and returns its handle (R196). -/
  | seqopen (x : ClsSR)
  /-- Destroys a sequence key at each reach-set module's seal point (R197). -/
  | seqend (x : ClsSR)
  /-- Sets SEQB to a live or null handle (R199). -/
  | seqbind (x : ClsSR)
  /-- Shoots down translations of a tensor range on the whole module (R201). -/
  | tinv (x : ClsSR)
  /-- Discards prefetched bundles and refetches after a 6-cycle bubble (R202). -/
  | ifence
  /-- Compares an accumulator row signature with an immediate, raising KATF on mismatch (R194). -/
  | katc (x : ClsSL)
  /-- Returns from the handler, holding for the rejoin after a DIAP entry (R203). -/
  | diapack
  /-- Element-wise add, rounded for float types (R107). -/
  | vadd (x : ClsVR)
  /-- Element-wise subtract (R107). -/
  | vsub (x : ClsVR)
  /-- Element-wise multiply (R107). -/
  | vmul (x : ClsVR)
  /-- Fused A·B + C with one rounding (R108). -/
  | vfma (x : ClsVR)
  /-- Fused A·B − C with one rounding (R108). -/
  | vfms (x : ClsVR)
  /-- Fused −A·B + C with one rounding (R108). -/
  | vfnma (x : ClsVR)
  /-- Element-wise minimum without rounding (R109). -/
  | vmin (x : ClsVR)
  /-- Element-wise maximum without rounding (R109). -/
  | vmax (x : ClsVR)
  /-- Element-wise absolute value (R107). -/
  | vabs (x : ClsVR)
  /-- Element-wise negation (R107). -/
  | vneg (x : ClsVR)
  /-- Element-wise and (R107). -/
  | vand (x : ClsVR)
  /-- Element-wise or (R107). -/
  | vor (x : ClsVR)
  /-- Element-wise xor (R107). -/
  | vxor (x : ClsVR)
  /-- Element-wise left shift (R107). -/
  | vshl (x : ClsVR)
  /-- Element-wise right shift, logical or arithmetic by type (R107). -/
  | vshr (x : ClsVR)
  /-- Saturating element add (R107). -/
  | vqadd (x : ClsVR)
  /-- Saturating element subtract (R107). -/
  | vqsub (x : ClsVR)
  /-- Upper half of the exact element product (R107). -/
  | vmulh (x : ClsVR)
  /-- Rounded-up element average (R107). -/
  | vavg (x : ClsVR)
  /-- Element leading-zero count (R107). -/
  | vclz (x : ClsVR)
  /-- Element population count (R107). -/
  | vpopc (x : ClsVR)
  /-- Adds a scalar to every element (R110). -/
  | vaddsc (x : ClsVS)
  /-- Subtracts a scalar from every element (R110). -/
  | vsubsc (x : ClsVS)
  /-- Multiplies every element by a scalar (R110). -/
  | vmulsc (x : ClsVS)
  /-- Minimum of each element and a scalar (R110). -/
  | vminsc (x : ClsVS)
  /-- Maximum of each element and a scalar (R110). -/
  | vmaxsc (x : ClsVS)
  /-- Broadcasts a scalar to every element (R110). -/
  | vbcast (x : ClsVS)
  /-- Element compare equal into a mask (R111). -/
  | vceq (x : ClsVR)
  /-- Element compare not-equal into a mask (R111). -/
  | vcne (x : ClsVR)
  /-- Element compare less-than into a mask (R111). -/
  | vclt (x : ClsVR)
  /-- Element compare less-or-equal into a mask (R111). -/
  | vcle (x : ClsVR)
  /-- Element compare greater-than into a mask (R111). -/
  | vcgt (x : ClsVR)
  /-- Element compare greater-or-equal into a mask (R111). -/
  | vcge (x : ClsVR)
  /-- Selects elements of va or vb by a mask (R112). -/
  | vsel (x : ClsVR)
  /-- Mask and (R113). -/
  | kand (x : ClsVK)
  /-- Mask or (R113). -/
  | kor (x : ClsVK)
  /-- Mask xor (R113). -/
  | kxor (x : ClsVK)
  /-- Mask complement (R113). -/
  | knot (x : ClsVK)
  /-- Permutes elements of va and vc by indices in vb (R114). -/
  | vperm (x : ClsVR)
  /-- Rotates elements by a scalar amount (R114). -/
  | vrot (x : ClsVS)
  /-- Interleaves halves of two registers (R114). -/
  | vzip (x : ClsVR)
  /-- De-interleaves two registers (R114). -/
  | vunzip (x : ClsVR)
  /-- Slides elements by a signed scalar, filling with zero (R114). -/
  | vslide (x : ClsVS)
  /-- Broadcasts one element of va (R114). -/
  | vbrd (x : ClsVX)
  /-- Compresses the active elements to the front (R114). -/
  | vcomp (x : ClsVR)
  /-- Copies a vector register (R114). -/
  | vmov (x : ClsVR)
  /-- Moves one element to a scalar register (R115). -/
  | vmovs (x : ClsVL)
  /-- Inserts a scalar into one element (R115). -/
  | vins (x : ClsVL)
  /-- Sums active elements over a fixed pairwise tree into a scalar (R116). -/
  | vrsum (x : ClsVS)
  /-- Minimum of active elements into a scalar (R116). -/
  | vrmin (x : ClsVS)
  /-- Maximum of active elements into a scalar (R116). -/
  | vrmax (x : ClsVS)
  /-- Converts elements between types (R117). -/
  | vcvt (x : ClsVT)
  /-- Encodes float elements as BFPb records (R118). -/
  | vbfpe (x : ClsVF)
  /-- Decodes BFPb records into float elements (R119). -/
  | vbfpd (x : ClsVF)
  /-- Correctly rounded reciprocal (R120). -/
  | vrcp (x : ClsVR)
  /-- Correctly rounded reciprocal square root (R120). -/
  | vrsqrt (x : ClsVR)
  /-- Correctly rounded 2^x (R120). -/
  | vexp2 (x : ClsVR)
  /-- Correctly rounded log2 x (R120). -/
  | vlog2 (x : ClsVR)
  /-- Fills lanes with counter-based generator values (R122). -/
  | vrng (x : ClsVS)
  /-- Writes a matrix parameter register (R125). -/
  | mpw (x : ClsMP)
  /-- Reads a matrix parameter register (R125). -/
  | mpr (x : ClsMP)
  /-- Holds until idle, then zeroes an accumulator and its flags (R125). -/
  | mclr (x : ClsMA)
  /-- Reads a final accumulator row into a vector (R125). -/
  | mrow (x : ClsMA)
  /-- Reads an accumulator watermark (R125). -/
  | mwm (x : ClsMA)
  /-- Reads OVF and SAT once the accumulator is final (R125). -/
  | mflg (x : ClsMA)
  /-- Loads the gather index register (R125). -/
  | mgix (x : ClsMA)
  /-- Holds until an accumulator is final (R125). -/
  | mwait (x : ClsMA)
  /-- Ends a routine targeting the accumulator and zeroes it (R129). -/
  | mstop (x : ClsMA)
  /-- Starts a BFP product accumulating into acc as it stands (R134). -/
  | mcallBmm (x : ClsMC)
  /-- Starts a BFP product from zero (R134). -/
  | mcallBmmz (x : ClsMC)
  /-- Starts a gathered BFP product accumulating (R134). -/
  | mcallBmmg (x : ClsMC)
  /-- Starts a gathered BFP product from zero (R134). -/
  | mcallBmmgz (x : ClsMC)
  /-- Starts a BF16 product accumulating (R134). -/
  | mcallHmm (x : ClsMC)
  /-- Starts a BF16 product from zero (R134). -/
  | mcallHmmz (x : ClsMC)
  /-- Starts a binary16 product accumulating (R134). -/
  | mcallFmm (x : ClsMC)
  /-- Starts a binary16 product from zero (R134). -/
  | mcallFmmz (x : ClsMC)
  /-- Starts an integer mantissa product accumulating .s32 (R134). -/
  | mcallImm (x : ClsMC)
  /-- Starts an integer mantissa product from zero (R134). -/
  | mcallImmz (x : ClsMC)
  /-- Starts a grouped BFP product driven by a group table (R135). -/
  | mcallGrouped (x : ClsMC)
  /-- Starts a grouped BF16 product driven by a group table (R135). -/
  | mcallGroupedh (x : ClsMC)
  /-- Starts an epilogue adding a bias row (R136). -/
  | mcallEbias (x : ClsMC)
  /-- Starts an epilogue computing acc·α + β (R136). -/
  | mcallEscale (x : ClsMC)
  /-- Starts an epilogue clamping at zero (R136). -/
  | mcallErelu (x : ClsMC)
  /-- Starts an epilogue adding another accumulator (R136). -/
  | mcallEadd (x : ClsMC)
  /-- Starts an epilogue loading accumulator rows from the scratchpad (R136). -/
  | mcallEload (x : ClsMC)
  /-- Starts an epilogue converting rows into the scratchpad (R136). -/
  | mcallEcvt (x : ClsMC)
  /-- Starts an epilogue encoding rows as BFP records (R136). -/
  | mcallEbfp (x : ClsMC)
  /-- Starts an epilogue storing each row maximum (R136). -/
  | mcallErowmax (x : ClsMC)
  /-- Flat scalar load with declared latency (R148). -/
  | ld (x : ClsLL)
  /-- Flat 256-byte vector load with declared latency (R148). -/
  | ldv (x : ClsLL)
  /-- Scratchpad 256-byte load (R148). -/
  | ldt (x : ClsLT)
  /-- Scratchpad 8-byte load (R148). -/
  | ldts (x : ClsLT)
  /-- Pops one data-queue entry of an input stream (R150). -/
  | ldq (x : ClsQ)
  /-- Loads a stream register from a scratchpad descriptor (R152). -/
  | ldqs (x : ClsQ)
  /-- Gathers tensor rows chosen by an index vector (R155). -/
  | gath (x : ClsLG)
  /-- Orders the core's loads and stores around the segment store buffer (R157). -/
  | qalign
  /-- Buffers a flat scalar store (R148). -/
  | st (x : ClsFS)
  /-- Buffers a flat 256-byte store (R148). -/
  | stv (x : ClsFS)
  /-- Writes 256 bytes of scratchpad at issue (R148). -/
  | stt (x : ClsFS)
  /-- Writes one element of scratchpad at issue (R148). -/
  | stts (x : ClsFS)
  /-- Pushes one entry to an output stream (R150). -/
  | stq (x : ClsQ)
  /-- Pushes one element to an output stream (R153). -/
  | stqs (x : ClsQ)
  /-- Buffers tensor row stores chosen by an index vector (R156). -/
  | scat (x : ClsSG)
  /-- Atomic add at the word's home (R159). -/
  | aadd (x : ClsAT)
  /-- Atomic signed minimum (R159). -/
  | amin (x : ClsAT)
  /-- Atomic natural minimum (R159). -/
  | aminn (x : ClsAT)
  /-- Atomic signed maximum (R159). -/
  | amax (x : ClsAT)
  /-- Atomic natural maximum (R159). -/
  | amaxn (x : ClsAT)
  /-- Atomic and (R159). -/
  | aand (x : ClsAT)
  /-- Atomic or (R159). -/
  | aor (x : ClsAT)
  /-- Atomic xor (R159). -/
  | axor (x : ClsAT)
  /-- Atomic exchange (R159). -/
  | axch (x : ClsAT)
  /-- Atomic compare and swap (R159). -/
  | acas (x : ClsAT)
  /-- Atomic bounded increment (R159). -/
  | abinc (x : ClsAT)
  /-- Remote 8-byte load from a pod module (R161). -/
  | rld (x : ClsRL)
  /-- Remote 256-byte load from a pod module (R161). -/
  | rldv (x : ClsRL)
  /-- Remote 8-byte store with optional byte counter (R162). -/
  | rst (x : ClsRS)
  /-- Remote 256-byte store with optional byte counter (R162). -/
  | rstv (x : ClsRS)
  /-- Remote atomic add (R163). -/
  | raadd (x : ClsAT)
  /-- Remote atomic signed minimum (R163). -/
  | ramin (x : ClsAT)
  /-- Remote atomic natural minimum (R163). -/
  | raminn (x : ClsAT)
  /-- Remote atomic signed maximum (R163). -/
  | ramax (x : ClsAT)
  /-- Remote atomic natural maximum (R163). -/
  | ramaxn (x : ClsAT)
  /-- Remote atomic and (R163). -/
  | raand (x : ClsAT)
  /-- Remote atomic or (R163). -/
  | raor (x : ClsAT)
  /-- Remote atomic xor (R163). -/
  | raxor (x : ClsAT)
  /-- Remote atomic exchange (R163). -/
  | raxch (x : ClsAT)
  /-- Remote atomic compare and swap (R163). -/
  | racas (x : ClsAT)
  /-- Remote atomic bounded increment (R163). -/
  | rabinc (x : ClsAT)
  /-- Queues a copy of 64 KiB units on a channel (R169). -/
  | tcopy (x : ClsCC)
  /-- Queues a byte copy on a channel (R169). -/
  | xcopy (x : ClsCC)
  /-- Queues a walk of a chain of transfer records (R170). -/
  | ccopy (x : ClsCC)
  /-- Queues a reducing copy applied in arrival order (R171). -/
  | rcp (x : ClsCC)
  /-- Queues a reducing copy applied in rank order within a group (R171). -/
  | rcpo (x : ClsCC)
  /-- Fills a scratchpad slot from a tile or flat place (R172). -/
  | tfill (x : ClsCT)
  /-- Drains a scratchpad slot to a place (R172). -/
  | tdrain (x : ClsCT)
  /-- Empties a READY slot (R172). -/
  | tfree (x : ClsCT)
  /-- Reads a slot-table word (R174). -/
  | tstat (x : ClsCQ)
  /-- Reads a channel field (R174). -/
  | chq (x : ClsCQ)
  /-- Sets a channel BASE or LIMIT once idle, resetting WMARK (R174). -/
  | chset (x : ClsCQ)
  /-- Orders later commands after earlier ones on masked channels (R174). -/
  | cpfence (x : ClsCF)
  /-- Probes and queues the migration of tiles to another module (R173). -/
  | migrate (x : ClsCM)
  /-- Signal add of an immediate to a semaphore (R176). -/
  | ssig (x : ClsYM)
  /-- Waits for and subtracts a semaphore threshold (R176). -/
  | swait (x : ClsYM)
  /-- Sets a semaphore count (R176). -/
  | sset (x : ClsYX)
  /-- Reads a semaphore count and poison bit (R176). -/
  | srd (x : ClsYX)
  /-- Poisons a semaphore (R176). -/
  | spoi (x : ClsYX)
  /-- Clears a semaphore's poison (R176). -/
  | sunp (x : ClsYX)
  /-- Releases, arrives at a barrier instance, holds until it completes and acquires (R177). -/
  | bar (x : ClsYB)
  /-- Drives a vector onto the quad broadcast bus (R178). -/
  | bcx (x : ClsYC)
  /-- Latches a broadcast transmission into the scratchpad (R178). -/
  | bcl (x : ClsYC)
  /-- Full fence ordering earlier accesses before later ones (R179). -/
  | fenceFull (x : ClsYF)
  /-- Acquire fence (R179). -/
  | fenceAcq (x : ClsYF)
  /-- Release fence (R179). -/
  | fenceRel (x : ClsYF)
  /-- Holds until a memory counter reaches a value, then acquires (R180). -/
  | waitc (x : ClsYW)
  /-- Writes a waiting continuation record and frees the core (R181). -/
  | suspend (x : ClsYU)
  /-- Writes a ready continuation record and frees the core (R181). -/
  | yield
  /-- Reads a ream descriptor after commit and creates a ream (R182). -/
  | launch (x : ClsYU)
  /-- Software trap entering the handler with a code (R183). -/
  | trap (x : ClsYT)
  /-- A result lands once its latency in issued bundles has run out (R30). -/
  | resultLanding (core : Nat)
  /-- As bundle n + D issues, the destination takes the value, the reply's poison or LATE (R145). -/
  | loadOutcome (core : Nat)
  /-- A bundle that would issue at T with BUDGET 0 freezes the core to the supervisor (R222). -/
  | budgetExhausted (core : Nat)
  /-- A closed segment's buffered stores commit in program order, each after it performs (R241). -/
  | segmentCommit (core : Nat)
  /-- At a commit point a coupled quad's stores commit in rank order, then its non-idempotent ops (R242). -/
  | rendezvousCommit (quad : Nat)
  /-- A local atomic performs indivisibly at its home after its segment commits (R159). -/
  | atomicPerform (core : Nat)
  /-- A channel moves one 64-byte line, advancing its watermark (R165). -/
  | copyLine (core : Nat) (ch : Nat)
  /-- The engine reads the next transfer record of a chain and moves or stops (R170). -/
  | ccopyRecord (core : Nat) (ch : Nat)
  /-- A slot that entered EMPTY finishes zeroing within 64 cycles and releases its holds (R49). -/
  | slotZeroed (core : Nat) (slot : Nat)
  /-- A routine runs one setup, K-block, write-back or row step, raising ACCW at its end (R137). -/
  | routineStep (core : Nat)
  /-- An input stream generator places one address-queue entry per cycle (R268). -/
  | streamAddressPlace (core : Nat) (q : Nat)
  /-- The generator sends the oldest unsent fetch when room allows (R268). -/
  | streamFetchSend (core : Nat) (q : Nat)
  /-- Fetched data lands in the data queue in address order (R268). -/
  | streamFetchLand (core : Nat) (q : Nat)
  /-- The generator writes an output entry's elements to memory (R150). -/
  | streamOutputWrite (core : Nat) (q : Nat)
  /-- A bundle with an instruction-memory ECC failure is refetched from the image ciphertext (R288). -/
  | instructionRefetch (core : Nat)
  /-- A walk request leaves the die's queue when a walker is free (R282). -/
  | walkStart (die : Nat)
  /-- A walk reads descriptor, tile map or page table and yields a translation or a fault (R275). -/
  | translationWalk (die : Nat)
  /-- A shootdown completes once matching entries are dropped and their accesses performed (R286). -/
  | shootdownComplete (idx : Nat)
  /-- A write to a watched granule makes its home die re-read the word for records, waits and waitc (R216). -/
  | watchedWordReread (phys : Nat)
  /-- A free unit takes a ready record or a chunk of indices by priority and die order (R213). -/
  | unitChoice (core : Nat)
  /-- A unit starts a task index with registers set from the ream descriptor (R41). -/
  | taskStart (core : Nat)
  /-- Each completed AGE raises a ready record's or ream's effective priority (R214). -/
  | priorityAging (t : AgingTarget)
  /-- A mapped queue creates the ream of its next entry (R219). -/
  | queueDispatch (queue : Nat)
  /-- When the ream ends, the signal word, STAT and MSI-X are written (R375). -/
  | queueEntryComplete (rid : Nat)
  /-- A ream is aborted: indices emptied, records aborted, tasks ended, barriers poisoned, counter or'd (R220). -/
  | reamAbort (rid : Nat)
  /-- A barrier instance completes after its last arrival and releases its holders (R226). -/
  | barrierComplete (idx : Nat)
  /-- A core is zeroed after engines idle, within 10 µs, before joining another world (R225). -/
  | worldDrain (core : Nat)
  /-- A consumed error rewinds the segment to its SEG bundle after engines settle (R291). -/
  | rewind (core : Nat)
  /-- Once in-flight work has settled, the snapshot is fixed and the freeze report delivered (R252). -/
  | freezeLatch (core : Nat)
  /-- No quiet boundary within 1,024 H bundles stops the core with LOST set (R253). -/
  | handlerQuietTimeout (core : Nat)
  /-- An arbiter PREEMPT stops a unit at a bundle boundary (R259). -/
  | preempt (core : Nat)
  /-- The supervisor kills a frozen task, dropping its buffered stores (R262). -/
  | supervisorKill (core : Nat)
  /-- The supervisor writes BUDGET and restores the core (R222). -/
  | budgetRefill (core : Nat) (budget : BitVec 64)
  /-- The supervisor restores a core or quad from a snapshot image, or is refused (R255). -/
  | snapshotRestore (core : Nat) (addr : Nat)
  /-- The supervisor saves a pre-empted core's snapshot and READY slots (R260). -/
  | saveAreaWrite (core : Nat) (addr : Nat)
  /-- The supervisor writes a ready record naming a save area (R261). -/
  | continuationRecordWrite (core : Nat) (addr : Nat)
  /-- The supervisor sets AGE, QMQ, CRPB, CRPN or other partition settings (R209). -/
  | schedulingSettingWrite (pid : Nat) (x : Setting) (value : Nat)
  /-- A CPLM change takes effect for a quad when all its cores are free (R209). -/
  | quadCouplingChange (quad : Nat)
  /-- The supervisor sets DEGRADE[2:0], allowed only while EMG is set (R83). -/
  | degradeSet (core : Nat) (planes : BitVec 3)
  /-- The supervisor installs a VF's second-stage record after a shootdown (R278). -/
  | secondStageWrite (vf : Nat) (record : BitVec 128)
  /-- The supervisor sets DPRI and its diapause priority list (R362). -/
  | priorityListSet (x : PriorityList)
  /-- The supervisor maps or unmaps a software queue to a hardware slot (R219). -/
  | queueMap (queue : Nat) (x : QueueMapping)
  /-- The supervisor writes a register with no row of its own through the snapshot and control interface (R47). -/
  | controlInterfaceWrite (core : Nat) (creg : BitVec 12) (value : BitVec 64)
  /-- At a module's seal point a key is destroyed: slots sealed, lines dropped, SEQB cleared (R197). -/
  | sealPoint (handle : Nat)
  /-- A reach-set module installs or refuses an opened sequence key and acknowledges (R196). -/
  | keyInstall (x : KeyStep)
  /-- A retirement event moves a failing frame to a spare and lists it (R295). -/
  | frameRetirement (frame : Nat)
  /-- The scrubber reads each frame line once a day, correcting and counting (R289). -/
  | patrolScrub (frame : Nat)
  /-- A rail, clock or reset fault of a bulkhead takes down its partition (R298). -/
  | bulkheadFault (bulkhead : Nat)
  /-- A bulkhead is gated, its tasks killed, cores drained, L2 flushed and reset asserted (R331). -/
  | bulkheadReset (bulkhead : Nat)
  /-- After 1 µs of reset the controller restarts and the gate reopens (R331). -/
  | bulkheadResetRelease (bulkhead : Nat)
  /-- The monitor creates a partition of a permitted shape and starts its supervisor (R329). -/
  | partitionCreate (x : PartitionRequest)
  /-- The monitor deletes a partition (R329). -/
  | partitionDelete (pid : Nat)
  /-- A supervisor submits a window record; equal pairs are installed (R334). -/
  | windowRequest (pid : Nat) (record : BitVec 128)
  /-- A window request unmatched within 1 s is discarded and reported (R334). -/
  | windowRequestTimeout (idx : Nat)
  /-- A window is revoked after a shootdown of the receiver's translations (R334). -/
  | windowRevoke (idx : Nat)
  /-- The monitor accepts or refuses a service firmware image and restarts into it (R339). -/
  | firmwareUpdate (x : Firmware)
  /-- The measured loader verifies, measures, encrypts and places a program image (R340). -/
  | imageLoad (vf : Nat) (x : ImageFile)
  /-- The monitor installs a fabric world entry on every member (R314). -/
  | fabricWorldInstall (x : FabricWorld)
  /-- A lane trains and the monitors install its key (R311). -/
  | laneTraining (plane : Nat) (peer : Nat) (ok : Bool)
  /-- A lane's packet count nearing 2^40 forces a new key and retraining (R311). -/
  | laneRekey (plane : Nat) (peer : Nat)
  /-- A lane-control acknowledgment frees replay-buffer packets (R311). -/
  | linkAck (plane : Nat) (peer : Nat) (count : Nat)
  /-- A replay request makes the sender resend every unacknowledged packet in count order (R311). -/
  | replayRequest (plane : Nat) (peer : Nat) (count : Nat)
  /-- The receiver returns credits as buffer slots free (R313). -/
  | creditReturn (plane : Nat) (peer : Nat) (vl : Nat) (flits : Nat)
  /-- A failing lane is declared dark and its plane leaves the lit set (R312). -/
  | laneDark (plane : Nat) (peer : Nat)
  /-- After acks, traffic to a peer resumes on the new lit set (R306). -/
  | litSetChange (peer : Nat)
  /-- Receiver performs an 8-byte remote read and answers DATA or NACK (R309). -/
  | rd8 (x : Packet)
  /-- Receiver performs a 256-byte remote read (R309). -/
  | rd256 (x : Packet)
  /-- Receiver writes 8 bytes, adds to the counter if named, and answers ACK or NACK (R162). -/
  | wr8 (x : Packet)
  /-- Receiver writes 256 bytes with counter add (R162). -/
  | wr256 (x : Packet)
  /-- Receiver performs a remote atomic at its home (R163). -/
  | atom (x : Packet)
  /-- Read of a tile owned elsewhere, answered DATA, NACK or REDIRECT by a stub (R351). -/
  | trd (x : Packet)
  /-- Write of a tile owned elsewhere, relayed by a stub (R351). -/
  | twr (x : Packet)
  /-- A stub-relayed request is performed or relayed again (R351). -/
  | relay (x : Packet)
  /-- A copy line lands at a remote flat place and is acknowledged (R309). -/
  | cpw (x : Packet)
  /-- A reducing-copy line is applied element-wise at its home (R171). -/
  | rcpPacket (x : Packet)
  /-- An ordered reduction line is applied if its rank is expected, else staged or refused BUSY (R320). -/
  | rcpoPacket (x : Packet)
  /-- New owner checks reach set and handle, takes a frame and entry, and answers (R349). -/
  | migAlloc (x : Packet)
  /-- New owner writes migrated ciphertext lines (R349). -/
  | migLine (x : Packet)
  /-- New owner makes the tile present and writes its arrival entry (R349). -/
  | migCommit (x : Packet)
  /-- A module learns a tile's new owner, shoots it down and acknowledges (R354). -/
  | migQuery (x : Packet)
  /-- A stub or owner lowers its DEP, forwarding or freeing its entry (R354). -/
  | migRelease (x : Packet)
  /-- A pod barrier arrival counts for the current step, is held for the next, or is dropped (R324). -/
  | barPacket (x : Packet)
  /-- A pod barrier poison poisons the current or next instance (R324). -/
  | bpoi (x : Packet)
  /-- A peer entering diapause or brown-out is marked in the peer-state table (R316). -/
  | diapPacket (x : Packet)
  /-- A peer returns to reachable and exchanges destroyed handles (R371). -/
  | resumePacket (x : Packet)
  /-- A monitor-to-monitor message is handled by the monitor (R309). -/
  | mon (x : Packet)
  /-- A data reply frees its tag and fills its outstanding entry (R317). -/
  | data (x : Packet)
  /-- An acknowledgment frees its tag and completes the write, line or atomic (R317). -/
  | ack (x : Packet)
  /-- A refusal frees its tag and poisons, fails or reports by its cause (R317). -/
  | nack (x : Packet)
  /-- A redirect updates the owner cache and re-sends the request to the new owner (R352). -/
  | redirect (x : Packet)
  /-- When PEND reaches 0, waiting requests go to the new owner in issue order (R352). -/
  | ownerCacheRelease (die : Nat) (idx : Nat)
  /-- A request unanswered after TTO times out and its tag is quarantined (R319). -/
  | tagTimeout (die : Nat) (tag : Nat)
  /-- A quarantined tag is freed after 4 · TTO (R319). -/
  | tagQuarantineExpiry (die : Nat) (tag : Nat)
  /-- A line refused BUSY is sent again after 2 µs (R317). -/
  | busyResend (die : Nat) (tag : Nat)
  /-- An ordered group incomplete after RWT is abandoned (R322). -/
  | rcpoGroupAbandon (die : Nat) (idx : Nat)
  /-- A quiet DEP-1 stub begins a reclamation round with QUERY packets (R354). -/
  | stubRoundStart (idx : Nat)
  /-- A round unfinished after SRT persists the stub and reports it (R355). -/
  | stubRoundTimeout (idx : Nat)
  /-- An event reaching the package arbiter is given its sequence number (R264). -/
  | arbiterEvent (x : ArbEvent)
  /-- The shelf warning triggers a diapause (R360). -/
  | powerFailWarning (reserve : Nat)
  /-- Input below 44 V or reserve-only operation triggers a diapause (R360). -/
  | inputUndervoltage (reserve : Nat)
  /-- Listed regions drain as ciphertext into storage-class memory up to the budget B (R363). -/
  | diapauseDrain
  /-- The cocoon manifest is written and signed after the drain (R364). -/
  | manifestSeal
  /-- A 1 ms sag sheds a die by partition diapause (R365). -/
  | brownoutEntry
  /-- Brown-out lasting 100 ms after a shed sheds the other die (R365). -/
  | brownoutSecondShed
  /-- Unshed partitions freeze to retention once the first shed is sealed (R366). -/
  | brownoutRetention
  /-- Input good for 100 ms resumes frozen partitions and ecloses shed ones (R367). -/
  | brownoutExit
  /-- The management core boots under the monitor in fixed steps (R382). -/
  | powerGoodBoot (x : BootInputs)
  /-- The monitor chooses a valid manifest or cold-boots (R368). -/
  | eclosion (x : EclosionInputs)
  /-- Drained regions are restored and checked; sections reinstalled (R369). -/
  | memoryRestore
  /-- Once the reserve covers the drain, CONSUMED is written and cores restored into their handlers (R370). -/
  | coreRestore (reserve : Nat)
  /-- A world's rejoin completes when every member is reachable, releasing diapack (R371). -/
  | rejoinComplete (vf : Nat)
  /-- After RJT unreachable members stay unreachable and diapack proceeds (R371). -/
  | rjtExpiry (pid : Nat)
  /-- Thermal sensors are sampled every 10 µs (R377). -/
  | sensorSample (die : Nat) (sensor : Nat) (reading : BitVec 16)
  /-- Rail current over its limit for 100 µs sets EMG (R380). -/
  | railOvercurrent (bulkhead : Nat)
  /-- 10 ms at or below 105 °C clears EMG and resets DEGRADE (R380). -/
  | emgClear (bulkhead : Nat)
  /-- 125 °C for 10 µs is a clock fault of the bulkhead (R380). -/
  | overtempFault (bulkhead : Nat)
  /-- A rail sag stretches the bulkhead clock while it lasts (R379). -/
  | droopStretch (bulkhead : Nat) (on : Bool)
  /-- The supervisor requests a bulkhead clock the V–f–T table admits (R378). -/
  | clockChangeRequest (bulkhead : Nat) (steps : Nat)
  /-- A clock change completes within 20 µs (R378). -/
  | clockChangeComplete (bulkhead : Nat)
  /-- Bulkhead and input power are reported every 1 ms (R377). -/
  | powerReport (watts10 : List Nat) (input10 : Nat)
  /-- The host writes a queue's new tail index (R374). -/
  | doorbellWrite (vf : Nat) (queue : Nat) (tail : Nat)
  /-- An ATS invalidation request for a host range arrives (R373). -/
  | atsInvalidation (vf : Nat) (base : Nat) (len : Nat)
  /-- The Invalidation Completion is sent after earlier DMAs finish (R373). -/
  | atsInvalidationComplete (vf : Nat)
  /-- A hot reset ends IDE and SPDM and sends interfaces to ERROR (R346). -/
  | hotReset
  /-- Link down ends IDE and SPDM and sends interfaces to ERROR (R346). -/
  | linkDown
  /-- A VF reset tears down queues, kills tasks, poisons barriers, destroys keys and revokes windows (R347). -/
  | vfReset (vf : Nat)
  /-- TDISP LOCK_INTERFACE creates the VF's world (R345). -/
  | lockInterface (vf : Nat) (x : WorldGrant)
  /-- TDISP STOP_INTERFACE drains and deletes the world (R345). -/
  | stopInterface (vf : Nat)
  /-- Returns the interface report carrying WMv (R337). -/
  | getDeviceInterfaceReport (x : ReportRequest)
  /-- SPDM version request (R372). -/
  | getVersion (x : SpdmRequest)
  /-- SPDM capabilities request (R372). -/
  | getCapabilities (x : SpdmRequest)
  /-- SPDM algorithm negotiation, ML-DSA-87 and SHA3-512 only (R372). -/
  | negotiateAlgorithms (x : SpdmRequest)
  /-- SPDM certificate digests request (R372). -/
  | getDigests (x : SpdmRequest)
  /-- SPDM certificate request (R372). -/
  | getCertificate (x : SpdmRequest)
  /-- SPDM challenge signed with the attestation key (R372). -/
  | challenge (x : SpdmRequest)
  /-- Returns measurement blocks MM, PM and the WM digest (R337). -/
  | getMeasurements (x : SpdmRequest) (index : Nat)
  /-- SPDM secure-session key exchange (R372). -/
  | keyExchange (x : SpdmRequest)
  /-- SPDM session finish (R372). -/
  | finish (x : SpdmRequest)
  /-- SPDM session key update (R372). -/
  | keyUpdate (x : SpdmRequest)
  /-- SPDM session heartbeat (R372). -/
  | heartbeat (x : SpdmRequest)
  /-- SPDM session end (R372). -/
  | endSession (x : SpdmRequest)
  /-- Any other SPDM request is answered ERROR UnsupportedRequest (R372). -/
  | spdmUnsupportedRequest (x : SpdmRequest)
  /-- Side-band read of sensors and power telemetry (R376). -/
  | telemetryRead (die : Nat) (sensor : Nat)
  /-- Side-band request to reset a bulkhead, VF or the host link (R376). -/
  | sidebandResetRequest (t : ResetTarget)
  /-- Side-band setting of the module power cap (R376). -/
  | powerCapSet (cap10 : Nat)
  /-- The reply to a local load, ldv, gath or value-returning atomic arrives at its outstanding-load entry, setting arrived and holding the value or poison cause (R145). -/
  | loadReplyArrival (core : Nat) (idx : Nat)
  /-- A remote-data cache line, or a translation cache entry, is discarded of the device's own accord (R236). -/
  | eviction (x : Evicted)
  /-- A bit of a protected structure (register, SRAM or HBM line) changes, so that its check code later fails (R288). -/
  | softError (x : ErrorSite)
  /-- A host write over PCIe performs to the module's memory, with watchers of the granule re-reading it (R216). -/
  | hostWrite (x : HostStore)
  /-- The host starts a locked TDISP interface, taking it from CONFIG_LOCKED to RUN so its queues may dispatch (R345). -/
  | startInterface (vf : Nat)
  /-- The host link comes back up after a hot reset or link down, so that SPDM and IDE can be set up again (R346). -/
  | pcieLinkTrained
  /-- A packet arrives on a lane failing its CRC or MAC, or out of count order; the receiver drops it and later packets until the expected count, and requests replay (R311). -/
  | crcOrMacFailure (plane : Nat) (peer : Nat) (x : FailedPacket)
  /-- A supervisor requests a new reclamation round for a persisted exuvia stub (R355). -/
  | stubRoundRequest (idx : Nat)
  /-- A die-to-die bridge fails, affecting the partitions that span both dies (R298). -/
  | bridgeFault (bridge : Nat)
  /-- An HBM stack fails, and the partitions holding its two bulkheads are lost and seen as peer bulkheads absent (R298). -/
  | hbmStackFault (stack : Nat)
  /-- A die-shared part (ream counters, barrier network, walkers or remote-data cache) fails, taking down every partition with a bulkhead on that die (R298). -/
  | dieSharedPartFault (die : Nat)
  deriving DecidableEq, Repr

/-- One op of a bundle in its slot, with its path tag (Table 1-4) and its wait/signal field (R17). -/
structure SlotOp where
  slot : Slot
  op   : Instr
  tag  : BitVec 4
  ws   : WS
  deriving DecidableEq, Repr

/-- A decoded bundle (R8): its header flags, its form, its tree if it has one, and the ops of its slots that do not hold `nop`. -/
structure Bundle where
  kat  : Bool
  susp : Bool
  rdv  : Bool
  seg  : Bool
  form : Form
  tree : Option Tree
  ops  : List SlotOp
  deriving DecidableEq, Repr

end Sys2Proof
end

