-- ==== Sys2Proof/WellFormed.lean ====
section
/-! DEFINITION. Well-formed instructions: the limits that Table 1-9 and the instruction chapters put on the
operand fields of each op, and the ranges of Table 0-3 for the steps of engines. A term that is not
well formed is no instruction of the module (spec/01_bundle_and_opcode_map.md R20, R21, R29). -/

namespace Sys2Proof

/-- Width in bits of a type (Table 5-1). -/
def Ty.width : Ty → Nat
  | .s8 | .n8 | .e4m3 | .e5m2 => 8
  | .s16 | .n16 | .f16 | .bf16 => 16
  | .s32 | .n32 | .f32 => 32
  | .s64 | .n64 => 64

/-- Element count of a type: 2,048 / w (R102). -/
def Ty.count (t : Ty) : Nat := 2048 / t.width

/-- The integer types, group I (R103). -/
def Ty.isInt : Ty → Bool
  | .s8 | .s16 | .s32 | .s64 | .n8 | .n16 | .n32 | .n64 => true
  | _ => false

/-- The signed integer types (Table 3-4). -/
def Ty.isSigned : Ty → Bool
  | .s8 | .s16 | .s32 | .s64 => true
  | _ => false

/-- The float types of group F (R103). -/
def Ty.isF : Ty → Bool
  | .f32 | .f16 | .bf16 => true
  | _ => false

/-- Group W: I and F together (R103). -/
def Ty.isW (t : Ty) : Bool := t.isInt || t.isF

/-- The types the vector compares accept (R111). -/
def Ty.isCmp : Ty → Bool
  | .s32 | .n32 | .s64 | .n64 | .f32 => true
  | _ => false

/-- The scopes and flags of an engine ordering: a scope stands only with acq or rel (R127). -/
def engineOrderOk (acq rel : Bool) (sc : Scope) : Bool := acq || rel || sc == .core

/-- A 6-bit field that names a vector register has bit 5 zero (R20). -/
def vecField (r : BitVec 6) : Bool := r.toNat < 32

/-- The control registers that exist: addresses 0x000 to 0x015 (R46). -/
def cregAssigned (a : Nat) : Bool := a < 0x16

/-- The control registers that `crw` may write (Table 2-3, column H). -/
def cregWritable (a : Nat) : Bool := a == 1 || (7 ≤ a && a ≤ 0xB) || (0x12 ≤ a && a ≤ 0x15)

/-- The barrier ids of a scope (R28); `.core` has none. -/
def barIdOk : Scope → Nat → Bool
  | .core, _ => false
  | .quad, i => i ≤ 3
  | .die, i => i ≤ 31
  | .pkg, i => i ≤ 15
  | .pod, i => i ≤ 15

/-- Rounding is accepted by the op for this type: the op rounds float types only (R107). -/
def rmFloatOnly (rm : Rm) (t : Ty) : Bool := rm == .rne || t.isF

/-- The tests, targets and tags a shape uses are fixed by Table 1-3: tests 0 to `testsUsed - 1` are enabled, the
others zero, and likewise for the targets. -/
def testsUsed (shape : Nat) : Nat :=
  match shape with
  | 0 => 1 | 1 => 2 | 2 => 3 | 3 => 4 | 4 => 3 | _ => 4

/-- A test a shape uses is enabled and one it does not use is zero (R12). -/
def TreeTest.wf (used : Bool) (t : TreeTest) : Bool :=
  if used then t.en else (!t.en && !t.pol && t.idx == 0)

/-- R12 for a whole tree. -/
def Tree.wf (t : Tree) : Bool :=
  let n := testsUsed t.shape.toNat
  t.t0.wf (0 < n) && t.t1.wf (1 < n) && t.t2.wf (2 < n) && t.t3.wf (3 < n) &&
  (1 < n || t.g1 == 0) && (2 < n || t.g2 == 0) && (3 < n || t.g3 == 0)

/-- Ranges of Table 0-3 for the arguments of engine steps. -/
def coreNo (c : Nat) : Bool := c < 384

/-- Well-formed instructions. -/
def Instr.wf : Instr → Bool
  | .nop => true
  | .treeBranch x => x.wf
  | .add _ => true
  | .sub _ => true
  | .mul _ => true
  | .mulh _ => true
  | .mulhn _ => true
  | .div _ => true
  | .divn _ => true
  | .rem _ => true
  | .remn _ => true
  | .and _ => true
  | .or _ => true
  | .xor _ => true
  | .shl _ => true
  | .shr _ => true
  | .sra _ => true
  | .addi _ => true
  | .andi _ => true
  | .ori _ => true
  | .xori _ => true
  | .shli x => x.imm.toNat < 64
  | .shri x => x.imm.toNat < 64
  | .srai x => x.imm.toNat < 64
  | .muli _ => true
  | .lui x => x.a == 0
  | .lpc x => x.a == 0
  | .movl x => x.a == 0
  | .addl _ => true
  | .andl _ => true
  | .lea _ => true
  | .madd _ => true
  | .min _ => true
  | .minn _ => true
  | .max _ => true
  | .maxn _ => true
  | .abs x => x.b == 0
  | .sel _ => true
  | .bext x => x.pos.toNat + x.len1.toNat < 64
  | .bextn x => x.pos.toNat + x.len1.toNat < 64
  | .bins x => x.pos.toNat + x.len1.toNat < 64
  | .clz x => x.b == 0
  | .ctz x => x.b == 0
  | .popc x => x.b == 0
  | .bswap x => x.b == 0
  | .brev x => x.b == 0
  | .ceq _ => true
  | .cne _ => true
  | .clt _ => true
  | .cltn _ => true
  | .cle _ => true
  | .clen _ => true
  | .ctst _ => true
  | .ceqi _ => true
  | .cnei _ => true
  | .clti _ => true
  | .cltni _ => true
  | .clei _ => true
  | .cleni _ => true
  | .pand _ => true
  | .por _ => true
  | .pxor _ => true
  | .pnot x => x.pb == 0 && !x.nb
  | .pmov x => x.pb == 0 && !x.nb
  | .movp x => x.a == 0 && x.b == 0
  | .pmovs x => x.d == 0
  | .movk _ => true
  | .kmov _ => true
  | .jmp x => x.d == 0
  | .call _ => true
  | .jr x => x.d == 0
  | .jalr _ => true
  | .crr x => cregAssigned x.creg.toNat
  | .crw x => cregWritable x.creg.toNat
  | .snrd x => x.b == 0
  | .snwr x => x.d == 0
  | .eret => true
  | .halt => true
  | .seqopen x => x.b == 0
  | .seqend x => x.d == 0 && x.b == 0
  | .seqbind x => x.d == 0 && x.b == 0
  | .tinv x => x.d == 0
  | .ifence => true
  | .katc x => x.d == 0
  | .diapack => true
  | .vadd x => x.vc == 0 && x.ty.isW && rmFloatOnly x.rm x.ty
  | .vsub x => x.vc == 0 && x.ty.isW && rmFloatOnly x.rm x.ty
  | .vmul x => x.vc == 0 && x.ty.isW && rmFloatOnly x.rm x.ty
  | .vfma x => x.ty.isF
  | .vfms x => x.ty.isF
  | .vfnma x => x.ty.isF
  | .vmin x => x.vc == 0 && x.rm == .rne && x.ty.isW
  | .vmax x => x.vc == 0 && x.rm == .rne && x.ty.isW
  | .vabs x => x.vb == 0 && x.vc == 0 && x.rm == .rne && (x.ty.isSigned || x.ty.isF)
  | .vneg x => x.vb == 0 && x.vc == 0 && x.rm == .rne && (x.ty.isSigned || x.ty.isF)
  | .vand x => x.vc == 0 && x.rm == .rne && x.ty.isInt
  | .vor x => x.vc == 0 && x.rm == .rne && x.ty.isInt
  | .vxor x => x.vc == 0 && x.rm == .rne && x.ty.isInt
  | .vshl x => x.vc == 0 && x.rm == .rne && x.ty.isInt
  | .vshr x => x.vc == 0 && x.rm == .rne && x.ty.isInt
  | .vqadd x => x.vc == 0 && x.rm == .rne && x.ty.isInt
  | .vqsub x => x.vc == 0 && x.rm == .rne && x.ty.isInt
  | .vmulh x => x.vc == 0 && x.rm == .rne && x.ty.isInt
  | .vavg x => x.vc == 0 && x.rm == .rne && x.ty.isInt
  | .vclz x => x.vb == 0 && x.vc == 0 && x.rm == .rne && x.ty.isInt
  | .vpopc x => x.vb == 0 && x.vc == 0 && x.rm == .rne && x.ty.isInt
  | .vaddsc x => x.ty.isW && rmFloatOnly x.rm x.ty
  | .vsubsc x => x.ty.isW && rmFloatOnly x.rm x.ty
  | .vmulsc x => x.ty.isW && rmFloatOnly x.rm x.ty
  | .vminsc x => x.rm == .rne && x.ty.isW
  | .vmaxsc x => x.rm == .rne && x.ty.isW
  | .vbcast x => x.va == 0 && x.rm == .rne && x.ty.isW
  | .vceq x => x.vc == 0 && x.rm == .rne && x.ty.isCmp && x.vd.toNat < 8
  | .vcne x => x.vc == 0 && x.rm == .rne && x.ty.isCmp && x.vd.toNat < 8
  | .vclt x => x.vc == 0 && x.rm == .rne && x.ty.isCmp && x.vd.toNat < 8
  | .vcle x => x.vc == 0 && x.rm == .rne && x.ty.isCmp && x.vd.toNat < 8
  | .vcgt x => x.vc == 0 && x.rm == .rne && x.ty.isCmp && x.vd.toNat < 8
  | .vcge x => x.vc == 0 && x.rm == .rne && x.ty.isCmp && x.vd.toNat < 8
  | .vsel x => x.vc == 0 && x.rm == .rne && x.ty.isW
  | .kand _ => true
  | .kor _ => true
  | .kxor _ => true
  | .knot x => x.kb == 0
  | .vperm x => x.rm == .rne && x.ty.isW
  | .vrot x => x.rm == .rne && x.ty.isW
  | .vzip x => x.rm == .rne && x.ty.isW && x.vc.toNat < 2
  | .vunzip x => x.rm == .rne && x.ty.isW && x.vc.toNat < 2
  | .vslide x => x.rm == .rne && x.ty.isW
  | .vbrd x => x.ty.isW && x.imm.toNat < x.ty.count
  | .vcomp x => x.vb == 0 && x.vc == 0 && x.rm == .rne && x.ty.isW
  | .vmov x => x.vb == 0 && x.vc == 0 && x.rm == .rne && x.ty.isW
  | .vmovs x => x.ty.isW && x.lane.toNat < x.ty.count
  | .vins x => x.ty.isW && x.lane.toNat < x.ty.count
  | .vrsum x => x.vd == 0 && x.ty.isW && rmFloatOnly x.rm x.ty
  | .vrmin x => x.vd == 0 && x.rm == .rne && x.ty.isW
  | .vrmax x => x.vd == 0 && x.rm == .rne && x.ty.isW
  | .vcvt x => x.src != x.res
  | .vbfpe x => x.ty.isF && x.bm2.toNat < 7
  | .vbfpd x => x.k == 0 && x.ty.isF && x.bm2.toNat < 7
  | .vrcp x => x.vb == 0 && x.vc == 0 && x.ty == .f32
  | .vrsqrt x => x.vb == 0 && x.vc == 0 && x.ty == .f32
  | .vexp2 x => x.vb == 0 && x.vc == 0 && x.ty == .f32
  | .vlog2 x => x.vb == 0 && x.vc == 0 && x.ty == .f32
  | .vrng x => x.va == 0 && x.rm == .rne && x.ty == .n32 && x.s.toNat % 2 == 0
  | .mpw _ => true
  | .mpr _ => true
  | .mclr x => x.s == 0 && x.v == 0
  | .mrow _ => true
  | .mwm x => x.v == 0
  | .mflg x => x.v == 0
  | .mgix x => x.s == 0 && x.acc == 0
  | .mwait x => x.s == 0 && x.v == 0
  | .mstop x => x.s == 0 && x.v == 0
  | .mcallBmm x => engineOrderOk x.acq x.rel x.scope
  | .mcallBmmz x => engineOrderOk x.acq x.rel x.scope
  | .mcallBmmg x => engineOrderOk x.acq x.rel x.scope
  | .mcallBmmgz x => engineOrderOk x.acq x.rel x.scope
  | .mcallHmm x => engineOrderOk x.acq x.rel x.scope
  | .mcallHmmz x => engineOrderOk x.acq x.rel x.scope
  | .mcallFmm x => engineOrderOk x.acq x.rel x.scope
  | .mcallFmmz x => engineOrderOk x.acq x.rel x.scope
  | .mcallImm x => engineOrderOk x.acq x.rel x.scope
  | .mcallImmz x => engineOrderOk x.acq x.rel x.scope
  | .mcallGrouped x => engineOrderOk x.acq x.rel x.scope
  | .mcallGroupedh x => engineOrderOk x.acq x.rel x.scope
  | .mcallEbias x => engineOrderOk x.acq x.rel x.scope
  | .mcallEscale x => engineOrderOk x.acq x.rel x.scope
  | .mcallErelu x => engineOrderOk x.acq x.rel x.scope
  | .mcallEadd x => engineOrderOk x.acq x.rel x.scope
  | .mcallEload x => engineOrderOk x.acq x.rel x.scope
  | .mcallEcvt x => engineOrderOk x.acq x.rel x.scope
  | .mcallEbfp x => engineOrderOk x.acq x.rel x.scope
  | .mcallErowmax x => engineOrderOk x.acq x.rel x.scope
  | .ld x => 8 ≤ x.D.toNat
  | .ldv x => x.ty == .s8 && 8 ≤ x.D.toNat && vecField x.d
  | .ldt x => vecField x.d
  | .ldts _ => true
  | .ldq x => vecField x.r
  | .ldqs _ => true
  | .gath x => 8 ≤ x.D.toNat && vecField x.d
  | .qalign => true
  | .st _ => true
  | .stv x => x.ty == .s8 && vecField x.s
  | .stt x => x.ty == .s8 && vecField x.s
  | .stts _ => true
  | .stq x => vecField x.r
  | .stqs _ => true
  | .scat x => vecField x.s
  | .aadd x => (x.dx != 0 || x.d == 0)
  | .amin x => (x.dx != 0 || x.d == 0)
  | .aminn x => (x.dx != 0 || x.d == 0)
  | .amax x => (x.dx != 0 || x.d == 0)
  | .amaxn x => (x.dx != 0 || x.d == 0)
  | .aand x => (x.dx != 0 || x.d == 0)
  | .aor x => (x.dx != 0 || x.d == 0)
  | .axor x => (x.dx != 0 || x.d == 0)
  | .axch x => (x.dx != 0 || x.d == 0)
  | .acas x => (x.dx != 0 || x.d == 0)
  | .abinc x => (x.dx != 0 || x.d == 0)
  | .rld x => 8 ≤ x.D.toNat
  | .rldv x => 8 ≤ x.D.toNat && vecField x.d
  | .rst x => (x.scope == .die || x.scope == .pkg || x.scope == .pod)
  | .rstv x => (x.scope == .die || x.scope == .pkg || x.scope == .pod) && vecField x.s
  | .raadd x => x.scope == .pod && (x.dx != 0 || x.d == 0)
  | .ramin x => x.scope == .pod && (x.dx != 0 || x.d == 0)
  | .raminn x => x.scope == .pod && (x.dx != 0 || x.d == 0)
  | .ramax x => x.scope == .pod && (x.dx != 0 || x.d == 0)
  | .ramaxn x => x.scope == .pod && (x.dx != 0 || x.d == 0)
  | .raand x => x.scope == .pod && (x.dx != 0 || x.d == 0)
  | .raor x => x.scope == .pod && (x.dx != 0 || x.d == 0)
  | .raxor x => x.scope == .pod && (x.dx != 0 || x.d == 0)
  | .raxch x => x.scope == .pod && (x.dx != 0 || x.d == 0)
  | .racas x => x.scope == .pod && (x.dx != 0 || x.d == 0)
  | .rabinc x => x.scope == .pod && (x.dx != 0 || x.d == 0)
  | .tcopy x => x.func == 0 && engineOrderOk x.acq x.rel x.scope
  | .xcopy x => x.func == 0 && engineOrderOk x.acq x.rel x.scope
  | .ccopy x => x.b == 0 && x.c == 0 && x.func == 0 && engineOrderOk x.acq x.rel x.scope
  | .rcp x => engineOrderOk x.acq x.rel x.scope && (1 ≤ x.func.toNat && x.func.toNat ≤ 9)
  | .rcpo x => engineOrderOk x.acq x.rel x.scope && (1 ≤ x.func.toNat && x.func.toNat ≤ 9)
  | .tfill x => engineOrderOk x.acq x.rel x.scope
  | .tdrain x => engineOrderOk x.acq x.rel x.scope
  | .tfree x => x.ch == 0 && x.a == 0 && !x.acq && !x.rel && x.scope == .core
  | .tstat x => x.ch == 0 && x.sel == 0
  | .chq x => x.slot == 0
  | .chset x => x.slot == 0 && x.sel.toNat < 2
  | .cpfence x => x.mask != 0
  | .migrate _ => true
  | .ssig x => x.imm != 0
  | .swait x => x.imm != 0
  | .sset _ => true
  | .srd _ => true
  | .spoi x => x.s == 0
  | .sunp x => x.s == 0
  | .bar x => barIdOk x.scope x.id.toNat
  | .bcx x => x.rank == 0 && vecField x.x
  | .bcl _ => true
  | .fenceFull _ => true
  | .fenceAcq _ => true
  | .fenceRel _ => true
  | .waitc _ => true
  | .suspend x => (x.a.toNat % 2 == 0 && 2 ≤ x.a.toNat)
  | .yield => true
  | .launch _ => true
  | .trap _ => true
  | .resultLanding core => coreNo core
  | .loadOutcome core => coreNo core
  | .budgetExhausted core => coreNo core
  | .segmentCommit core => coreNo core
  | .rendezvousCommit quad => quad < 96
  | .atomicPerform core => coreNo core
  | .copyLine core ch => coreNo core && ch < 8
  | .ccopyRecord core ch => coreNo core && ch < 8
  | .slotZeroed core slot => coreNo core && slot < 64
  | .routineStep core => coreNo core
  | .streamAddressPlace core q => coreNo core && q < 16
  | .streamFetchSend core q => coreNo core && q < 16
  | .streamFetchLand core q => coreNo core && q < 16
  | .streamOutputWrite core q => coreNo core && q < 16
  | .instructionRefetch core => coreNo core
  | .walkStart die => die < 3
  | .translationWalk die => die < 3
  | .shootdownComplete _ => true
  | .watchedWordReread _ => true
  | .unitChoice core => coreNo core
  | .taskStart core => coreNo core
  | .priorityAging _ => true
  | .queueDispatch _ => true
  | .queueEntryComplete _ => true
  | .reamAbort _ => true
  | .barrierComplete _ => true
  | .worldDrain core => coreNo core
  | .rewind core => coreNo core
  | .freezeLatch core => coreNo core
  | .handlerQuietTimeout core => coreNo core
  | .preempt core => coreNo core
  | .supervisorKill core => coreNo core
  | .budgetRefill core _ => coreNo core
  | .snapshotRestore core _ => coreNo core
  | .saveAreaWrite core _ => coreNo core
  | .continuationRecordWrite core _ => coreNo core
  | .schedulingSettingWrite pid _ _ => pid < 24
  | .quadCouplingChange quad => quad < 96
  | .degradeSet core _ => coreNo core
  | .secondStageWrite vf _ => vf < 256
  | .priorityListSet _ => true
  | .queueMap _ _ => true
  | .controlInterfaceWrite core _ _ => coreNo core
  | .sealPoint _ => true
  | .keyInstall x => match x with
    | .peer vf slot gen _ _ => vf < 256 && 1 ≤ slot && slot < 4096 && gen < 256
    | .answer _ module _ => module < 64
  | .frameRetirement _ => true
  | .patrolScrub _ => true
  | .bulkheadFault bulkhead => bulkhead < 24
  | .bulkheadReset bulkhead => bulkhead < 24
  | .bulkheadResetRelease bulkhead => bulkhead < 24
  | .partitionCreate _ => true
  | .partitionDelete pid => pid < 24
  | .windowRequest pid _ => pid < 24
  | .windowRequestTimeout _ => true
  | .windowRevoke _ => true
  | .firmwareUpdate _ => true
  | .imageLoad vf _ => vf < 256
  | .fabricWorldInstall _ => true
  | .laneTraining plane peer _ => plane < 16 && peer < 64
  | .laneRekey plane peer => plane < 16 && peer < 64
  | .linkAck plane peer _ => plane < 16 && peer < 64
  | .replayRequest plane peer _ => plane < 16 && peer < 64
  | .creditReturn plane peer vl _ => plane < 16 && peer < 64 && vl < 26
  | .laneDark plane peer => plane < 16 && peer < 64
  | .litSetChange peer => peer < 64
  | .rd8 x => x.src < 64 && x.orig < 64 && x.gen < 16 && x.tag < 4096 && x.data.length ≤ 256
  | .rd256 x => x.src < 64 && x.orig < 64 && x.gen < 16 && x.tag < 4096 && x.data.length ≤ 256
  | .wr8 x => x.src < 64 && x.orig < 64 && x.gen < 16 && x.tag < 4096 && x.data.length ≤ 256
  | .wr256 x => x.src < 64 && x.orig < 64 && x.gen < 16 && x.tag < 4096 && x.data.length ≤ 256
  | .atom x => x.src < 64 && x.orig < 64 && x.gen < 16 && x.tag < 4096 && x.data.length ≤ 256
  | .trd x => x.src < 64 && x.orig < 64 && x.gen < 16 && x.tag < 4096 && x.data.length ≤ 256
  | .twr x => x.src < 64 && x.orig < 64 && x.gen < 16 && x.tag < 4096 && x.data.length ≤ 256
  | .relay x => x.src < 64 && x.orig < 64 && x.gen < 16 && x.tag < 4096 && x.data.length ≤ 256
  | .cpw x => x.src < 64 && x.orig < 64 && x.gen < 16 && x.tag < 4096 && x.data.length ≤ 256
  | .rcpPacket x => x.src < 64 && x.orig < 64 && x.gen < 16 && x.tag < 4096 && x.data.length ≤ 256
  | .rcpoPacket x => x.src < 64 && x.orig < 64 && x.gen < 16 && x.tag < 4096 && x.data.length ≤ 256
  | .migAlloc x => x.src < 64 && x.orig < 64 && x.gen < 16 && x.tag < 4096 && x.data.length ≤ 256
  | .migLine x => x.src < 64 && x.orig < 64 && x.gen < 16 && x.tag < 4096 && x.data.length ≤ 256
  | .migCommit x => x.src < 64 && x.orig < 64 && x.gen < 16 && x.tag < 4096 && x.data.length ≤ 256
  | .migQuery x => x.src < 64 && x.orig < 64 && x.gen < 16 && x.tag < 4096 && x.data.length ≤ 256
  | .migRelease x => x.src < 64 && x.orig < 64 && x.gen < 16 && x.tag < 4096 && x.data.length ≤ 256
  | .barPacket x => x.src < 64 && x.orig < 64 && x.gen < 16 && x.tag < 4096 && x.data.length ≤ 256
  | .bpoi x => x.src < 64 && x.orig < 64 && x.gen < 16 && x.tag < 4096 && x.data.length ≤ 256
  | .diapPacket x => x.src < 64 && x.orig < 64 && x.gen < 16 && x.tag < 4096 && x.data.length ≤ 256
  | .resumePacket x => x.src < 64 && x.orig < 64 && x.gen < 16 && x.tag < 4096 && x.data.length ≤ 256
  | .mon x => x.src < 64 && x.orig < 64 && x.gen < 16 && x.tag < 4096 && x.data.length ≤ 256
  | .data x => x.src < 64 && x.orig < 64 && x.gen < 16 && x.tag < 4096 && x.data.length ≤ 256
  | .ack x => x.src < 64 && x.orig < 64 && x.gen < 16 && x.tag < 4096 && x.data.length ≤ 256
  | .nack x => x.src < 64 && x.orig < 64 && x.gen < 16 && x.tag < 4096 && x.data.length ≤ 256
  | .redirect x => x.src < 64 && x.orig < 64 && x.gen < 16 && x.tag < 4096 && x.data.length ≤ 256
  | .ownerCacheRelease die _ => die < 3
  | .tagTimeout die tag => die < 3 && tag < 4096
  | .tagQuarantineExpiry die tag => die < 3 && tag < 4096
  | .busyResend die tag => die < 3 && tag < 4096
  | .rcpoGroupAbandon die _ => die < 3
  | .stubRoundStart _ => true
  | .stubRoundTimeout _ => true
  | .arbiterEvent _ => true
  | .powerFailWarning _ => true
  | .inputUndervoltage _ => true
  | .diapauseDrain => true
  | .manifestSeal => true
  | .brownoutEntry => true
  | .brownoutSecondShed => true
  | .brownoutRetention => true
  | .brownoutExit => true
  | .powerGoodBoot _ => true
  | .eclosion _ => true
  | .memoryRestore => true
  | .coreRestore _ => true
  | .rejoinComplete vf => vf < 256
  | .rjtExpiry pid => pid < 24
  | .sensorSample die sensor _ => die < 3 && sensor < 64
  | .railOvercurrent bulkhead => bulkhead < 24
  | .emgClear bulkhead => bulkhead < 24
  | .overtempFault bulkhead => bulkhead < 24
  | .droopStretch bulkhead _ => bulkhead < 24
  | .clockChangeRequest bulkhead _ => bulkhead < 24
  | .clockChangeComplete bulkhead => bulkhead < 24
  | .powerReport _ _ => true
  | .doorbellWrite vf _ _ => vf < 256
  | .atsInvalidation vf _ _ => vf < 256
  | .atsInvalidationComplete vf => vf < 256
  | .hotReset => true
  | .linkDown => true
  | .vfReset vf => vf < 256
  | .lockInterface vf _ => vf < 256
  | .stopInterface vf => vf < 256
  | .getDeviceInterfaceReport x => x.vf < 256
  | .getVersion _ => true
  | .getCapabilities _ => true
  | .negotiateAlgorithms _ => true
  | .getDigests _ => true
  | .getCertificate _ => true
  | .challenge _ => true
  | .getMeasurements _ _ => true
  | .keyExchange _ => true
  | .finish _ => true
  | .keyUpdate _ => true
  | .heartbeat _ => true
  | .endSession _ => true
  | .spdmUnsupportedRequest _ => true
  | .telemetryRead die sensor => die < 3 && sensor < 64
  | .sidebandResetRequest _ => true
  | .powerCapSet _ => true
  | .loadReplyArrival core _ => coreNo core
  | .eviction _ => true
  | .softError _ => true
  | .hostWrite _ => true
  | .startInterface vf => vf < 256
  | .pcieLinkTrained => true
  | .crcOrMacFailure plane peer _ => plane < 16 && peer < 64
  | .stubRoundRequest _ => true
  | .bridgeFault bridge => bridge < 3
  | .hbmStackFault stack => stack < 12
  | .dieSharedPartFault die => die < 3

end Sys2Proof
end

