-- ==== Sys2Proof/Decode.lean ====
section
/-! DEFINITION. The decoder and the encoder of bundles (spec/01_bundle_and_opcode_map.md R8 to R30). The decoder is
total on any 512 bits: it gives the bundle, or the lowest offending bit that ILLB reports (R29). The encoder is
written from the same tables and is no part of what the machine does. -/

namespace Sys2Proof

/-- Type codes, Table 1-6. -/
def Ty.code : Ty → Nat
  | .s8 => 0 | .s16 => 1 | .s32 => 2 | .s64 => 3 | .n8 => 4 | .n16 => 5 | .n32 => 6 | .n64 => 7
  | .f32 => 8 | .f16 => 9 | .bf16 => 10 | .e4m3 => 11 | .e5m2 => 12

/-- The type of a code of Table 1-6; a reserved code reads as code 0, and the limits of each op refuse it first. -/
def Ty.ofCode (n : Nat) : Ty :=
  match n with
  | 1 => .s16 | 2 => .s32 | 3 => .s64 | 4 => .n8 | 5 => .n16 | 6 => .n32 | 7 => .n64
  | 8 => .f32 | 9 => .f16 | 10 => .bf16 | 11 => .e4m3 | 12 => .e5m2 | _ => .s8

/-- Rounding codes, Table 1-7. -/
def Rm.code : Rm → Nat
  | .rne => 0 | .rtz => 1 | .rdn => 2 | .rup => 3 | .rsr => 4

/-- The mode of a code of Table 1-7; the limits of each op refuse a reserved code. -/
def Rm.ofCode (n : Nat) : Rm :=
  match n with
  | 1 => .rtz | 2 => .rdn | 3 => .rup | 4 => .rsr | _ => .rne

/-- Scope codes, Table 1-8. -/
def Scope.code : Scope → Nat
  | .core => 0 | .quad => 1 | .die => 2 | .pkg => 3 | .pod => 4

/-- The scope of a code of Table 1-8; the limits of each op refuse a reserved code. -/
def Scope.ofCode (n : Nat) : Scope :=
  match n with
  | 1 => .quad | 2 => .die | 3 => .pkg | 4 => .pod | _ => .core

/-- Ordering codes, Table 1-8. -/
def Ordering.code : Ordering → Nat
  | .rlx => 0 | .acq => 1 | .rel => 2 | .ar => 3

/-- The ordering of a code of Table 1-8. -/
def Ordering.ofCode (n : Nat) : Ordering :=
  match n with
  | 1 => .acq | 2 => .rel | 3 => .ar | _ => .rlx

/-! ## Operand classes (Table 1-9) -/

/-- Operand bits of class SR (Table 1-9). -/
def encSR (x : ClsSR) : Nat := x.d.toNat + x.a.toNat * 64 + x.b.toNat * 4096

/-- Class SR read from operand bits. -/
def decSR (n : Nat) : ClsSR := ⟨BitVec.ofNat 6 n, BitVec.ofNat 6 (n / 64), BitVec.ofNat 6 (n / 4096)⟩

/-- Operand bits of class SS (Table 1-9). -/
def encSS (x : ClsSS) : Nat := x.d.toNat + x.a.toNat * 64 + x.b.toNat * 4096 + x.p.toNat * 262144

/-- Class SS read from operand bits. -/
def decSS (n : Nat) : ClsSS := ⟨BitVec.ofNat 6 n, BitVec.ofNat 6 (n / 64), BitVec.ofNat 6 (n / 4096), BitVec.ofNat 4 (n / 262144)⟩

/-- Operand bits of class SA (Table 1-9). -/
def encSA (x : ClsSA) : Nat := x.d.toNat + x.a.toNat * 64 + x.b.toNat * 4096 + x.sh.toNat * 262144

/-- Class SA read from operand bits. -/
def decSA (n : Nat) : ClsSA := ⟨BitVec.ofNat 6 n, BitVec.ofNat 6 (n / 64), BitVec.ofNat 6 (n / 4096), BitVec.ofNat 3 (n / 262144)⟩

/-- Operand bits of class S4 (Table 1-9). -/
def encS4 (x : ClsS4) : Nat := x.d.toNat + x.a.toNat * 64 + x.b.toNat * 4096 + x.c.toNat * 262144

/-- Class S4 read from operand bits. -/
def decS4 (n : Nat) : ClsS4 := ⟨BitVec.ofNat 6 n, BitVec.ofNat 6 (n / 64), BitVec.ofNat 6 (n / 4096), BitVec.ofNat 6 (n / 262144)⟩

/-- Operand bits of class SI (Table 1-9). -/
def encSI (x : ClsSI) : Nat := x.d.toNat + x.a.toNat * 64 + x.imm.toNat * 4096

/-- Class SI read from operand bits. -/
def decSI (n : Nat) : ClsSI := ⟨BitVec.ofNat 6 n, BitVec.ofNat 6 (n / 64), BitVec.ofNat 20 (n / 4096)⟩

/-- Operand bits of class SL (Table 1-9). -/
def encSL (x : ClsSL) : Nat := x.d.toNat + x.a.toNat * 64

/-- Class SL read from operand bits and the immediate of the long form. -/
def decSL (m : BitVec 64) (n : Nat) : ClsSL := ⟨BitVec.ofNat 6 n, BitVec.ofNat 6 (n / 64), m⟩

/-- Operand bits of class SP (Table 1-9). -/
def encSP (x : ClsSP) : Nat := x.pd.toNat + x.a.toNat * 16 + x.b.toNat * 1024

/-- Class SP read from operand bits. -/
def decSP (n : Nat) : ClsSP := ⟨BitVec.ofNat 4 n, BitVec.ofNat 6 (n / 16), BitVec.ofNat 6 (n / 1024)⟩

/-- Operand bits of class SPI (Table 1-9). -/
def encSPI (x : ClsSPI) : Nat := x.pd.toNat + x.a.toNat * 16 + x.imm.toNat * 1024

/-- Class SPI read from operand bits. -/
def decSPI (n : Nat) : ClsSPI := ⟨BitVec.ofNat 4 n, BitVec.ofNat 6 (n / 16), BitVec.ofNat 22 (n / 1024)⟩

/-- Operand bits of class PL (Table 1-9). -/
def encPL (x : ClsPL) : Nat := x.pd.toNat + x.pa.toNat * 16 + x.pb.toNat * 256 + x.na.toNat * 4096 + x.nb.toNat * 8192

/-- Class PL read from operand bits. -/
def decPL (n : Nat) : ClsPL := ⟨BitVec.ofNat 4 n, BitVec.ofNat 4 (n / 16), BitVec.ofNat 4 (n / 256), (n / 4096 % 2 == 1), (n / 8192 % 2 == 1)⟩

/-- Operand bits of class SB (Table 1-9). -/
def encSB (x : ClsSB) : Nat := x.d.toNat + x.a.toNat * 64 + x.pos.toNat * 4096 + x.len1.toNat * 262144

/-- Class SB read from operand bits. -/
def decSB (n : Nat) : ClsSB := ⟨BitVec.ofNat 6 n, BitVec.ofNat 6 (n / 64), BitVec.ofNat 6 (n / 4096), BitVec.ofNat 6 (n / 262144)⟩

/-- Operand bits of class SO (Table 1-9). -/
def encSO (x : ClsSO) : Nat := x.d.toNat + x.off.toNat * 64

/-- Class SO read from operand bits. -/
def decSO (n : Nat) : ClsSO := ⟨BitVec.ofNat 6 n, BitVec.ofNat 26 (n / 64)⟩

/-- Operand bits of class SJ (Table 1-9). -/
def encSJ (x : ClsSJ) : Nat := x.d.toNat + x.a.toNat * 64

/-- Class SJ read from operand bits. -/
def decSJ (n : Nat) : ClsSJ := ⟨BitVec.ofNat 6 n, BitVec.ofNat 6 (n / 64)⟩

/-- Operand bits of class SK (Table 1-9). -/
def encSK (x : ClsSK) : Nat := x.s.toNat + x.k.toNat * 64

/-- Class SK read from operand bits. -/
def decSK (n : Nat) : ClsSK := ⟨BitVec.ofNat 6 n, BitVec.ofNat 3 (n / 64)⟩

/-- Operand bits of class SCR (Table 1-9). -/
def encSCR (x : ClsSCR) : Nat := x.s.toNat + x.creg.toNat * 64

/-- Class SCR read from operand bits. -/
def decSCR (n : Nat) : ClsSCR := ⟨BitVec.ofNat 6 n, BitVec.ofNat 12 (n / 64)⟩

/-- Operand bits of class VR (Table 1-9). -/
def encVR (x : ClsVR) : Nat := x.vd.toNat + x.va.toNat * 32 + x.vb.toNat * 1024 + x.vc.toNat * 32768 + x.k.toNat * 1048576 + x.ty.code * 8388608 + x.rm.code * 134217728

/-- Class VR read from operand bits. -/
def decVR (n : Nat) : ClsVR := ⟨BitVec.ofNat 5 n, BitVec.ofNat 5 (n / 32), BitVec.ofNat 5 (n / 1024), BitVec.ofNat 5 (n / 32768), BitVec.ofNat 3 (n / 1048576), Ty.ofCode (n / 8388608 % 16), Rm.ofCode (n / 134217728 % 8)⟩

/-- Operand bits of class VS (Table 1-9). -/
def encVS (x : ClsVS) : Nat := x.vd.toNat + x.va.toNat * 32 + x.s.toNat * 1024 + x.k.toNat * 1048576 + x.ty.code * 8388608 + x.rm.code * 134217728

/-- Class VS read from operand bits. -/
def decVS (n : Nat) : ClsVS := ⟨BitVec.ofNat 5 n, BitVec.ofNat 5 (n / 32), BitVec.ofNat 6 (n / 1024), BitVec.ofNat 3 (n / 1048576), Ty.ofCode (n / 8388608 % 16), Rm.ofCode (n / 134217728 % 8)⟩

/-- Operand bits of class VX (Table 1-9). -/
def encVX (x : ClsVX) : Nat := x.vd.toNat + x.va.toNat * 32 + x.imm.toNat * 1024 + x.k.toNat * 1048576 + x.ty.code * 8388608

/-- Class VX read from operand bits. -/
def decVX (n : Nat) : ClsVX := ⟨BitVec.ofNat 5 n, BitVec.ofNat 5 (n / 32), BitVec.ofNat 10 (n / 1024), BitVec.ofNat 3 (n / 1048576), Ty.ofCode (n / 8388608 % 16)⟩

/-- Operand bits of class VK (Table 1-9). -/
def encVK (x : ClsVK) : Nat := x.kd.toNat + x.ka.toNat * 8 + x.kb.toNat * 64

/-- Class VK read from operand bits. -/
def decVK (n : Nat) : ClsVK := ⟨BitVec.ofNat 3 n, BitVec.ofNat 3 (n / 8), BitVec.ofNat 3 (n / 64)⟩

/-- Operand bits of class VL (Table 1-9). -/
def encVL (x : ClsVL) : Nat := x.v.toNat + x.s.toNat * 32 + x.lane.toNat * 2048 + x.ty.code * 131072

/-- Class VL read from operand bits. -/
def decVL (n : Nat) : ClsVL := ⟨BitVec.ofNat 5 n, BitVec.ofNat 6 (n / 32), BitVec.ofNat 6 (n / 2048), Ty.ofCode (n / 131072 % 16)⟩

/-- Operand bits of class VT (Table 1-9). -/
def encVT (x : ClsVT) : Nat := x.vd.toNat + x.va.toNat * 32 + x.res.code * 1024 + x.src.code * 16384 + x.rm.code * 262144 + x.k.toNat * 2097152

/-- Class VT read from operand bits. -/
def decVT (n : Nat) : ClsVT := ⟨BitVec.ofNat 5 n, BitVec.ofNat 5 (n / 32), Ty.ofCode (n / 1024 % 16), Ty.ofCode (n / 16384 % 16), Rm.ofCode (n / 262144 % 8), BitVec.ofNat 3 (n / 2097152)⟩

/-- Operand bits of class VF (Table 1-9). -/
def encVF (x : ClsVF) : Nat := x.vd.toNat + x.va.toNat * 32 + x.bm2.toNat * 1024 + x.ty.code * 8192 + x.rm.code * 131072 + x.k.toNat * 1048576

/-- Class VF read from operand bits. -/
def decVF (n : Nat) : ClsVF := ⟨BitVec.ofNat 5 n, BitVec.ofNat 5 (n / 32), BitVec.ofNat 3 (n / 1024), Ty.ofCode (n / 8192 % 16), Rm.ofCode (n / 131072 % 8), BitVec.ofNat 3 (n / 1048576)⟩

/-- Operand bits of class MC (Table 1-9). -/
def encMC (x : ClsMC) : Nat := x.acc.toNat * 32 + x.acq.toNat * 128 + x.rel.toNat * 256 + x.scope.code * 512

/-- Class MC read from operand bits. -/
def decMC (n : Nat) : ClsMC := ⟨BitVec.ofNat 2 (n / 32), (n / 128 % 2 == 1), (n / 256 % 2 == 1), Scope.ofCode (n / 512 % 8)⟩

/-- Operand bits of class MP (Table 1-9). -/
def encMP (x : ClsMP) : Nat := x.mp.toNat + x.s.toNat * 8

/-- Class MP read from operand bits. -/
def decMP (n : Nat) : ClsMP := ⟨BitVec.ofNat 3 n, BitVec.ofNat 6 (n / 8)⟩

/-- Operand bits of class MA (Table 1-9). -/
def encMA (x : ClsMA) : Nat := x.acc.toNat + x.v.toNat * 4 + x.s.toNat * 128

/-- Class MA read from operand bits. -/
def decMA (n : Nat) : ClsMA := ⟨BitVec.ofNat 2 n, BitVec.ofNat 5 (n / 4), BitVec.ofNat 6 (n / 128)⟩

/-- Operand bits of class Q (Table 1-9). -/
def encQ (x : ClsQ) : Nat := x.r.toNat + x.q.toNat * 64

/-- Class Q read from operand bits. -/
def decQ (n : Nat) : ClsQ := ⟨BitVec.ofNat 6 n, BitVec.ofNat 4 (n / 64)⟩

/-- Operand bits of class LL (Table 1-9). -/
def encLL (x : ClsLL) : Nat := x.d.toNat + x.a.toNat * 64 + x.D.toNat * 4096 + x.ty.code * 16777216

/-- Class LL read from operand bits. -/
def decLL (n : Nat) : ClsLL := ⟨BitVec.ofNat 6 n, BitVec.ofNat 6 (n / 64), BitVec.ofNat 12 (n / 4096), Ty.ofCode (n / 16777216 % 16)⟩

/-- Operand bits of class LT (Table 1-9). -/
def encLT (x : ClsLT) : Nat := x.d.toNat + x.a.toNat * 64

/-- Class LT read from operand bits. -/
def decLT (n : Nat) : ClsLT := ⟨BitVec.ofNat 6 n, BitVec.ofNat 6 (n / 64)⟩

/-- Operand bits of class LG (Table 1-9). -/
def encLG (x : ClsLG) : Nat := x.d.toNat + x.q.toNat * 64 + x.vi.toNat * 1024 + x.D.toNat * 32768

/-- Class LG read from operand bits. -/
def decLG (n : Nat) : ClsLG := ⟨BitVec.ofNat 6 n, BitVec.ofNat 4 (n / 64), BitVec.ofNat 5 (n / 1024), BitVec.ofNat 12 (n / 32768)⟩

/-- Operand bits of class RL (Table 1-9). -/
def encRL (x : ClsRL) : Nat := x.d.toNat + x.a.toNat * 64 + x.D.toNat * 4096

/-- Class RL read from operand bits. -/
def decRL (n : Nat) : ClsRL := ⟨BitVec.ofNat 6 n, BitVec.ofNat 6 (n / 64), BitVec.ofNat 12 (n / 4096)⟩

/-- Operand bits of class AT (Table 1-9). -/
def encAT (x : ClsAT) : Nat := x.d.toNat + x.a.toNat * 64 + x.b.toNat * 4096 + x.dx.toNat * 262144 + x.ord.code * 134217728 + x.scope.code * 536870912

/-- Class AT read from operand bits. -/
def decAT (n : Nat) : ClsAT := ⟨BitVec.ofNat 6 n, BitVec.ofNat 6 (n / 64), BitVec.ofNat 6 (n / 4096), BitVec.ofNat 9 (n / 262144), Ordering.ofCode (n / 134217728 % 4), Scope.ofCode (n / 536870912 % 8)⟩

/-- Operand bits of class FS (Table 1-9). -/
def encFS (x : ClsFS) : Nat := x.s.toNat + x.a.toNat * 64 + x.ty.code * 4096

/-- Class FS read from operand bits. -/
def decFS (n : Nat) : ClsFS := ⟨BitVec.ofNat 6 n, BitVec.ofNat 6 (n / 64), Ty.ofCode (n / 4096 % 16)⟩

/-- Operand bits of class SG (Table 1-9). -/
def encSG (x : ClsSG) : Nat := x.s.toNat + x.q.toNat * 64 + x.vi.toNat * 1024

/-- Class SG read from operand bits. -/
def decSG (n : Nat) : ClsSG := ⟨BitVec.ofNat 6 n, BitVec.ofNat 4 (n / 64), BitVec.ofNat 5 (n / 1024)⟩

/-- Operand bits of class RS (Table 1-9). -/
def encRS (x : ClsRS) : Nat := x.s.toNat + x.a.toNat * 64 + x.c.toNat * 4096 + x.scope.code * 262144 + x.rel.toNat * 2097152

/-- Class RS read from operand bits. -/
def decRS (n : Nat) : ClsRS := ⟨BitVec.ofNat 6 n, BitVec.ofNat 6 (n / 64), BitVec.ofNat 6 (n / 4096), Scope.ofCode (n / 262144 % 8), (n / 2097152 % 2 == 1)⟩

/-- Operand bits of class CC (Table 1-9). -/
def encCC (x : ClsCC) : Nat := x.ch.toNat + x.a.toNat * 8 + x.b.toNat * 512 + x.c.toNat * 32768 + x.acq.toNat * 2097152 + x.rel.toNat * 4194304 + x.scope.code * 8388608 + x.func.toNat * 67108864

/-- Class CC read from operand bits. -/
def decCC (n : Nat) : ClsCC := ⟨BitVec.ofNat 3 n, BitVec.ofNat 6 (n / 8), BitVec.ofNat 6 (n / 512), BitVec.ofNat 6 (n / 32768), (n / 2097152 % 2 == 1), (n / 4194304 % 2 == 1), Scope.ofCode (n / 8388608 % 8), BitVec.ofNat 4 (n / 67108864)⟩

/-- Operand bits of class CT (Table 1-9). -/
def encCT (x : ClsCT) : Nat := x.ch.toNat + x.slot.toNat * 8 + x.a.toNat * 512 + x.acq.toNat * 32768 + x.rel.toNat * 65536 + x.scope.code * 131072

/-- Class CT read from operand bits. -/
def decCT (n : Nat) : ClsCT := ⟨BitVec.ofNat 3 n, BitVec.ofNat 6 (n / 8), BitVec.ofNat 6 (n / 512), (n / 32768 % 2 == 1), (n / 65536 % 2 == 1), Scope.ofCode (n / 131072 % 8)⟩

/-- Operand bits of class CQ (Table 1-9). -/
def encCQ (x : ClsCQ) : Nat := x.s.toNat + x.ch.toNat * 64 + x.sel.toNat * 512 + x.slot.toNat * 2048

/-- Class CQ read from operand bits. -/
def decCQ (n : Nat) : ClsCQ := ⟨BitVec.ofNat 6 n, BitVec.ofNat 3 (n / 64), BitVec.ofNat 2 (n / 512), BitVec.ofNat 6 (n / 2048)⟩

/-- Operand bits of class CM (Table 1-9). -/
def encCM (x : ClsCM) : Nat := x.a.toNat + x.b.toNat * 64 + x.m.toNat * 4096 + x.ch.toNat * 262144

/-- Class CM read from operand bits. -/
def decCM (n : Nat) : ClsCM := ⟨BitVec.ofNat 6 n, BitVec.ofNat 6 (n / 64), BitVec.ofNat 6 (n / 4096), BitVec.ofNat 3 (n / 262144)⟩

/-- Operand bits of class CF (Table 1-9). -/
def encCF (x : ClsCF) : Nat := x.mask.toNat

/-- Class CF read from operand bits. -/
def decCF (n : Nat) : ClsCF := ⟨BitVec.ofNat 8 n⟩

/-- Operand bits of class YM (Table 1-9). -/
def encYM (x : ClsYM) : Nat := x.sem.toNat + x.imm.toNat * 256

/-- Class YM read from operand bits. -/
def decYM (n : Nat) : ClsYM := ⟨BitVec.ofNat 8 n, BitVec.ofNat 16 (n / 256)⟩

/-- Operand bits of class YX (Table 1-9). -/
def encYX (x : ClsYX) : Nat := x.sem.toNat + x.s.toNat * 256

/-- Class YX read from operand bits. -/
def decYX (n : Nat) : ClsYX := ⟨BitVec.ofNat 8 n, BitVec.ofNat 6 (n / 256)⟩

/-- Operand bits of class YB (Table 1-9). -/
def encYB (x : ClsYB) : Nat := x.scope.code + x.id.toNat * 8

/-- Class YB read from operand bits. -/
def decYB (n : Nat) : ClsYB := ⟨Scope.ofCode (n % 8), BitVec.ofNat 5 (n / 8)⟩

/-- Operand bits of class YC (Table 1-9). -/
def encYC (x : ClsYC) : Nat := x.x.toNat + x.bslot.toNat * 64 + x.rank.toNat * 2048

/-- Class YC read from operand bits. -/
def decYC (n : Nat) : ClsYC := ⟨BitVec.ofNat 6 n, BitVec.ofNat 5 (n / 64), BitVec.ofNat 2 (n / 2048)⟩

/-- Operand bits of class YF (Table 1-9). -/
def encYF (x : ClsYF) : Nat := x.scope.code

/-- Class YF read from operand bits. -/
def decYF (n : Nat) : ClsYF := ⟨Scope.ofCode (n % 8)⟩

/-- Operand bits of class YW (Table 1-9). -/
def encYW (x : ClsYW) : Nat := x.a.toNat + x.b.toNat * 64 + x.scope.code * 4096

/-- Class YW read from operand bits. -/
def decYW (n : Nat) : ClsYW := ⟨BitVec.ofNat 6 n, BitVec.ofNat 6 (n / 64), Scope.ofCode (n / 4096 % 8)⟩

/-- Operand bits of class YU (Table 1-9). -/
def encYU (x : ClsYU) : Nat := x.a.toNat

/-- Class YU read from operand bits. -/
def decYU (n : Nat) : ClsYU := ⟨BitVec.ofNat 6 n⟩

/-- Operand bits of class YT (Table 1-9). -/
def encYT (x : ClsYT) : Nat := x.code.toNat

/-- Class YT read from operand bits. -/
def decYT (n : Nat) : ClsYT := ⟨BitVec.ofNat 16 n⟩

/-! ## Opcode maps -/

/-- What a map says of one code: the operand bits its class lists (`mask`), the fields the op does not use
(`zeros`, as low bit and width), its whole-field limits (`lims`: the operand bit that offends, and the test that must
hold), the instruction, and for an engine command the places of `acq` and `scope` (R127: a scope stands only with
`acq` or `rel`). -/
structure OpRow where
  mask    : Nat
  zeros   : List (Nat × Nat)
  lims    : List (Nat × (Nat → Bool))
  build   : Nat → Instr
  orderAt : Option (Nat × Nat) := none

/-- The routines of the microprogram store, in the order of their indices (R24, Table 6-7). -/
def mcallOf (r : Nat) (x : ClsMC) : Instr :=
  match r with
  | 0 => .mcallBmm x | 1 => .mcallBmmz x | 2 => .mcallBmmg x | 3 => .mcallBmmgz x | 4 => .mcallHmm x
  | 5 => .mcallHmmz x | 6 => .mcallFmm x | 7 => .mcallFmmz x | 8 => .mcallImm x | 9 => .mcallImmz x
  | 10 => .mcallGrouped x | 11 => .mcallGroupedh x | 12 => .mcallEbias x | 13 => .mcallEscale x
  | 14 => .mcallErelu x | 15 => .mcallEadd x | 16 => .mcallEload x | 17 => .mcallEcvt x
  | 18 => .mcallEbfp x | _ => .mcallErowmax x

/-- The three kinds of `fence` (Table 1-9, class YF). -/
def fenceOf (kind : Nat) (x : ClsYF) : Instr :=
  match kind with
  | 1 => .fenceAcq x | 2 => .fenceRel x | _ => .fenceFull x

/-- The SC map, Table 1-10: the ops whose code is neither `nop`, reserved nor illegal (R22). -/
def scRow (m : BitVec 64) (code : Nat) : Option OpRow :=
  match code with
  | 0x01 => some { mask := 0x3FFFF, zeros := [], lims := [], build := fun n => .add (decSR n) }
  | 0x02 => some { mask := 0x3FFFF, zeros := [], lims := [], build := fun n => .sub (decSR n) }
  | 0x03 => some { mask := 0x3FFFF, zeros := [], lims := [], build := fun n => .mul (decSR n) }
  | 0x04 => some { mask := 0x3FFFF, zeros := [], lims := [], build := fun n => .mulh (decSR n) }
  | 0x05 => some { mask := 0x3FFFF, zeros := [], lims := [], build := fun n => .mulhn (decSR n) }
  | 0x06 => some { mask := 0x3FFFF, zeros := [], lims := [], build := fun n => .div (decSR n) }
  | 0x07 => some { mask := 0x3FFFF, zeros := [], lims := [], build := fun n => .divn (decSR n) }
  | 0x08 => some { mask := 0x3FFFF, zeros := [], lims := [], build := fun n => .rem (decSR n) }
  | 0x09 => some { mask := 0x3FFFF, zeros := [], lims := [], build := fun n => .remn (decSR n) }
  | 0x0A => some { mask := 0x3FFFF, zeros := [], lims := [], build := fun n => .and (decSR n) }
  | 0x0B => some { mask := 0x3FFFF, zeros := [], lims := [], build := fun n => .or (decSR n) }
  | 0x0C => some { mask := 0x3FFFF, zeros := [], lims := [], build := fun n => .xor (decSR n) }
  | 0x0D => some { mask := 0x3FFFF, zeros := [], lims := [], build := fun n => .shl (decSR n) }
  | 0x0E => some { mask := 0x3FFFF, zeros := [], lims := [], build := fun n => .shr (decSR n) }
  | 0x0F => some { mask := 0x3FFFF, zeros := [], lims := [], build := fun n => .sra (decSR n) }
  | 0x10 => some { mask := 0xFFFFFFFF, zeros := [], lims := [], build := fun n => .addi (decSI n) }
  | 0x11 => some { mask := 0xFFFFFFFF, zeros := [], lims := [], build := fun n => .andi (decSI n) }
  | 0x12 => some { mask := 0xFFFFFFFF, zeros := [], lims := [], build := fun n => .ori (decSI n) }
  | 0x13 => some { mask := 0xFFFFFFFF, zeros := [], lims := [], build := fun n => .xori (decSI n) }
  | 0x14 => some { mask := 0xFFFFFFFF, zeros := [(18, 14)], lims := [], build := fun n => .shli (decSI n) }
  | 0x15 => some { mask := 0xFFFFFFFF, zeros := [(18, 14)], lims := [], build := fun n => .shri (decSI n) }
  | 0x16 => some { mask := 0xFFFFFFFF, zeros := [(18, 14)], lims := [], build := fun n => .srai (decSI n) }
  | 0x17 => some { mask := 0xFFFFFFFF, zeros := [], lims := [], build := fun n => .muli (decSI n) }
  | 0x18 => some { mask := 0xFFFFFFFF, zeros := [(6, 6)], lims := [], build := fun n => .lui (decSI n) }
  | 0x19 => some { mask := 0xFFFFFFFF, zeros := [(6, 6)], lims := [], build := fun n => .lpc (decSI n) }
  | 0x1C => some { mask := 0xFFF, zeros := [(6, 6)], lims := [], build := fun n => .movl (decSL m n) }
  | 0x1D => some { mask := 0xFFF, zeros := [], lims := [], build := fun n => .addl (decSL m n) }
  | 0x1E => some { mask := 0xFFF, zeros := [], lims := [], build := fun n => .andl (decSL m n) }
  | 0x20 => some { mask := 0xFFFF, zeros := [], lims := [], build := fun n => .ceq (decSP n) }
  | 0x21 => some { mask := 0xFFFF, zeros := [], lims := [], build := fun n => .cne (decSP n) }
  | 0x22 => some { mask := 0xFFFF, zeros := [], lims := [], build := fun n => .clt (decSP n) }
  | 0x23 => some { mask := 0xFFFF, zeros := [], lims := [], build := fun n => .cltn (decSP n) }
  | 0x24 => some { mask := 0xFFFF, zeros := [], lims := [], build := fun n => .cle (decSP n) }
  | 0x25 => some { mask := 0xFFFF, zeros := [], lims := [], build := fun n => .clen (decSP n) }
  | 0x26 => some { mask := 0xFFFF, zeros := [], lims := [], build := fun n => .ctst (decSP n) }
  | 0x28 => some { mask := 0xFFFFFFFF, zeros := [], lims := [], build := fun n => .ceqi (decSPI n) }
  | 0x29 => some { mask := 0xFFFFFFFF, zeros := [], lims := [], build := fun n => .cnei (decSPI n) }
  | 0x2A => some { mask := 0xFFFFFFFF, zeros := [], lims := [], build := fun n => .clti (decSPI n) }
  | 0x2B => some { mask := 0xFFFFFFFF, zeros := [], lims := [], build := fun n => .cltni (decSPI n) }
  | 0x2C => some { mask := 0xFFFFFFFF, zeros := [], lims := [], build := fun n => .clei (decSPI n) }
  | 0x2D => some { mask := 0xFFFFFFFF, zeros := [], lims := [], build := fun n => .cleni (decSPI n) }
  | 0x30 => some { mask := 0x3FFF, zeros := [], lims := [], build := fun n => .pand (decPL n) }
  | 0x31 => some { mask := 0x3FFF, zeros := [], lims := [], build := fun n => .por (decPL n) }
  | 0x32 => some { mask := 0x3FFF, zeros := [], lims := [], build := fun n => .pxor (decPL n) }
  | 0x33 => some { mask := 0x3FFF, zeros := [(8, 4), (13, 1)], lims := [], build := fun n => .pnot (decPL n) }
  | 0x34 => some { mask := 0x3FFF, zeros := [(8, 4), (13, 1)], lims := [], build := fun n => .pmov (decPL n) }
  | 0x38 => some { mask := 0xFFFFFF, zeros := [], lims := [(18, fun n => fieldOf n 12 6 + fieldOf n 18 6 < 64)], build := fun n => .bext (decSB n) }
  | 0x39 => some { mask := 0xFFFFFF, zeros := [], lims := [(18, fun n => fieldOf n 12 6 + fieldOf n 18 6 < 64)], build := fun n => .bextn (decSB n) }
  | 0x3A => some { mask := 0xFFFFFF, zeros := [], lims := [(18, fun n => fieldOf n 12 6 + fieldOf n 18 6 < 64)], build := fun n => .bins (decSB n) }
  | 0x3B => some { mask := 0x3FFFF, zeros := [(12, 6)], lims := [], build := fun n => .clz (decSR n) }
  | 0x3C => some { mask := 0x3FFFF, zeros := [(12, 6)], lims := [], build := fun n => .ctz (decSR n) }
  | 0x3D => some { mask := 0x3FFFF, zeros := [(12, 6)], lims := [], build := fun n => .popc (decSR n) }
  | 0x3E => some { mask := 0x3FFFF, zeros := [(12, 6)], lims := [], build := fun n => .bswap (decSR n) }
  | 0x3F => some { mask := 0x3FFFF, zeros := [(12, 6)], lims := [], build := fun n => .brev (decSR n) }
  | 0x40 => some { mask := 0x3FFFF, zeros := [], lims := [], build := fun n => .min (decSR n) }
  | 0x41 => some { mask := 0x3FFFF, zeros := [], lims := [], build := fun n => .minn (decSR n) }
  | 0x42 => some { mask := 0x3FFFF, zeros := [], lims := [], build := fun n => .max (decSR n) }
  | 0x43 => some { mask := 0x3FFFF, zeros := [], lims := [], build := fun n => .maxn (decSR n) }
  | 0x44 => some { mask := 0x3FFFF, zeros := [(12, 6)], lims := [], build := fun n => .abs (decSR n) }
  | 0x45 => some { mask := 0x3FFFFF, zeros := [], lims := [], build := fun n => .sel (decSS n) }
  | 0x48 => some { mask := 0x1FFFFF, zeros := [], lims := [], build := fun n => .lea (decSA n) }
  | 0x49 => some { mask := 0xFFFFFF, zeros := [], lims := [], build := fun n => .madd (decS4 n) }
  | 0x50 => some { mask := 0xFFFFFFFF, zeros := [(0, 6)], lims := [], build := fun n => .jmp (decSO n) }
  | 0x51 => some { mask := 0xFFFFFFFF, zeros := [], lims := [], build := fun n => .call (decSO n) }
  | 0x52 => some { mask := 0xFFF, zeros := [(0, 6)], lims := [], build := fun n => .jr (decSJ n) }
  | 0x53 => some { mask := 0xFFF, zeros := [], lims := [], build := fun n => .jalr (decSJ n) }
  | 0x58 => some { mask := 0x3FFFF, zeros := [(6, 6), (12, 6)], lims := [], build := fun n => .movp (decSR n) }
  | 0x59 => some { mask := 0x3FFFF, zeros := [(0, 6)], lims := [], build := fun n => .pmovs (decSR n) }
  | 0x5A => some { mask := 0x1FF, zeros := [], lims := [], build := fun n => .movk (decSK n) }
  | 0x5B => some { mask := 0x1FF, zeros := [], lims := [], build := fun n => .kmov (decSK n) }
  | 0xC0 => some { mask := 0x3FFFF, zeros := [], lims := [(6, fun n => cregAssigned (fieldOf n 6 12))], build := fun n => .crr (decSCR n) }
  | 0xC1 => some { mask := 0x3FFFF, zeros := [], lims := [(6, fun n => cregWritable (fieldOf n 6 12))], build := fun n => .crw (decSCR n) }
  | 0xC2 => some { mask := 0x3FFFF, zeros := [(12, 6)], lims := [], build := fun n => .snrd (decSR n) }
  | 0xC3 => some { mask := 0x3FFFF, zeros := [(0, 6)], lims := [], build := fun n => .snwr (decSR n) }
  | 0xC4 => some { mask := 0x0, zeros := [], lims := [], build := fun _ => .eret }
  | 0xC5 => some { mask := 0x0, zeros := [], lims := [], build := fun _ => .halt }
  | 0xC6 => some { mask := 0x3FFFF, zeros := [(12, 6)], lims := [], build := fun n => .seqopen (decSR n) }
  | 0xC7 => some { mask := 0x3FFFF, zeros := [(0, 6), (12, 6)], lims := [], build := fun n => .seqend (decSR n) }
  | 0xC8 => some { mask := 0x3FFFF, zeros := [(0, 6), (12, 6)], lims := [], build := fun n => .seqbind (decSR n) }
  | 0xC9 => some { mask := 0x3FFFF, zeros := [(0, 6)], lims := [], build := fun n => .tinv (decSR n) }
  | 0xCA => some { mask := 0x0, zeros := [], lims := [], build := fun _ => .ifence }
  | 0xCB => some { mask := 0xFFF, zeros := [(0, 6)], lims := [], build := fun n => .katc (decSL m n) }
  | 0xCC => some { mask := 0x0, zeros := [], lims := [], build := fun _ => .diapack }
  | _ => none

/-- The VA and VB map, Table 1-11: the ops whose code is neither `nop`, reserved nor illegal (R22). A rounding mode that must be zero
offends by its lowest set bit, as a zero field does (DESIGN CHOICE, log 115). -/
def vRow (code : Nat) : Option OpRow :=
  match code with
  | 0x01 => some { mask := 0x3FFFFFFF, zeros := [(15, 5)], lims := [(23, fun n => fieldOf n 23 4 ≤ 10), (27, fun n => fieldOf n 27 3 == 0 || (fieldOf n 27 3 ≤ 4 && 8 ≤ fieldOf n 23 4 && fieldOf n 23 4 ≤ 10))], build := fun n => .vadd (decVR n) }
  | 0x02 => some { mask := 0x3FFFFFFF, zeros := [(15, 5)], lims := [(23, fun n => fieldOf n 23 4 ≤ 10), (27, fun n => fieldOf n 27 3 == 0 || (fieldOf n 27 3 ≤ 4 && 8 ≤ fieldOf n 23 4 && fieldOf n 23 4 ≤ 10))], build := fun n => .vsub (decVR n) }
  | 0x03 => some { mask := 0x3FFFFFFF, zeros := [(15, 5)], lims := [(23, fun n => fieldOf n 23 4 ≤ 10), (27, fun n => fieldOf n 27 3 == 0 || (fieldOf n 27 3 ≤ 4 && 8 ≤ fieldOf n 23 4 && fieldOf n 23 4 ≤ 10))], build := fun n => .vmul (decVR n) }
  | 0x04 => some { mask := 0x3FFFFFFF, zeros := [], lims := [(23, fun n => (8 ≤ fieldOf n 23 4 && fieldOf n 23 4 ≤ 10)), (27, fun n => fieldOf n 27 3 ≤ 4)], build := fun n => .vfma (decVR n) }
  | 0x05 => some { mask := 0x3FFFFFFF, zeros := [], lims := [(23, fun n => (8 ≤ fieldOf n 23 4 && fieldOf n 23 4 ≤ 10)), (27, fun n => fieldOf n 27 3 ≤ 4)], build := fun n => .vfms (decVR n) }
  | 0x06 => some { mask := 0x3FFFFFFF, zeros := [], lims := [(23, fun n => (8 ≤ fieldOf n 23 4 && fieldOf n 23 4 ≤ 10)), (27, fun n => fieldOf n 27 3 ≤ 4)], build := fun n => .vfnma (decVR n) }
  | 0x07 => some { mask := 0x3FFFFFFF, zeros := [(15, 5), (27, 3)], lims := [(23, fun n => fieldOf n 23 4 ≤ 10)], build := fun n => .vmin (decVR n) }
  | 0x08 => some { mask := 0x3FFFFFFF, zeros := [(15, 5), (27, 3)], lims := [(23, fun n => fieldOf n 23 4 ≤ 10)], build := fun n => .vmax (decVR n) }
  | 0x09 => some { mask := 0x3FFFFFFF, zeros := [(10, 5), (15, 5), (27, 3)], lims := [(23, fun n => (fieldOf n 23 4 < 4 || (8 ≤ fieldOf n 23 4 && fieldOf n 23 4 ≤ 10)))], build := fun n => .vabs (decVR n) }
  | 0x0A => some { mask := 0x3FFFFFFF, zeros := [(10, 5), (15, 5), (27, 3)], lims := [(23, fun n => (fieldOf n 23 4 < 4 || (8 ≤ fieldOf n 23 4 && fieldOf n 23 4 ≤ 10)))], build := fun n => .vneg (decVR n) }
  | 0x0B => some { mask := 0x3FFFFFFF, zeros := [(15, 5), (27, 3)], lims := [(23, fun n => fieldOf n 23 4 < 8)], build := fun n => .vand (decVR n) }
  | 0x0C => some { mask := 0x3FFFFFFF, zeros := [(15, 5), (27, 3)], lims := [(23, fun n => fieldOf n 23 4 < 8)], build := fun n => .vor (decVR n) }
  | 0x0D => some { mask := 0x3FFFFFFF, zeros := [(15, 5), (27, 3)], lims := [(23, fun n => fieldOf n 23 4 < 8)], build := fun n => .vxor (decVR n) }
  | 0x0E => some { mask := 0x3FFFFFFF, zeros := [(15, 5), (27, 3)], lims := [(23, fun n => fieldOf n 23 4 < 8)], build := fun n => .vshl (decVR n) }
  | 0x0F => some { mask := 0x3FFFFFFF, zeros := [(15, 5), (27, 3)], lims := [(23, fun n => fieldOf n 23 4 < 8)], build := fun n => .vshr (decVR n) }
  | 0x10 => some { mask := 0x3FFFFFFF, zeros := [(15, 5), (27, 3)], lims := [(23, fun n => fieldOf n 23 4 < 8)], build := fun n => .vqadd (decVR n) }
  | 0x11 => some { mask := 0x3FFFFFFF, zeros := [(15, 5), (27, 3)], lims := [(23, fun n => fieldOf n 23 4 < 8)], build := fun n => .vqsub (decVR n) }
  | 0x12 => some { mask := 0x3FFFFFFF, zeros := [(15, 5), (27, 3)], lims := [(23, fun n => fieldOf n 23 4 < 8)], build := fun n => .vmulh (decVR n) }
  | 0x13 => some { mask := 0x3FFFFFFF, zeros := [(15, 5), (27, 3)], lims := [(23, fun n => fieldOf n 23 4 < 8)], build := fun n => .vavg (decVR n) }
  | 0x14 => some { mask := 0x3FFFFFFF, zeros := [(10, 5), (15, 5), (27, 3)], lims := [(23, fun n => fieldOf n 23 4 < 8)], build := fun n => .vclz (decVR n) }
  | 0x15 => some { mask := 0x3FFFFFFF, zeros := [(10, 5), (15, 5), (27, 3)], lims := [(23, fun n => fieldOf n 23 4 < 8)], build := fun n => .vpopc (decVR n) }
  | 0x18 => some { mask := 0x3FF0FFFF, zeros := [], lims := [(23, fun n => fieldOf n 23 4 ≤ 10), (27, fun n => fieldOf n 27 3 == 0 || (fieldOf n 27 3 ≤ 4 && 8 ≤ fieldOf n 23 4 && fieldOf n 23 4 ≤ 10))], build := fun n => .vaddsc (decVS n) }
  | 0x19 => some { mask := 0x3FF0FFFF, zeros := [], lims := [(23, fun n => fieldOf n 23 4 ≤ 10), (27, fun n => fieldOf n 27 3 == 0 || (fieldOf n 27 3 ≤ 4 && 8 ≤ fieldOf n 23 4 && fieldOf n 23 4 ≤ 10))], build := fun n => .vsubsc (decVS n) }
  | 0x1A => some { mask := 0x3FF0FFFF, zeros := [], lims := [(23, fun n => fieldOf n 23 4 ≤ 10), (27, fun n => fieldOf n 27 3 == 0 || (fieldOf n 27 3 ≤ 4 && 8 ≤ fieldOf n 23 4 && fieldOf n 23 4 ≤ 10))], build := fun n => .vmulsc (decVS n) }
  | 0x1B => some { mask := 0x3FF0FFFF, zeros := [(27, 3)], lims := [(23, fun n => fieldOf n 23 4 ≤ 10)], build := fun n => .vminsc (decVS n) }
  | 0x1C => some { mask := 0x3FF0FFFF, zeros := [(27, 3)], lims := [(23, fun n => fieldOf n 23 4 ≤ 10)], build := fun n => .vmaxsc (decVS n) }
  | 0x1D => some { mask := 0x3FF0FFFF, zeros := [(5, 5), (27, 3)], lims := [(23, fun n => fieldOf n 23 4 ≤ 10)], build := fun n => .vbcast (decVS n) }
  | 0x20 => some { mask := 0x3FFFFFFF, zeros := [(15, 5), (27, 3), (3, 2)], lims := [(23, fun n => (fieldOf n 23 4 == 2 || fieldOf n 23 4 == 3 || fieldOf n 23 4 == 6 || fieldOf n 23 4 == 7 || fieldOf n 23 4 == 8))], build := fun n => .vceq (decVR n) }
  | 0x21 => some { mask := 0x3FFFFFFF, zeros := [(15, 5), (27, 3), (3, 2)], lims := [(23, fun n => (fieldOf n 23 4 == 2 || fieldOf n 23 4 == 3 || fieldOf n 23 4 == 6 || fieldOf n 23 4 == 7 || fieldOf n 23 4 == 8))], build := fun n => .vcne (decVR n) }
  | 0x22 => some { mask := 0x3FFFFFFF, zeros := [(15, 5), (27, 3), (3, 2)], lims := [(23, fun n => (fieldOf n 23 4 == 2 || fieldOf n 23 4 == 3 || fieldOf n 23 4 == 6 || fieldOf n 23 4 == 7 || fieldOf n 23 4 == 8))], build := fun n => .vclt (decVR n) }
  | 0x23 => some { mask := 0x3FFFFFFF, zeros := [(15, 5), (27, 3), (3, 2)], lims := [(23, fun n => (fieldOf n 23 4 == 2 || fieldOf n 23 4 == 3 || fieldOf n 23 4 == 6 || fieldOf n 23 4 == 7 || fieldOf n 23 4 == 8))], build := fun n => .vcle (decVR n) }
  | 0x24 => some { mask := 0x3FFFFFFF, zeros := [(15, 5), (27, 3), (3, 2)], lims := [(23, fun n => (fieldOf n 23 4 == 2 || fieldOf n 23 4 == 3 || fieldOf n 23 4 == 6 || fieldOf n 23 4 == 7 || fieldOf n 23 4 == 8))], build := fun n => .vcgt (decVR n) }
  | 0x25 => some { mask := 0x3FFFFFFF, zeros := [(15, 5), (27, 3), (3, 2)], lims := [(23, fun n => (fieldOf n 23 4 == 2 || fieldOf n 23 4 == 3 || fieldOf n 23 4 == 6 || fieldOf n 23 4 == 7 || fieldOf n 23 4 == 8))], build := fun n => .vcge (decVR n) }
  | 0x28 => some { mask := 0x3FFFFFFF, zeros := [(15, 5), (27, 3)], lims := [(23, fun n => fieldOf n 23 4 ≤ 10)], build := fun n => .vsel (decVR n) }
  | 0x29 => some { mask := 0x1FF, zeros := [], lims := [], build := fun n => .kand (decVK n) }
  | 0x2A => some { mask := 0x1FF, zeros := [], lims := [], build := fun n => .kor (decVK n) }
  | 0x2B => some { mask := 0x1FF, zeros := [], lims := [], build := fun n => .kxor (decVK n) }
  | 0x2C => some { mask := 0x1FF, zeros := [(6, 3)], lims := [], build := fun n => .knot (decVK n) }
  | 0x30 => some { mask := 0x3FFFFFFF, zeros := [(27, 3)], lims := [(23, fun n => fieldOf n 23 4 ≤ 10)], build := fun n => .vperm (decVR n) }
  | 0x31 => some { mask := 0x3FF0FFFF, zeros := [(27, 3)], lims := [(23, fun n => fieldOf n 23 4 ≤ 10)], build := fun n => .vrot (decVS n) }
  | 0x32 => some { mask := 0x3FFFFFFF, zeros := [(27, 3)], lims := [(23, fun n => fieldOf n 23 4 ≤ 10), (15, fun n => fieldOf n 15 5 < 2)], build := fun n => .vzip (decVR n) }
  | 0x33 => some { mask := 0x3FFFFFFF, zeros := [(27, 3)], lims := [(23, fun n => fieldOf n 23 4 ≤ 10), (15, fun n => fieldOf n 15 5 < 2)], build := fun n => .vunzip (decVR n) }
  | 0x34 => some { mask := 0x3FF0FFFF, zeros := [(27, 3)], lims := [(23, fun n => fieldOf n 23 4 ≤ 10)], build := fun n => .vslide (decVS n) }
  | 0x35 => some { mask := 0x7FFFFFF, zeros := [], lims := [(23, fun n => fieldOf n 23 4 ≤ 10), (10, fun n => fieldOf n 10 10 < (Ty.ofCode (fieldOf n 23 4)).count)], build := fun n => .vbrd (decVX n) }
  | 0x36 => some { mask := 0x3FFFFFFF, zeros := [(10, 5), (15, 5), (27, 3)], lims := [(23, fun n => fieldOf n 23 4 ≤ 10)], build := fun n => .vcomp (decVR n) }
  | 0x38 => some { mask := 0x3FF0FFFF, zeros := [(0, 5)], lims := [(23, fun n => fieldOf n 23 4 ≤ 10), (27, fun n => fieldOf n 27 3 == 0 || (fieldOf n 27 3 ≤ 4 && 8 ≤ fieldOf n 23 4 && fieldOf n 23 4 ≤ 10))], build := fun n => .vrsum (decVS n) }
  | 0x39 => some { mask := 0x3FF0FFFF, zeros := [(0, 5), (27, 3)], lims := [(23, fun n => fieldOf n 23 4 ≤ 10)], build := fun n => .vrmin (decVS n) }
  | 0x3A => some { mask := 0x3FF0FFFF, zeros := [(0, 5), (27, 3)], lims := [(23, fun n => fieldOf n 23 4 ≤ 10)], build := fun n => .vrmax (decVS n) }
  | 0x3C => some { mask := 0x3FFFFFFF, zeros := [(10, 5), (15, 5), (27, 3)], lims := [(23, fun n => fieldOf n 23 4 ≤ 10)], build := fun n => .vmov (decVR n) }
  | 0x40 => some { mask := 0xFFFFFF, zeros := [], lims := [(10, fun n => fieldOf n 10 4 ≤ 12 && fieldOf n 10 4 != fieldOf n 14 4), (14, fun n => fieldOf n 14 4 ≤ 12), (18, fun n => fieldOf n 18 3 ≤ 4)], build := fun n => .vcvt (decVT n) }
  | 0x41 => some { mask := 0x7FFFFF, zeros := [], lims := [(13, fun n => (8 ≤ fieldOf n 13 4 && fieldOf n 13 4 ≤ 10)), (17, fun n => fieldOf n 17 3 ≤ 4), (10, fun n => fieldOf n 10 3 < 7)], build := fun n => .vbfpe (decVF n) }
  | 0x42 => some { mask := 0x7FFFFF, zeros := [(20, 3)], lims := [(13, fun n => (8 ≤ fieldOf n 13 4 && fieldOf n 13 4 ≤ 10)), (17, fun n => fieldOf n 17 3 ≤ 4), (10, fun n => fieldOf n 10 3 < 7)], build := fun n => .vbfpd (decVF n) }
  | 0x43 => some { mask := 0x1FFFFF, zeros := [], lims := [(17, fun n => fieldOf n 17 4 ≤ 10), (11, fun n => fieldOf n 11 6 < (Ty.ofCode (fieldOf n 17 4)).count)], build := fun n => .vmovs (decVL n) }
  | 0x44 => some { mask := 0x1FFFFF, zeros := [], lims := [(17, fun n => fieldOf n 17 4 ≤ 10), (11, fun n => fieldOf n 11 6 < (Ty.ofCode (fieldOf n 17 4)).count)], build := fun n => .vins (decVL n) }
  | 0x50 => some { mask := 0x3FFFFFFF, zeros := [(10, 5), (15, 5)], lims := [(23, fun n => fieldOf n 23 4 == 8), (27, fun n => fieldOf n 27 3 ≤ 4)], build := fun n => .vrcp (decVR n) }
  | 0x51 => some { mask := 0x3FFFFFFF, zeros := [(10, 5), (15, 5)], lims := [(23, fun n => fieldOf n 23 4 == 8), (27, fun n => fieldOf n 27 3 ≤ 4)], build := fun n => .vrsqrt (decVR n) }
  | 0x52 => some { mask := 0x3FFFFFFF, zeros := [(10, 5), (15, 5)], lims := [(23, fun n => fieldOf n 23 4 == 8), (27, fun n => fieldOf n 27 3 ≤ 4)], build := fun n => .vexp2 (decVR n) }
  | 0x53 => some { mask := 0x3FFFFFFF, zeros := [(10, 5), (15, 5)], lims := [(23, fun n => fieldOf n 23 4 == 8), (27, fun n => fieldOf n 27 3 ≤ 4)], build := fun n => .vlog2 (decVR n) }
  | 0x54 => some { mask := 0x3FF0FFFF, zeros := [(5, 5), (27, 3)], lims := [(23, fun n => fieldOf n 23 4 == 6), (10, fun n => fieldOf n 10 6 % 2 == 0)], build := fun n => .vrng (decVS n) }
  | _ => none

/-- The MX map, Table 1-12: the ops whose code is neither `nop`, reserved nor illegal (R22). -/
def mxRow (code : Nat) : Option OpRow :=
  match code with
  | 0x01 => some { mask := 0xFFF, zeros := [], lims := [(9, fun n => fieldOf n 9 3 ≤ 4), (0, fun n => n % 32 < 20)], build := fun n => mcallOf (n % 32) (decMC n), orderAt := some (7, 9) }
  | 0x02 => some { mask := 0x1FF, zeros := [], lims := [], build := fun n => .mpw (decMP n) }
  | 0x03 => some { mask := 0x1FF, zeros := [], lims := [], build := fun n => .mpr (decMP n) }
  | 0x04 => some { mask := 0x1FFF, zeros := [(7, 6), (2, 5)], lims := [], build := fun n => .mclr (decMA n) }
  | 0x05 => some { mask := 0x1FFF, zeros := [], lims := [], build := fun n => .mrow (decMA n) }
  | 0x06 => some { mask := 0x1FFF, zeros := [(2, 5)], lims := [], build := fun n => .mwm (decMA n) }
  | 0x07 => some { mask := 0x1FFF, zeros := [(2, 5)], lims := [], build := fun n => .mflg (decMA n) }
  | 0x08 => some { mask := 0x1FFF, zeros := [(7, 6), (0, 2)], lims := [], build := fun n => .mgix (decMA n) }
  | 0x09 => some { mask := 0x1FFF, zeros := [(7, 6), (2, 5)], lims := [], build := fun n => .mwait (decMA n) }
  | 0x0A => some { mask := 0x1FFF, zeros := [(7, 6), (2, 5)], lims := [], build := fun n => .mstop (decMA n) }
  | _ => none

/-- The LD map, Table 1-13: the ops whose code is neither `nop`, reserved nor illegal (R22). Dx = 0 with a destination other than `s0`
offends by bit 0 of Dx (DESIGN CHOICE, log 114). -/
def ldRow (code : Nat) : Option OpRow :=
  match code with
  | 0x01 => some { mask := 0x0, zeros := [], lims := [], build := fun _ => .qalign }
  | 0x02 => some { mask := 0x3FF, zeros := [(5, 1)], lims := [], build := fun n => .ldq (decQ n) }
  | 0x03 => some { mask := 0x3FF, zeros := [], lims := [], build := fun n => .ldqs (decQ n) }
  | 0x08 => some { mask := 0xFFFFFFF, zeros := [], lims := [(24, fun n => fieldOf n 24 4 ≤ 12), (12, fun n => 8 ≤ fieldOf n 12 12)], build := fun n => .ld (decLL n) }
  | 0x09 => some { mask := 0xFFFFFFF, zeros := [(24, 4), (5, 1)], lims := [(12, fun n => 8 ≤ fieldOf n 12 12)], build := fun n => .ldv (decLL n) }
  | 0x0A => some { mask := 0xFFF, zeros := [(5, 1)], lims := [], build := fun n => .ldt (decLT n) }
  | 0x0B => some { mask := 0xFFF, zeros := [], lims := [], build := fun n => .ldts (decLT n) }
  | 0x0C => some { mask := 0x7FFFFFF, zeros := [(5, 1)], lims := [(15, fun n => 8 ≤ fieldOf n 15 12)], build := fun n => .gath (decLG n) }
  | 0x10 => some { mask := 0xFFFFFFFF, zeros := [], lims := [(29, fun n => fieldOf n 29 3 ≤ 4), (18, fun n => fieldOf n 18 9 != 0 || fieldOf n 0 6 == 0)], build := fun n => .aadd (decAT n) }
  | 0x11 => some { mask := 0xFFFFFFFF, zeros := [], lims := [(29, fun n => fieldOf n 29 3 ≤ 4), (18, fun n => fieldOf n 18 9 != 0 || fieldOf n 0 6 == 0)], build := fun n => .amin (decAT n) }
  | 0x12 => some { mask := 0xFFFFFFFF, zeros := [], lims := [(29, fun n => fieldOf n 29 3 ≤ 4), (18, fun n => fieldOf n 18 9 != 0 || fieldOf n 0 6 == 0)], build := fun n => .aminn (decAT n) }
  | 0x13 => some { mask := 0xFFFFFFFF, zeros := [], lims := [(29, fun n => fieldOf n 29 3 ≤ 4), (18, fun n => fieldOf n 18 9 != 0 || fieldOf n 0 6 == 0)], build := fun n => .amax (decAT n) }
  | 0x14 => some { mask := 0xFFFFFFFF, zeros := [], lims := [(29, fun n => fieldOf n 29 3 ≤ 4), (18, fun n => fieldOf n 18 9 != 0 || fieldOf n 0 6 == 0)], build := fun n => .amaxn (decAT n) }
  | 0x15 => some { mask := 0xFFFFFFFF, zeros := [], lims := [(29, fun n => fieldOf n 29 3 ≤ 4), (18, fun n => fieldOf n 18 9 != 0 || fieldOf n 0 6 == 0)], build := fun n => .aand (decAT n) }
  | 0x16 => some { mask := 0xFFFFFFFF, zeros := [], lims := [(29, fun n => fieldOf n 29 3 ≤ 4), (18, fun n => fieldOf n 18 9 != 0 || fieldOf n 0 6 == 0)], build := fun n => .aor (decAT n) }
  | 0x17 => some { mask := 0xFFFFFFFF, zeros := [], lims := [(29, fun n => fieldOf n 29 3 ≤ 4), (18, fun n => fieldOf n 18 9 != 0 || fieldOf n 0 6 == 0)], build := fun n => .axor (decAT n) }
  | 0x18 => some { mask := 0xFFFFFFFF, zeros := [], lims := [(29, fun n => fieldOf n 29 3 ≤ 4), (18, fun n => fieldOf n 18 9 != 0 || fieldOf n 0 6 == 0)], build := fun n => .axch (decAT n) }
  | 0x19 => some { mask := 0xFFFFFFFF, zeros := [], lims := [(29, fun n => fieldOf n 29 3 ≤ 4), (18, fun n => fieldOf n 18 9 != 0 || fieldOf n 0 6 == 0)], build := fun n => .acas (decAT n) }
  | 0x1A => some { mask := 0xFFFFFFFF, zeros := [], lims := [(29, fun n => fieldOf n 29 3 ≤ 4), (18, fun n => fieldOf n 18 9 != 0 || fieldOf n 0 6 == 0)], build := fun n => .abinc (decAT n) }
  | 0x20 => some { mask := 0xFFFFFF, zeros := [], lims := [(12, fun n => 8 ≤ fieldOf n 12 12)], build := fun n => .rld (decRL n) }
  | 0x21 => some { mask := 0xFFFFFF, zeros := [(5, 1)], lims := [(12, fun n => 8 ≤ fieldOf n 12 12)], build := fun n => .rldv (decRL n) }
  | 0x28 => some { mask := 0xFFFFFFFF, zeros := [], lims := [(29, fun n => fieldOf n 29 3 == 4), (18, fun n => fieldOf n 18 9 != 0 || fieldOf n 0 6 == 0)], build := fun n => .raadd (decAT n) }
  | 0x29 => some { mask := 0xFFFFFFFF, zeros := [], lims := [(29, fun n => fieldOf n 29 3 == 4), (18, fun n => fieldOf n 18 9 != 0 || fieldOf n 0 6 == 0)], build := fun n => .ramin (decAT n) }
  | 0x2A => some { mask := 0xFFFFFFFF, zeros := [], lims := [(29, fun n => fieldOf n 29 3 == 4), (18, fun n => fieldOf n 18 9 != 0 || fieldOf n 0 6 == 0)], build := fun n => .raminn (decAT n) }
  | 0x2B => some { mask := 0xFFFFFFFF, zeros := [], lims := [(29, fun n => fieldOf n 29 3 == 4), (18, fun n => fieldOf n 18 9 != 0 || fieldOf n 0 6 == 0)], build := fun n => .ramax (decAT n) }
  | 0x2C => some { mask := 0xFFFFFFFF, zeros := [], lims := [(29, fun n => fieldOf n 29 3 == 4), (18, fun n => fieldOf n 18 9 != 0 || fieldOf n 0 6 == 0)], build := fun n => .ramaxn (decAT n) }
  | 0x2D => some { mask := 0xFFFFFFFF, zeros := [], lims := [(29, fun n => fieldOf n 29 3 == 4), (18, fun n => fieldOf n 18 9 != 0 || fieldOf n 0 6 == 0)], build := fun n => .raand (decAT n) }
  | 0x2E => some { mask := 0xFFFFFFFF, zeros := [], lims := [(29, fun n => fieldOf n 29 3 == 4), (18, fun n => fieldOf n 18 9 != 0 || fieldOf n 0 6 == 0)], build := fun n => .raor (decAT n) }
  | 0x2F => some { mask := 0xFFFFFFFF, zeros := [], lims := [(29, fun n => fieldOf n 29 3 == 4), (18, fun n => fieldOf n 18 9 != 0 || fieldOf n 0 6 == 0)], build := fun n => .raxor (decAT n) }
  | 0x30 => some { mask := 0xFFFFFFFF, zeros := [], lims := [(29, fun n => fieldOf n 29 3 == 4), (18, fun n => fieldOf n 18 9 != 0 || fieldOf n 0 6 == 0)], build := fun n => .raxch (decAT n) }
  | 0x31 => some { mask := 0xFFFFFFFF, zeros := [], lims := [(29, fun n => fieldOf n 29 3 == 4), (18, fun n => fieldOf n 18 9 != 0 || fieldOf n 0 6 == 0)], build := fun n => .racas (decAT n) }
  | 0x32 => some { mask := 0xFFFFFFFF, zeros := [], lims := [(29, fun n => fieldOf n 29 3 == 4), (18, fun n => fieldOf n 18 9 != 0 || fieldOf n 0 6 == 0)], build := fun n => .rabinc (decAT n) }
  | _ => none

/-- The ST map, Table 1-14: the ops whose code is neither `nop`, reserved nor illegal (R22). -/
def stRow (code : Nat) : Option OpRow :=
  match code with
  | 0x02 => some { mask := 0x3FF, zeros := [(5, 1)], lims := [], build := fun n => .stq (decQ n) }
  | 0x03 => some { mask := 0x3FF, zeros := [], lims := [], build := fun n => .stqs (decQ n) }
  | 0x08 => some { mask := 0xFFFF, zeros := [], lims := [(12, fun n => fieldOf n 12 4 ≤ 12)], build := fun n => .st (decFS n) }
  | 0x09 => some { mask := 0xFFFF, zeros := [(12, 4), (5, 1)], lims := [], build := fun n => .stv (decFS n) }
  | 0x0A => some { mask := 0xFFFF, zeros := [(12, 4), (5, 1)], lims := [], build := fun n => .stt (decFS n) }
  | 0x0B => some { mask := 0xFFFF, zeros := [], lims := [(12, fun n => fieldOf n 12 4 ≤ 12)], build := fun n => .stts (decFS n) }
  | 0x0C => some { mask := 0x7FFF, zeros := [(5, 1)], lims := [], build := fun n => .scat (decSG n) }
  | 0x10 => some { mask := 0x3FFFFF, zeros := [], lims := [(18, fun n => 2 ≤ fieldOf n 18 3 && fieldOf n 18 3 ≤ 4)], build := fun n => .rst (decRS n) }
  | 0x11 => some { mask := 0x3FFFFF, zeros := [(5, 1)], lims := [(18, fun n => 2 ≤ fieldOf n 18 3 && fieldOf n 18 3 ≤ 4)], build := fun n => .rstv (decRS n) }
  | 0x01 => some { mask := 0x0, zeros := [], lims := [], build := fun _ => .qalign }
  | _ => none

/-- The CP map, Table 1-15: the ops whose code is neither `nop`, reserved nor illegal (R22). -/
def cpRow (code : Nat) : Option OpRow :=
  match code with
  | 0x01 => some { mask := 0x3FFFFFFF, zeros := [(26, 4)], lims := [(23, fun n => fieldOf n 23 3 ≤ 4)], build := fun n => .tcopy (decCC n), orderAt := some (21, 23) }
  | 0x02 => some { mask := 0x3FFFFFFF, zeros := [(26, 4)], lims := [(23, fun n => fieldOf n 23 3 ≤ 4)], build := fun n => .xcopy (decCC n), orderAt := some (21, 23) }
  | 0x03 => some { mask := 0x3FFFFFFF, zeros := [(9, 6), (15, 6), (26, 4)], lims := [(23, fun n => fieldOf n 23 3 ≤ 4)], build := fun n => .ccopy (decCC n), orderAt := some (21, 23) }
  | 0x04 => some { mask := 0xFFFFF, zeros := [], lims := [(17, fun n => fieldOf n 17 3 ≤ 4)], build := fun n => .tfill (decCT n), orderAt := some (15, 17) }
  | 0x05 => some { mask := 0xFFFFF, zeros := [], lims := [(17, fun n => fieldOf n 17 3 ≤ 4)], build := fun n => .tdrain (decCT n), orderAt := some (15, 17) }
  | 0x06 => some { mask := 0xFFFFF, zeros := [(0, 3), (9, 6), (15, 1), (16, 1), (17, 3)], lims := [], build := fun n => .tfree (decCT n) }
  | 0x07 => some { mask := 0x1FFFF, zeros := [(6, 3), (9, 2)], lims := [], build := fun n => .tstat (decCQ n) }
  | 0x08 => some { mask := 0x3FFFFFFF, zeros := [], lims := [(23, fun n => fieldOf n 23 3 ≤ 4), (26, fun n => 1 ≤ fieldOf n 26 4 && fieldOf n 26 4 ≤ 9)], build := fun n => .rcp (decCC n), orderAt := some (21, 23) }
  | 0x09 => some { mask := 0x3FFFFFFF, zeros := [], lims := [(23, fun n => fieldOf n 23 3 ≤ 4), (26, fun n => 1 ≤ fieldOf n 26 4 && fieldOf n 26 4 ≤ 9)], build := fun n => .rcpo (decCC n), orderAt := some (21, 23) }
  | 0x0A => some { mask := 0x1FFFFF, zeros := [], lims := [], build := fun n => .migrate (decCM n) }
  | 0x0B => some { mask := 0xFF, zeros := [], lims := [(0, fun n => fieldOf n 0 8 != 0)], build := fun n => .cpfence (decCF n) }
  | 0x0C => some { mask := 0x1FFFF, zeros := [(11, 6)], lims := [], build := fun n => .chq (decCQ n) }
  | 0x0D => some { mask := 0x1FFFF, zeros := [(11, 6)], lims := [(9, fun n => fieldOf n 9 2 < 2)], build := fun n => .chset (decCQ n) }
  | _ => none

/-- The SY map, Table 1-16: the ops whose code is neither `nop`, reserved nor illegal (R22). -/
def syRow (code : Nat) : Option OpRow :=
  match code with
  | 0x01 => some { mask := 0xFFFFFF, zeros := [], lims := [(8, fun n => fieldOf n 8 16 != 0)], build := fun n => .ssig (decYM n) }
  | 0x02 => some { mask := 0xFFFFFF, zeros := [], lims := [(8, fun n => fieldOf n 8 16 != 0)], build := fun n => .swait (decYM n) }
  | 0x03 => some { mask := 0x3FFF, zeros := [], lims := [], build := fun n => .sset (decYX n) }
  | 0x04 => some { mask := 0x3FFF, zeros := [], lims := [], build := fun n => .srd (decYX n) }
  | 0x05 => some { mask := 0x3FFF, zeros := [(8, 6)], lims := [], build := fun n => .spoi (decYX n) }
  | 0x06 => some { mask := 0x3FFF, zeros := [(8, 6)], lims := [], build := fun n => .sunp (decYX n) }
  | 0x08 => some { mask := 0xFF, zeros := [], lims := [(0, fun n => 1 ≤ fieldOf n 0 3 && fieldOf n 0 3 ≤ 4), (3, fun n => barIdOk (Scope.ofCode (fieldOf n 0 3)) (fieldOf n 3 5))], build := fun n => .bar (decYB n) }
  | 0x0A => some { mask := 0x1FFF, zeros := [(11, 2), (5, 1)], lims := [], build := fun n => .bcx (decYC n) }
  | 0x0B => some { mask := 0x1FFF, zeros := [], lims := [], build := fun n => .bcl (decYC n) }
  | 0x0C => some { mask := 0x1F, zeros := [], lims := [(0, fun n => fieldOf n 0 3 ≤ 4), (3, fun n => fieldOf n 3 2 < 3)], build := fun n => fenceOf (n / 8 % 4) (decYF n) }
  | 0x0D => some { mask := 0x7FFF, zeros := [], lims := [(12, fun n => fieldOf n 12 3 ≤ 4)], build := fun n => .waitc (decYW n) }
  | 0x0E => some { mask := 0x3F, zeros := [], lims := [(0, fun n => fieldOf n 0 6 % 2 == 0 && 2 ≤ fieldOf n 0 6)], build := fun n => .suspend (decYU n) }
  | 0x0F => some { mask := 0x0, zeros := [], lims := [], build := fun _ => .yield }
  | 0x10 => some { mask := 0x3F, zeros := [], lims := [], build := fun n => .launch (decYU n) }
  | 0x11 => some { mask := 0xFFFF, zeros := [], lims := [], build := fun n => .trap (decYT n) }
  | _ => none

/-- The opcode and operand of a slot op as one number: opcode in bits 7:0, operand in bits 39:8 (R10). Zero for an
instruction that is no slot op. -/
def encodeSlot : Instr → Nat
  | .add x => 0x01 + 256 * encSR x
  | .sub x => 0x02 + 256 * encSR x
  | .mul x => 0x03 + 256 * encSR x
  | .mulh x => 0x04 + 256 * encSR x
  | .mulhn x => 0x05 + 256 * encSR x
  | .div x => 0x06 + 256 * encSR x
  | .divn x => 0x07 + 256 * encSR x
  | .rem x => 0x08 + 256 * encSR x
  | .remn x => 0x09 + 256 * encSR x
  | .and x => 0x0A + 256 * encSR x
  | .or x => 0x0B + 256 * encSR x
  | .xor x => 0x0C + 256 * encSR x
  | .shl x => 0x0D + 256 * encSR x
  | .shr x => 0x0E + 256 * encSR x
  | .sra x => 0x0F + 256 * encSR x
  | .addi x => 0x10 + 256 * encSI x
  | .andi x => 0x11 + 256 * encSI x
  | .ori x => 0x12 + 256 * encSI x
  | .xori x => 0x13 + 256 * encSI x
  | .shli x => 0x14 + 256 * encSI x
  | .shri x => 0x15 + 256 * encSI x
  | .srai x => 0x16 + 256 * encSI x
  | .muli x => 0x17 + 256 * encSI x
  | .lui x => 0x18 + 256 * encSI x
  | .lpc x => 0x19 + 256 * encSI x
  | .movl x => 0x1C + 256 * encSL x
  | .addl x => 0x1D + 256 * encSL x
  | .andl x => 0x1E + 256 * encSL x
  | .lea x => 0x48 + 256 * encSA x
  | .madd x => 0x49 + 256 * encS4 x
  | .min x => 0x40 + 256 * encSR x
  | .minn x => 0x41 + 256 * encSR x
  | .max x => 0x42 + 256 * encSR x
  | .maxn x => 0x43 + 256 * encSR x
  | .abs x => 0x44 + 256 * encSR x
  | .sel x => 0x45 + 256 * encSS x
  | .bext x => 0x38 + 256 * encSB x
  | .bextn x => 0x39 + 256 * encSB x
  | .bins x => 0x3A + 256 * encSB x
  | .clz x => 0x3B + 256 * encSR x
  | .ctz x => 0x3C + 256 * encSR x
  | .popc x => 0x3D + 256 * encSR x
  | .bswap x => 0x3E + 256 * encSR x
  | .brev x => 0x3F + 256 * encSR x
  | .ceq x => 0x20 + 256 * encSP x
  | .cne x => 0x21 + 256 * encSP x
  | .clt x => 0x22 + 256 * encSP x
  | .cltn x => 0x23 + 256 * encSP x
  | .cle x => 0x24 + 256 * encSP x
  | .clen x => 0x25 + 256 * encSP x
  | .ctst x => 0x26 + 256 * encSP x
  | .ceqi x => 0x28 + 256 * encSPI x
  | .cnei x => 0x29 + 256 * encSPI x
  | .clti x => 0x2A + 256 * encSPI x
  | .cltni x => 0x2B + 256 * encSPI x
  | .clei x => 0x2C + 256 * encSPI x
  | .cleni x => 0x2D + 256 * encSPI x
  | .pand x => 0x30 + 256 * encPL x
  | .por x => 0x31 + 256 * encPL x
  | .pxor x => 0x32 + 256 * encPL x
  | .pnot x => 0x33 + 256 * encPL x
  | .pmov x => 0x34 + 256 * encPL x
  | .movp x => 0x58 + 256 * encSR x
  | .pmovs x => 0x59 + 256 * encSR x
  | .movk x => 0x5A + 256 * encSK x
  | .kmov x => 0x5B + 256 * encSK x
  | .jmp x => 0x50 + 256 * encSO x
  | .call x => 0x51 + 256 * encSO x
  | .jr x => 0x52 + 256 * encSJ x
  | .jalr x => 0x53 + 256 * encSJ x
  | .crr x => 0xC0 + 256 * encSCR x
  | .crw x => 0xC1 + 256 * encSCR x
  | .snrd x => 0xC2 + 256 * encSR x
  | .snwr x => 0xC3 + 256 * encSR x
  | .eret => 0xC4
  | .halt => 0xC5
  | .seqopen x => 0xC6 + 256 * encSR x
  | .seqend x => 0xC7 + 256 * encSR x
  | .seqbind x => 0xC8 + 256 * encSR x
  | .tinv x => 0xC9 + 256 * encSR x
  | .ifence => 0xCA
  | .katc x => 0xCB + 256 * encSL x
  | .diapack => 0xCC
  | .vadd x => 0x01 + 256 * encVR x
  | .vsub x => 0x02 + 256 * encVR x
  | .vmul x => 0x03 + 256 * encVR x
  | .vfma x => 0x04 + 256 * encVR x
  | .vfms x => 0x05 + 256 * encVR x
  | .vfnma x => 0x06 + 256 * encVR x
  | .vmin x => 0x07 + 256 * encVR x
  | .vmax x => 0x08 + 256 * encVR x
  | .vabs x => 0x09 + 256 * encVR x
  | .vneg x => 0x0A + 256 * encVR x
  | .vand x => 0x0B + 256 * encVR x
  | .vor x => 0x0C + 256 * encVR x
  | .vxor x => 0x0D + 256 * encVR x
  | .vshl x => 0x0E + 256 * encVR x
  | .vshr x => 0x0F + 256 * encVR x
  | .vqadd x => 0x10 + 256 * encVR x
  | .vqsub x => 0x11 + 256 * encVR x
  | .vmulh x => 0x12 + 256 * encVR x
  | .vavg x => 0x13 + 256 * encVR x
  | .vclz x => 0x14 + 256 * encVR x
  | .vpopc x => 0x15 + 256 * encVR x
  | .vaddsc x => 0x18 + 256 * encVS x
  | .vsubsc x => 0x19 + 256 * encVS x
  | .vmulsc x => 0x1A + 256 * encVS x
  | .vminsc x => 0x1B + 256 * encVS x
  | .vmaxsc x => 0x1C + 256 * encVS x
  | .vbcast x => 0x1D + 256 * encVS x
  | .vceq x => 0x20 + 256 * encVR x
  | .vcne x => 0x21 + 256 * encVR x
  | .vclt x => 0x22 + 256 * encVR x
  | .vcle x => 0x23 + 256 * encVR x
  | .vcgt x => 0x24 + 256 * encVR x
  | .vcge x => 0x25 + 256 * encVR x
  | .vsel x => 0x28 + 256 * encVR x
  | .kand x => 0x29 + 256 * encVK x
  | .kor x => 0x2A + 256 * encVK x
  | .kxor x => 0x2B + 256 * encVK x
  | .knot x => 0x2C + 256 * encVK x
  | .vperm x => 0x30 + 256 * encVR x
  | .vrot x => 0x31 + 256 * encVS x
  | .vzip x => 0x32 + 256 * encVR x
  | .vunzip x => 0x33 + 256 * encVR x
  | .vslide x => 0x34 + 256 * encVS x
  | .vbrd x => 0x35 + 256 * encVX x
  | .vcomp x => 0x36 + 256 * encVR x
  | .vmov x => 0x3C + 256 * encVR x
  | .vmovs x => 0x43 + 256 * encVL x
  | .vins x => 0x44 + 256 * encVL x
  | .vrsum x => 0x38 + 256 * encVS x
  | .vrmin x => 0x39 + 256 * encVS x
  | .vrmax x => 0x3A + 256 * encVS x
  | .vcvt x => 0x40 + 256 * encVT x
  | .vbfpe x => 0x41 + 256 * encVF x
  | .vbfpd x => 0x42 + 256 * encVF x
  | .vrcp x => 0x50 + 256 * encVR x
  | .vrsqrt x => 0x51 + 256 * encVR x
  | .vexp2 x => 0x52 + 256 * encVR x
  | .vlog2 x => 0x53 + 256 * encVR x
  | .vrng x => 0x54 + 256 * encVS x
  | .mpw x => 0x02 + 256 * encMP x
  | .mpr x => 0x03 + 256 * encMP x
  | .mclr x => 0x04 + 256 * encMA x
  | .mrow x => 0x05 + 256 * encMA x
  | .mwm x => 0x06 + 256 * encMA x
  | .mflg x => 0x07 + 256 * encMA x
  | .mgix x => 0x08 + 256 * encMA x
  | .mwait x => 0x09 + 256 * encMA x
  | .mstop x => 0x0A + 256 * encMA x
  | .mcallBmm x => 0x01 + 256 * (encMC x + 0)
  | .mcallBmmz x => 0x01 + 256 * (encMC x + 1)
  | .mcallBmmg x => 0x01 + 256 * (encMC x + 2)
  | .mcallBmmgz x => 0x01 + 256 * (encMC x + 3)
  | .mcallHmm x => 0x01 + 256 * (encMC x + 4)
  | .mcallHmmz x => 0x01 + 256 * (encMC x + 5)
  | .mcallFmm x => 0x01 + 256 * (encMC x + 6)
  | .mcallFmmz x => 0x01 + 256 * (encMC x + 7)
  | .mcallImm x => 0x01 + 256 * (encMC x + 8)
  | .mcallImmz x => 0x01 + 256 * (encMC x + 9)
  | .mcallGrouped x => 0x01 + 256 * (encMC x + 10)
  | .mcallGroupedh x => 0x01 + 256 * (encMC x + 11)
  | .mcallEbias x => 0x01 + 256 * (encMC x + 12)
  | .mcallEscale x => 0x01 + 256 * (encMC x + 13)
  | .mcallErelu x => 0x01 + 256 * (encMC x + 14)
  | .mcallEadd x => 0x01 + 256 * (encMC x + 15)
  | .mcallEload x => 0x01 + 256 * (encMC x + 16)
  | .mcallEcvt x => 0x01 + 256 * (encMC x + 17)
  | .mcallEbfp x => 0x01 + 256 * (encMC x + 18)
  | .mcallErowmax x => 0x01 + 256 * (encMC x + 19)
  | .ld x => 0x08 + 256 * encLL x
  | .ldv x => 0x09 + 256 * encLL x
  | .ldt x => 0x0A + 256 * encLT x
  | .ldts x => 0x0B + 256 * encLT x
  | .ldq x => 0x02 + 256 * encQ x
  | .ldqs x => 0x03 + 256 * encQ x
  | .gath x => 0x0C + 256 * encLG x
  | .qalign => 0x01
  | .st x => 0x08 + 256 * encFS x
  | .stv x => 0x09 + 256 * encFS x
  | .stt x => 0x0A + 256 * encFS x
  | .stts x => 0x0B + 256 * encFS x
  | .stq x => 0x02 + 256 * encQ x
  | .stqs x => 0x03 + 256 * encQ x
  | .scat x => 0x0C + 256 * encSG x
  | .aadd x => 0x10 + 256 * encAT x
  | .amin x => 0x11 + 256 * encAT x
  | .aminn x => 0x12 + 256 * encAT x
  | .amax x => 0x13 + 256 * encAT x
  | .amaxn x => 0x14 + 256 * encAT x
  | .aand x => 0x15 + 256 * encAT x
  | .aor x => 0x16 + 256 * encAT x
  | .axor x => 0x17 + 256 * encAT x
  | .axch x => 0x18 + 256 * encAT x
  | .acas x => 0x19 + 256 * encAT x
  | .abinc x => 0x1A + 256 * encAT x
  | .rld x => 0x20 + 256 * encRL x
  | .rldv x => 0x21 + 256 * encRL x
  | .rst x => 0x10 + 256 * encRS x
  | .rstv x => 0x11 + 256 * encRS x
  | .raadd x => 0x28 + 256 * encAT x
  | .ramin x => 0x29 + 256 * encAT x
  | .raminn x => 0x2A + 256 * encAT x
  | .ramax x => 0x2B + 256 * encAT x
  | .ramaxn x => 0x2C + 256 * encAT x
  | .raand x => 0x2D + 256 * encAT x
  | .raor x => 0x2E + 256 * encAT x
  | .raxor x => 0x2F + 256 * encAT x
  | .raxch x => 0x30 + 256 * encAT x
  | .racas x => 0x31 + 256 * encAT x
  | .rabinc x => 0x32 + 256 * encAT x
  | .tcopy x => 0x01 + 256 * encCC x
  | .xcopy x => 0x02 + 256 * encCC x
  | .ccopy x => 0x03 + 256 * encCC x
  | .rcp x => 0x08 + 256 * encCC x
  | .rcpo x => 0x09 + 256 * encCC x
  | .tfill x => 0x04 + 256 * encCT x
  | .tdrain x => 0x05 + 256 * encCT x
  | .tfree x => 0x06 + 256 * encCT x
  | .tstat x => 0x07 + 256 * encCQ x
  | .chq x => 0x0C + 256 * encCQ x
  | .chset x => 0x0D + 256 * encCQ x
  | .cpfence x => 0x0B + 256 * encCF x
  | .migrate x => 0x0A + 256 * encCM x
  | .ssig x => 0x01 + 256 * encYM x
  | .swait x => 0x02 + 256 * encYM x
  | .sset x => 0x03 + 256 * encYX x
  | .srd x => 0x04 + 256 * encYX x
  | .spoi x => 0x05 + 256 * encYX x
  | .sunp x => 0x06 + 256 * encYX x
  | .bar x => 0x08 + 256 * encYB x
  | .bcx x => 0x0A + 256 * encYC x
  | .bcl x => 0x0B + 256 * encYC x
  | .fenceFull x => 0x0C + 256 * (encYF x + 8 * 0)
  | .fenceAcq x => 0x0C + 256 * (encYF x + 8 * 1)
  | .fenceRel x => 0x0C + 256 * (encYF x + 8 * 2)
  | .waitc x => 0x0D + 256 * encYW x
  | .suspend x => 0x0E + 256 * encYU x
  | .yield => 0x0F
  | .launch x => 0x10 + 256 * encYU x
  | .trap x => 0x11 + 256 * encYT x
  | _ => 0

/-- The slot an op stands in, none for `nop`, the tree branch and the steps of engines (R22). `qalign` stands in LD and ST at once
(R26); this names LD. Vector ops name VA, where all of them may stand (R23). -/
def slotOf : Instr → Option Slot
  | .add _ => some .sc
  | .sub _ => some .sc
  | .mul _ => some .sc
  | .mulh _ => some .sc
  | .mulhn _ => some .sc
  | .div _ => some .sc
  | .divn _ => some .sc
  | .rem _ => some .sc
  | .remn _ => some .sc
  | .and _ => some .sc
  | .or _ => some .sc
  | .xor _ => some .sc
  | .shl _ => some .sc
  | .shr _ => some .sc
  | .sra _ => some .sc
  | .addi _ => some .sc
  | .andi _ => some .sc
  | .ori _ => some .sc
  | .xori _ => some .sc
  | .shli _ => some .sc
  | .shri _ => some .sc
  | .srai _ => some .sc
  | .muli _ => some .sc
  | .lui _ => some .sc
  | .lpc _ => some .sc
  | .movl _ => some .sc
  | .addl _ => some .sc
  | .andl _ => some .sc
  | .lea _ => some .sc
  | .madd _ => some .sc
  | .min _ => some .sc
  | .minn _ => some .sc
  | .max _ => some .sc
  | .maxn _ => some .sc
  | .abs _ => some .sc
  | .sel _ => some .sc
  | .bext _ => some .sc
  | .bextn _ => some .sc
  | .bins _ => some .sc
  | .clz _ => some .sc
  | .ctz _ => some .sc
  | .popc _ => some .sc
  | .bswap _ => some .sc
  | .brev _ => some .sc
  | .ceq _ => some .sc
  | .cne _ => some .sc
  | .clt _ => some .sc
  | .cltn _ => some .sc
  | .cle _ => some .sc
  | .clen _ => some .sc
  | .ctst _ => some .sc
  | .ceqi _ => some .sc
  | .cnei _ => some .sc
  | .clti _ => some .sc
  | .cltni _ => some .sc
  | .clei _ => some .sc
  | .cleni _ => some .sc
  | .pand _ => some .sc
  | .por _ => some .sc
  | .pxor _ => some .sc
  | .pnot _ => some .sc
  | .pmov _ => some .sc
  | .movp _ => some .sc
  | .pmovs _ => some .sc
  | .movk _ => some .sc
  | .kmov _ => some .sc
  | .jmp _ => some .sc
  | .call _ => some .sc
  | .jr _ => some .sc
  | .jalr _ => some .sc
  | .crr _ => some .sc
  | .crw _ => some .sc
  | .snrd _ => some .sc
  | .snwr _ => some .sc
  | .eret => some .sc
  | .halt => some .sc
  | .seqopen _ => some .sc
  | .seqend _ => some .sc
  | .seqbind _ => some .sc
  | .tinv _ => some .sc
  | .ifence => some .sc
  | .katc _ => some .sc
  | .diapack => some .sc
  | .vadd _ => some .va
  | .vsub _ => some .va
  | .vmul _ => some .va
  | .vfma _ => some .va
  | .vfms _ => some .va
  | .vfnma _ => some .va
  | .vmin _ => some .va
  | .vmax _ => some .va
  | .vabs _ => some .va
  | .vneg _ => some .va
  | .vand _ => some .va
  | .vor _ => some .va
  | .vxor _ => some .va
  | .vshl _ => some .va
  | .vshr _ => some .va
  | .vqadd _ => some .va
  | .vqsub _ => some .va
  | .vmulh _ => some .va
  | .vavg _ => some .va
  | .vclz _ => some .va
  | .vpopc _ => some .va
  | .vaddsc _ => some .va
  | .vsubsc _ => some .va
  | .vmulsc _ => some .va
  | .vminsc _ => some .va
  | .vmaxsc _ => some .va
  | .vbcast _ => some .va
  | .vceq _ => some .va
  | .vcne _ => some .va
  | .vclt _ => some .va
  | .vcle _ => some .va
  | .vcgt _ => some .va
  | .vcge _ => some .va
  | .vsel _ => some .va
  | .kand _ => some .va
  | .kor _ => some .va
  | .kxor _ => some .va
  | .knot _ => some .va
  | .vperm _ => some .va
  | .vrot _ => some .va
  | .vzip _ => some .va
  | .vunzip _ => some .va
  | .vslide _ => some .va
  | .vbrd _ => some .va
  | .vcomp _ => some .va
  | .vmov _ => some .va
  | .vmovs _ => some .va
  | .vins _ => some .va
  | .vrsum _ => some .va
  | .vrmin _ => some .va
  | .vrmax _ => some .va
  | .vcvt _ => some .va
  | .vbfpe _ => some .va
  | .vbfpd _ => some .va
  | .vrcp _ => some .va
  | .vrsqrt _ => some .va
  | .vexp2 _ => some .va
  | .vlog2 _ => some .va
  | .vrng _ => some .va
  | .mpw _ => some .mx
  | .mpr _ => some .mx
  | .mclr _ => some .mx
  | .mrow _ => some .mx
  | .mwm _ => some .mx
  | .mflg _ => some .mx
  | .mgix _ => some .mx
  | .mwait _ => some .mx
  | .mstop _ => some .mx
  | .mcallBmm _ => some .mx
  | .mcallBmmz _ => some .mx
  | .mcallBmmg _ => some .mx
  | .mcallBmmgz _ => some .mx
  | .mcallHmm _ => some .mx
  | .mcallHmmz _ => some .mx
  | .mcallFmm _ => some .mx
  | .mcallFmmz _ => some .mx
  | .mcallImm _ => some .mx
  | .mcallImmz _ => some .mx
  | .mcallGrouped _ => some .mx
  | .mcallGroupedh _ => some .mx
  | .mcallEbias _ => some .mx
  | .mcallEscale _ => some .mx
  | .mcallErelu _ => some .mx
  | .mcallEadd _ => some .mx
  | .mcallEload _ => some .mx
  | .mcallEcvt _ => some .mx
  | .mcallEbfp _ => some .mx
  | .mcallErowmax _ => some .mx
  | .ld _ => some .ld
  | .ldv _ => some .ld
  | .ldt _ => some .ld
  | .ldts _ => some .ld
  | .ldq _ => some .ld
  | .ldqs _ => some .ld
  | .gath _ => some .ld
  | .qalign => some .ld
  | .st _ => some .st
  | .stv _ => some .st
  | .stt _ => some .st
  | .stts _ => some .st
  | .stq _ => some .st
  | .stqs _ => some .st
  | .scat _ => some .st
  | .aadd _ => some .ld
  | .amin _ => some .ld
  | .aminn _ => some .ld
  | .amax _ => some .ld
  | .amaxn _ => some .ld
  | .aand _ => some .ld
  | .aor _ => some .ld
  | .axor _ => some .ld
  | .axch _ => some .ld
  | .acas _ => some .ld
  | .abinc _ => some .ld
  | .rld _ => some .ld
  | .rldv _ => some .ld
  | .rst _ => some .st
  | .rstv _ => some .st
  | .raadd _ => some .ld
  | .ramin _ => some .ld
  | .raminn _ => some .ld
  | .ramax _ => some .ld
  | .ramaxn _ => some .ld
  | .raand _ => some .ld
  | .raor _ => some .ld
  | .raxor _ => some .ld
  | .raxch _ => some .ld
  | .racas _ => some .ld
  | .rabinc _ => some .ld
  | .tcopy _ => some .cp
  | .xcopy _ => some .cp
  | .ccopy _ => some .cp
  | .rcp _ => some .cp
  | .rcpo _ => some .cp
  | .tfill _ => some .cp
  | .tdrain _ => some .cp
  | .tfree _ => some .cp
  | .tstat _ => some .cp
  | .chq _ => some .cp
  | .chset _ => some .cp
  | .cpfence _ => some .cp
  | .migrate _ => some .cp
  | .ssig _ => some .sy
  | .swait _ => some .sy
  | .sset _ => some .sy
  | .srd _ => some .sy
  | .spoi _ => some .sy
  | .sunp _ => some .sy
  | .bar _ => some .sy
  | .bcx _ => some .sy
  | .bcl _ => some .sy
  | .fenceFull _ => some .sy
  | .fenceAcq _ => some .sy
  | .fenceRel _ => some .sy
  | .waitc _ => some .sy
  | .suspend _ => some .sy
  | .yield => some .sy
  | .launch _ => some .sy
  | .trap _ => some .sy
  | _ => none

/-- The register files a result can land in (Table of R63, classes 0 to 4). -/
inductive RegFile where
  | s | v | p | k | mp
  deriving DecidableEq, Repr

/-- A result of an op: where it lands, after how many bundles (Table 1-17, R145), and the operand bit at which the
field that names the register begins. -/
structure Dest where
  file : RegFile
  reg  : Nat
  lat  : Nat
  bit  : Nat
  deriving DecidableEq, Repr

/-- 2 for integer types, 4 for the float types of group F (Table 5-3). -/
def intOrFloat (t : Ty) (i f : Nat) : Nat := if t.isInt then i else f

/-- The destination of an op, none where it writes no register of R63's classes 0 to 4, or writes several (`pmovs`). -/
def destOf : Instr → Option Dest
  | .add x => some ⟨.s, x.d.toNat, 1, 0⟩
  | .sub x => some ⟨.s, x.d.toNat, 1, 0⟩
  | .mul x => some ⟨.s, x.d.toNat, 3, 0⟩
  | .mulh x => some ⟨.s, x.d.toNat, 3, 0⟩
  | .mulhn x => some ⟨.s, x.d.toNat, 3, 0⟩
  | .div x => some ⟨.s, x.d.toNat, 18, 0⟩
  | .divn x => some ⟨.s, x.d.toNat, 18, 0⟩
  | .rem x => some ⟨.s, x.d.toNat, 18, 0⟩
  | .remn x => some ⟨.s, x.d.toNat, 18, 0⟩
  | .and x => some ⟨.s, x.d.toNat, 1, 0⟩
  | .or x => some ⟨.s, x.d.toNat, 1, 0⟩
  | .xor x => some ⟨.s, x.d.toNat, 1, 0⟩
  | .shl x => some ⟨.s, x.d.toNat, 1, 0⟩
  | .shr x => some ⟨.s, x.d.toNat, 1, 0⟩
  | .sra x => some ⟨.s, x.d.toNat, 1, 0⟩
  | .addi x => some ⟨.s, x.d.toNat, 1, 0⟩
  | .andi x => some ⟨.s, x.d.toNat, 1, 0⟩
  | .ori x => some ⟨.s, x.d.toNat, 1, 0⟩
  | .xori x => some ⟨.s, x.d.toNat, 1, 0⟩
  | .shli x => some ⟨.s, x.d.toNat, 1, 0⟩
  | .shri x => some ⟨.s, x.d.toNat, 1, 0⟩
  | .srai x => some ⟨.s, x.d.toNat, 1, 0⟩
  | .muli x => some ⟨.s, x.d.toNat, 3, 0⟩
  | .lui x => some ⟨.s, x.d.toNat, 1, 0⟩
  | .lpc x => some ⟨.s, x.d.toNat, 1, 0⟩
  | .movl x => some ⟨.s, x.d.toNat, 1, 0⟩
  | .addl x => some ⟨.s, x.d.toNat, 1, 0⟩
  | .andl x => some ⟨.s, x.d.toNat, 1, 0⟩
  | .lea x => some ⟨.s, x.d.toNat, 1, 0⟩
  | .madd x => some ⟨.s, x.d.toNat, 3, 0⟩
  | .min x => some ⟨.s, x.d.toNat, 1, 0⟩
  | .minn x => some ⟨.s, x.d.toNat, 1, 0⟩
  | .max x => some ⟨.s, x.d.toNat, 1, 0⟩
  | .maxn x => some ⟨.s, x.d.toNat, 1, 0⟩
  | .abs x => some ⟨.s, x.d.toNat, 1, 0⟩
  | .sel x => some ⟨.s, x.d.toNat, 1, 0⟩
  | .bext x => some ⟨.s, x.d.toNat, 1, 0⟩
  | .bextn x => some ⟨.s, x.d.toNat, 1, 0⟩
  | .bins x => some ⟨.s, x.d.toNat, 1, 0⟩
  | .clz x => some ⟨.s, x.d.toNat, 1, 0⟩
  | .ctz x => some ⟨.s, x.d.toNat, 1, 0⟩
  | .popc x => some ⟨.s, x.d.toNat, 1, 0⟩
  | .bswap x => some ⟨.s, x.d.toNat, 1, 0⟩
  | .brev x => some ⟨.s, x.d.toNat, 1, 0⟩
  | .ceq x => some ⟨.p, x.pd.toNat, 1, 0⟩
  | .cne x => some ⟨.p, x.pd.toNat, 1, 0⟩
  | .clt x => some ⟨.p, x.pd.toNat, 1, 0⟩
  | .cltn x => some ⟨.p, x.pd.toNat, 1, 0⟩
  | .cle x => some ⟨.p, x.pd.toNat, 1, 0⟩
  | .clen x => some ⟨.p, x.pd.toNat, 1, 0⟩
  | .ctst x => some ⟨.p, x.pd.toNat, 1, 0⟩
  | .ceqi x => some ⟨.p, x.pd.toNat, 1, 0⟩
  | .cnei x => some ⟨.p, x.pd.toNat, 1, 0⟩
  | .clti x => some ⟨.p, x.pd.toNat, 1, 0⟩
  | .cltni x => some ⟨.p, x.pd.toNat, 1, 0⟩
  | .clei x => some ⟨.p, x.pd.toNat, 1, 0⟩
  | .cleni x => some ⟨.p, x.pd.toNat, 1, 0⟩
  | .pand x => some ⟨.p, x.pd.toNat, 1, 0⟩
  | .por x => some ⟨.p, x.pd.toNat, 1, 0⟩
  | .pxor x => some ⟨.p, x.pd.toNat, 1, 0⟩
  | .pnot x => some ⟨.p, x.pd.toNat, 1, 0⟩
  | .pmov x => some ⟨.p, x.pd.toNat, 1, 0⟩
  | .movp x => some ⟨.s, x.d.toNat, 1, 0⟩
  | .movk x => some ⟨.k, x.k.toNat, 1, 6⟩
  | .kmov x => some ⟨.s, x.s.toNat, 1, 0⟩
  | .call x => some ⟨.s, x.d.toNat, 1, 0⟩
  | .jalr x => some ⟨.s, x.d.toNat, 1, 0⟩
  | .crr x => some ⟨.s, x.s.toNat, 1, 0⟩
  | .snrd x => some ⟨.s, x.d.toNat, 1, 0⟩
  | .seqopen x => some ⟨.s, x.d.toNat, 1, 0⟩
  | .vadd x => some ⟨.v, x.vd.toNat, intOrFloat x.ty 2 4, 0⟩
  | .vsub x => some ⟨.v, x.vd.toNat, intOrFloat x.ty 2 4, 0⟩
  | .vmul x => some ⟨.v, x.vd.toNat, intOrFloat x.ty 2 4, 0⟩
  | .vfma x => some ⟨.v, x.vd.toNat, 4, 0⟩
  | .vfms x => some ⟨.v, x.vd.toNat, 4, 0⟩
  | .vfnma x => some ⟨.v, x.vd.toNat, 4, 0⟩
  | .vmin x => some ⟨.v, x.vd.toNat, intOrFloat x.ty 2 4, 0⟩
  | .vmax x => some ⟨.v, x.vd.toNat, intOrFloat x.ty 2 4, 0⟩
  | .vabs x => some ⟨.v, x.vd.toNat, 2, 0⟩
  | .vneg x => some ⟨.v, x.vd.toNat, 2, 0⟩
  | .vand x => some ⟨.v, x.vd.toNat, 2, 0⟩
  | .vor x => some ⟨.v, x.vd.toNat, 2, 0⟩
  | .vxor x => some ⟨.v, x.vd.toNat, 2, 0⟩
  | .vshl x => some ⟨.v, x.vd.toNat, 2, 0⟩
  | .vshr x => some ⟨.v, x.vd.toNat, 2, 0⟩
  | .vqadd x => some ⟨.v, x.vd.toNat, 2, 0⟩
  | .vqsub x => some ⟨.v, x.vd.toNat, 2, 0⟩
  | .vmulh x => some ⟨.v, x.vd.toNat, 2, 0⟩
  | .vavg x => some ⟨.v, x.vd.toNat, 2, 0⟩
  | .vclz x => some ⟨.v, x.vd.toNat, 2, 0⟩
  | .vpopc x => some ⟨.v, x.vd.toNat, 2, 0⟩
  | .vaddsc x => some ⟨.v, x.vd.toNat, intOrFloat x.ty 2 4, 0⟩
  | .vsubsc x => some ⟨.v, x.vd.toNat, intOrFloat x.ty 2 4, 0⟩
  | .vmulsc x => some ⟨.v, x.vd.toNat, intOrFloat x.ty 2 4, 0⟩
  | .vminsc x => some ⟨.v, x.vd.toNat, intOrFloat x.ty 2 4, 0⟩
  | .vmaxsc x => some ⟨.v, x.vd.toNat, intOrFloat x.ty 2 4, 0⟩
  | .vbcast x => some ⟨.v, x.vd.toNat, 2, 0⟩
  | .vceq x => some ⟨.k, x.vd.toNat, 2, 0⟩
  | .vcne x => some ⟨.k, x.vd.toNat, 2, 0⟩
  | .vclt x => some ⟨.k, x.vd.toNat, 2, 0⟩
  | .vcle x => some ⟨.k, x.vd.toNat, 2, 0⟩
  | .vcgt x => some ⟨.k, x.vd.toNat, 2, 0⟩
  | .vcge x => some ⟨.k, x.vd.toNat, 2, 0⟩
  | .vsel x => some ⟨.v, x.vd.toNat, 2, 0⟩
  | .kand x => some ⟨.k, x.kd.toNat, 2, 0⟩
  | .kor x => some ⟨.k, x.kd.toNat, 2, 0⟩
  | .kxor x => some ⟨.k, x.kd.toNat, 2, 0⟩
  | .knot x => some ⟨.k, x.kd.toNat, 2, 0⟩
  | .vperm x => some ⟨.v, x.vd.toNat, 2, 0⟩
  | .vrot x => some ⟨.v, x.vd.toNat, 2, 0⟩
  | .vzip x => some ⟨.v, x.vd.toNat, 2, 0⟩
  | .vunzip x => some ⟨.v, x.vd.toNat, 2, 0⟩
  | .vslide x => some ⟨.v, x.vd.toNat, 2, 0⟩
  | .vbrd x => some ⟨.v, x.vd.toNat, 2, 0⟩
  | .vcomp x => some ⟨.v, x.vd.toNat, 2, 0⟩
  | .vmov x => some ⟨.v, x.vd.toNat, 2, 0⟩
  | .vmovs x => some ⟨.s, x.s.toNat, 2, 5⟩
  | .vins x => some ⟨.v, x.v.toNat, 2, 0⟩
  | .vrsum x => some ⟨.s, x.s.toNat, intOrFloat x.ty 6 12, 10⟩
  | .vrmin x => some ⟨.s, x.s.toNat, intOrFloat x.ty 6 12, 10⟩
  | .vrmax x => some ⟨.s, x.s.toNat, intOrFloat x.ty 6 12, 10⟩
  | .vcvt x => some ⟨.v, x.vd.toNat, 4, 0⟩
  | .vbfpe x => some ⟨.v, x.vd.toNat, 6, 0⟩
  | .vbfpd x => some ⟨.v, x.vd.toNat, 4, 0⟩
  | .vrcp x => some ⟨.v, x.vd.toNat, 10, 0⟩
  | .vrsqrt x => some ⟨.v, x.vd.toNat, 10, 0⟩
  | .vexp2 x => some ⟨.v, x.vd.toNat, 12, 0⟩
  | .vlog2 x => some ⟨.v, x.vd.toNat, 12, 0⟩
  | .vrng x => some ⟨.v, x.vd.toNat, 5, 0⟩
  | .mpw x => some ⟨.mp, x.mp.toNat, 1, 0⟩
  | .mpr x => some ⟨.s, x.s.toNat, 1, 3⟩
  | .mrow x => some ⟨.v, x.v.toNat, 4, 2⟩
  | .mwm x => some ⟨.s, x.s.toNat, 1, 7⟩
  | .mflg x => some ⟨.s, x.s.toNat, 1, 7⟩
  | .ld x => some ⟨.s, x.d.toNat, x.D.toNat, 0⟩
  | .ldv x => some ⟨.v, x.d.toNat, x.D.toNat, 0⟩
  | .ldt x => some ⟨.v, x.d.toNat, 6, 0⟩
  | .ldts x => some ⟨.s, x.d.toNat, 6, 0⟩
  | .ldq x => some ⟨.v, x.r.toNat, 3, 0⟩
  | .gath x => some ⟨.v, x.d.toNat, x.D.toNat, 0⟩
  | .aadd x => if x.dx == 0 then none else some ⟨.s, x.d.toNat, 8 * x.dx.toNat, 0⟩
  | .amin x => if x.dx == 0 then none else some ⟨.s, x.d.toNat, 8 * x.dx.toNat, 0⟩
  | .aminn x => if x.dx == 0 then none else some ⟨.s, x.d.toNat, 8 * x.dx.toNat, 0⟩
  | .amax x => if x.dx == 0 then none else some ⟨.s, x.d.toNat, 8 * x.dx.toNat, 0⟩
  | .amaxn x => if x.dx == 0 then none else some ⟨.s, x.d.toNat, 8 * x.dx.toNat, 0⟩
  | .aand x => if x.dx == 0 then none else some ⟨.s, x.d.toNat, 8 * x.dx.toNat, 0⟩
  | .aor x => if x.dx == 0 then none else some ⟨.s, x.d.toNat, 8 * x.dx.toNat, 0⟩
  | .axor x => if x.dx == 0 then none else some ⟨.s, x.d.toNat, 8 * x.dx.toNat, 0⟩
  | .axch x => if x.dx == 0 then none else some ⟨.s, x.d.toNat, 8 * x.dx.toNat, 0⟩
  | .acas x => if x.dx == 0 then none else some ⟨.s, x.d.toNat, 8 * x.dx.toNat, 0⟩
  | .abinc x => if x.dx == 0 then none else some ⟨.s, x.d.toNat, 8 * x.dx.toNat, 0⟩
  | .rld x => some ⟨.s, x.d.toNat, x.D.toNat, 0⟩
  | .rldv x => some ⟨.v, x.d.toNat, x.D.toNat, 0⟩
  | .raadd x => if x.dx == 0 then none else some ⟨.s, x.d.toNat, 8 * x.dx.toNat, 0⟩
  | .ramin x => if x.dx == 0 then none else some ⟨.s, x.d.toNat, 8 * x.dx.toNat, 0⟩
  | .raminn x => if x.dx == 0 then none else some ⟨.s, x.d.toNat, 8 * x.dx.toNat, 0⟩
  | .ramax x => if x.dx == 0 then none else some ⟨.s, x.d.toNat, 8 * x.dx.toNat, 0⟩
  | .ramaxn x => if x.dx == 0 then none else some ⟨.s, x.d.toNat, 8 * x.dx.toNat, 0⟩
  | .raand x => if x.dx == 0 then none else some ⟨.s, x.d.toNat, 8 * x.dx.toNat, 0⟩
  | .raor x => if x.dx == 0 then none else some ⟨.s, x.d.toNat, 8 * x.dx.toNat, 0⟩
  | .raxor x => if x.dx == 0 then none else some ⟨.s, x.d.toNat, 8 * x.dx.toNat, 0⟩
  | .raxch x => if x.dx == 0 then none else some ⟨.s, x.d.toNat, 8 * x.dx.toNat, 0⟩
  | .racas x => if x.dx == 0 then none else some ⟨.s, x.d.toNat, 8 * x.dx.toNat, 0⟩
  | .rabinc x => if x.dx == 0 then none else some ⟨.s, x.d.toNat, 8 * x.dx.toNat, 0⟩
  | .tstat x => some ⟨.s, x.s.toNat, 1, 0⟩
  | .chq x => some ⟨.s, x.s.toNat, 1, 0⟩
  | .srd x => some ⟨.s, x.s.toNat, 1, 8⟩
  | _ => none
/-! ## Offences within a slot -/

/-- The lowest bit of `n` from bit `lo` on that is set, among `w` bits. -/
def lowestSet (n lo w : Nat) : Option Nat := ((List.range w).find? fun i => bitOf n (lo + i)).map (lo + ·)

/-- The map of a slot (R22). The vector slots share one map, and VB does not hold 0x50 to 0x54 (R23). `m` is the
64-bit immediate of the long form. -/
def rowOf (sl : Slot) (m : BitVec 64) (code : Nat) : Option OpRow :=
  match sl with
  | .sc => scRow m code
  | .va => vRow code
  | .vb => if 0x50 ≤ code then none else vRow code
  | .mx => mxRow code
  | .ld => ldRow code
  | .st => stRow code
  | .cp => cpRow code
  | .sy => syRow code

/-- The operand bits that offend under a row (R20, R21, R29): bits no field lists, bits of unused fields, bit 0 of
a field outside its limits, and a scope without `acq` or `rel`. -/
def OpRow.offences (r : OpRow) (n : Nat) : List Nat :=
  (lowestSet (n &&& (0xFFFFFFFF ^^^ r.mask)) 0 32).toList ++
  r.zeros.filterMap (fun z => lowestSet n z.1 z.2) ++
  r.lims.filterMap (fun l => if l.2 n then none else some l.1) ++
  match r.orderAt with
  | none => []
  | some (a, sc) => if bitOf n a || bitOf n (a + 1) then [] else (lowestSet n sc 3).toList

/-- The bits of a 40-bit slot field that offend within it (R10, R22, R29). -/
def slotOffences (sl : Slot) (m : BitVec 64) (f : Nat) : List Nat :=
  let code := f % 256
  let n := f / 256
  if code = 0 then (lowestSet n 0 32).toList.map (· + 8)
  else match rowOf sl m code with
    | none => [0]
    | some r => (r.offences n).map (· + 8)

/-- The op of a 40-bit slot field, none for `nop` and for a code without a row. -/
def slotInstr (sl : Slot) (m : BitVec 64) (f : Nat) : Option Instr :=
  if f % 256 = 0 then none else (rowOf sl m (f % 256)).map fun r => r.build (f / 256)

/-- A slot field read on its own: the op it holds where no bit of it offends (R22). -/
def decodeSlot (sl : Slot) (m : BitVec 64) (f : Nat) : Option Instr :=
  if slotOffences sl m f = [] then some ((slotInstr sl m f).getD .nop) else none

/-! ## Places of the bundle (Tables 1-1, 1-2, 1-4) -/

/-- Bundle bit at which a slot field begins (Table 1-2). -/
def Slot.base : Slot → Nat
  | .sc => 64 | .va => 104 | .vb => 144 | .mx => 184 | .ld => 224 | .st => 264 | .cp => 304 | .sy => 344

/-- Field codes of the slots (R29). -/
def Slot.fieldCode : Slot → Nat
  | .sc => 1 | .va => 2 | .vb => 3 | .mx => 4 | .ld => 5 | .st => 6 | .cp => 7 | .sy => 8

/-- Bundle bit at which the wait/signal field of a slot begins; slots without one give none (Table 1-2). -/
def Slot.wsBase : Slot → Option Nat
  | .mx => some 384 | .ld => some 416 | .st => some 448 | .cp => some 480 | _ => none

/-- Bundle bit at which the path tag of a slot begins (Table 1-4). -/
def Slot.tagBase : Slot → Nat
  | .sc => 35 | .va => 39 | .mx => 43 | .ld => 47 | .st => 51 | .cp => 55 | _ => 0

/-- Field code of the field in which a bundle bit lies (R29): 0 header, 1 to 8 the slots, 9 to 12 the WS fields. -/
def fieldCodeOf (bit : Nat) : Nat :=
  if bit < 64 then 0 else if bit < 384 then (bit - 64) / 40 + 1 else (bit - 384) / 32 + 9

/-- TINFO of an ILLB (R29). -/
def illbInfo (bit : Nat) : Word := BitVec.ofNat 64 (bit + fieldCodeOf bit * 512)

/-- The slots a form has (Table 1-2, R11). -/
def slotsOf : Form → List Slot
  | .compute => [.sc, .va, .vb, .mx, .ld, .st, .cp, .sy]
  | .tree => [.sc, .va, .mx, .ld, .st, .cp]
  | .long => [.sc, .va, .mx, .ld, .st, .cp]

/-- The 40-bit field of a slot. -/
def slotField (b : Nat) (sl : Slot) : Nat := fieldOf b sl.base 40

/-- The 64-bit immediate of the long form (R90). -/
def longImm (b : Nat) : BitVec 64 := BitVec.ofNat 64 (fieldOf b 144 40 + fieldOf b 344 24 * 2 ^ 40)

/-- The wait/signal field of a slot (R17); zero for a slot that has none. -/
def wsOf (b : Nat) (sl : Slot) : WS :=
  match sl.wsBase with
  | none => ⟨0, 0, 0, 0⟩
  | some p => ⟨BitVec.ofNat 8 (fieldOf b (p + 24) 8), BitVec.ofNat 8 (fieldOf b (p + 16) 8),
      BitVec.ofNat 8 (fieldOf b (p + 8) 8), BitVec.ofNat 8 (fieldOf b p 8)⟩

/-- The tree of a tree bundle (Table 1-1, Table 1-2). -/
def treeOf (b : Nat) : Tree :=
  let test (lo : Nat) : TreeTest := ⟨bitOf b (lo + 5), bitOf b (lo + 4), BitVec.ofNat 4 (fieldOf b lo 4)⟩
  ⟨BitVec.ofNat 3 (fieldOf b 8 3), test 11, test 17, test 23, test 29,
    BitVec.ofNat 20 (fieldOf b 144 20), BitVec.ofNat 20 (fieldOf b 164 20),
    BitVec.ofNat 20 (fieldOf b 344 20), BitVec.ofNat 20 (fieldOf b 364 20)⟩

/-- A path tag names a node that the shape has (R13, Table 1-4): the root, an inner test node, a target leaf, F. -/
def tagOk (shape tag : Nat) : Bool :=
  tag == 0 || tag == 8 || (1 ≤ tag && tag ≤ 3 && tag < testsUsed shape) ||
  (4 ≤ tag && tag ≤ 7 && tag - 4 < testsUsed shape)

/-- Ancestors and self of the leaves of each shape, as tags, the root left out (Table 1-3). Leaf 4 + i is target i,
leaf 8 is F. -/
def pathOf (shape leaf : Nat) : List Nat :=
  let inner : List Nat :=
    match shape, leaf with
    | 1, 4 => [] | 1, _ => [1]
    | 2, 4 => [] | 2, 5 => [1] | 2, _ => [1, 2]
    | 3, 4 => [] | 3, 5 => [1] | 3, 6 => [1, 2] | 3, _ => [1, 2, 3]
    | 4, 4 => [1] | 4, 5 => [1] | 4, _ => [2]
    | 5, 4 => [1] | 5, 5 => [1, 2] | 5, 6 => [1, 2] | 5, _ => [3]
    | 6, 4 => [1] | 6, 5 => [1] | 6, 6 => [2] | 6, _ => [2, 3]
    | 7, 4 => [] | 7, 5 => [1, 2] | 7, 6 => [1, 2] | 7, _ => [1, 3]
    | _, _ => []
  leaf :: inner

/-- The leaves of a shape, as tags. -/
def leavesOf (shape : Nat) : List Nat := (List.range (testsUsed shape)).map (· + 4) ++ [8]

/-- Whether the slot of a tag runs when the walk ends at a leaf (R14). -/
def tagRuns (shape leaf tag : Nat) : Bool := tag == 0 || (pathOf shape leaf).contains tag

/-- Whether some leaf lets the slots of both tags run. -/
def tagsMeet (shape x y : Nat) : Bool := (leavesOf shape).any fun l => tagRuns shape l x && tagRuns shape l y

/-! ## Offences of a bundle -/

/-- The bits of the header and of the tree's fields that offend (R8, R9, R12). For a test that the shape uses and that is not
enabled R29 names no bit: the enable bit is reported (DESIGN CHOICE, log 84). -/
def headerOffences (b : Nat) : List Nat :=
  let form := b % 4
  let used := testsUsed (fieldOf b 8 3)
  (if form = 3 then [0] else []) ++ (lowestSet b 6 2).toList ++ (lowestSet b 59 5).toList ++
  (if bitOf b 3 && !bitOf b 2 then [2] else []) ++
  if form = 1 then
    (List.range 4).filterMap (fun i =>
      if i < used then (if bitOf b (16 + 6 * i) then none else some (16 + 6 * i)) else lowestSet b (11 + 6 * i) 6) ++
    [(1, 164), (2, 344), (3, 364)].filterMap (fun t => if t.1 < used then none else lowestSet b t.2 20)
  else (lowestSet b 8 3).toList ++ (lowestSet b 11 24).toList ++ (lowestSet b 35 24).toList ++
    if form = 2 then (lowestSet b 368 16).toList else []

/-- The SC codes of class SL: they stand in the long form, and no other code does (R11). -/
def isSL (code : Nat) : Bool := (0x1C ≤ code && code ≤ 0x1E) || code == 0xCB

/-- The bits that offend because the form or the header does not admit an op (R8, R11, R15, R185). -/
def formOffences (form : Form) (b : Nat) : List Nat :=
  let sc := slotField b .sc % 256
  let sy := if form = .compute then slotField b .sy % 256 else 0
  (if isSL sc != (form == .long) then [64] else []) ++
  (if form == .tree && ((0x50 ≤ sc && sc ≤ 0x53) || sc == 0xC4) then [64] else []) ++
  (if form != .compute && [0xC5, 0xC6, 0xC7, 0xCA, 0xCC].contains sc then [64] else []) ++
  (if sc == 0xCB && !bitOf b 5 then [5] else []) ++
  (if (sy == 0x0E || sy == 0x0F) && !bitOf b 4 then [4] else [])

/-- The path tags that offend (R13). -/
def tagOffences (b : Nat) : List Nat :=
  (slotsOf .tree).flatMap fun sl =>
    let t := fieldOf b sl.tagBase 4
    (if tagOk (fieldOf b 8 3) t then [] else [sl.tagBase]) ++
    if slotField b sl % 256 = 0 then (lowestSet b sl.tagBase 4).toList else []

/-- The wait/signal bits that offend (R17). `qalign` is no command, so its WS fields are zero like those of `nop`. -/
def wsOffences (b : Nat) : List Nat :=
  [Slot.mx, .ld, .st, .cp].flatMap fun sl =>
    match sl.wsBase with
    | none => []
    | some p =>
      let code := slotField b sl % 256
      if code = 0 ∨ (code = 1 ∧ (sl = .ld ∨ sl = .st)) then (lowestSet b p 32).toList
      else (if fieldOf b (p + 24) 8 = 0 then (lowestSet b (p + 16) 8).toList else []) ++
        if fieldOf b (p + 8) 8 = 0 then (lowestSet b p 8).toList else []

/-- `qalign` stands in LD and ST, with one tag, or in neither (R26). -/
def qalignOffences (form : Form) (b : Nat) : List Nat :=
  let l := slotField b .ld % 256 == 1
  let s := slotField b .st % 256 == 1
  if l && s then (if form == .tree && fieldOf b 47 4 != fieldOf b 51 4 then [224] else [])
  else if l then [224] else if s then [264] else []

/-- The ops of a bundle, slot by slot. -/
def opsOf (form : Form) (b : Nat) : List SlotOp :=
  (slotsOf form).filterMap fun sl =>
    (slotInstr sl (longImm b) (slotField b sl)).map fun i =>
      ⟨sl, i, if form = .tree then BitVec.ofNat 4 (fieldOf b sl.tagBase 4) else 0, wsOf b sl⟩

/-- Two results of one bundle that land in one register in the same cycle (R23, R30); `s0`, `p0` and `k0` discard. -/
def Dest.clash (x y : Dest) : Bool :=
  x.file == y.file && x.reg == y.reg && x.lat == y.lat && (x.file == .v || x.file == .mp || x.reg != 0)

/-- The bits that offend because two slots write one register in one cycle: bit 0 of both fields. -/
def writeOffences (shape : Nat) : List SlotOp → List Nat
  | [] => []
  | o :: rest =>
    (rest.flatMap fun p =>
      match destOf o.op, destOf p.op with
      | some d, some e =>
        if d.clash e && tagsMeet shape o.tag.toNat p.tag.toNat then
          [o.slot.base + 8 + d.bit, p.slot.base + 8 + e.bit] else []
      | _, _ => []) ++ writeOffences shape rest

/-- The semaphore that `sset`, `spoi` or `sunp` writes. -/
def semWritten : Instr → Option Nat
  | .sset x => some x.sem.toNat
  | .spoi x => some x.sem.toNat
  | .sunp x => some x.sem.toNat
  | _ => none

/-- A semaphore named in a wait and in an `sset`, `spoi` or `sunp` (R175): the SY field is the lower. -/
def semOffences (ops : List SlotOp) : List Nat :=
  ops.flatMap fun o =>
    match semWritten o.op with
    | none => []
    | some n => if ops.any fun p => p.ws.wthr != 0 && p.ws.wsem.toNat == n then [352] else []

/-- Every bit of a bundle that offends at decode, but for the reach of its targets (R16), which needs the core. -/
def offences (b : Nat) : List Nat :=
  let form : Form := if b % 4 = 1 then .tree else if b % 4 = 2 then .long else .compute
  let ops := opsOf form b
  headerOffences b ++
  (slotsOf form).flatMap (fun sl => (slotOffences sl (longImm b) (slotField b sl)).map (· + sl.base)) ++
  formOffences form b ++ (if form = .tree then tagOffences b else []) ++ wsOffences b ++ qalignOffences form b ++
  writeOffences (if form = .tree then fieldOf b 8 3 else 8) ops ++ semOffences ops

/-- The least of a list of bits. -/
def leastBit : List Nat → Option Nat
  | [] => none
  | x :: xs => some (xs.foldl Nat.min x)

/-- Why the decoder refuses 512 bits: the bundle raises ILLB, and TINFO names this bit (R29). -/
inductive DecodeError where
  | illb (bit : Nat)
  deriving DecidableEq, Repr

/-- The bundle that 512 bits hold, its checks left aside. -/
def bundleOf (b : Nat) : Bundle :=
  let form : Form := if b % 4 = 1 then .tree else if b % 4 = 2 then .long else .compute
  ⟨bitOf b 5, bitOf b 4, bitOf b 3, bitOf b 2, form, if form = .tree then some (treeOf b) else none, opsOf form b⟩

/-- Decode 512 bits (R8 to R29). -/
def decodeBundle (b : Nat) : Except DecodeError Bundle :=
  match leastBit (offences b) with
  | some bit => .error (.illb bit)
  | none => .ok (bundleOf b)

/-- The targets a bundle names, each with the bit that R100 reports: tree targets, the offset of `jmp` and `call`,
and the fall-through, which `jmp` and `halt` do not have. Offsets are from the bundle's own index (R12, R98). -/
def staticTargets (b : Bundle) (pc : Nat) : List (Nat × Int) :=
  let at20 (g : BitVec 20) : Int := Int.ofNat pc + g.toInt
  (match b.tree with
    | none => []
    | some t => ([(144, at20 t.g0), (164, at20 t.g1), (344, at20 t.g2), (364, at20 t.g3)] : List (Nat × Int)).take
        (testsUsed t.shape.toNat)) ++
  match b.ops.find? (fun o => o.slot == .sc) with
  | some ⟨_, .jmp x, _, _⟩ => [(78, Int.ofNat pc + x.off.toInt)]
  | some ⟨_, .call x, _, _⟩ => [(78, Int.ofNat pc + x.off.toInt), (64, Int.ofNat pc + 1)]
  | some ⟨_, .halt, _, _⟩ => []
  | _ => [(64, Int.ofNat pc + 1)]

/-! ## The encoder -/

/-- A bundle that holds one instruction and nothing else, in its slot, with the header flag it requires: compute form,
or tree form for a tree branch, or long form for an op of class SL. `qalign` stands in both its slots. The steps of
engines have no encoding and give the empty bundle. -/
def encode (i : Instr) : Nat :=
  let f := encodeSlot i
  let long (m : BitVec 64) : Nat := 2 + m.toNat % 2 ^ 40 * 2 ^ 144 + m.toNat / 2 ^ 40 * 2 ^ 344
  match i with
  | .treeBranch t =>
    let test (x : TreeTest) : Nat := x.en.toNat * 32 + x.pol.toNat * 16 + x.idx.toNat
    1 + t.shape.toNat * 2 ^ 8 + test t.t0 * 2 ^ 11 + test t.t1 * 2 ^ 17 + test t.t2 * 2 ^ 23 + test t.t3 * 2 ^ 29 +
    t.g0.toNat * 2 ^ 144 + t.g1.toNat * 2 ^ 164 + t.g2.toNat * 2 ^ 344 + t.g3.toNat * 2 ^ 364
  | .movl x => long x.imm + f * 2 ^ 64
  | .addl x => long x.imm + f * 2 ^ 64
  | .andl x => long x.imm + f * 2 ^ 64
  | .katc x => 32 + long x.imm + f * 2 ^ 64
  | .suspend _ => 16 + f * 2 ^ 344
  | .yield => 16 + f * 2 ^ 344
  | .qalign => f * 2 ^ 224 + f * 2 ^ 264
  | _ =>
    match slotOf i with
    | some sl => f * 2 ^ sl.base
    | none => 0

/-- The instruction a bundle stands for when it is read as one: its tree branch, else its first op, else `nop`. -/
def Bundle.first (b : Bundle) : Instr :=
  match b.tree with
  | some t => .treeBranch t
  | none => match b.ops with
    | o :: _ => o.op
    | [] => .nop

/-- What the decoder reads from a bundle whose low `nbits` bits are those of `w` and whose other bits are zero. -/
def decodeTableWord (nbits w : Nat) : Option Instr :=
  match decodeBundle (w % 2 ^ nbits) with
  | .ok b => some b.first
  | .error _ => none

end Sys2Proof
end

