-- ==== Sys2Proof/Config.lean ====
section
/-! DEFINITION. What the spec leaves open, as constants without a body: nothing in Lean can evaluate them, so a
theorem about the machine holds for every value they could have. -/

namespace Sys2Proof.Config

/-- Which of the agents that can move does so when the agenda is empty (R383: the spec fixes no times; log 2).
The argument is the counter `tick` of the state. -/
opaque choice : Nat → Nat

/-- A draw of the key engine's random number generator (R196; log 7). -/
opaque draw : Nat → BitVec 256

/-- Whether a peer's key slot is free at the generation it has here (R343; log 16): the counter `tick`, the module, the slot. -/
opaque peerSlotFree : Nat → Nat → Nat → Bool

/-- SHA3-512 of bytes (R338; log 7). -/
opaque hash : List (BitVec 8) → BitVec 512

/-- ML-DSA-87 signature of a digest under the key that the first argument names (R337, R366; log 7). -/
opaque sign : BitVec 512 → BitVec 512 → List (BitVec 8)

/-- Contents of an SPDM response that the spec does not state (R337; log 8): the request code and the counter. -/
opaque spdmData : Nat → Nat → List (BitVec 8)

/-- What a half of a 64-byte unit is mixed with, by key, tweak and round: AES-256-XTS stands in this model for any permutation of the
units that such mixing makes (R341, R342; log 7). -/
opaque mix : List (BitVec 8) → Nat → Nat → BitVec 256 → BitVec 256

/-- KMAC256 with an empty customisation string: the key, the data, and the length of the output in bits (R342; log 7). -/
opaque kmac : List (BitVec 8) → List (BitVec 8) → Nat → Nat

/-- The key stream of AES-256-GCM: a lane's key, the IV and how many bytes (R311; log 7). -/
opaque gcmStream : Nat → Nat → Nat → List (BitVec 8)

/-- The tag of AES-256-GCM cut to 64 bits: a lane's key, the IV and the ciphertext (R311; log 7). -/
opaque gcmTag : Nat → Nat → List (BitVec 8) → Nat

/-- The byte offset within a scratchpad slot of the element or record at given coordinates of a KIND 1 stream, which the
spec does not state (R52, R53, R274; log 12): the descriptor and the three coordinates. -/
opaque slotPlace : BitVec 256 → Int → Int → Int → Nat

/-- The fused seed of the device (R337; log 7). -/
opaque seed : BitVec 256

/-- Whether the fused V-f-T table admits a clock, in steps of 12.5 MHz, at a hottest reading (R378; log 22). -/
opaque vft : BitVec 16 → Nat → Bool

/-- The host page that the host's answer to an ATS translation request names (R372, R373; log 124): the VF, the page, and the number
of the request. -/
opaque hostPage : Nat → Nat → Nat → Nat

/-- The bytes of sections 4 and 6 to 9 of a manifest's body, whose formats the spec does not give (R363, R364; log 24): the counter
`tick`. -/
opaque bodyRest : Nat → List (BitVec 8)

/-- A value that the spec leaves open; the argument is the counter `tick` of the state (log 10). -/
opaque freeWord : Nat → BitVec 64

end Sys2Proof.Config
end

