-- ==== Sys2Proof/Machine/Tab.lean ====
section
/-! DEFINITION. Finite tables as plain data: a list of keys and values in one canonical form, keys rising and no
entry equal to what an unlisted key reads as. Registers, memories and tables of the module are held so. -/

namespace Sys2Proof.Machine

/-- A table from numbers to values. -/
abbrev Tab (α : Type) := List (Nat × α)

/-- The value at key `k`; an unlisted key reads as `d`. -/
def Tab.get (d : α) : Tab α → Nat → α
  | [], _ => d
  | (j, v) :: t, k => if j = k then v else Tab.get d t k

/-- The table without key `k`. -/
def Tab.erase : Tab α → Nat → Tab α
  | [], _ => []
  | (j, v) :: t, k => if j = k then Tab.erase t k else (j, v) :: Tab.erase t k

/-- Put a key before the first larger one. -/
def Tab.insert (k : Nat) (v : α) : Tab α → Tab α
  | [] => [(k, v)]
  | (j, w) :: t => if k < j then (k, v) :: (j, w) :: t else (j, w) :: Tab.insert k v t

/-- Write the value `v` at key `k`; a value equal to `d` is held by listing nothing. -/
def Tab.set [DecidableEq α] (d : α) (t : Tab α) (k : Nat) (v : α) : Tab α :=
  if v = d then t.erase k else Tab.insert k v (t.erase k)

/-- Replace the value at key `k` by a function of it. -/
def Tab.modify [DecidableEq α] (d : α) (t : Tab α) (k : Nat) (f : α → α) : Tab α := t.set d k (f (t.get d k))

/-- Keys rise and no entry holds `d`. -/
def Tab.wf [DecidableEq α] (d : α) : Tab α → Bool
  | [] => true
  | [(_, v)] => v != d
  | (j, v) :: (k, w) :: t => v != d && j < k && Tab.wf d ((k, w) :: t)

/-- Element `i` of a list replaced by a function of it; a list too short stays as it is. -/
def modifyAt (l : List α) (i : Nat) (f : α → α) : List α :=
  match l, i with
  | [], _ => []
  | x :: xs, 0 => f x :: xs
  | x :: xs, i + 1 => x :: modifyAt xs i f

/-- A byte memory: `Host.Cell`s with addresses rising and no zero byte listed; an unlisted byte reads 0. -/
abbrev Memory := List Host.Cell

/-- The byte at an address; memory that nothing has written reads 0 (R368: at cold boot HBM is zeroed; R225: a drain
zeroes the scratchpad). -/
def Memory.byte (m : Memory) (a : Nat) : Byte := Tab.get 0 m a

/-- Write one byte. -/
def Memory.setByte (m : Memory) (a : Nat) (b : Byte) : Memory := Tab.set 0 m a b

/-- The canonical form of a memory. -/
def Memory.wf (m : Memory) : Bool := Tab.wf (0 : Byte) m

/-- The `n` bytes from `a` on, lowest address first. -/
def Memory.bytes (m : Memory) (a : Nat) : Nat → List Byte
  | 0 => []
  | n + 1 => m.byte a :: Memory.bytes m (a + 1) n

/-- Write bytes from `a` on. -/
def Memory.write (m : Memory) (a : Nat) : List Byte → Memory
  | [] => m
  | b :: bs => Memory.write (m.setByte a b) (a + 1) bs

/-- Little-endian value of bytes, lowest address first (R4). -/
def leVal : List Byte → Nat
  | [] => 0
  | b :: bs => b.toNat + 256 * leVal bs

/-- The `n` bytes of a value, least significant first (R4). -/
def leBytes : Nat → Nat → List Byte
  | 0, _ => []
  | n + 1, v => BitVec.ofNat 8 v :: leBytes n (v / 256)

/-- The `n`-byte little-endian value at `a`. -/
def Memory.val (m : Memory) (a n : Nat) : Nat := leVal (m.bytes a n)

/-- Write an `n`-byte little-endian value at `a`. -/
def Memory.setVal (m : Memory) (a n v : Nat) : Memory := m.write a (leBytes n v)

/-- Zero `n` bytes from `a` on. -/
def Memory.zero (m : Memory) (a n : Nat) : Memory := m.filter fun c => c.1 < a || a + n ≤ c.1

end Sys2Proof.Machine
end

