-- ==== Sys2Proof/Machine/State.lean ====
section
/-! DEFINITION. The state of the module as plain data: the cores, the dies' schedulers and caches, memory and its
keys, the fabric, the worlds and partitions, and the agents of the management island. Rules are cited at each part.
Fields the spec does not name are the model's own and say so. -/

namespace Sys2Proof.Machine

/-! ## Registers and tables of a core -/

/-- The unit of an error that a retry record holds (R290): the core, a frame of HBM, a scratchpad slot; `window` is
a read of an absent bulkhead, which counts as already retried (R299). -/
inductive ErrUnit where
  | core | frame (f : Nat) | slot (n : Nat) | window
  deriving DecidableEq, Repr, Inhabited

/-- The poison of a register (R39): the cause its consumer raises, and the unit of the error for UNCORR (R290). -/
structure Poison where
  cause : BitVec 4
  unit  : ErrUnit
  deriving DecidableEq, Repr, Inhabited

/-- A register whose parity fails (R288). -/
inductive BadReg where
  | s (r : Nat) | v (r : Nat) | k (r : Nat) | p | acc (n : Nat) | mp (n : Nat) | gix | creg (a : Nat)
  deriving DecidableEq, Repr, Inhabited

/-- What a pending write lands in: the classes of R63, and the control registers and latched words that `crw`,
`seqbind` and `snwr` write with latency 1 (Table 9-1), which never stand in a latched table. -/
inductive PendCls where
  | s | v | p | k | mp | p15 | creg | snap
  deriving DecidableEq, Repr, Inhabited

/-- A result issued but not landed (R63). Of `val` the classes other than `v` use the low 64 bits. `vidx` is the
place in the pending vector area given at a latch. `born` is the count of bundles issued at its issue (R30), `zps` the
stream whose zeros a pop delivers with it (R154). While latched, `w1` is its second word, and `cb` are the cause bits of a
first word whose poison bit is 0. -/
structure Pending where
  valid  : Bool
  cls    : PendCls
  reg    : Nat
  rem    : Nat
  poison : Option Poison
  vidx   : Nat
  val    : Vec
  born   : Nat
  zps    : Option Nat
  w1     : Word
  cb     : Nat
  deriving DecidableEq, Repr, Inhabited

/-- A signal owed to a semaphore: the increment and the semaphore of a WS field (R17); SINC 0 is none.
`seg` is the segment of the command's issue (R291). -/
structure Sig where
  inc : Nat
  sem : Nat
  seg : Nat
  deriving DecidableEq, Repr, Inhabited

/-- An outstanding load, gather or value-returning atomic (R64). `ty` is the type, or the function of an atomic.
The fields from `val` on are the model's own record of a request: its value once performed, when it was issued among
loads (log 3), the store-buffer places it forwards from and waits for (R157, R241), the port entries it waits for
(R160), its signal, the descriptor and indices of a gather, the operands of an atomic; `dead`
that a later write has superseded it, `gone` that its reply will not come (R316, R319). -/
structure Load where
  valid   : Bool
  arrived : Bool
  kind    : Nat
  vec     : Bool
  reg     : Nat
  rem     : Nat
  ty      : Nat
  cause   : Nat
  addr    : Word
  w2      : Word
  w3      : Word
  val     : Vec
  unit    : ErrUnit
  performed : Bool
  replay  : Bool
  seq     : Nat
  fwd     : Nat
  behind  : Nat
  port    : Nat
  sig     : Sig
  desc    : BitVec 256
  vi      : Vec
  b       : Word
  x       : Word
  zero    : Bool
  dead    : Bool
  gone    : Bool
  born    : Nat
  deriving DecidableEq, Repr, Inhabited

/-- A key handle: slot and generation (R195); slot 0 with generation 0 is the null handle (R56). -/
structure Handle where
  slot : Nat
  gen  : Nat
  deriving DecidableEq, Repr, Inhabited

/-- The unit that a translation yields (R276, Table 16-2): the owning module, the frame (physical when the owner is
this module, else as the entry names it), the handle, and the permissions. -/
structure XEntry where
  owner  : Nat
  frame  : Nat
  handle : Handle
  state  : Nat
  rd     : Bool
  w      : Bool
  deriving DecidableEq, Repr, Inhabited

/-- A translation fault (Table 16-3): BOUND or TFAULT, and word 1 of its report. -/
structure XFault where
  bound : Bool
  info  : Word
  deriving DecidableEq, Repr, Inhabited

/-- Who waits for a walk (R282): the bundle in hand, a load, a stream, a command's channel, the store buffer's oldest entry, or an
operation at the port. -/
inductive XUser where
  | issue | load (seq : Nat) | stream (q : Nat) | chan (n : Nat) | store | port (id : Nat)
  deriving DecidableEq, Repr, Inhabited

/-- What a walk brought the access that waited for it (R281, R282): a descriptor, an entry or a fault. The access alone takes it;
a fault is never cached. -/
structure WalkRes where
  user  : XUser
  tid   : Nat
  unit  : Nat
  desc  : Option (BitVec 256)
  entry : Option XEntry
  fault : Option XFault
  deriving DecidableEq, Repr, Inhabited

/-- Bytes of a store that lie together: in a unit, from an offset on. -/
structure Piece where
  unit : Nat
  off  : Nat
  data : List Byte
  deriving DecidableEq, Repr, Inhabited

/-- An entry of the segment store buffer (R149, R241, R287): tensor id and the pieces not committed yet (a row of `scat` may have
several), its segment, whether that segment has closed, the loads that `qalign` makes it wait for and the port operations that it
comes after (R244), whether it is marked UNCORR (1) and has been reported so (2), and whether a packet of it is on its way to another
module. `store` is the place of the first entry of its store, and `told` that the store has been counted as sealed (R149, R287). It
holds no frame: it is translated when it commits (R287). -/
structure SsbEntry where
  pos    : Nat
  tid    : Nat
  parts  : List Piece
  seg    : Nat
  closed : Bool
  atH    : Bool
  loads  : Nat
  port   : Nat
  bad    : Nat
  sent   : Bool
  store  : Nat
  told   : Bool
  deriving DecidableEq, Repr, Inhabited

/-- Where a step of an engine reads or writes (Table 8-1, R164). -/
inductive Place where
  | flat (a : Nat)
  | tile (tid unit : Nat)
  | scratch (a : Nat)
  | remote (m a : Nat)
  deriving DecidableEq, Repr, Inhabited

/-- A place of an element that a stream addresses: in a tensor unit, in the scratchpad, or outside its extent (R53). -/
structure StreamRef where
  tid  : Nat
  unit : Nat
  off  : Nat
  out  : Bool
  deriving DecidableEq, Repr, Inhabited

/-- An entry of a stream's data queue (R45): its bits, the elements that are bad and with which cause (R154), and
whether the zeros it delivers set ZPS. `coord` marks an element outside its tensor (R151), `bad` a parity error (R288); `port` counts
the port operations before its push, of which those that acquire come before its write (R244). -/
structure QEntry where
  val    : Vec
  poison : Option Poison
  zero   : Bool
  coord  : Bool
  bad    : Bool
  port   : Nat
  deriving DecidableEq, Repr, Inhabited

/-- An entry of a stream's address queue (R268): the number of its first element or record in visiting order, whether its
fetch is sent, and then the places of its elements; `bad` marks a parity error (R288). -/
structure AEntry where
  item  : Nat
  sent  : Bool
  refs  : List StreamRef
  bad   : Bool
  deriving DecidableEq, Repr, Inhabited

/-- A stream register (R45, Table 2-7, Table 7-4). `i0`, `i1`, `i2` are the generator's position. `build` is the
output entry under construction (R153); `made` counts the elements placed or pushed, `wrote` those an output stream has
written. `popped` holds the entries popped in the segment, oldest first, for a rewind (R291), and `pushed` counts its pushes
(R292). `part` counts the pieces of its oldest entry that an output stream has written; `num` is the model's own number of the load, by
which the requests of a stream's fetches are told from those of the stream before it. -/
structure Stream where
  desc   : BitVec 256
  loaded : Bool
  i0     : Nat
  i1     : Nat
  i2     : Nat
  aq     : List AEntry
  dq     : List QEntry
  head   : Nat
  done   : Bool
  cur    : Nat
  build  : Vec
  zps    : Bool
  made   : Nat
  wrote  : Nat
  popped : List QEntry
  pushed : Nat
  part   : Nat
  num    : Nat
  deriving DecidableEq, Repr, Inhabited

/-- A stream that an `ldqs` has loaded and that does not govern its register yet (R152, R268): the register, the bundles still
to issue at the privilege of the load, that privilege, and the stream, whose address queue fills meanwhile. -/
structure Incoming where
  reg  : Nat
  left : Nat
  atH  : Bool
  q    : Stream
  deriving DecidableEq, Repr, Inhabited

/-- A change of a semaphore by an SY op, in the order of R175: poison and unpoison, a count set, a signal add. -/
inductive SemOp where
  | poison (sem : Nat) | unpoison (sem : Nat) | set (sem n : Nat) | add (sem n : Nat)
  deriving DecidableEq, Repr, Inhabited

/-- A semaphore (R43). -/
structure Sema where
  count  : Nat
  poison : Bool
  deriving DecidableEq, Repr, Inhabited

/-- How far the accesses of a core reached at a point of its order: its places in the store buffer, its load numbers and its port
numbers below these came before (R244). -/
structure Mark where
  st : Nat
  ld : Nat
  pt : Nat
  deriving DecidableEq, Repr, Inhabited

/-- What a copy command does (Table 8-3). -/
inductive CmdKind where
  | copy | chain | reduce (func : Nat) | reduceOrdered (func rank last : Nat) | fill (slot : Nat) | drain (slot : Nat)
  | migrate (target : Nat)
  deriving DecidableEq, Repr, Inhabited

/-- A command queued or running on a copy channel (R165-R173). `next` is the byte, or the tile of `migrate`, that
moves next; `recAt` is the record of a chain in hand and `recNext` the one after it (R170), with its own source,
destination and count; `waitFor` lists the commands that a `cpfence` puts before its first read (R174); `seg` is the
segment of its issue and `before` the accesses before it; `acks` tells where a line waits: 1 for its answer, 2 when it is answered;
`used` are the units (tensor, unit) of a chain's records and of their places so far (R286);
`failed` that it was refused; `last` that it only waits for its release, to complete (1) or to fail (2) (R167). -/
structure Cmd where
  id      : Nat
  kind    : CmdKind
  dst     : Place
  src     : Place
  bytes   : Nat
  unit    : Nat
  next    : Nat
  acqd    : Bool
  acq     : Bool
  rel     : Bool
  scope   : Scope
  sig     : Sig
  seqb    : Handle
  started : Bool
  inRec   : Bool
  recAt   : Nat
  recNext : Nat
  waitFor : List Nat
  behind  : Nat
  seg     : Nat
  acks    : Nat
  failed  : Bool
  before  : Mark
  last    : Nat
  used    : List (Nat × Nat)
  deriving DecidableEq, Repr, Inhabited

/-- A copy channel (R44): its four words and its commands, the running one first. `wrote` lists the pieces (start, end) of
its range that it has written beyond WMARK (R166). -/
structure Channel where
  base  : Word
  limit : Word
  wmark : Word
  head  : Word
  wrote : List (Nat × Nat)
  cmds  : List Cmd
  deriving DecidableEq, Repr, Inhabited

/-- States of a scratchpad slot (Table 2-6). -/
inductive SlotState where
  | empty | filling | ready | draining
  deriving DecidableEq, Repr, Inhabited

/-- A slot-table entry (Table 2-5). `zeroing` holds while its 64 KiB are set to zero (R49). -/
structure SlotEntry where
  state   : SlotState
  sealed  : Bool
  ch      : Nat
  handle  : Handle
  zeroing : Bool
  deriving DecidableEq, Repr, Inhabited

/-- The routine in flight (R123, R138, Table 6-8). `base` is the B operand of the group whose steps run, none until it is read; `s`
the planes that the step skips, which is `fixed` where a freeze has recorded it; `seg` the segment of its issue (R139), `before` the
accesses before it (R127). -/
structure Routine where
  idx    : Nat
  target : Nat
  mps    : List Word
  gix    : BitVec 1024
  counts : List Nat
  group  : Nat
  row    : Nat
  wb     : Bool
  kb     : Nat
  s      : Nat
  acqd   : Bool
  acq    : Bool
  rel    : Bool
  scope  : Scope
  sig    : Sig
  base   : Option Nat
  seg    : Nat
  before : Mark
  fixed  : Bool
  deriving DecidableEq, Repr, Inhabited

/-- The signal of a routine that `mstop` has ended, which waits for the routine's release (R127, R129). -/
structure RelSig where
  before : Mark
  scope  : Scope
  sig    : Sig
  deriving DecidableEq, Repr, Inhabited

/-- A local atomic or a remote operation that waits at the core's port (R158-R163, Table 13-3). `seq` is its outstanding-load entry
by sequence number, none for Dx = 0 and for stores; `rem` counts the loads issued before it. `sent` holds once a remote atomic is
handed to the fabric, or a local one that acquires has performed and its reply has not come (R160). `xl` is the translation taken at
issue (R283), none for a remote operation and for a replay. -/
structure PortOp where
  id     : Nat
  seq    : Option Nat
  func   : Nat
  remote : Bool
  mod    : Nat
  addr   : Nat
  b      : Word
  x      : Word
  data   : List Byte
  store  : Bool
  ctr    : Option Nat
  ord    : Ordering
  scope  : Scope
  xl     : Option XEntry
  sig    : Sig
  behind : Nat
  loads  : Nat
  rem    : Nat
  sent   : Bool
  span   : Nat
  deriving DecidableEq, Repr, Inhabited

/-- What a SEG bundle's checkpoint holds (R292): its index, the two tables, of each stream the push cursor, the entry under
construction and the count of pushed elements, the charge of stores that a rewind keeps, and the loads of streams under way, with the
bundles that each had left. -/
structure Checkpoint where
  pc      : Nat
  pend    : List Pending
  loads   : List Load
  cursors : List (Nat × Vec × Nat)
  charge  : Nat
  coming  : List (Nat × Nat)
  deriving DecidableEq, Repr, Inhabited

/-- The segment a core runs (R223, R291): its number, its checkpoint, the retry record, the thresholds its waits
subtracted and the signals its commands added, and whether a rewind waits for engine commands. -/
structure Segment where
  num     : Nat
  opened  : Bool
  check   : Option Checkpoint
  retry   : List ErrUnit
  waited  : List (Nat × Nat)
  signals : List (Nat × Nat)
  deriving DecidableEq, Repr, Inhabited

/-- What a core is doing (R208, R225, R252, R294); `draining` is a core drained, of no world. -/
inductive Run where
  | free
  | running
  | rewinding
  | stopping
  | frozen
  | ending
  | draining
  | quarantined
  deriving DecidableEq, Repr, Inhabited

/-- How a task ends that has issued its last bundle (R190, R181): by `halt`, or with a continuation record to write, its
address and eight words. -/
inductive Closing where
  | halt
  | record (addr : Nat) (words : List Nat)
  deriving DecidableEq, Repr, Inhabited

/-- The task of a core (R212): its ream, the address of its continuation record if it was resumed from one, the indices it still
holds, and whether its end is ordered by an abort (R220). -/
structure Task where
  rid    : Nat
  crec   : Option Nat
  held   : List Nat
  abort  : Bool
  deriving DecidableEq, Repr, Inhabited

/-- A freeze (R252-R254): the fields of its report, whether the reason lies in a KATF quarantine (R294), and whether a DIAP has reached
the core since (R265). -/
structure Freeze where
  cause   : Nat
  info    : Word
  seq     : Nat
  lost    : Bool
  hf      : Bool
  latched : Bool
  kill    : Bool
  retire  : Bool
  diap    : Bool
  deriving DecidableEq, Repr, Inhabited

/-- A stop that an arbiter event asks of a core (Table 14-2, row 2). -/
structure StopReq where
  cause : Nat
  kill  : Bool
  seq   : Nat
  deriving DecidableEq, Repr, Inhabited

/-- A key operation in progress for a core (R196, R197): the request's number, and what it waits for. -/
structure KeyHold where
  slot : Nat
  done : Bool
  ok   : Bool
  deriving DecidableEq, Repr, Inhabited

/-- Declared occupancy (R35). -/
structure Occ where
  streams  : Nat
  channels : Nat
  ssb      : Nat
  semLo    : Nat
  semHi    : Nat
  bcast    : Nat
  deriving DecidableEq, Repr, Inhabited

/-- A core: everything Table 2-1 gives it, its engines, and what its issue logic keeps. `again` holds from a rewind until the core's
SEG bundle has issued again, which it does by itself (R291). -/
structure Core where
  -- registers (R38)
  s       : Tab Word
  sPoi    : Tab (Option Poison)
  p       : BitVec 16
  v       : Tab Vec
  vPoi    : Tab (Option Poison)
  k       : Tab Word
  acc     : Tab Vec
  accw    : Tab Nat
  ovf     : Tab Bool
  sat     : Tab Bool
  mp      : Tab Word
  gix     : BitVec 1024
  bad     : List BadReg
  creg    : Tab Word
  -- engines
  routine : Option Routine
  relSigs : List RelSig
  q       : Tab Stream
  qNew    : List Incoming
  sem     : Tab Sema
  ch      : Tab Channel
  nextCmd : Nat
  cpWait  : List Nat
  slots   : Tab SlotEntry
  scr     : Memory
  scrBad  : List Nat
  -- instruction side
  imem    : Tab (BitVec 512)
  imemBad : List Nat
  imgLen  : Nat
  imgProg : Nat
  hLen    : Nat
  cmem    : Memory
  occ     : Occ
  store   : List Nat
  -- pipeline
  pc      : Nat
  holding : Bool
  holdCond : Nat
  pend    : List Pending
  hpend   : List Pending
  loads   : List Load
  hloads  : List Load
  pvec    : Tab Vec
  issued  : Nat
  late    : Tab Word
  owed    : List (Bool × Nat × Sig)
  zstat   : List Nat
  -- stores
  ssb     : List SsbEntry
  ssbNext : Nat
  charge  : Nat
  qaStore : Nat
  qaLoad  : Nat
  loadSeq : Nat
  portNext : Nat
  port    : List PortOp
  seg     : Segment
  needSeg : Bool
  semOps  : List (Nat × SemOp)
  fencing : Option (Nat × Scope)
  badStream : Option Nat
  -- task and control
  run     : Run
  task    : Option Task
  closing : Option Closing
  early   : Bool
  freeze  : Option Freeze
  stopReq : Option StopReq
  hCount  : Nat
  mism    : Nat
  barHold : Option Nat
  keyHold : Option KeyHold
  tinvHold : Option Nat
  rplHold : Bool
  bubble  : Nat
  wres    : List WalkRes
  bus     : Option (Nat × Vec)
  away    : Bool
  again   : Bool
  deriving DecidableEq, Repr, Inhabited

/-! ## Issue -/

/-- What stops a bundle (Table 14-2): a hold with its condition (R62), a trap with its cause and TINFO, the
consumption of an error (R290) with its unit, a freeze to the supervisor with its report, and KATF (R194); `walk` is the
hold of R283 with the unit whose walk it waits for. -/
inductive StopKind where
  | hold (cond : Nat)
  | walk (tid unit : Nat) (wr : Bool)
  | trap (cause : Nat) (info : Word)
  | consume (unit : ErrUnit) (info : Word)
  | freeze (cause : Nat) (info : Word)
  | katf
  deriving DecidableEq, Repr, Inhabited

/-- One stop that an op meets: the row of Table 14-2 (0 for a hold), the slot's place in the order of R251, and the
operand bit that decides within the slot. -/
structure Stop where
  row  : Nat
  slot : Nat
  bit  : Nat
  kind : StopKind
  deriving DecidableEq, Repr, Inhabited

/-- How an op is evaluated: `probe` collects what would stop its bundle, `effect` lets it take effect, and `alone`
does both for an op that stands alone in its bundle; `late` lets it begin what it then holds for (log 1). -/
inductive Mode where
  | probe | effect | alone | late
  deriving DecidableEq, Repr, Inhabited

/-- The bundle in hand (log 1): the issuing core, the bundle's index, the slot and the wait/signal field of the op,
how it is evaluated, the stops met so far, and the semaphores and slot table as they stood before the bundle (R6). -/
structure Ctx where
  core  : Nat
  pc    : Nat
  slot  : Slot
  ws    : WS
  mode  : Mode
  stops : List Stop
  sem   : Tab Sema
  slots : Tab SlotEntry
  deriving DecidableEq, Repr

/-- What happens next (log 2): a core, or the quad it leads, attempts its bundle; or an event takes place. -/
inductive Turn where
  | issue (core : Nat)
  | event (i : Instr)
  deriving DecidableEq, Repr

/-! ## Memory and translation -/

/-- Under what a line of memory is sealed: the tweak (world FWID, tensor, unit, line), the key handle (R280, R342), and which key
that is, by the number of its making (log 85). -/
structure LineTag where
  fwid   : BitVec 12
  tid    : Nat
  unit   : Nat
  line   : Nat
  handle : Handle
  key    : Nat
  deriving DecidableEq, Repr, Inhabited

/-- The condition of a 64-byte line: the tag it was sealed under (none: never written), and its ECC: 0 good, 1 fails
on the next read, 2 fails on every read (R288, R289). -/
structure LineState where
  tag : Option LineTag
  ecc : Nat
  deriving DecidableEq, Repr, Inhabited

/-- A line of a remote-data cache (R236): the physical line, its tag and its bytes. -/
structure RdcLine where
  line : Nat
  tag  : LineTag
  data : List Byte
  deriving DecidableEq, Repr, Inhabited

/-- A granule of another module's flat space in a remote-data cache, filled by `rld` and `rldv` (R161, R236). Flat memory is under
the null handle (R57). -/
structure RemoteLine where
  fwid : BitVec 12
  mod  : Nat
  addr : Nat
  data : Word
  deriving DecidableEq, Repr, Inhabited

/-- An entry of a translation cache (Table 16-2). -/
structure TlbEntry where
  core : Nat
  vf   : Nat
  tid  : Nat
  unit : Nat
  xl   : XEntry
  deriving DecidableEq, Repr, Inhabited

/-- An entry of a core's descriptor cache (Table 16-2). -/
structure DescEntry where
  core : Nat
  vf   : Nat
  tid  : Nat
  desc : BitVec 256
  deriving DecidableEq, Repr, Inhabited

/-- A walk request of a die (R282): who waits for it, the world and what is looked up (a tensor's unit, or at `descUnit` its
descriptor); `fault`, `entry` and `desc` hold the result from the instant the walk left the queue. -/
structure Walk where
  who   : List (Nat × XUser)
  vf    : Nat
  tid   : Nat
  unit  : Nat
  wr    : Bool
  fault : Option XFault
  entry : Option XEntry
  desc  : Option (BitVec 256)
  deriving DecidableEq, Repr, Inhabited

/-- A window (Table 21-2), as the receiver's second stage uses it. -/
structure Window where
  gvf   : Nat
  rvf   : Nat
  wlen  : Nat
  rw    : Bool
  rbase : Nat
  gbase : Nat
  deriving DecidableEq, Repr, Inhabited

/-- What follows a shootdown: nothing, the removal of a window (R334), or the installation of a second-stage record (R278). -/
inductive ShootEnd where
  | nothing
  | window (w : Window)
  | record (x : BitVec 128)
  deriving DecidableEq, Repr, Inhabited

/-- A shootdown in progress (R286): the world, the tensor, the first unit and the count, none for the whole tensor;
the core whose `tinv` waits for it; and what follows it. Tensor 2^24 stands for every tensor of the world. -/
structure Shootdown where
  id    : Nat
  vf    : Nat
  tid   : Nat
  range : Option (Nat × Nat)
  core  : Option Nat
  after : ShootEnd
  deriving DecidableEq, Repr, Inhabited

/-! ## The pod's fabric (spec/19_pyrty_fabric.md) -/

/-- What the reply to a request of this module completes: a load or gather by its number, a store-buffer entry, an
operation of a core's port, a line of a copy command, a stream fetch, a line or step of a migration. -/
inductive ReqFor where
  | load (core seq : Nat)
  | ssb (core pos : Nat)
  | port (core id : Nat)
  | line (core ch cmd : Nat)
  | fetch (core q : Nat)
  | query (idx member : Nat)
  deriving DecidableEq, Repr, Inhabited

/-- A request outstanding or waiting on a die (R317-R319): its tag and generation, its op, target and packet fields,
what it is for, whether it is sent, `tagged` that it holds its tag while it waits to be sent again, waits behind an owner-cache entry (R352), waits 2 us after BUSY (R321), is
quarantined after a timeout (R319), or is answered, with which cause (0 for data or ACK). `since` is when it was sent,
refused BUSY or quarantined. `stale`: its data shall not be cached, since what was read before it arrives may be older than what is
known by then (R238, R245). -/
structure Req where
  tag    : Nat
  gen    : Nat
  op     : Nat
  target : Nat
  vf     : Nat
  addr   : Nat
  caddr  : Nat
  data   : List Byte
  scope  : Scope
  rel    : Bool
  for_   : ReqFor
  sent   : Bool
  behind : Bool
  busy   : Bool
  tagged : Bool
  quar   : Bool
  done   : Bool
  cause  : Nat
  since  : Nat
  stale  : Bool := false
  deriving DecidableEq, Repr, Inhabited

/-- An entry of an owner cache (R352). -/
structure OwnerEntry where
  fwid  : BitVec 12
  tid   : Nat
  tile  : Nat
  owner : Nat
  from_ : Nat
  pend  : Nat
  deriving DecidableEq, Repr, Inhabited

/-- Who is answered when a line of an ordered reduction applies: a command of this module, or a request of a peer. -/
inductive Answer where
  | cmd (core ch id : Nat)
  | peer (orig plane tag gen : Nat) (fwid : BitVec 12)
  deriving DecidableEq, Repr, Inhabited

/-- A line of an ordered reduction that waits for its rank (R320): the world and partition, the place (log 13), the
command's bytes and last rank, its own rank, function and data, the handle that SEQB held at its issue, who waits for it, and the
cause with which another line of its packet has failed. -/
structure Staged where
  vf    : Nat
  pid   : Nat
  addr  : Nat
  bytes : Nat
  last  : Nat
  rank  : Nat
  func  : Nat
  data  : List Byte
  seqb  : Handle
  who   : Answer
  fail  : Nat
  deriving DecidableEq, Repr, Inhabited

/-- The group of contributions to one line (R320, log 13): its key, the rank expected next, and when it began. -/
structure Group where
  vf    : Nat
  pid   : Nat
  addr  : Nat
  bytes : Nat
  last  : Nat
  expected : Nat
  first : Nat
  deriving DecidableEq, Repr, Inhabited

/-- A packet the module has put on a lane (R308, R311), the numbers of the fields as in Table 19-1; `h` chooses its plane
(R306). -/
structure Sent where
  h     : Nat := 0
  op    : Nat
  src   : Nat
  dst   : Nat
  plane : Nat
  vl    : Nat
  orig  : Nat
  gen   : Nat
  tag   : Nat
  fwid  : BitVec 12
  scope : Scope
  rel   : Bool
  acq   : Bool
  addr  : Nat
  caddr : Nat
  data  : List Byte
  deriving DecidableEq, Repr, Inhabited

/-- A lane to a peer in one plane (R306, R311-R313): trained, its key's generation, packets sent and acknowledged,
the replay buffer, the count of the packet awaited and its failures in a row, whether all others are dropped until it comes, the count
last asked again with how often, MAC failures' times, credits in use by virtual lane, the virtual lane whose turn it is among 0 to 23,
and OP, ORIG, TAG (generation, index) of the packets accepted last from the peer, those before the lane last went dark in `old`
(R312). -/
structure Lane where
  trained : Bool
  key     : Nat
  count   : Nat
  acked   : Nat
  replay  : List Sent
  expect  : Nat
  failing : Bool
  fails   : Nat
  again   : Nat × Nat
  macs    : List Nat
  used    : Tab Nat
  turn    : Nat
  recent  : List (Nat × Nat × Nat × Nat)
  old     : List (Nat × Nat × Nat × Nat)
  deriving DecidableEq, Repr, Inhabited

/-- An entry of the migration table (Table 22-1). `asked` lists the members a round still waits for, `began` its start. -/
structure MigEntry where
  learn : BitVec 64
  last  : Nat
  rnd   : Nat
  new   : Nat
  dep   : Nat
  kind  : Nat
  fwid  : BitVec 12
  tile  : Nat
  tid   : Nat
  asked : List Nat
  began : Nat
  deriving DecidableEq, Repr, Inhabited

/-- A tile that is moving off this module (R349): the command, the step of Table 22-2 and the line that goes next,
lines written again since (R350), and requests held at step 4. -/
structure Move where
  core : Nat
  ch   : Nat
  cmd  : Nat
  vf   : Nat
  tid  : Nat
  tile : Nat
  dst  : Nat
  step : Nat
  line : Nat
  resend : List Nat
  acks : Nat
  deriving DecidableEq, Repr, Inhabited

/-- A tile that is arriving (R349): the frame taken from the arrival pool and where that frame's word lies. -/
structure Arrival where
  vf    : Nat
  tid   : Nat
  tile  : Nat
  src   : Nat
  frame : Nat
  pool  : Nat
  entry : BitVec 128
  dep   : Nat
  deriving DecidableEq, Repr, Inhabited

/-! ## Dies and bulkheads -/

/-- A record on a ready list (R213, R216): its address and world, its time in microseconds and in the model's ticks, its PRI, and when
the AGE that it is completing began (R214). -/
structure ReadyRec where
  vf   : Nat
  addr : Nat
  quad : Bool
  since : Nat
  tick : Nat
  pri  : Nat
  rid  : Nat
  ageing : Nat
  deriving DecidableEq, Repr, Inhabited

/-- What a die holds. Never-used tags are those from `tagNew` on; `tagFreed` lists the others that are free, longest
first; `tagGen` holds generations (R319). -/
structure Die where
  rdc     : List RdcLine
  rdcRemote : List RemoteLine
  walkQ   : List Walk
  walking : List Walk
  owners  : List OwnerEntry
  reqs    : List Req
  tagNew  : Nat
  tagFreed : List Nat
  tagGen  : Tab Nat
  lateReplies : Nat
  groups  : List Group
  staged  : List Staged
  ready   : List ReadyRec
  failed  : Bool
  gated   : Bool
  sensors : Tab (BitVec 16)
  deriving DecidableEq, Repr, Inhabited

/-- A bulkhead (R329, R331, R378-R380): its partition, reset, gate, absence, and its clock in units of 12.5 MHz as the
supervisor chose it, the clock in use, the emergency flag with the ceiling it set, the planes that the supervisor has
its cores skip (R41, R83), and whether its rail is at retention (R329, R366). -/
structure Bulkhead where
  pid     : Option Nat
  inReset : Bool
  gateShut : Bool
  absent  : Bool
  clock   : Nat
  target  : Option Nat
  stretch : Bool
  emg     : Bool
  ceiling : Nat
  cool    : Nat
  hot     : Nat
  planes  : Nat
  retention : Bool
  deriving DecidableEq, Repr, Inhabited

/-! ## Worlds, partitions and work -/

/-- A program image that the measured loader placed (R340, R35, R37). -/
structure Image where
  handle  : Nat
  quad    : Bool
  bundles : List (BitVec 512)
  consts  : List Byte
  streams : List (Nat × Nat)
  occ     : Occ
  deriving DecidableEq, Repr, Inhabited

/-- States of a TDISP interface (R345). -/
inductive IfState where
  | unlocked | locked | run | error
  deriving DecidableEq, Repr, Inhabited

/-- A virtual function and its world (R330). `keyNo` is the number of its data key (log 85), `steps` are the pod barriers' step numbers (R323), `barIn` the BARs that
have come for the current step and the next, `poisonIn` likewise, `toSend` what waits for a member's return (R324).
`peers` holds of each module STATE, CHG (R315) and what it last declared (0, or the state of its DIAP). `draining` holds while its cores drain,
`deleteAfter` whether the world is deleted then, `spoilt` the pod barrier ids whose instances here were poisoned as its end began (R347).
`unanswered` are the members whose answer to RESUME has not come (R371), `session` the SPDM session of the mailbox that carries the
interface's messages (R337). -/
structure World where
  exists_ : Bool
  ifs     : IfState
  pid     : Nat
  fwid    : BitVec 12
  fabric  : Bool
  members : BitVec 64
  ttb     : Word
  ptb     : Word
  sbase   : Nat
  slen    : Nat
  quota   : Nat
  held    : Nat
  crpb    : Nat
  crpn    : Nat
  psta    : Nat
  owner   : BitVec 512
  dataKey : BitVec 512
  keyNo   : Nat
  codeKey : BitVec 512
  wm      : BitVec 512
  images  : List Image
  handler : Option Image
  refused : Nat
  sealedW : Nat
  steps   : Tab Nat
  barIn   : List (Nat × Nat × Nat)
  poisonIn : List (Nat × Nat)
  toSend  : List Sent
  peers   : Tab (Nat × Nat × Nat)
  ended   : List Handle
  draining : Bool
  deleteAfter : Bool
  rejoin  : Bool
  rejoinAt : Nat
  spoilt  : List Nat
  unanswered : List Nat
  session : Option Nat
  deriving DecidableEq, Repr, Inhabited

/-- A freeze report (R254) or fabric report (R318) or another message for a supervisor: its kind and two words. -/
structure Report where
  kind : String
  core : Nat
  w0   : Word
  w1   : Word
  deriving DecidableEq, Repr, Inhabited

/-- A partition and the settings its supervisor makes (R209, R319, R321, R322, R348, R362, R371, R375). Times are in
microseconds. `shed` holds from a shed's beginning until RESUME, `away` from its DIAP (R316, R365); `deleting` that it goes with its
last world (R329, R330). -/
structure Part where
  exists_ : Bool
  bulkheads : List Nat
  running : Bool
  pm      : BitVec 512
  fwDigest : BitVec 512
  age     : Nat
  qmq     : Nat
  cplm    : List Nat
  coupled : List Nat
  tto     : Nat
  staging : Nat
  rwt     : Nat
  stq     : Nat
  srt     : Nat
  apb     : Nat
  apn     : Nat
  rjt     : Nat
  hostTo  : Nat
  dpri    : Nat
  plb     : Nat
  pln     : Nat
  prio    : List (BitVec 128)
  reports : List Report
  spare   : List Nat
  shed    : Bool
  away    : Bool
  retained : Bool
  deleting : Bool
  deriving DecidableEq, Repr, Inhabited

/-- A dependence wait of a ream (R218); `blind` that its word could not be reached when the ream was created, and is still to be looked
at (R331). -/
structure DepWait where
  addr : Nat
  val  : Nat
  met  : Bool
  blind : Bool
  deriving DecidableEq, Repr, Inhabited

/-- A die's share of a ream (R211, R212): the counter, the share's end, and the return list. -/
structure Share where
  die  : Nat
  ctr  : Nat
  end_ : Nat
  back : List Nat
  deriving DecidableEq, Repr, Inhabited

/-- A ream (R58, R210): the descriptor as latched and its progress. `recs` are its records that wait, are ready or run;
`ored` that an abort has put 2^63 into the counter (R220); `since` the time of R214; `passed` the barrier arrivals, by scope, id and index, that completed while their task was off its core (R255). -/
structure Ream where
  rid     : Nat
  pid     : Nat
  vf      : Nat
  rda     : Nat
  prog    : Nat
  n       : Nat
  chunk   : Nat
  quad    : Bool
  pri     : Nat
  dgp     : Bool
  maxs    : Nat
  roa     : Bool
  argb    : Nat
  cctr    : Nat
  budget  : Nat
  waits   : List DepWait
  shares  : List Share
  recs    : List Nat
  aborted : Bool
  ored    : Bool
  since   : Nat
  queue   : Option (Nat × Nat)
  passed  : List (Nat × Nat × Nat × Bool)
  deriving DecidableEq, Repr, Inhabited

/-- A barrier instance (R226-R228): its network, the ream it serves, the task indices that have arrived, and for a pod
barrier whether this module's BAR is sent. A poisoned one stands for the arrivals of its ream that are still to come (R228). -/
structure Barrier where
  pid   : Nat
  scope : Scope
  place : Nat
  id    : Nat
  rid   : Nat
  holders : List Nat
  barSent : Bool
  poisoned : Bool
  deriving DecidableEq, Repr, Inhabited

/-- What watches a word, by its world and flat address (R180, R216, R218): a waiting record, a dependence wait of a ream, or the
`waitc` at which a core holds, with N(b) and whether a write has met it. -/
inductive Watch where
  | record (vf wadr addr die rid : Nat) (quad : Bool)
  | dep (vf wadr rid i : Nat)
  | wait (vf wadr core val : Nat) (met : Bool)
  deriving DecidableEq, Repr, Inhabited

/-- A write to a watched granule that the home die has still to look at (R216): the granule, who watches, the word as the write
left it, and when that was. -/
structure Dirty where
  phys : Nat
  who  : Watch
  val  : Word
  us   : Nat
  tick : Nat
  deriving DecidableEq, Repr, Inhabited

/-- A field that the scheduler writes into word 0 or 1 of a continuation record, held while the record's home is in reset (R331): the
word's place, the field's lowest bit and width, and its value. -/
structure HeldField where
  vf   : Nat
  addr : Nat
  lo   : Nat
  w    : Nat
  val  : Nat
  deriving DecidableEq, Repr, Inhabited

/-- A software queue (R219, R374). `asked` is one more than the time at which an access to its ring in host memory began that has no
answer yet, 0 where none stands (R375). -/
structure Queue where
  vf    : Nat
  pid   : Nat
  base  : Nat
  log   : Nat
  host  : Bool
  tail  : Nat
  head  : Nat
  slot  : Option Nat
  torn  : Bool
  vector : Nat
  asked : Nat
  deriving DecidableEq, Repr, Inhabited

/-- A key slot (R195, R196): its generation and, while it holds a key, the VF of its world, the reach set and the key with the
number of its making; `mine` that this module opened it. -/
structure KeySlot where
  gen   : Nat
  live  : Bool
  vf    : Nat
  reach : BitVec 64
  key   : BitVec 256
  made  : Nat
  mine  : Bool
  deriving DecidableEq, Repr, Inhabited

/-- A `seqopen` installing or a `seqend` sealing (R196, R197): the core that waits, the slot, the members that have not
answered, and whether all went well. `opening` tells the two apart. -/
structure KeyOp where
  core    : Nat
  vf      : Nat
  slot    : Nat
  gen     : Nat
  opening : Bool
  await   : List Nat
  ok      : Bool
  deriving DecidableEq, Repr, Inhabited

/-- A window request that waits for the other supervisor's (R334). -/
structure WindowReq where
  pid  : Nat
  record : BitVec 128
  since : Nat
  deriving DecidableEq, Repr, Inhabited

/-! ## The management island -/

/-- The SPDM secure sessions of a port, and those between KEY_EXCHANGE and FINISH (R337, R372). -/
structure Spdm where
  sessions : List Nat
  pending : List Nat
  deriving DecidableEq, Repr, Inhabited

/-- Phases of a diapause and of boot (R361, R363, R368, R370, R382). -/
inductive Phase where
  | off | boot | up | freezing | drained | asleep | restored | eclosing
  deriving DecidableEq, Repr, Inhabited

/-- A region of the manifest's region list (R364): the entry's VF, first frame and count, the frames from the first on that
the drain came to and how many of them it drained (R363), the offset of its lines in the slot, the Merkle root of their MACs, and
whether that still checks. -/
structure Region where
  vf     : Nat
  first  : Nat
  count  : Nat
  cut    : Nat
  drained : Nat
  off    : Nat
  root   : List Byte
  rootOk : Bool
  deriving DecidableEq, Repr, Inhabited

/-- A core as it stood when its save area was written (R260): the world, the address, the core while it still holds what was saved
there, and how it stood. What the words of the area do not hold is taken from it (log 15). -/
structure Save where
  vf   : Nat
  addr : Nat
  src  : Option Nat
  core : Core
  deriving DecidableEq, Repr, Inhabited

/-- A cocoon manifest and the lines that stand before it in its slot (Tables 24-3 and 24-4), as the state it restores: the
regions, the bytes and line states of the frames drained or copied whole (`structs` lists the latter), the save areas and the cores
saved in them, and the sections. Keys stand in `wrapped` alone, by their places, under the sealing key (R364). `order` is the drain
order of its partitions; `base` and `at_` are where the slot begins and where the header lies. -/
structure Manifest where
  valid    : Bool
  mseq     : Nat
  svn      : Nat
  trig     : Nat
  shedOnly : Bool
  consumed : Bool
  base     : Nat
  at_      : Nat
  blen     : Nat
  nsec     : Nat
  digest   : BitVec 512
  sig      : List Byte
  mm0      : BitVec 512
  frames   : Nat
  pids     : List Nat
  order    : List Nat
  regions  : List Region
  bytes    : Memory
  states   : Tab LineState
  cores    : List (Nat × Core)
  areas    : List (Nat × List Byte)
  wrapped  : List (Nat × BitVec 512)
  reams    : List Ream
  barriers : List Barrier
  watches  : List Watch
  readies  : List (Nat × ReadyRec)
  queues   : List (Nat × Queue)
  worlds   : List (Nat × World)
  parts    : List (Nat × Part)
  keys     : List (Nat × KeySlot)
  mig      : List (Nat × MigEntry)
  windows  : List Window
  moves    : List Move
  arrivals : List Arrival
  keyOrder : List Nat
  saves    : List Save
  seqNo    : Nat
  structs  : List Nat
  records  : List (Nat × Nat × List Nat)
  us       : Nat
  deriving DecidableEq, Repr, Inhabited

/-- The deckle monitor and management core (R335-R339, R382). `full` holds while a diapause of the whole module, or the
eclosion after it, is under way; `lastSlot` is the slot of the last accepted manifest, 1 or 2; `brown` is one more than the time
a brown-out began, 0 outside one; `older` that boot tries the older of two stored firmware images; `waits` the BAR and BPOI packets
that came, with their ops, for worlds in diapause (R324, R358). `sealKey` is the sealing key and `attCert` the identity key's signature of
the attestation key (R335, R337), `seqOff` the arbiter's number at which a diapause powered off (R264), `man` the manifest in hand at
an eclosion, `pending` the one that a drain has made and that is not sealed yet. -/
structure Monitor where
  mm       : Tab (BitVec 512)
  ac       : Tab Nat
  mirror   : Tab Nat
  identity : BitVec 512
  attKey   : BitVec 512
  attCert  : List Byte
  sealKey  : BitVec 512
  seqOff   : Nat
  fwDigest : BitVec 512
  step     : Nat
  older    : Bool
  full     : Bool
  stopped  : Bool
  phase    : Phase
  mseq     : Nat
  svn      : Nat
  lastSlot : Nat
  trig     : Nat
  hreserve : Nat
  budget   : Nat
  brown    : Nat
  sheds    : List Nat
  manA     : Manifest
  manB     : Manifest
  resume   : Option Nat
  man      : Manifest
  pending  : Option Manifest
  waits    : List (Nat × Packet)
  deriving DecidableEq, Repr, Inhabited

/-- The host link and side band (R372-R376). `xl` holds the ATS translations in use, by VF, page and host page, `asks` counts the
translation requests, `ats` the invalidations that have not completed; `quar` lists when the tags of host accesses that timed out
entered quarantine (R319, R375). -/
structure HostLink where
  up      : Bool
  doe     : Spdm
  side    : Spdm
  ide     : List Nat
  ats     : List (Nat × Nat × Nat)
  xl      : List (Nat × Nat × Nat)
  asks    : Nat
  quar    : List Nat
  cap     : Nat
  power   : List Nat
  input   : Nat
  deriving DecidableEq, Repr, Inhabited

/-- What leaves the module (log 2): packets on lanes, messages to hosts and the side band, and lane control. -/
inductive Out where
  | packet (x : Sent)
  | link (plane peer : Nat) (what : String) (n : Nat)
  | msix (vf vector : Nat)
  | spdm (side : Bool) (code : Nat) (body : List Byte)
  | error (side : Bool) (what : String)
  | telemetry (die sensor : Nat) (value : BitVec 16)
  | note (what : String) (n : Nat)
  deriving DecidableEq, Repr, Inhabited

/-- A copy of the bad-frame and quarantine lists in storage-class memory (R297). -/
structure BadLists where
  frames : List Nat
  frameSeq : List Nat
  cores  : List Nat
  coreSeq : List Nat
  deriving DecidableEq, Repr, Inhabited

/-! ## The whole machine -/

/-- The module. `lost` are runs of frames (first, end) that an eclosion left poisoned but for those in `kept` (R369); `badSeq` and
`quarSeq` are the arbiter's numbers of the entries of the two lists (R297), `retiring` the frames whose retirement event is raised,
with its number, `taken` those whose retirement is under way, with their spares (R295),
`listCopies` the two copies of the lists that storage-class memory holds, the one written last last (R297), `changing` the peers toward
which a lane left the lit set and the change is not complete (R306),
`keysMade` counts the keys made (log 85), `dirty` lists the writes to watched granules that are still to be looked at, oldest first
(R216). `me` is
its pod module number; `us` counts microseconds since cold boot; `tick` and `agenda`, `ctx` and
`out` are the model's own (log 1, log 2). -/
structure State where
  me       : Nat
  cores    : Tab Core
  dies     : Tab Die
  bulks    : Tab Bulkhead
  parts    : Tab Part
  worlds   : Tab World
  -- memory and translation
  mem      : Memory
  lines    : Tab LineState
  lost     : List (Nat × Nat)
  kept     : List (Nat × Nat)
  tlb      : List TlbEntry
  dtlb     : List DescEntry
  shoots   : List Shootdown
  windows  : List Window
  winReqs  : List WindowReq
  corrected : Tab Nat
  badFrames : List Nat
  badSeq   : List Nat
  quarantine : List Nat
  quarSeq  : List Nat
  listCopies : List BadLists
  retiring : List (Nat × Nat)
  taken    : List (Nat × Nat)
  hostMem  : Memory
  saves    : List Save
  -- work
  reams    : List Ream
  nextRid  : Nat
  bars     : List Barrier
  watches  : List Watch
  dirty    : List Dirty
  heldFields : List HeldField
  queues   : Tab Queue
  -- keys
  keys     : Tab KeySlot
  keyOrder : List Nat
  keyOps   : List KeyOp
  keysMade : Nat
  -- fabric
  lanes    : Tab Lane
  lit      : Tab (List Nat)
  changing : List Nat
  held     : List Sent
  resend   : List Sent
  dropped  : Nat
  selfState : Nat
  mig      : Tab MigEntry
  moves    : List Move
  arrivals : List Arrival
  heldReqs : List (Nat × Packet)
  -- island
  seqNo    : Nat
  mon      : Monitor
  host     : HostLink
  us       : Nat
  -- the model's own
  tick     : Nat
  agenda   : List Turn
  ctx      : Ctx
  out      : List Out
  deriving DecidableEq, Repr

/-! ## How a step stops -/

/-- Reasons for which the machine stops. The spec gives every instruction an effect, so nothing raises one; safe. -/
inductive Fault where
  | none
  deriving DecidableEq, Repr

/-- Reasons for which the model gives no meaning. `notModelled` names an instruction whose meaning is not written;
raised by its arm of `exec` alone; safe. -/
inductive Refusal where
  | notModelled (mnemonic : String)
  deriving DecidableEq, Repr

/-! ## Reset -/

/-- A stream register after a drain: all zero and idle (Table 2-1). -/
def Stream.idle : Stream := default

/-- A semaphore after a drain: 0, not poisoned (Table 2-1). -/
def Sema.zero : Sema := default

/-- A channel after a drain (Table 2-1). -/
def Channel.idle : Channel := default

/-- A slot-table entry after a drain: EMPTY with contents zero (Table 2-1). -/
def SlotEntry.drained : SlotEntry := ⟨.empty, false, 0, ⟨0, 0⟩, false⟩

/-- A core after a drain (Table 2-1, Table 2-3, R123, R225): `p0` is 1, SNAPVER is 1, all else zero and nothing in
flight; it belongs to no world until its WORLD is set; accessors supply what is fixed (`k0`, IDENT). ACCW tables list what differs from 128. -/
def Core.drained : Core :=
  { (default : Core) with p := 1, creg := [(0x00C, 1)], run := .draining }

/-- A bulkhead at power-up: in no partition, held in reset with its rail at retention (R329), its clock at the nominal 700 MHz (R1; log 5). -/
def Bulkhead.off : Bulkhead :=
  ⟨none, true, false, false, 56, none, false, false, 56, 0, 0, 0, true⟩

/-- A partition that has just been created: every setting at its default (Table 11-1, R319, R321, R322, R348, R371,
R375). -/
def Part.fresh : Part :=
  { (default : Part) with
    age := 1000, qmq := 100, tto := 1000, rwt := 100000
    stq := 10000, srt := 1000000, rjt := 60000000, hostTo := 50000 }

/-- A key slot at cold boot: generation 1, no key (R195). -/
def KeySlot.fresh : KeySlot := ⟨1, false, 0, 0, 0, 0, false⟩

/-- The machine before power good (R382): boot has not begun, no partition, world, key, lane or ream exists, memory is
zero and every core is drained. Values the spec does not give are those log 5 names. -/
def State.reset : State where
  me := 0
  cores := []
  dies := []
  bulks := []
  parts := []
  worlds := []
  mem := []
  lines := []
  lost := []
  kept := []
  tlb := []
  dtlb := []
  shoots := []
  windows := []
  winReqs := []
  corrected := []
  badFrames := []
  badSeq := []
  quarantine := []
  quarSeq := []
  listCopies := []
  retiring := []
  taken := []
  hostMem := []
  saves := []
  reams := []
  nextRid := 0
  bars := []
  watches := []
  dirty := []
  heldFields := []
  queues := []
  keys := []
  keyOrder := []
  keyOps := []
  keysMade := 0
  lanes := []
  lit := []
  changing := []
  held := []
  resend := []
  dropped := 0
  selfState := 0
  mig := []
  moves := []
  arrivals := []
  heldReqs := []
  seqNo := 1
  mon := { (default : Monitor) with }
  host := { (default : HostLink) with cap := 36000 }
  us := 0
  tick := 0
  agenda := []
  ctx := ⟨0, 0, .sc, ⟨0, 0, 0, 0⟩, .alone, [], [], []⟩
  out := []

end Sys2Proof.Machine
end

