-- ==== Sys2Proof/Machine/Ops.lean ====
section
/-! DEFINITION. The named operations over the registers and tables of a core: reading and writing registers (R38-R40),
results in flight and their landing (R30, R63), what stops a bundle and in which order (R251), taking a trap (R186),
freezing (R252), the handler fault (R188), the consumption of an error (R290), and the return to the task (R187, R189,
R257). Every instruction's meaning is written over these. -/

namespace Sys2Proof.Machine

abbrev Result := Host.Outcome State Fault Refusal

/-! ## Places in the state -/

/-- Core `c`; a core that nothing has touched is as after a drain (R38). -/
def State.core (s : State) (c : Nat) : Core := Tab.get Core.drained s.cores c

/-- Replace core `c`. -/
def State.setCore (s : State) (c : Nat) (x : Core) : State := { s with cores := Tab.set Core.drained s.cores c x }

/-- Change core `c`. -/
def State.modCore (s : State) (c : Nat) (f : Core → Core) : State := s.setCore c (f (s.core c))

/-- The core whose bundle is in hand. -/
def State.cur (s : State) : Core := s.core s.ctx.core

/-- Change the core whose bundle is in hand. -/
def State.modCur (s : State) (f : Core → Core) : State := s.modCore s.ctx.core f

/-- Die `d`. -/
def State.die (s : State) (d : Nat) : Die := Tab.get default s.dies d

/-- Change die `d`. -/
def State.modDie (s : State) (d : Nat) (f : Die → Die) : State := { s with dies := Tab.set default s.dies d (f (s.die d)) }

/-- Bulkhead `b`. -/
def State.bulk (s : State) (b : Nat) : Bulkhead := Tab.get Bulkhead.off s.bulks b

/-- Change bulkhead `b`. -/
def State.modBulk (s : State) (b : Nat) (f : Bulkhead → Bulkhead) : State :=
  { s with bulks := Tab.set Bulkhead.off s.bulks b (f (s.bulk b)) }

/-- Partition `p`. -/
def State.part (s : State) (p : Nat) : Part := Tab.get default s.parts p

/-- Change partition `p`. -/
def State.modPart (s : State) (p : Nat) (f : Part → Part) : State :=
  { s with parts := Tab.set default s.parts p (f (s.part p)) }

/-- The world of VF `v`. -/
def State.world (s : State) (v : Nat) : World := Tab.get default s.worlds v

/-- Change the world of VF `v`. -/
def State.modWorld (s : State) (v : Nat) (f : World → World) : State :=
  { s with worlds := Tab.set default s.worlds v (f (s.world v)) }

/-- Something leaves the module. -/
def State.emit (s : State) (o : Out) : State := { s with out := s.out ++ [o] }

/-- The die of a core (Table 0-3). -/
def dieOf (c : Nat) : Nat := c / 128

/-- The bulkhead of a core (Table 0-3). -/
def bulkOf (c : Nat) : Nat := c / 16

/-- The rank-0 core of a core's quad (Table 0-3). -/
def quadLead (c : Nat) : Nat := c / 4 * 4

/-- The ranks of a core's quad, in rank order. -/
def quadCores (c : Nat) : List Nat := [quadLead c, quadLead c + 1, quadLead c + 2, quadLead c + 3]

/-! ## Registers (R38, R46) -/

/-- A scalar register; `s0` reads 0. -/
def Core.sreg (c : Core) (r : Nat) : Word := if r = 0 then 0 else Tab.get 0 c.s r

/-- A vector register. -/
def Core.vreg (c : Core) (r : Nat) : Vec := Tab.get 0 c.v r

/-- A predicate; `p0` reads 1. -/
def Core.preg (c : Core) (i : Nat) : Bool := i == 0 || c.p.getLsbD i

/-- A mask; `k0` reads all ones. -/
def Core.kreg (c : Core) (i : Nat) : Word := if i = 0 then BitVec.allOnes 64 else Tab.get 0 c.k i

/-- A matrix parameter register. -/
def Core.mpreg (c : Core) (i : Nat) : Word := Tab.get 0 c.mp i

/-- Poison of a scalar register; `s0` is never poisoned (R39). -/
def Core.spoi (c : Core) (r : Nat) : Option Poison := if r = 0 then none else Tab.get none c.sPoi r

/-- Poison of a vector register. -/
def Core.vpoi (c : Core) (r : Nat) : Option Poison := Tab.get none c.vPoi r

/-- A control register as the core holds it (R46); those of Table 2-3 that lie outside the core are read by `State.creg`. -/
def Core.cr (c : Core) (a : Nat) : Word := Tab.get 0 c.creg a

/-- The bits that Table 2-3 names; every other bit is reserved: it reads as zero and writes to it are ignored (R5). -/
def cregMask (a : Nat) : Word :=
  match a with
  | 0x000 => 0xFFFF003D
  | 0x002 => 0x1FFF
  | 0x003 => 0x7FFF
  | 0x004 => 0xFFFFFFFF
  | 0x007 => 0x1FFF
  | 0x008 => 0x1FFF
  | 0x009 => 0xFF
  | 0x00A => 0x1FFF
  | 0x00C => 0xFFFF
  | 0x00D => 0x1FFF1FFF
  | 0x00E => 0xFFFFF
  | 0x00F => 0xFF
  | _ => BitVec.allOnes 64

/-- Write a control register, reserved bits ignored (R5). -/
def Core.setCr (c : Core) (a : Nat) (v : Word) : Core := { c with creg := Tab.set 0 c.creg a (v &&& cregMask a), bad := c.bad.filter (· != .creg a) }

/-- A control register of core `c` (Table 2-3): IDENT from the core's and the module's numbers; SEQQ, TTB and PTB as the
core's world holds them. -/
def State.creg (s : State) (c a : Nat) : Word :=
  let w := s.world ((s.core c).cr 2 &&& 0xFF).toNat
  if a = 0x003 then BitVec.ofNat 64 (c + 512 * s.me)
  else if a = 0x00D then BitVec.ofNat 64 (w.held % 8192 + w.quota % 8192 * 65536)
  else if a = 0x010 then w.ttb
  else if a = 0x011 then w.ptb
  else (s.core c).cr a

/-- Privilege H (STATUS.PL, Table 2-4). -/
def Core.atH (c : Core) : Bool := (c.cr 0).getLsbD 2

/-- STATUS.CPL. -/
def Core.coupled (c : Core) : Bool := (c.cr 0).getLsbD 3

/-- STATUS.RANK. -/
def Core.rank (c : Core) : Nat := (c.cr 0).toNat / 16 % 4

/-- The VF of a core's WORLD. -/
def Core.vf (c : Core) : Nat := (c.cr 2).toNat % 256

/-- The PID of a core's WORLD. -/
def Core.pid (c : Core) : Nat := (c.cr 2).toNat / 256 % 32

/-- Set or clear bit `i` of STATUS. -/
def Core.setStatus (c : Core) (i : Nat) (b : Bool) : Core :=
  let m : Word := BitVec.ofNat 64 (2 ^ i)
  c.setCr 0 (if b then c.cr 0 ||| m else c.cr 0 &&& ~~~m)

/-- Set privilege H or T. -/
def Core.setPL (c : Core) (h : Bool) : Core := c.setStatus 2 h

/-- A write lands in a scalar register: it clears or sets the poison (R39) and a parity error; `s0` discards. -/
def Core.setS (c : Core) (r : Nat) (v : Word) (p : Option Poison) : Core :=
  if r = 0 then c else
  { c with s := Tab.set 0 c.s r v, sPoi := Tab.set none c.sPoi r p, bad := c.bad.filter (· != .s r) }

/-- A write lands in a vector register. -/
def Core.setV (c : Core) (r : Nat) (v : Vec) (p : Option Poison) : Core :=
  { c with v := Tab.set 0 c.v r v, vPoi := Tab.set none c.vPoi r p, bad := c.bad.filter (· != .v r) }

/-- A write lands in a predicate; `p0` discards. The file holds bit 0 at 1. The write clears the file's parity error (log 82). -/
def Core.setP (c : Core) (i : Nat) (b : Bool) : Core :=
  if i = 0 then c else
  let m : BitVec 16 := BitVec.ofNat 16 (2 ^ i)
  { c with p := if b then c.p ||| m else c.p &&& ~~~m, bad := c.bad.filter (· != .p) }

/-- A write lands in a mask; `k0` discards. -/
def Core.setK (c : Core) (i : Nat) (v : Word) : Core :=
  if i = 0 then c else { c with k := Tab.set 0 c.k i v, bad := c.bad.filter (· != .k i) }

/-- ACCWn (R42): 128 unless a routine targets the accumulator. -/
def Core.accWm (c : Core) (n : Nat) : Nat := Tab.get 128 c.accw n

/-- Set ACCWn. -/
def Core.setAccWm (c : Core) (n w : Nat) : Core := { c with accw := Tab.set 128 c.accw n w }

/-- Row `r` of accumulator `n` (R42). -/
def Core.accRow (c : Core) (n r : Nat) : Vec := Tab.get 0 c.acc (128 * n + r)

/-- Write a row of an accumulator. -/
def Core.setAccRow (c : Core) (n r : Nat) (v : Vec) : Core := { c with acc := Tab.set 0 c.acc (128 * n + r) v }

/-- Every bit of an accumulator is 0, its watermark 128 and its flags clear (`mclr`, R42). -/
def Core.clearAcc (c : Core) (n : Nat) : Core :=
  { c with
    acc := c.acc.filter fun x => x.1 / 128 != n
    accw := Tab.set 128 c.accw n 128
    ovf := Tab.set false c.ovf n false
    sat := Tab.set false c.sat n false
    bad := c.bad.filter (· != .acc n) }

/-- Stream register `n`. -/
def Core.stream (c : Core) (n : Nat) : Stream := Tab.get Stream.idle c.q n

/-- Change stream register `n`. -/
def Core.modStream (c : Core) (n : Nat) (f : Stream → Stream) : Core :=
  { c with q := Tab.set Stream.idle c.q n (f (c.stream n)) }

/-- Semaphore `n`. -/
def Core.sema (c : Core) (n : Nat) : Sema := Tab.get Sema.zero c.sem n

/-- Change semaphore `n`. -/
def Core.modSema (c : Core) (n : Nat) (f : Sema → Sema) : Core :=
  { c with sem := Tab.set Sema.zero c.sem n (f (c.sema n)) }

/-- Channel `n`. -/
def Core.chan (c : Core) (n : Nat) : Channel := Tab.get Channel.idle c.ch n

/-- Change channel `n`. -/
def Core.modChan (c : Core) (n : Nat) (f : Channel → Channel) : Core :=
  { c with ch := Tab.set Channel.idle c.ch n (f (c.chan n)) }

/-- Slot-table entry `n`. -/
def Core.slot (c : Core) (n : Nat) : SlotEntry := Tab.get SlotEntry.drained c.slots n

/-- Change slot-table entry `n`. -/
def Core.modSlot (c : Core) (n : Nat) (f : SlotEntry → SlotEntry) : Core :=
  { c with slots := Tab.set SlotEntry.drained c.slots n (f (c.slot n)) }

/-- The handle in SEQB (Table 2-3). -/
def Core.seqb (c : Core) : Handle := ⟨(c.cr 0xE).toNat % 4096, (c.cr 0xE).toNat / 4096 % 256⟩

/-! ## Signals (R175) -/

/-- The signal add: nothing on a poisoned semaphore, else saturating at 65,535 (R175). A signal of the current segment
is remembered for a rewind (R291). -/
def Core.signal (c : Core) (g : Sig) : Core :=
  if g.inc = 0 then c
  else if (c.sema g.sem).poison then c
  else
    let c := c.modSema g.sem fun x => { x with count := Nat.min 65535 (x.count + g.inc) }
    if g.seg = c.seg.num then { c with seg := { c.seg with signals := c.seg.signals ++ [(g.sem, g.inc)] } } else c

/-- A command that fails poisons its semaphore instead (R19). -/
def Core.signalFail (c : Core) (g : Sig) : Core :=
  if g.inc = 0 then c else c.modSema g.sem fun x => { x with poison := true }

/-- The signal of a WS field, for a command of the current segment. -/
def Core.sigOf (c : Core) (w : WS) : Sig := ⟨w.sinc.toNat, w.ssem.toNat, c.seg.num⟩

/-! ## Results in flight (R30, R63) -/

/-- A value of 64 bits as a pending value. -/
def Word.toVec (w : Word) : Vec := w.setWidth 2048

/-- The low 64 bits of a pending value. -/
def Vec.word (v : Vec) : Word := v.setWidth 64

/-- A result of latency `lat` enters the table of the privilege it was issued at (R63, R187). -/
def Core.push (c : Core) (cls : PendCls) (reg lat : Nat) (val : Vec) (poison : Option Poison)
    (zps : Option Nat := none) : Core :=
  let x : Pending := ⟨true, cls, reg, lat, poison, 0, val, c.issued, zps, 0, 0⟩
  if c.atH then { c with hpend := c.hpend ++ [x] } else { c with pend := c.pend ++ [x] }

/-- A scalar result of the op in hand; `s0` discards it (R20). -/
def State.putS (s : State) (r lat : Nat) (v : Word) : State :=
  if r = 0 then s else s.modCur fun c => c.push .s r lat (Word.toVec v) none

/-- A vector result of the op in hand. -/
def State.putV (s : State) (r lat : Nat) (v : Vec) (p : Option Poison := none) : State :=
  s.modCur fun c => c.push .v r lat v p

/-- A predicate result; `p0` discards it. -/
def State.putP (s : State) (r : Nat) (b : Bool) : State :=
  if r = 0 then s else s.modCur fun c => c.push .p r 1 (if b then 1 else 0) none

/-- A mask result; `k0` discards it. -/
def State.putK (s : State) (r lat : Nat) (v : Word) : State :=
  if r = 0 then s else s.modCur fun c => c.push .k r lat (Word.toVec v) none

/-- `p15` is set to 1 with latency 1 (R18, R40). -/
def State.setP15 (s : State) : State := s.modCur fun c => c.push .p15 15 1 1 none

/-- A write of latency 1 to a control register (R185). -/
def State.putCr (s : State) (a : Nat) (v : Word) : State := s.modCur fun c => c.push .creg a 1 (Word.toVec v) none

/-- The words of a pending write as R63 lays them out. -/
def Pending.word0 (x : Pending) : Word :=
  let cls := match x.cls with
    | .s => 0 | .v => 1 | .p => 2 | .k => 3 | .mp => 4 | .p15 => 5 | .creg => 6 | .snap => 7
  BitVec.ofNat 64 ((if x.valid then 1 else 0) + cls * 2 + x.reg % 64 * 16 + x.rem % 4096 * 1024 +
    (match x.poison with | some p => 4194304 + p.cause.toNat * 8388608 | none => x.cb % 16 * 8388608) + x.vidx % 64 * 134217728)

/-- A pending write with its first word replaced (R63, R193). -/
def Pending.setWord0 (x : Pending) (w : Word) : Pending :=
  let n := w.toNat
  let cls : PendCls := match n / 2 % 8 with
    | 0 => .s | 1 => .v | 2 => .p | 3 => .k | 4 => .mp | _ => .p15
  { x with
    valid := n % 2 = 1, cls := cls, reg := n / 16 % 64, rem := n / 1024 % 4096
    poison := if n / 4194304 % 2 = 1 then some ⟨BitVec.ofNat 4 (n / 8388608), .core⟩ else none
    cb := if n / 4194304 % 2 = 1 then 0 else n / 8388608 % 16
    vidx := n / 134217728 % 64 }

/-- The first word of an outstanding-load entry (R64). -/
def Load.word0 (x : Load) : Word :=
  BitVec.ofNat 64 ((if x.valid then 1 else 0) + (if x.arrived then 2 else 0) + x.kind % 8 * 4 +
    (if x.vec then 32 else 0) + x.reg % 64 * 64 + x.rem % 4096 * 4096 + x.ty % 16 * 16777216 + x.cause % 16 * 268435456)

/-- An outstanding-load entry with its first word replaced (R64, R193). -/
def Load.setWord0 (x : Load) (w : Word) : Load :=
  let n := w.toNat
  { x with
    valid := n % 2 = 1, arrived := n / 2 % 2 = 1, kind := n / 4 % 8, vec := n / 32 % 2 = 1, reg := n / 64 % 64
    rem := n / 4096 % 4096, ty := n / 16777216 % 16, cause := n / 268435456 % 16 }

/-- Entry `i` of a table changed, the table lengthened by invalid entries when it is shorter (R193). -/
def editAt [Inhabited α] : List α → Nat → (α → α) → List α
  | [], 0, f => [f default]
  | [], i + 1, f => default :: editAt [] i f
  | x :: xs, 0, f => f x :: xs
  | x :: xs, i + 1, f => x :: editAt xs i f

/-- Write a latched word (R193): the pending-write table, the outstanding-load table, the late-atomic words, or the
pending vector area. Indices outside those have been refused before. -/
def Core.writeLatched (c : Core) (idx : Nat) (v : Word) : Core :=
  if 0x180 ≤ idx ∧ idx < 0x200 then { c with late := Tab.set 0 c.late idx v }
  else if 0x200 ≤ idx ∧ idx < 0x300 then
    let e := (idx - 0x200) / 2
    { c with pend := editAt c.pend e fun x =>
        if idx % 2 = 0 then x.setWord0 v else { x with w1 := v } }
  else if 0x300 ≤ idx ∧ idx < 0x400 then
    let e := (idx - 0x300) / 4
    { c with loads := editAt c.loads e fun x =>
        match idx % 4 with
        | 0 => x.setWord0 v
        | 1 => { x with addr := v }
        | 2 => { x with w2 := v }
        | _ => { x with w3 := v } }
  else if 0x800 ≤ idx ∧ idx < 0x1000 then
    let e := (idx - 0x800) / 32
    let l := (idx - 0x800) % 32
    let old := Tab.get (0 : Vec) c.pvec e
    let m : Vec := (BitVec.allOnes 64).setWidth 2048 <<< (64 * l)
    { c with pvec := Tab.set 0 c.pvec e ((old &&& ~~~m) ||| ((v.setWidth 2048) <<< (64 * l))) }
  else c

/-- One result lands (R30, R39, R40). -/
def Core.land (c : Core) (x : Pending) : Core :=
  if !x.valid then c else
  match x.cls with
  | .s => c.setS x.reg (Vec.word x.val) x.poison
  | .v =>
    let c := c.setV x.reg x.val x.poison
    match x.zps with
    | some n => { c with zstat := c.zstat ++ [n] }.modStream n fun q => { q with zps := true }
    | none => c
  | .p => c.setP x.reg (x.val.getLsbD 0)
  | .k => c.setK x.reg (Vec.word x.val)
  | .mp => { c with mp := Tab.set 0 c.mp x.reg (Vec.word x.val), bad := c.bad.filter (· != .mp x.reg) }
  | .p15 => c.setP 15 true
  | .creg => c.setCr x.reg (Vec.word x.val)
  | .snap => c.writeLatched x.reg (Vec.word x.val)

/-- A load whose result would land for the next bundle is superseded by a later-issued write that lands in the same
register in the same cycle (R30). -/
def Load.supersede (landed : List Pending) (x : Load) : Load :=
  if x.rem = 1 ∧ landed.any (fun y => y.reg == x.reg && y.cls == (if x.vec then .v else .s) && x.born < y.born)
  then { x with dead := true } else x

/-- Land a list of results: in table order, so that the later-issued prevails, the settings of `p15` last (R30, R40). -/
def Core.landAll (c : Core) (xs : List Pending) : Core :=
  (xs.filter (·.cls == .p15)).foldl Core.land ((xs.filter (·.cls != .p15)).foldl Core.land c)

/-- Signals owed at the end of a latency (Table 1-5) whose time has come, at the privilege of their issue. -/
def Core.payOwed (c : Core) : Core :=
  let due (g : Bool × Nat × Sig) : Bool := g.1 == c.atH && g.2.1 == 0
  (c.owed.filter due).foldl (fun c g => c.signal g.2.2) { c with owed := c.owed.filter (!due ·) }

/-- A mark that no store-buffer position reaches: what waits behind it waits for a coupled quad's commit point (R242). -/
def farBehind : Nat := 2 ^ 64

/-- Every store that stood in the buffer before position `n` has left it. -/
def Core.storesPast (c : Core) (n : Nat) : Bool := decide (n < farBehind) && c.ssb.all fun e => decide (n ≤ e.pos)

/-- What waits behind a commit point of a coupled quad waits for the stores before position `n` only (R242). -/
def Core.freeSpan (c : Core) (n : Nat) : Core :=
  let at_ (b : Nat) : Nat := if farBehind ≤ b then n else b
  let free (h : Channel) : Channel := { h with cmds := h.cmds.map fun m => { m with behind := at_ m.behind } }
  { c with
    port := c.port.map fun p => { p with span := 0 }
    semOps := c.semOps.map fun o => (at_ o.1, o.2)
    ch := c.ch.map fun (x : Nat × Channel) => (x.1, free x.2) }

/-- The place of a semaphore change in the order of R175. -/
def SemOp.order : SemOp → Nat
  | .poison _ | .unpoison _ => 0
  | .set .. => 1
  | .add .. => 2

/-- One semaphore change (R175, Table 8-6). -/
def Core.semOp (c : Core) (o : SemOp) : Core :=
  match o with
  | .poison n => c.modSema n fun x => { x with poison := true }
  | .unpoison n => c.modSema n fun x => { x with poison := false }
  | .set n k => c.modSema n fun x => { x with count := Nat.min k 65535 }
  | .add n k => if (c.sema n).poison then c else c.modSema n fun x => { x with count := Nat.min 65535 (x.count + k) }

/-- Semaphore changes whose segment's stores have committed take effect, in the order of R175 (R184); those of
two segments that one commit frees are ordered like those of one cycle (DESIGN CHOICE, log 105). -/
def Core.settle (c : Core) : Core :=
  let ready := c.semOps.filter fun o => c.storesPast o.1
  let run (k : Nat) (c : Core) : Core := (ready.filter fun o => o.2.order == k).foldl (fun c o => c.semOp o.2) c
  run 2 (run 1 (run 0 { c with semOps := c.semOps.filter fun o => !c.storesPast o.1 }))

/-- Streams loaded three bundles ago govern their registers, the later loaded prevailing (R45, R152). -/
def Core.loadStreams (c : Core) : Core :=
  (c.qNew.filter (·.left == 0)).foldl (fun c i => c.modStream i.reg fun _ => i.q)
    { c with qNew := c.qNew.filter (·.left != 0) }

/-- The results that have no bundle left to wait for land (R30): those of the handler at H, of the task at T (R187). -/
def Core.landDue (c : Core) : Core :=
  let c1 :=
    if c.atH then
      let due := c.hpend.filter (·.rem == 0)
      ({ c with hpend := c.hpend.filter (·.rem != 0), hloads := c.hloads.map (Load.supersede due) } : Core).landAll due
    else
      let due := c.pend.filter (·.rem == 0)
      ({ c with pend := c.pend.filter (·.rem != 0), loads := c.loads.map (Load.supersede due) } : Core).landAll due
  c1.loadStreams.settle

/-- The sticky bits of results that have landed stand in STATUS (R154, R269). -/
def Core.setZeros (c : Core) : Core :=
  c.zstat.foldl (fun c n => (c.setStatus 0 true).setStatus (16 + n) true) { c with zstat := [] }

/-- Results of walks that an access has taken, or will not take, are forgotten (R281). -/
def Core.dropRes (c : Core) (u : XUser) : Core := { c with wres := c.wres.filter fun r => r.user != u }

/-- A bundle has issued: its semaphore changes, then the signals of its cycle (R175), those of commands that completed in it (Table 1-5)
among them; the sticky bits of what landed in it can be read, and every count of R30 and R145 at its privilege goes down by 1. -/
def Core.count (c : Core) : Core :=
  let c := (c.settle.payOwed.setZeros).dropRes .issue
  let dec (x : Pending) : Pending := { x with rem := x.rem - 1 }
  let decL (x : Load) : Load := { x with rem := if x.rem ≤ 1 then x.rem else x.rem - 1 }
  let owe (g : Bool × Nat × Sig) : Bool × Nat × Sig := if g.1 = c.atH then (g.1, g.2.1 - 1, g.2.2) else g
  let tick (i : Incoming) : Incoming := if i.atH = c.atH then { i with left := i.left - 1 } else i
  let c := { c with issued := c.issued + 1, qNew := c.qNew.map tick, owed := c.owed.map owe }
  if c.atH then { c with hpend := c.hpend.map dec, hloads := c.hloads.map decL }
  else { c with pend := c.pend.map dec, loads := c.loads.map decL }

/-! ## Outcomes of loads (R145, R146, R256) -/

/-- The replay word of a late load (Table 14-4). -/
def Load.replayWord (x : Load) : Word :=
  BitVec.ofNat 64 (x.kind % 8 * 2 ^ 61 + (if x.kind = 0 ∨ x.kind = 5 then x.ty % 16 * 2 ^ 57 else 0) +
    (if x.kind = 5 then x.addr.toNat / 2 ^ 54 % 8 * 2 ^ 54 else 0) + x.addr.toNat % 2 ^ 54)

/-- A load's outcome lands in its destination: its value, its cause, or LATE with the replay word; a late atomic's
operands go to the late-atomic words (R256). -/
def Core.outcome (c : Core) (x : Load) : Core :=
  let late := !x.arrived
  let val : Vec := if late then Word.toVec x.replayWord else x.val
  let poison : Option Poison :=
    if late then some ⟨8, .core⟩ else if x.cause = 0 then none else some ⟨BitVec.ofNat 4 x.cause, x.unit⟩
  let c := if x.dead then c
    else if x.vec then c.setV x.reg val poison else c.setS x.reg (Vec.word val) poison
  let c := if late ∧ x.kind = 5 then
      { c with late := Tab.set 0 (Tab.set 0 c.late (0x180 + 2 * x.reg) x.b) (0x181 + 2 * x.reg) x.x } else c
  let c := c.dropRes (.load x.seq)
  if x.arrived ∧ x.zero then { c with zstat := c.zstat ++ [x.addr.toNat / 64 % 16] } else c

/-- The LD signals of loads whose outcomes land in the cycle of a bundle are made with the others of that cycle (Table 1-5, R175). -/
def Core.oweLoads (c : Core) (xs : List Load) : Core :=
  { c with owed := c.owed ++ (xs.filter fun x => decide (x.sig.inc ≠ 0)).map fun x => (c.atH, 0, x.sig) }

/-- The loads whose outcome is fixed as the next bundle issues: one bundle to go, or a replay entry (R145, R257). A handler may have
given a reply that arrived no bundle to wait for. -/
def Load.due (x : Load) : Bool := x.valid && (decide (x.rem ≤ 1) || x.replay)

/-- Fix the outcomes that are due and free their entries (R145); replays land first, as if issued at the return (R257). -/
def Core.fixLoads (c : Core) : Core :=
  if c.atH then
    let due := c.hloads.filter Load.due
    (due.foldl Core.outcome { c with hloads := c.hloads.filter (!·.due) }).oweLoads due
  else
    let due := c.loads.filter Load.due
    let order := (due.filter (·.replay)) ++ (due.filter (!·.replay))
    (order.foldl Core.outcome { c with loads := c.loads.filter (!·.due) }).oweLoads order

/-! ## Latched tables (R186, R187) -/

/-- Give each vector value in flight its place in the pending vector area, entries first, then loads, and put the
values into the words (R63, R64). -/
def Core.latch (c : Core) : Core :=
  let c := c.setZeros
  let pend := (c.pend.foldl (fun (acc : List Pending × Nat) x =>
    if x.cls == .v then (acc.1 ++ [{ x with vidx := acc.2, w1 := 0 }], acc.2 + 1)
    else (acc.1 ++ [{ x with w1 := Vec.word x.val }], acc.2)) ([], 0))
  let loads := (c.loads.foldl (fun (acc : List Load × Nat) x =>
    if x.vec then (acc.1 ++ [{ x with w2 := BitVec.ofNat 64 acc.2 }], acc.2 + 1)
    else (acc.1 ++ [{ x with w2 := if x.arrived then Vec.word x.val else 0 }], acc.2)) ([], pend.2))
  let area := (pend.1.filter (·.cls == .v)).map (·.val) ++
    (loads.1.filter (·.vec)).map fun x => if x.arrived then x.val else 0
  { c with
    pend := pend.1, loads := loads.1
    pvec := (area.foldl (fun (acc : Tab Vec × Nat) v => (Tab.set 0 acc.1 acc.2 v, acc.2 + 1)) ([], 0)).1 }

/-- Take the latched tables up again, with whatever the handler has written into them (R193). -/
def Core.unlatch (c : Core) : Core :=
  { c with
    pend := (c.pend.filter (·.valid)).map fun x =>
      { x with val := if x.cls == .v then Tab.get 0 c.pvec x.vidx else Word.toVec x.w1 }
    loads := (c.loads.filter (·.valid)).map fun x =>
      if x.arrived then { x with val := if x.vec then Tab.get 0 c.pvec x.w2.toNat else Word.toVec x.w2 } else x
    pvec := [] }

/-! ## Traps (R186, R188, R249) -/

/-- Every rank of a coupled quad issues on its own until all stand at meeting bundles (R224). -/
def State.outOfStep (s : State) (c : Nat) : State :=
  if (s.core c).coupled then (quadCores c).foldl (fun s r => s.modCore r fun x => { x with away := true }) s else s

/-- Entry into the handler (R186): TCAUSE, TINFO and TPC are written, H is set, the tables are latched, and the next
bundle is at RPLVEC for LATE and at TVEC for every other cause. -/
def Core.enter (c : Core) (cause : Nat) (info : Word) (resume : Nat) : Core :=
  let c := (((c.setCr 9 (BitVec.ofNat 64 cause)).setCr 0xB info).setCr 0xA (BitVec.ofNat 64 resume)).setPL true
  { c.latch with
    pc := (if cause = 8 then c.cr 8 else c.cr 7).toNat % 8192
    hpend := [], hloads := [], hCount := 0, holding := false }

/-- A core waits no longer at a `waitc`: nothing is watched for it (R180). -/
def State.dropWait (s : State) (c : Nat) : State :=
  let mine (w : Watch) : Bool := match w with | .wait _ _ k _ _ => k == c | _ => false
  { s with watches := s.watches.filter fun w => !mine w, dirty := s.dirty.filter fun x => !mine x.who }

/-- A trap of core `c` at T that a handler takes. -/
def State.trapEntry (s : State) (c cause : Nat) (info : Word) (resume : Nat) : State :=
  ((s.dropWait c).modCore c fun x => x.enter cause info resume).outOfStep c

/-- A freeze begins (R252): the core stops, and its report is delivered when the latch is complete. The cores of a
coupled quad that a synchronous cause stops alone leave the others to issue on (R224). -/
def State.freezeCore (s : State) (c cause : Nat) (info : Word) (hf : Bool) (holding : Bool := false) : State :=
  ((s.dropWait c).modCore c fun x =>
    { x with
      run := .stopping, freeze := some ⟨cause, info, 0, false, hf, false, false, false, false⟩, holding := holding, wres := []
      early := false, closing := none }).outOfStep c

/-- Whether the consumption of an error rewinds (R290): a checkpoint is held, and the retry record has room and does not
hold the unit. -/
def Core.retries (c : Core) (u : ErrUnit) : Bool :=
  c.seg.check.isSome && !c.seg.retry.contains u && decide (c.seg.retry.length < 4) && u != .window

/-- The consumption of an error at T (R290), at the bundle `pc` of its core: a rewind, or the trap. -/
def State.consume (s : State) (c : Nat) (u : ErrUnit) (info : Word) (pc : Nat) : State :=
  let x := s.core c
  if !x.retries u then s.trapEntry c 6 info pc
  else
    (s.modCore c fun x =>
      { x with run := .rewinding, holding := false, seg := { x.seg with retry := x.seg.retry ++ [u] } }).outOfStep c

/-- The partners of a rank whose core is quarantined freeze at the same boundary (R294, R259): one that cannot stop yet at its next. -/
def State.stopPartners (s : State) (c : Nat) : State :=
  if !(s.core c).coupled then s
  else ((quadCores c).filter (· != c)).foldl (fun s r =>
    let x := s.core r
    if x.run = .running ∧ (!x.atH || (x.hpend.isEmpty && x.hloads.isEmpty)) then s.freezeCore r 7 0 false x.holding
    else if x.run = .running ∨ x.run = .rewinding then s.modCore r fun x => { x with stopReq := some (x.stopReq.getD ⟨7, false, 0⟩) }
    else s) s

/-- A known-answer mismatch (R294): the first rewinds, or freezes where no checkpoint is held; the second quarantines, and in a
coupled quad all four ranks freeze. -/
def State.katf (s : State) (c : Nat) : State :=
  let x := s.core c
  if x.mism = 0 then
    let s := s.modCore c fun x => { x with mism := 1 }
    if x.seg.check.isNone then s.freezeCore c 7 0 false
    else (s.modCore c fun x => { x with run := .rewinding, holding := false }).outOfStep c
  else
    let s := (s.modCore c fun x => { x with mism := 2 }).stopPartners c
    if x.seg.check.isNone then
      s.modCore c fun x => { x with run := .stopping, freeze := some ⟨7, 0, 0, false, false, false, false, true, false⟩ }
    else
      (s.modCore c fun x =>
        { x with run := .rewinding, freeze := some ⟨7, 0, 0, false, false, false, false, true, false⟩ }).outOfStep c

/-- The unit number under which a walk request looks up a descriptor alone; no tile and no page has it. -/
def descUnit : Nat := 2 ^ 32

/-- A miss becomes a walk request of the core's die, joined to one for the same unit (R282). -/
def State.want (s : State) (c : Nat) (u : XUser) (tid unit : Nat) (wr : Bool) : State :=
  let v := (s.core c).vf
  let same (w : Walk) : Bool := w.vf == v && w.tid == tid && w.unit == unit
  let join (q : List Walk) : List Walk :=
    q.map fun w => if same w && !w.who.contains (c, u) then { w with who := w.who ++ [(c, u)] } else w
  s.modDie (dieOf c) fun x =>
    if x.walkQ.any same || x.walking.any same then { x with walkQ := join x.walkQ, walking := join x.walking }
    else { x with walkQ := x.walkQ ++ [⟨[(c, u)], v, tid, unit, wr, none, none, none⟩] }

/-- What a stop does to the core (R249, R188): a hold waits; a cause met at H freezes with a handler fault; at T it goes
where Table 14-1 sends it. The bundle has not issued. -/
def State.takeStop (s : State) (k : StopKind) : State :=
  let c := s.ctx.core
  let x := s.core c
  match k with
  | .hold cond => s.modCore c fun x => { x with holding := true, holdCond := cond }
  | .walk tid unit wr => (s.want c .issue tid unit wr).modCore c fun x => { x with holding := true, holdCond := 7 }
  | .trap cause info =>
    let s := s.modCore c fun x => x.dropRes .issue
    if x.atH then s.freezeCore c cause info true else s.trapEntry c cause info s.ctx.pc
  | .consume u info =>
    let s := s.modCore c fun x => x.dropRes .issue
    if x.atH then s.freezeCore c 6 info true else s.consume c u info s.ctx.pc
  | .freeze cause info => s.freezeCore c cause info x.atH
  | .katf =>
    let s := s.modCore c fun x => x.dropRes .issue
    if x.atH then s.freezeCore c 7 0 true else s.katf c

/-- A stop comes before another (R251): by row, then slot, then field bit. -/
def Stop.before (a b : Stop) : Bool :=
  a.row < b.row || (a.row == b.row && (a.slot < b.slot || (a.slot == b.slot && a.bit < b.bit)))

/-- The stop that a bundle takes, none where it issues. -/
def pickStop : List Stop → Option Stop
  | [] => none
  | x :: xs =>
    match pickStop xs with
    | none => some x
    | some y => if y.before x then some y else some x

/-- The place of a slot in the order of R251. -/
def slotRank : Slot → Nat
  | .sc => 0 | .va => 1 | .vb => 2 | .mx => 3 | .ld => 4 | .st => 5 | .cp => 6 | .sy => 7

/-- A stop of the op in hand: its row of Table 14-2 and the operand bit of the field concerned. -/
def State.stop (s : State) (row bit : Nat) (k : StopKind) : Stop := ⟨row, slotRank s.ctx.slot, bit, k⟩

/-- The op in hand holds under a condition of word 0x0001 (R62). -/
def State.holdIf (s : State) (b : Bool) (cond : Nat) : List Stop := if b then [s.stop 0 0 (.hold cond)] else []

/-- Field code in bits 12:9 of TINFO, bit in 8:0 (R29, Table 14-1). -/
def fieldInfo (sl : Slot) (bit : Nat) : Word := BitVec.ofNat 64 (sl.fieldCode * 512 + bit)

/-- An op that needs H and is issued at T traps PRIV (R185, Table 14-1): TINFO names bit 0 of its opcode. -/
def State.privStop (s : State) : List Stop :=
  if s.cur.atH then [] else [s.stop 5 0 (.trap 2 (fieldInfo s.ctx.slot s.ctx.slot.base))]

/-- ALIGN with its reason and offending bit (R144, R167): of several reasons the lowest is reported, then the lowest field. -/
def State.alignStop (s : State) (reason bit opBit : Nat) : Stop :=
  s.stop 7 (64 * reason + opBit) (.trap 14 (BitVec.ofNat 64 (reason * 8192 + s.ctx.slot.fieldCode * 512 + bit)))

/-- OCC: TINFO holds the field code and the lowest bundle bit of the field that names the resource (Table 14-1). -/
def State.occStop (s : State) (field : Option Nat) : Stop :=
  s.stop 8 (field.getD 0) (.trap 13 (match field with
    | some b => fieldInfo s.ctx.slot (s.ctx.slot.base + 8 + b)
    | none => fieldInfo s.ctx.slot 0))

/-- The evaluation of one op (log 1): in a probe it adds what would stop its bundle; in effect mode it takes effect; alone
it is stopped or takes effect. -/
def issueOp (stops : State → List Stop) (eff : State → State) (s : State) : Result :=
  match s.ctx.mode with
  | .probe => .next { s with ctx := { s.ctx with stops := s.ctx.stops ++ stops s } }
  | .effect => .next (eff s)
  | .alone =>
    match pickStop (stops s) with
    | none => .next (eff s)
    | some x => .next (s.takeStop x.kind)
  | .late => .next s

/-- A hold of an op that must first do something else (R177, R181, R182, R190, R196, R197, R201): it comes after every other stop. -/
def State.lateHoldOf (s : State) (cond : Nat) : List Stop := [s.stop 12 0 (.hold cond)]

/-- Such a hold under hold condition 5. -/
def State.lateHold (s : State) : List Stop := s.lateHoldOf 5

/-- The evaluation of an op that holds for what it has itself begun: `act` begins it or carries it on. An op that `closes`
its segment holds until its bundle's stores are in the buffer. -/
def lateOp (closes : Bool) (stops : State → List Stop) (act eff : State → State) (s : State) : Result :=
  match s.ctx.mode with
  | .probe =>
    let own := if closes && !s.cur.early then s.lateHold else []
    .next { s with ctx := { s.ctx with stops := s.ctx.stops ++ stops s ++ own } }
  | .effect => .next (eff s)
  | .late => .next (act s)
  | .alone =>
    match pickStop (stops s) with
    | none => .next (eff s)
    | some x =>
      if x.row = 12 then
        let s := act s
        match pickStop (stops s) with
        | none => .next (eff s)
        | some x => .next (s.takeStop x.kind)
      else .next (s.takeStop x.kind)

end Sys2Proof.Machine
end

