-- ==== Sys2Proof/Machine/Operands.lean ====
section
/-! DEFINITION. Operands: the registers an op reads and what a poisoned or parity-failing one stops (R39, R288,
R256); signed and natural views of values (R84); the elements of vectors (R102) and which of them a mask governs
(R104); addresses (R57, R144). -/

namespace Sys2Proof.Machine

/-- A source of an op: a register and the operand bit at which the field that names it begins. -/
inductive Src where
  | s (r bit : Nat) | v (r bit : Nat) | k (r bit : Nat) | p | acc (n bit : Nat) | mp (n bit : Nat) | gix | creg (a bit : Nat)
  deriving DecidableEq, Repr

/-- TINFO of a consumer trap (R256): the register, 1 in bit 6 for a vector register, and the slot's field code. -/
def consumerInfo (sl : Slot) (r : Nat) (vec : Bool) : Word :=
  BitVec.ofNat 64 (r % 64 + (if vec then 64 else 0) + sl.fieldCode * 512)

/-- What a poison stops: its cause, or the consumption of an error for UNCORR (R39, R290). A cause that R39 does not name,
which only a handler or a restored image can have written, acts as UNCORR of the core (DESIGN CHOICE, log 81), so that
TCAUSE never holds a code that R7 leaves unwritten. -/
def poisonKind (p : Poison) (info : Word) : StopKind :=
  if p.cause = 3 ∨ p.cause = 5 ∨ p.cause = 8 then .trap p.cause.toNat info
  else if p.cause = 6 then .consume p.unit info
  else .consume .core info

/-- The stops of the sources that the op in hand reads: a poisoned register traps with its cause, a register whose
parity fails is an error of the core (R39, R288). -/
def State.srcStops (s : State) (l : List Src) : List Stop :=
  l.filterMap fun x =>
    let c := s.cur
    match x with
    | .s r b =>
      if r ≠ 0 ∧ .s r ∈ c.bad then some (s.stop 6 b (.consume .core (consumerInfo s.ctx.slot r false)))
      else (c.spoi r).map fun p => s.stop 6 b (poisonKind p (consumerInfo s.ctx.slot r false))
    | .v r b =>
      if .v r ∈ c.bad then some (s.stop 6 b (.consume .core (consumerInfo s.ctx.slot r true)))
      else (c.vpoi r).map fun p => s.stop 6 b (poisonKind p (consumerInfo s.ctx.slot r true))
    | .k r b =>
      if r ≠ 0 ∧ .k r ∈ c.bad then some (s.stop 6 b (.consume .core (consumerInfo s.ctx.slot r false))) else none
    | .p => if .p ∈ c.bad then some (s.stop 6 0 (.consume .core (consumerInfo s.ctx.slot 0 false))) else none
    | .acc n b => if .acc n ∈ c.bad then some (s.stop 6 b (.consume .core (consumerInfo s.ctx.slot n false))) else none
    | .mp n b => if .mp n ∈ c.bad then some (s.stop 6 b (.consume .core (consumerInfo s.ctx.slot n false))) else none
    | .creg a b => if .creg a ∈ c.bad then some (s.stop 6 b (.consume .core (consumerInfo s.ctx.slot a false))) else none
    | .gix => if .gix ∈ c.bad then some (s.stop 6 0 (.consume .core (consumerInfo s.ctx.slot 0 false))) else none

/-- The scalar register `r` of the core in hand. -/
def State.sv (s : State) (r : BitVec 6) : Word := s.cur.sreg r.toNat

/-- Whether a scalar register can be read now, so that what its value decides can be looked at. -/
def State.clean (s : State) (r : BitVec 6) : Bool := (s.srcStops [.s r.toNat 0]).isEmpty

/-! ## Integers -/

/-- The value of `n` bits read as two's complement. -/
def toSigned (w n : Nat) : Int := if n < 2 ^ (w - 1) then Int.ofNat n else Int.ofNat n - Int.ofNat (2 ^ w)

/-- `y mod 2^w` as `w` bits. -/
def ofInt (w : Nat) (y : Int) : Nat := (y % Int.ofNat (2 ^ w)).toNat

/-- `wrap(y)` (R84). -/
def wrap (y : Int) : Word := BitVec.ofInt 64 y

/-- An element of an integer type as an integer (R107). -/
def Ty.val (t : Ty) (n : Nat) : Int := if t.isSigned then toSigned t.width n else Int.ofNat n

/-- The least value of an integer type (Table 3-4). -/
def Ty.lo (t : Ty) : Int := if t.isSigned then -Int.ofNat (2 ^ (t.width - 1)) else 0

/-- The greatest value of an integer type (Table 3-4). -/
def Ty.hi (t : Ty) : Int := if t.isSigned then Int.ofNat (2 ^ (t.width - 1)) - 1 else Int.ofNat (2 ^ t.width) - 1

/-- An integer held to a range. -/
def clampInt (lo hi x : Int) : Int := if x < lo then lo else if hi < x then hi else x

/-! ## Elements (R102, R104) -/

/-- Element `e` of width `w`. -/
def Vec.elem (w : Nat) (v : Vec) (e : Nat) : Nat := v.toNat / 2 ^ (w * e) % 2 ^ w

/-- The first `n` elements of width `w` of a number. -/
def splitNat (w : Nat) : Nat → Nat → List Nat
  | 0, _ => []
  | n + 1, x => x % 2 ^ w :: splitNat w n (x / 2 ^ w)

/-- The number whose elements of width `w` are given, lowest first. -/
def joinNat (w : Nat) : List Nat → Nat
  | [] => 0
  | x :: xs => x % 2 ^ w + 2 ^ w * joinNat w xs

/-- The elements of a vector of width `w`, element 0 first. -/
def Vec.elems (w : Nat) (v : Vec) : List Nat := splitNat w (2048 / w) v.toNat

/-- The vector of given elements; those left out are zero. -/
def Vec.ofElems (w : Nat) (l : List Nat) : Vec := BitVec.ofNat 2048 (joinNat w l)

/-- The lane of element `e` of width `w` (Table 5-1). -/
def laneOf (e w : Nat) : Nat := if w = 64 then 2 * e else e * w / 32

/-- Whether a mask makes element `e` of width `w` active (R104). -/
def active (m : Word) (e w : Nat) : Bool := m.getLsbD (laneOf e w)

/-- Active elements take the result, the others keep the old element (R104). -/
def mergeElems (m : Word) (w : Nat) (new old : List Nat) : List Nat :=
  ((new.zip old).zipIdx).map fun x => if active m x.2 w then x.1.1 else x.1.2

/-! ## Addresses -/

/-- The lowest bit of `n` at or above `lo` that is set. -/
def lowBit (n lo w : Nat) : Nat := (lowestSet n lo w).getD 0

/-- Alignment and range of an address register (R144, reasons 1 and 2; R167): the reason and offending bit of the
lowest reason that applies. `bits` is the width of the space. -/
def addrFault (a : Nat) (align bits : Nat) : Option (Nat × Nat) :=
  if a % align ≠ 0 then some (1, lowBit a 0 12)
  else if a / 2 ^ bits ≠ 0 then some (2, lowBit a bits (64 - bits)) else none

end Sys2Proof.Machine
end

