-- ==== Sys2Proof/Machine/Translate.lean ====
section
/-! DEFINITION. Tensor addressing and translation (spec/16_tensor_addressing_and_translation.md): descriptors and the
layout unit (R271-R273), the page-table and tile-map walks (R275-R277), the second stage and windows (R278, R333),
permissions (R276), the translation caches and walkers (R281, R282), and fault reports (R284). -/

namespace Sys2Proof.Machine

/-! ## The second stage (R278, R333) -/

/-- Where an input frame lies: the physical frame, the VF whose keys seal it, and whether a window of another partition led there. -/
structure Resolved where
  frame  : Nat
  vf     : Nat
  window : Bool
  deriving DecidableEq, Repr

/-- The second stage of VF `vf` (R278), then its windows (R333); a frame on the bad-frame list is out of bound (R297). It is
looked up at each access, as though a port cache had evicted it (R281; log 106). -/
def State.stage (s : State) (vf f : Nat) (wr : Bool) : Option Resolved :=
  let w := s.world vf
  let r : Option Resolved :=
    if f < w.slen then some ⟨w.sbase + f, vf, false⟩
    else
      match s.windows.find? fun n => n.rvf == vf && decide (n.rbase ≤ f) && decide (f < n.rbase + n.wlen) with
      | none => none
      | some n =>
        let g := s.world n.gvf
        let f' := n.gbase + f - n.rbase
        if (wr && !n.rw) || g.slen ≤ f' then none else some ⟨g.sbase + f', n.gvf, g.pid != w.pid⟩
  r.filter fun x => !s.badFrames.contains x.frame

/-- The bulkhead of a physical frame (R279). -/
def frameBulk (f : Nat) : Nat := f / 393216

/-- The home die of a physical frame (R235, R279). -/
def frameDie (f : Nat) : Nat := f / 3145728

/-- Whether an eclosion left the lines of a frame poisoned (R369). -/
def State.lostFrame (s : State) (f : Nat) : Bool :=
  let within (x : Nat × Nat) : Bool := decide (x.1 ≤ f) && decide (f < x.2)
  s.lost.any within && !s.kept.any within

/-- The condition of a physical line. -/
def State.lineState (s : State) (l : Nat) : LineState := Tab.get ⟨none, if s.lostFrame (l / 1024) then 2 else 0⟩ s.lines l

/-! ## Descriptors and the layout unit (R54, R271-R273) -/

/-- A tensor descriptor (Table 2-9). -/
structure TDesc where
  ty    : Nat
  bfp   : Bool
  bm2   : Nat
  ndim  : Nat
  ext   : List Nat
  tlg   : List Nat
  ntile : Nat
  mapb  : Nat
  ro    : Bool
  deriving DecidableEq, Repr

/-- The fields of a descriptor. -/
def TDesc.ofNat (n : Nat) : TDesc :=
  { ty := fieldOf n 48 4, bfp := bitOf n 52, bm2 := fieldOf n 53 3, ndim := fieldOf n 56 2 + 1
    ext := splitNat 24 4 (n / 2 ^ 64), tlg := splitNat 4 4 (n / 2 ^ 160)
    ntile := fieldOf n 176 24, mapb := fieldOf n 0 48, ro := bitOf n 200 }

/-- log2 of the element size in bytes of a type code (R271). -/
def tyShift (c : Nat) : Nat :=
  match c with
  | 1 | 5 | 9 | 10 => 1
  | 2 | 6 | 8 => 2
  | 3 | 7 => 3
  | _ => 0

/-- ⌈a / b⌉. -/
def ceilDiv (a b : Nat) : Nat := (a + b - 1) / b

/-- Records of a tile of width `b` (R68). -/
def recsPerTile (b : Nat) : Nat := 65536 / (4 * b + 1)

/-- Product of a list. -/
def prod (l : List Nat) : Nat := l.foldl (· * ·) 1

/-- Blocks along dimension 0 (R273). -/
def TDesc.nb0 (d : TDesc) : Nat := ceilDiv (d.ext.getD 0 1) 32

/-- Tiles that the layout needs (R272, R273). -/
def TDesc.tileCount (d : TDesc) : Nat :=
  if d.bfp then
    ceilDiv (d.nb0 * d.ext.getD 1 1 * d.ext.getD 2 1 * d.ext.getD 3 1) (recsPerTile (d.bm2 + 2))
  else prod ((d.ext.zip d.tlg).map fun x => ceilDiv x.1 (2 ^ x.2))

/-- Whether a descriptor is accepted (R51, R54, R271). -/
def TDesc.ok (n : Nat) : Bool :=
  let d := TDesc.ofNat n
  let dims := (d.ext.zip d.tlg).zipIdx
  fieldOf n 201 55 == 0 && fieldOf n 58 6 == 0 && d.mapb % 16 == 0 &&
  dims.all (fun x => decide (1 ≤ x.1.1) && (decide (x.2 < d.ndim) || x.1.1 == 1)) &&
  (if d.bfp then d.ty == 0 && decide (d.bm2 ≤ 6) && d.tlg.all (· == 0)
   else decide (d.ty ≤ 12) && d.bm2 == 0 && dims.all (fun x => decide (x.2 < d.ndim) || x.1.2 == 0) &&
     decide (tyShift d.ty + d.tlg.sum ≤ 16)) &&
  decide (d.tileCount ≤ d.ntile)

/-- Tile and byte offset of the element, or of the record of the element, at coordinates `c` (R272, R273). -/
def TDesc.place (d : TDesc) (c : List Nat) : Nat × Nat :=
  if d.bfp then
    let b := d.bm2 + 2
    let blk := c.getD 0 0 / 32 + d.nb0 * (c.getD 1 0 + d.ext.getD 1 1 * (c.getD 2 0 + d.ext.getD 2 1 * c.getD 3 0))
    (blk / recsPerTile b, (4 * b + 1) * (blk % recsPerTile b))
  else
    let dims := (c.zip (d.ext.zip d.tlg))
    let r := dims.foldl (fun (a : Nat × Nat × Nat × Nat) x =>
      let xd := 2 ^ x.2.2
      (a.1 + x.1 / xd * a.2.1, a.2.1 * ceilDiv x.2.1 xd, a.2.2.1 + x.1 % xd * a.2.2.2, a.2.2.2 * xd)) (0, 1, 0, 1)
    (r.1, r.2.2.1 * 2 ^ tyShift d.ty)

/-- Whether coordinates lie inside the extent (R53). -/
def TDesc.inside (d : TDesc) (c : List Int) : Bool :=
  (c.zip d.ext).all fun x => decide (0 ≤ x.1) && decide (x.1 < Int.ofNat x.2)

/-! ## Walks (R57, R275, R277) -/

/-- Why a walk fails: the reason and level of Table 16-3, and the physical line of an uncorrectable read. -/
structure WalkErr where
  reason : Nat
  level  : Nat
  line   : Option Nat
  deriving DecidableEq, Repr

/-- A read of a walk structure at a second-stage address (R277, R278); it is checked by its ECC alone (log 11). -/
def State.walkRead (s : State) (vf sa n : Nat) : Except WalkErr Nat :=
  match s.stage vf (sa / 65536 % 2 ^ 36) false with
  | none => .error ⟨7, 0, none⟩
  | some r =>
    let pa := r.frame * 65536 + sa % 65536
    if (s.lineState (pa / 64)).ecc ≠ 0 then .error ⟨10, 0, some (pa / 64)⟩ else .ok (s.mem.val pa n)

/-- Whether a page-table entry is accepted at a level (R57, Table 2-12). -/
def pteOk (e lvl : Nat) : Bool :=
  bitOf e 0 && (bitOf e 1 == (lvl == 3)) && fieldOf e 4 10 == 0 && fieldOf e 52 12 == 0 &&
  (if lvl = 3 then fieldOf e 14 2 == 0 else bitOf e 2 && bitOf e 3)

/-- The level-3 entry of a linear address (R57). -/
def State.flatWalk (s : State) (vf a : Nat) : Except WalkErr Nat := do
  let e1 ← s.walkRead vf ((s.world vf).ptb.toNat + 8 * fieldOf a 37 11) 8
  if !pteOk e1 1 then .error ⟨5, 1, none⟩ else do
  let e2 ← s.walkRead vf (fieldOf e1 14 38 * 2 ^ 14 + 8 * fieldOf a 26 11) 8
  if !pteOk e2 2 then .error ⟨5, 2, none⟩ else do
  let e3 ← s.walkRead vf (fieldOf e2 14 38 * 2 ^ 14 + 8 * fieldOf a 16 10) 8
  if !pteOk e3 3 then .error ⟨5, 3, none⟩ else .ok e3

/-- A walk structure that lies in the flat space (R275). -/
def State.flatRead (s : State) (vf a n : Nat) : Except WalkErr Nat := do
  let e ← s.flatWalk vf (a % 2 ^ 48)
  if !bitOf e 2 then .error ⟨6, 3, none⟩
  else s.walkRead vf (fieldOf e 16 36 * 65536 + a % 65536) n

/-- The descriptor of a tensor as it lies in memory, checked (R275 step 1). -/
def State.descBits (s : State) (vf tid : Nat) : Except WalkErr (BitVec 256) := do
  let n ← s.flatRead vf ((s.world vf).ttb.toNat + 32 * tid) 32
  if TDesc.ok n then .ok (BitVec.ofNat 256 n) else .error ⟨0, 0, none⟩

/-- The fields of a checked descriptor. -/
def TDesc.ofBits (b : BitVec 256) : TDesc := TDesc.ofNat b.toNat

/-- The descriptor of a tensor for an agent that reads it at this instant. -/
def State.tdesc (s : State) (vf tid : Nat) : Except WalkErr TDesc := do
  let b ← s.descBits vf tid
  .ok (TDesc.ofBits b)

/-- The tile-map entry of a tile (R275 step 3), checked by R51 and R55. -/
def State.tileEntry (s : State) (vf : Nat) (d : TDesc) (tile : Nat) : Except WalkErr Nat := do
  if d.ntile ≤ tile then .error ⟨9, 0, none⟩ else do
  let e ← s.flatRead vf (d.mapb + 16 * tile) 16
  if fieldOf e 100 28 ≠ 0 ∨ fieldOf e 36 28 ≠ 0 ∨ fieldOf e 10 6 ≠ 0 ∨ (fieldOf e 0 2 = 3 ∧ fieldOf e 64 36 ≠ 0)
  then .error ⟨1, 0, none⟩ else .ok e

/-- The fields of a tile-map entry (Table 2-11) as a cached entry: writes need W and a tensor that is not RO (R276). -/
def XEntry.ofTile (e : Nat) (ro : Bool) : XEntry :=
  ⟨fieldOf e 4 6, fieldOf e 64 36, ⟨fieldOf e 16 12, fieldOf e 28 8⟩, fieldOf e 0 2, bitOf e 2, bitOf e 3 && !ro⟩

/-- The last step of a tensor's walk, by its descriptor (R275, R276): an absent tile is a fault. -/
def State.walkTile (s : State) (vf : Nat) (d : TDesc) (unit : Nat) : Except WalkErr XEntry := do
  let e ← s.tileEntry vf d unit
  if fieldOf e 0 2 = 0 then .error ⟨2, 0, none⟩ else .ok (XEntry.ofTile e d.ro)

/-- The walk of R275: tensor 0 by the page table, any other through its descriptor and tile map. -/
def State.walk (s : State) (vf tid unit : Nat) : Except WalkErr XEntry := do
  if tid = 0 then do
    let e ← s.flatWalk vf (unit * 65536)
    .ok ⟨s.me, fieldOf e 16 36, ⟨0, 0⟩, 1, bitOf e 2, bitOf e 3⟩
  else do
    let d ← s.tdesc vf tid
    s.walkTile vf d unit

/-! ## Faults (R284) -/

/-- Word 1 of the report of a translation fault (Table 16-3). -/
def xinfo (tid unit lvl : Nat) (prb wr : Bool) (reason : Nat) : Word :=
  BitVec.ofNat 64 (unit % 2 ^ 32 * 2 ^ 32 + tid % 2 ^ 24 * 256 + lvl % 4 * 64 + prb.toNat * 32 + wr.toNat * 16 + reason)

/-- A translation fault: a second-stage bound is BOUND, every other is TFAULT. -/
def xfault (tid unit lvl : Nat) (prb wr : Bool) (reason : Nat) : XFault :=
  ⟨reason == 7, xinfo tid unit lvl prb wr reason⟩

/-- REASON of a fault (Table 16-3). -/
def XFault.reason (f : XFault) : Nat := f.info.toNat % 16

/-- A fault as an access meets it: whether it writes and whether a probe met it are those of the access. -/
def XFault.seen (f : XFault) (prb wr : Bool) : XFault :=
  { f with info := (f.info &&& ~~~0x30) ||| BitVec.ofNat 64 (prb.toNat * 32 + wr.toNat * 16) }

/-- The report cause of a translation fault. -/
def XFault.cause (f : XFault) : Nat := if f.bound then 4 else 3

/-- Permissions and the second stage of an access under an entry, in the order of R276. -/
def State.permit (s : State) (vf tid unit : Nat) (x : XEntry) (wr prb : Bool) : Option XFault :=
  let lvl := if tid = 0 then 3 else 0
  if !wr && !x.rd then some (xfault tid unit lvl prb wr (if tid = 0 then 6 else 3))
  else if wr && !x.w then some (xfault tid unit lvl prb wr (if tid = 0 then 6 else 4))
  else if x.owner = s.me ∧ x.state ≠ 3 ∧ (s.stage vf x.frame wr).isNone then some (xfault tid unit 0 prb wr 7)
  else none

/-! ## Translation caches and walkers (R281-R283) -/

/-- What a lookup finds: what it looks for, a fault, or nothing until a walk has run. -/
inductive Look (α : Type) where
  | hit (x : α)
  | fault (f : XFault)
  | miss
  deriving DecidableEq, Repr

/-- What a walk has brought an access of core `c`. -/
def State.brought (s : State) (c : Nat) (u : XUser) (tid unit : Nat) : Option WalkRes :=
  (s.core c).wres.find? fun r => r.user == u && r.tid == tid && r.unit == unit

/-- The cached entry of a unit (R281). -/
def State.cached (s : State) (c tid unit : Nat) : Option XEntry :=
  (s.tlb.find? fun e => e.core == c && e.vf == (s.core c).vf && e.tid == tid && e.unit == unit).map (·.xl)

/-- An entry with an access's permissions. -/
def State.permitted (s : State) (c tid unit : Nat) (x : XEntry) (wr prb : Bool) : Look XEntry :=
  match s.permit (s.core c).vf tid unit x wr prb with
  | some f => .fault f
  | none => .hit x

/-- A lookup by an access of core `c` (R281): what its walk has brought it, or the cached entry, with its permissions. -/
def State.look (s : State) (c : Nat) (u : XUser) (tid unit : Nat) (wr prb : Bool) : Look XEntry :=
  match s.brought c u tid unit with
  | some ⟨_, _, _, _, _, some f⟩ => .fault (f.seen prb wr)
  | some ⟨_, _, _, _, some x, none⟩ => s.permitted c tid unit x wr prb
  | _ =>
    match s.cached c tid unit with
    | some x => s.permitted c tid unit x wr prb
    | none => .miss

/-- The cached descriptor of a tensor (R281). -/
def State.cachedDesc (s : State) (c tid : Nat) : Option (BitVec 256) :=
  (s.dtlb.find? fun e => e.core == c && e.vf == (s.core c).vf && e.tid == tid).map (·.desc)

/-- A lookup of a tensor's descriptor by an access of core `c` (R275, R281). -/
def State.lookDesc (s : State) (c : Nat) (u : XUser) (tid : Nat) (wr : Bool) : Look TDesc :=
  match s.brought c u tid descUnit with
  | some ⟨_, _, _, _, _, some f⟩ => .fault (f.seen false wr)
  | some ⟨_, _, _, some b, _, none⟩ => .hit (TDesc.ofBits b)
  | _ =>
    match s.cachedDesc c tid with
    | some b => .hit (TDesc.ofBits b)
    | none => .miss

/-- A core's translation of a unit for an agent that does not wait at issue: the walk is requested when it is missing. -/
def State.seek (s : State) (c : Nat) (u : XUser) (tid unit : Nat) (wr : Bool) : State :=
  match s.look c u tid unit wr false with
  | .miss => s.want c u tid unit wr
  | _ => s

/-- A walk reads its structures (R275, R277): a descriptor, a page's entry, or a tile's entry by the descriptor that the cache of the
core that first asked for it holds, or that it reads too. Unit 0 stands in the report of a fault of a descriptor's walk, whose access has no unit yet
(R284; log 86). -/
def State.runWalk (s : State) (w : Walk) : Walk × Option Nat :=
  let rep (f : WalkErr) : XFault := xfault w.tid (if w.unit = descUnit then 0 else w.unit) f.level false w.wr f.reason
  if w.unit = descUnit then
    match s.descBits w.vf w.tid with
    | .ok b => ({ w with desc := some b }, none)
    | .error f => ({ w with fault := some (rep f) }, f.line)
  else
    let d := if w.tid = 0 then none else w.who.head?.bind fun x => s.cachedDesc x.1 w.tid
    let r := match d with
      | some b => s.walkTile w.vf (TDesc.ofBits b) w.unit
      | none => s.walk w.vf w.tid w.unit
    let desc := if w.tid = 0 ∨ d.isSome then none else (s.descBits w.vf w.tid).toOption
    match r with
    | .ok e => ({ w with entry := some e, desc := desc }, none)
    | .error f => ({ w with fault := some (rep f), desc := desc }, f.line)

/-- Entries of a core's part of a cache beyond the first `n` are evicted, the oldest last in the list (R281, Table 16-2). -/
def keepFirst (mine : α → Bool) : Nat → List α → List α
  | _, [] => []
  | 0, x :: t => if mine x then keepFirst mine 0 t else x :: keepFirst mine 0 t
  | n + 1, x :: t => if mine x then x :: keepFirst mine n t else x :: keepFirst mine (n + 1) t

/-- A core's caches take an entry (Table 16-2: 256 tiles, 128 pages). -/
def State.fillTlb (s : State) (e : TlbEntry) : State :=
  let same (t : TlbEntry) : Bool := t.core == e.core && t.vf == e.vf && t.tid == e.tid && t.unit == e.unit
  let kind (t : TlbEntry) : Bool := t.core == e.core && (t.tid == 0) == (e.tid == 0)
  { s with tlb := keepFirst kind (if e.tid = 0 then 128 else 256) (e :: s.tlb.filter fun t => !same t) }

/-- A core's descriptor cache takes a descriptor (Table 16-2: 16). -/
def State.fillDesc (s : State) (e : DescEntry) : State :=
  let same (t : DescEntry) : Bool := t.core == e.core && t.vf == e.vf && t.tid == e.tid
  { s with dtlb := keepFirst (fun t => t.core == e.core) 16 (e :: s.dtlb.filter fun t => !same t) }

/-- Whether the access that asked for a walk still stands. -/
def Core.awaits (c : Core) (u : XUser) : Bool :=
  match u with
  | .issue => c.run == .running && c.holding && c.holdCond == 7
  | .load n => (c.loads ++ c.hloads).any fun x => x.valid && x.seq == n && !x.performed
  | .stream q => !(c.stream q).aq.isEmpty || !(c.stream q).dq.isEmpty || c.qNew.any (·.reg == q)
  | .chan n => !(c.chan n).cmds.isEmpty
  | .store => !c.ssb.isEmpty
  | .port n => c.port.any (·.id == n)

/-- A walk's result reaches one that waits for it: its core's caches, and the access itself (R281, R282). -/
def State.bring (s : State) (w : Walk) (c : Nat) (u : XUser) : State :=
  let s := match w.desc with | some b => s.fillDesc ⟨c, w.vf, w.tid, b⟩ | none => s
  let s := match w.entry with | some e => s.fillTlb ⟨c, w.vf, w.tid, w.unit, e⟩ | none => s
  s.modCore c fun k => if !k.awaits u then k else
    { k with wres := (k.wres.filter fun r => !(r.user == u && r.tid == w.tid && r.unit == w.unit)) ++
        [⟨u, w.tid, w.unit, w.desc, w.entry, w.fault⟩] }

end Sys2Proof.Machine
end

