-- ==== Sys2Proof/Machine/MemPath.lean ====
section
/-! DEFINITION. The paths to memory: lines sealed under their tweak and handle (R342), reads and writes at the home
(R235, R238), the remote-data caches (R236), partial writes of bad lines (R384), key handles (R195), what an acquire
discards (R236), the words that a die watches (R216), and the events the memory controllers raise (R295). -/

namespace Sys2Proof.Machine

/-! ## Keys (R195, R333) -/

/-- Key slot `n`. -/
def State.key (s : State) (n : Nat) : KeySlot := Tab.get KeySlot.fresh s.keys n

/-- Whether a handle opens lines of VF `vf`: the null handle, or a live one of that world (R56, R195). -/
def State.handleLive (s : State) (vf : Nat) (h : Handle) : Bool :=
  h == ⟨0, 0⟩ || ((s.key h.slot).live && (s.key h.slot).gen == h.gen && (s.key h.slot).vf == vf && h.slot != 0)

/-! ## The arbiter (R264) -/

/-- An event reaches the package arbiter and takes the next sequence number. -/
def State.raise (s : State) (what : String) (n : Nat) : State :=
  { s with seqNo := s.seqNo + 1, out := s.out ++ [.note what n] }

/-! ## Reaching a frame (R299, R331) -/

/-- Whether a frame can be reached: yes, not yet (its bulkhead is being reset), or never (a window to an absent one). -/
inductive Reach where
  | yes | wait | absent
  deriving DecidableEq, Repr

/-- How an access reaches a frame (R299, R331). A frame of a bulkhead that is being reset is waited for, except, until its cores are
drained, by what the cores of a bulkhead in reset have still to finish: `own` is the bulkhead of the core for which the access is made
(log 19). -/
def State.reachFrame (s : State) (r : Resolved) (own : Option Nat := none) : Reach :=
  let b := s.bulk (frameBulk r.frame)
  if b.absent || (r.window && (b.gateShut || b.inReset)) then .absent
  else if b.gateShut && (b.inReset || !own.any fun o => (s.bulk o).gateShut) then .wait
  else .yes

/-! ## Lines -/

/-- Address of line `l` in bytes. -/
def lineAddr (l : Nat) : Nat := l * 64

/-- What a read finds: the bytes, 0 or the cause 5 or 6 (R146), and the unit of an error (R290). -/
structure Got where
  bytes : List Byte
  cause : Nat
  unit  : ErrUnit
  deriving DecidableEq, Repr

/-- Causes of two parts of one access: TFAULT before SEALED, SEALED before UNCORR (R146). -/
def joinCause (a b : Nat) : Nat :=
  if a = 3 ∨ b = 3 then 3 else if a = 5 ∨ b = 5 then 5 else if a = 6 ∨ b = 6 then 6 else 0

/-- The number of the key that a handle of VF `vf` names: the world's data key under the null handle (R56, R342). -/
def State.keyNo (s : State) (vf : Nat) (h : Handle) : Nat := if h = ⟨0, 0⟩ then (s.world vf).keyNo else (s.key h.slot).made

/-- The tag of a line of a unit (R342). -/
def State.tagOf (s : State) (vf tid unit line : Nat) (h : Handle) : LineTag :=
  ⟨(s.world vf).fwid, tid, unit, line, h, s.keyNo vf h⟩

/-- Whether a line opens under a tag: 5 where its key is gone or its MAC fails, 6 where its ECC fails (R198, R200, R289).
A line that nothing has written opens under any tag (log 6). -/
def State.opens (s : State) (l vf : Nat) (t : LineTag) : Nat :=
  let st := s.lineState l
  if !s.handleLive vf t.handle then 5
  else if st.ecc ≠ 0 then 6
  else match st.tag with
    | none => 0
    | some u => if u = t then 0 else 5

/-- A retirement event is raised (R295): its frame and its number wait for the supervisor. -/
def State.raiseRetirement (s : State) (frame : Nat) : State :=
  { s.raise "retirement" frame with
    retiring := if s.retiring.any (·.1 == frame) then s.retiring else s.retiring ++ [(frame, s.seqNo)] }

/-- After a failed read a transient error is gone, and a read that fails the ECC raises a retirement event (R295). -/
def State.afterRead (s : State) (l cause : Nat) : State :=
  if cause = 6 then
    ({ s with lines := Tab.modify ⟨none, 0⟩ s.lines l fun st => { st with ecc := if st.ecc = 1 then 0 else st.ecc } } : State).raiseRetirement
      (l / 1024)
  else s

/-- Lines of a remote-data cache: 16 MiB (R1). -/
def rdcLines : Nat := 262144

/-- The 64-byte line of another module that a granule lies on. -/
def RemoteLine.line (r : RemoteLine) : BitVec 12 × Nat × Nat := (r.fwid, r.mod, r.addr / 64)

/-- Lines of other modules that a cache holds granules of. -/
def Die.remoteLines (d : Die) : Nat := (d.rdcRemote.map RemoteLine.line).eraseDups.length

/-- A cache takes a line; the oldest leaves where it has no room (R1, R236). -/
def Die.fillLine (d : Die) (r : RdcLine) : Die :=
  let l := d.rdc ++ [r]
  { d with rdc := l.drop (l.length + d.remoteLines - rdcLines) }

/-- Up to `n` of the oldest lines of other modules leave a cache that holds too many. -/
def Die.shrinkRemote (d : Die) : Nat → Die
  | 0 => d
  | n + 1 => match d.rdcRemote with
    | [] => d
    | r :: _ =>
      if d.rdc.length + d.remoteLines ≤ rdcLines then d
      else Die.shrinkRemote { d with rdcRemote := d.rdcRemote.filter fun x => x.line != r.line } n

/-- A cache takes granules of another module; the oldest leave where it has no room (R1, R161). -/
def Die.fillRemote (d : Die) (l : List RemoteLine) : Die :=
  let same (r : RemoteLine) : Bool := l.any fun x => x.fwid == r.fwid && x.mod == r.mod && x.addr == r.addr
  Die.shrinkRemote { d with rdcRemote := d.rdcRemote.filter (fun r => !same r) ++ l } l.length

/-- The granules of a range that a cache holds, where it holds all of them. -/
def Die.remoteVal (d : Die) (fwid : BitVec 12) (mod addr : Nat) : Nat → Option (List Byte)
  | 0 => some []
  | n + 1 => do
    let r ← d.rdcRemote.find? fun x => x.fwid == fwid && x.mod == mod && x.addr == addr
    let t ← Die.remoteVal d fwid mod (addr + 8) n
    some (leBytes 8 r.data.toNat ++ t)

/-- Bytes of another module from `addr` on leave a cache, and what is on its way from there is not cached either (R238). -/
def Die.dropRemote (d : Die) (fwid : BitVec 12) (mod addr n : Nat) : Die :=
  let late (r : Req) : Bool := (r.op == 1 || r.op == 2) && r.target == mod && decide (r.addr / 64 ≤ (addr + n - 1) / 64) &&
    decide (addr / 64 ≤ (r.addr + 255) / 64)
  { d with
    rdcRemote := d.rdcRemote.filter fun x =>
      !(x.fwid == fwid && x.mod == mod && decide (addr / 64 ≤ x.addr / 64) && decide (x.addr / 64 ≤ (addr + n - 1) / 64))
    reqs := d.reqs.map fun r => if late r then { r with stale := true } else r }

/-- One 64-byte line read by an agent of die `d`: at its home from a home-die agent, else through the die's remote-data
cache, which it fills when `fill` says so (R235, R236). -/
def State.readLine (s : State) (d : Nat) (fill : Bool) (l vf : Nat) (t : LineTag) : State × List Byte × Nat :=
  let home := frameDie (l / 1024)
  let cached := if home = d ∨ !fill then none
    else (s.die d).rdc.find? fun x => x.line == l && x.tag == t
  match cached with
  | some x => (s, x.data, if s.handleLive vf t.handle then 0 else 5)
  | none =>
    let cause := s.opens l vf t
    let bytes := if cause = 0 then s.mem.bytes (lineAddr l) 64 else List.replicate 64 0
    let s := s.afterRead l cause
    let s := if home = d ∨ !fill ∨ cause ≠ 0 then s else s.modDie d fun x => x.fillLine ⟨l, t, bytes⟩
    (s, bytes, cause)

/-- Lines `k` on of a unit, until `n` bytes from offset `off` are read. -/
def State.readLines (s : State) (d : Nat) (fill : Bool) (frame vf : Nat) (tag : Nat → LineTag) :
    Nat → Nat → State × List Byte × Nat
  | _, 0 => (s, [], 0)
  | k, n + 1 =>
    let r := s.readLine d fill (frame * 1024 + k) vf (tag k)
    let q := State.readLines r.1 d fill frame vf tag (k + 1) n
    (q.1, r.2.1 ++ q.2.1, joinCause r.2.2 q.2.2)

/-- Accesses to a tile wait while its move stands at step 4 or 5 of Table 22-2. -/
def State.heldTile (s : State) (vf tid unit : Nat) : Bool :=
  tid != 0 && s.moves.any fun m => decide (4 ≤ m.step) && m.vf == vf && m.tid == tid && m.tile == unit

/-- The `n` bytes at offset `off` of a unit under an entry of this module, read by an agent of die `d` (R238). `none`
while the frame cannot be reached yet; `own` as in `State.reachFrame`. -/
def State.readUnit (s : State) (d : Nat) (fill : Bool) (vf tid unit : Nat) (x : XEntry) (off n : Nat)
    (own : Option Nat := none) : Option (State × Got) :=
  if s.heldTile vf tid unit then none else
  match s.stage vf x.frame false with
  | none => some (s, ⟨List.replicate n 0, 6, .window⟩)
  | some r =>
    match s.reachFrame r own with
    | .wait => none
    | .absent => some (s, ⟨List.replicate n 0, 6, .window⟩)
    | .yes =>
      let k0 := off / 64
      let cnt := (off + n - 1) / 64 - k0 + 1
      let q := s.readLines d fill r.frame r.vf (fun k => s.tagOf r.vf tid unit k x.handle) k0 cnt
      some (q.1, ⟨(q.2.1.drop (off % 64)).take n, q.2.2, .frame r.frame⟩)

/-! ## Where the flat space lies (R57) -/

/-- A walk of the flat space for an agent that takes its own translation at this instant, with permissions. -/
def State.flatEntry (s : State) (vf a : Nat) (wr : Bool) : Option XEntry :=
  match s.walk vf 0 (a / 65536) with
  | .error _ => none
  | .ok x => if (s.permit vf 0 (a / 65536) x wr false).isNone then some x else none

/-- The granule of a flat address as a physical address, none where it does not translate. -/
def State.flatPhys (s : State) (vf a : Nat) : Option Nat :=
  match s.flatEntry vf a false with
  | none => none
  | some x => (s.stage vf x.frame false).map fun r => r.frame * 65536 + a % 65536

/-! ## Writes -/

/-- The world and flat address of the word that is watched. -/
def Watch.word (w : Watch) : Nat × Nat :=
  match w with
  | .record vf a .. => (vf, a)
  | .dep vf a .. => (vf, a)
  | .wait vf a .. => (vf, a)

/-- Whether a watch is on the granule at a physical address; a word is watched where it lies now (R216). -/
def State.watching (s : State) (g : Nat) (w : Watch) : Bool :=
  match s.flatPhys w.word.1 w.word.2 with
  | some p => p / 8 * 8 == g
  | none => false

/-- The granules of a written range that are watched are to be re-read by their home die, as this write leaves them (R216). -/
def State.touch (s : State) (pa n : Nat) : State :=
  let gs := (List.range ((pa % 8 + n + 7) / 8)).map fun i => pa / 8 * 8 + 8 * i
  { s with dirty := s.dirty ++ gs.flatMap fun g =>
      (s.watches.filter (s.watching g)).map fun w => ⟨g, w, BitVec.ofNat 64 (s.mem.val g 8), s.us, s.tick⟩ }

/-- The lines of a tile that is moving off the module are sent again where they are written after they went (R350): `n` bytes from
offset `off` on, by an access of world `vf`, whichever world's frame holds them. -/
def State.rewrote (s : State) (vf tid unit off n : Nat) : State :=
  let ls := (List.range ((off + n - 1) / 64 - off / 64 + 1)).map (off / 64 + ·)
  { s with moves := s.moves.map fun m =>
      if m.vf = vf ∧ m.tid = tid ∧ m.tile = unit ∧ tid ≠ 0
      then { m with resend := m.resend ++ ls.filter fun l => decide (l < m.line) && !m.resend.contains l } else m }

/-- Bytes written within one line by an agent of die `d` (R236, R384): all 64 at once reseal the line; part of them merges with
contents that open. Where these do not, the line keeps its state, and one that failed the ECC is written back poisoned. -/
def State.writeLine (s : State) (d l : Nat) (t : LineTag) (o : Nat) (bs : List Byte) : State :=
  let full := o = 0 ∧ bs.length = 64
  let st := s.lineState l
  let keeps := st.ecc ≠ 0 ∨ (st.tag ≠ none ∧ st.tag ≠ some t)
  if !full ∧ keeps then
    if st.ecc = 0 then s
    else ({ s with lines := Tab.set ⟨none, 0⟩ s.lines l { st with ecc := 2 } } : State).raiseRetirement (l / 1024)
  else
    let s := { s with
      mem := s.mem.write (lineAddr l + o) bs
      lines := Tab.set ⟨none, 0⟩ s.lines l ⟨some t, 0⟩ }
    -- a cached copy takes whole granules as they stand at the home now (R238)
    let g := o / 8 * 8
    let new := s.mem.bytes (lineAddr l + g) ((o + bs.length + 7) / 8 * 8 - g)
    let upd (data : List Byte) : List Byte := data.take g ++ new ++ data.drop (g + new.length)
    let s := if frameDie (l / 1024) = d then s
      else s.modDie d fun x => { x with rdc := x.rdc.map fun r => if r.line = l ∧ r.tag = t then { r with data := upd r.data } else r }
    s.touch (lineAddr l + o) bs.length

/-- Bytes written from offset `off` of a unit, line by line; `n` bounds the lines. -/
def State.writeLines (s : State) (d frame : Nat) (tag : Nat → LineTag) : Nat → Nat → List Byte → State
  | 0, _, _ => s
  | n + 1, off, bs =>
    if bs = [] then s
    else
      let room := 64 - off % 64
      let s := s.writeLine d (frame * 1024 + off / 64) (tag (off / 64)) (off % 64) (bs.take room)
      State.writeLines s d frame tag n (off + room) (bs.drop room)

/-- What a write comes to: performed, refused because the frame is absent or out of bound, or sealed (R198, R299). -/
inductive Wrote where
  | done | refused | sealed | wait
  deriving DecidableEq, Repr

/-- Bytes written at offset `off` of a unit under an entry of this module, by an agent of die `d`. -/
def State.writeUnit (s : State) (d vf tid unit : Nat) (x : XEntry) (off : Nat) (bs : List Byte) (own : Option Nat := none) :
    State × Wrote :=
  if s.heldTile vf tid unit then (s, .wait) else
  match s.stage vf x.frame true with
  | none => (s, .refused)
  | some r =>
    match s.reachFrame r own with
    | .wait => (s, .wait)
    | .absent => (s, .refused)
    | .yes =>
      if !s.handleLive r.vf x.handle then (s, .sealed)
      else ((s.writeLines d r.frame (fun k => s.tagOf r.vf tid unit k x.handle) (bs.length / 64 + 2) off bs).rewrote vf tid unit off
        bs.length, .done)

/-! ## The flat space (R57) -/

/-- Bytes of the flat space read at their home by an agent that bypasses caches (R180, R216); none where they cannot be. -/
def State.flatBytes (s : State) (vf a n : Nat) : Option (State × Got) :=
  match s.flatEntry vf a false with
  | none => none
  | some x => s.readUnit (frameDie x.frame) false vf 0 (a / 65536) x (a % 65536) n

/-- The state after flat bytes have been read at their home: a read that fails the ECC is told of (R295). -/
def State.seen (s : State) (vf a n : Nat) : State :=
  match s.flatBytes vf a n with
  | some (t, _) => t
  | none => s

/-- A 64-bit natural of the flat space, none where it cannot be read. -/
def State.flatWord (s : State) (vf a : Nat) : Option Nat :=
  match s.flatBytes vf a 8 with
  | some (_, g) => if g.cause = 0 then some (leVal g.bytes) else none
  | none => none

/-- Whether a write has been performed, has come to nothing, or must wait. -/
def State.flatWrite (s : State) (d vf a : Nat) (bs : List Byte) : State × Wrote :=
  match s.flatEntry vf a true with
  | none => (s, .refused)
  | some x => s.writeUnit d vf 0 (a / 65536) x (a % 65536) bs

/-- A write of the hardware to the flat space, with W or nothing; true when it was performed. -/
def State.flatStore (s : State) (d vf a : Nat) (bs : List Byte) : State × Bool :=
  let r := s.flatWrite d vf a bs
  (r.1, r.2 == .done)

/-- Whether an input frame of a world cannot be reached yet; `own` as in `State.reachFrame`. -/
def State.frameWaits (s : State) (vf f : Nat) (own : Option Nat) : Bool :=
  match s.stage vf f false with
  | none => false
  | some r => s.reachFrame r own == .wait

/-- Whether the frame of a flat address cannot be reached yet. -/
def State.flatWaits (s : State) (vf a : Nat) : Bool :=
  match s.walk vf 0 (a / 65536) with
  | .error _ => false
  | .ok x => s.frameWaits vf x.frame none

/-- The oldest request leaves the die's queue when a walker is free, and reads its structures at that instant (R277, R282); a read
that fails raises a retirement event (R295). -/
def execWalkStart (die : Nat) (s : State) : Result :=
  let x := s.die die
  match x.walkQ with
  | [] => .next s
  | w :: q =>
    if 128 ≤ x.walking.length then .next s
    else
      let r := s.runWalk w
      let s := s.modDie die fun x => { x with walkQ := q, walking := x.walking ++ [r.1] }
      .next (match r.2 with
        | some l => s.afterRead l 6
        | none => s)

/-! ## Counts and discards -/

/-- A write of the world that wrote no byte (R287). -/
def State.refuse (s : State) (vf : Nat) : State := s.modWorld vf fun w => { w with refused := w.refused + 1 }

/-- A commit that met a destroyed key (R198). -/
def State.countSealed (s : State) (vf : Nat) : State := s.modWorld vf fun w => { w with sealedW := w.sealedW + 1 }

/-- Lines that an acquire of a scope discards from the die of the acquiring agent (R236, Table 13-2). -/
def State.acquire (s : State) (d : Nat) (sc : Scope) : State :=
  match sc with
  | .pkg => s.modDie d fun x => { x with rdc := [] }
  | .pod => s.modDie d fun x =>
    -- what was read before the acquire and arrives after it is not cached (R245)
    { x with rdc := [], rdcRemote := [], reqs := x.reqs.map fun r => if r.op = 1 ∨ r.op = 2 then { r with stale := true } else r }
  | _ => s

/-- An atomic drops its line from the issuing die's cache (R236). -/
def State.dropLine (s : State) (d l : Nat) : State :=
  s.modDie d fun x => { x with rdc := x.rdc.filter fun r => r.line != l }

/-- The bad-frame and quarantine lists are written to the older of their two copies (R297). -/
def State.writeLists (s : State) : State :=
  { s with listCopies := s.listCopies.drop (s.listCopies.length - 1) ++ [⟨s.badFrames, s.badSeq, s.quarantine, s.quarSeq⟩] }

/-- A message to the supervisor of a partition. -/
def State.report (s : State) (pid : Nat) (r : Report) : State := s.modPart pid fun p => { p with reports := p.reports ++ [r] }

end Sys2Proof.Machine
end

