-- ==== Sys2Proof/Machine/StreamDesc.lean ====
section
/-! DEFINITION. Stream descriptors (R52, R53, R274): their fields and limits, the elements and records of a data-queue
entry, the coordinates that a generator visits, and the scratchpad as cores and engines see it (R48-R50, R166). -/

namespace Sys2Proof.Machine

/-! ## The descriptor (Table 2-7) -/

/-- A stream descriptor. -/
structure SDesc where
  kind : Nat
  ty   : Nat
  bfp  : Bool
  bm2  : Nat
  out  : Bool
  zpoi : Bool
  ndim : Nat
  bax  : Nat
  sstr : Nat
  id   : Nat
  base : List Nat
  strd : List Int
  cnt  : List Nat
  deriving DecidableEq, Repr

/-- The fields of a descriptor. -/
def SDesc.ofBits (b : BitVec 256) : SDesc :=
  let n := b.toNat
  { kind := fieldOf n 0 2, ty := fieldOf n 2 4, bfp := bitOf n 6, bm2 := fieldOf n 7 3, out := bitOf n 10
    zpoi := bitOf n 11, ndim := fieldOf n 12 2 + 1, bax := fieldOf n 14 2, sstr := fieldOf n 16 8, id := fieldOf n 24 24
    base := [fieldOf n 48 24, fieldOf n 104 24, fieldOf n 160 24]
    strd := [toSigned 16 (fieldOf n 72 16), toSigned 16 (fieldOf n 128 16), toSigned 16 (fieldOf n 184 16)]
    cnt := [fieldOf n 88 16, fieldOf n 144 16, fieldOf n 200 16] }

/-- A violation of a limit: the bit at which its field begins. -/
def offenceIf (b : Bool) (bit : Nat) : List Nat := if b then [bit] else []

/-- The least of a list, none of an empty one. -/
def least : List Nat → Option Nat
  | [] => none
  | x :: xs => match least xs with
    | none => some x
    | some y => some (Nat.min x y)

/-- The lowest offending bit of a descriptor (R51, R52, R274). A field that must be zero and is not is named by its bit 0 (DESIGN
CHOICE, log 112); of a reserved field the lowest bit that is set. -/
def SDesc.offence (b : BitVec 256) : Option Nat :=
  let n := b.toNat
  let d := SDesc.ofBits b
  let dim (i lo : Nat) : List Nat :=
    if i < d.ndim then
      offenceIf (d.cnt.getD i 0 == 0) (lo + 40) ++ offenceIf (d.bfp && d.bax == i && d.strd.getD i 0 != 1) (lo + 24)
    else
      offenceIf (d.base.getD i 0 != 0) lo ++ offenceIf (d.strd.getD i 0 != 0) (lo + 24) ++
        offenceIf (d.cnt.getD i 0 != 0) (lo + 40)
  least (offenceIf (decide (2 ≤ d.kind)) 0 ++
    offenceIf (if d.bfp then d.ty != 0 else decide (12 < d.ty)) 2 ++
    offenceIf (if d.bfp then d.bm2 == 7 else d.bm2 != 0) 7 ++
    offenceIf (d.ndim == 4) 12 ++
    offenceIf (if d.bfp then decide (d.ndim ≤ d.bax) else d.bax != 0) 14 ++
    offenceIf (if d.bfp then d.sstr == 0 || (d.kind == 0 && d.sstr != 1) else d.sstr != 0) 16 ++
    (if d.kind = 1 then (lowestSet n 30 18).toList else offenceIf (d.kind == 0 && d.id == 0) 24) ++
    dim 0 48 ++ dim 1 104 ++ dim 2 160 ++ (lowestSet n 216 40).toList)

/-- Element width of a type code. -/
def codeWidth (c : Nat) : Nat := 8 * 2 ^ tyShift c

/-- Bytes of what a generator emits at a time: an element, or a whole BFP record (R53). -/
def SDesc.itemBytes (d : SDesc) : Nat := if d.bfp then bfpBytesOf (d.bm2 + 2) else codeWidth d.ty / 8
where
  /-- Bytes of a record of width `b` (R66). -/
  bfpBytesOf (b : Nat) : Nat := 4 * b + 1

/-- Items of one data-queue entry (R53). -/
def SDesc.perEntry (d : SDesc) : Nat := 256 / d.itemBytes

/-- Items along a dimension: elements, or blocks along the block axis. -/
def SDesc.steps (d : SDesc) (i : Nat) : Nat :=
  if d.ndim ≤ i then 1
  else if d.bfp ∧ d.bax = i then ceilDiv (d.cnt.getD i 1) 32 else d.cnt.getD i 1

/-- Items of the whole stream. -/
def SDesc.total (d : SDesc) : Nat := d.steps 0 * d.steps 1 * d.steps 2

/-- Coordinates of item `k` in visiting order, dimension 0 innermost (R53); along the block axis an item is 32 elements. -/
def SDesc.coords (d : SDesc) (k : Nat) : List Int :=
  let i0 := k % d.steps 0
  let i1 := k / d.steps 0 % d.steps 1
  let i2 := k / d.steps 0 / d.steps 1
  let c (d' i : Nat) : Int :=
    if d.ndim ≤ d' then 0
    else Int.ofNat (d.base.getD d' 0) +
      (if d.bfp ∧ d.bax = d' then Int.ofNat (32 * i) else Int.ofNat i * d.strd.getD d' 0)
  [c 0 i0, c 1 i1, c 2 i2]

/-- Coordinates of the tensor that stream coordinates address (R274). -/
def SDesc.tensorCoords (d : SDesc) (c : List Int) : List Int :=
  if d.bfp then c.getD d.bax 0 :: ((c.zipIdx).filter fun x => x.2 != d.bax).map (·.1) ++ [0]
  else c ++ [0]

/-- Whether the format of a stream is the tensor's (R274). -/
def SDesc.fits (d : SDesc) (t : TDesc) : Bool := d.ty == t.ty && d.bfp == t.bfp && d.bm2 == t.bm2

/-- The coordinates of the last element of an item: of a BFP record the last one that the stream visits (R53). -/
def SDesc.lastOf (d : SDesc) (c : List Int) : List Int :=
  if !d.bfp then c
  else
    let stop := Int.ofNat (d.base.getD d.bax 0) + Int.ofNat (d.cnt.getD d.bax 1) - 1
    c.set d.bax (min (c.getD d.bax 0 + 31) stop)

/-- The place of an item in a tensor; one with an element outside the extent has none. -/
def SDesc.refIn (d : SDesc) (t : TDesc) (c : List Int) : StreamRef :=
  let tc := d.tensorCoords c
  if t.inside tc && t.inside (d.tensorCoords (d.lastOf c)) then
    let p := t.place (tc.map Int.toNat)
    ⟨d.id, p.1, p.2, decide (t.ntile ≤ p.1)⟩
  else ⟨d.id, 0, 0, true⟩

/-- The place of an item in the scratchpad slot of a KIND 1 stream (log 12). Along the block axis of a BFP stream the next block
lies SSTR records further on (R53, R274), from the first block's place. -/
def SDesc.refSlot (b : BitVec 256) (d : SDesc) (c : List Int) : StreamRef :=
  let first (i : Nat) : Int := if d.bfp ∧ d.bax = i then Int.ofNat (d.base.getD i 0) else c.getD i 0
  let blocks := if d.bfp then (c.getD d.bax 0 - Int.ofNat (d.base.getD d.bax 0)).toNat / 32 else 0
  let o := Config.slotPlace b (first 0) (first 1) (first 2) + blocks * d.sstr * d.itemBytes
  ⟨0, d.id % 64, o, decide (65536 < o + d.itemBytes)⟩

/-- Items `k` to `k + n - 1` of a stream, by the place function given. -/
def SDesc.refs (d : SDesc) (f : List Int → StreamRef) (k n : Nat) : List StreamRef :=
  (List.range n).map fun i => f (d.coords (k + i))

/-! ## The scratchpad (R48-R50) -/

/-- Whether byte ranges meet. -/
def overlaps (a n b m : Nat) : Bool := decide (a < b + m) && decide (b < a + n)

/-- An address of the flat space (false) or the scratchpad (true) in the format of BASE, LIMIT and WMARK (R44). -/
def spaceAddr (scratch : Bool) (a : Nat) : Nat := a + (if scratch then 2 ^ 63 else 0)

/-- Whether a range of a space touches some channel's range at or above its watermark (R44). -/
def Core.aboveMark (c : Core) (scratch : Bool) (a n : Nat) : Bool :=
  (List.range 8).any fun i =>
    let h := c.chan i
    let w := Nat.max h.base.toNat h.wmark.toNat
    decide (w < h.limit.toNat) && overlaps (spaceAddr scratch a) n w (h.limit.toNat - w)

/-- Whether a read lies in the range of channel `i` below its watermark while a command that fills or drains the slot runs there: the
range of an earlier command says nothing of this one's bytes (R50, Table 8-8). -/
def Core.belowMark (c : Core) (i a n : Nat) : Bool :=
  let h := c.chan i
  (match h.cmds.head? with
   | some m => m.started && (m.kind == .fill (a / 65536) || m.kind == .drain (a / 65536))
   | none => false) &&
  decide (h.base.toNat ≤ spaceAddr true a) && decide (spaceAddr true a + n ≤ Nat.min h.wmark.toNat h.limit.toNat)

/-- Whether a read of the scratchpad meets a slot emptied by `seqend` (R50). -/
def Core.slotSealed (c : Core) (a : Nat) : Bool :=
  let e := c.slot (a / 65536)
  e.state == .empty && e.sealed

/-- The hold of a core's or a generator's access to the scratchpad: 0 for the slot, 3 for a channel (R44, R49, R50). A slot that
`seqend` has emptied holds none (R50). -/
def Core.scratchHold (c : Core) (a n : Nat) (wr : Bool) : Option Nat :=
  let e := c.slot (a / 65536)
  if e.zeroing then some 0
  else if c.slotSealed a then none
  else if (e.state == .filling || e.state == .draining) && (wr || !c.belowMark e.ch a n) then some 0
  else if c.aboveMark true a n then some 3
  else none

/-- Whether a range holds a word that fails its code (R288). -/
def Core.scratchBad (c : Core) (a n : Nat) : Bool := c.scrBad.any fun w => overlaps a n (8 * w) 8

/-- The bytes of the scratchpad; an EMPTY slot reads zero (R50). -/
def Core.scratch (c : Core) (a n : Nat) : List Byte :=
  if (c.slot (a / 65536)).state = .empty then List.replicate n 0 else c.scr.bytes a n

/-- A write to the scratchpad: an EMPTY slot becomes READY under the handle given (Table 2-6); words written whole are
good again (R288). -/
def Core.scratchWrite (c : Core) (a : Nat) (bs : List Byte) (h : Handle) : Core :=
  let n := bs.length
  let c := if (c.slot (a / 65536)).state = .empty
    then c.modSlot (a / 65536) fun e => { e with state := .ready, handle := h, sealed := false } else c
  { c with
    scr := c.scr.write a bs
    scrBad := c.scrBad.filter fun w => !(decide (a ≤ 8 * w) && decide (8 * w + 8 ≤ a + n)) }

/-- A slot becomes EMPTY, its 64 KiB set to zero (R49); accesses hold until SLOT_ZEROED. -/
def Core.emptySlot (c : Core) (n : Nat) (sealed : Bool) : Core :=
  { (c.modSlot n fun e => { e with state := .empty, sealed := sealed, zeroing := true }) with
    scr := c.scr.zero (n * 65536) 65536, scrBad := c.scrBad.filter fun w => w / 8192 != n }

end Sys2Proof.Machine
end

