-- ==== Sys2Proof/Machine/Requests.lean ====
section
/-! DEFINITION. Requests of this module to its peers (spec/19_pyrty_fabric.md): wiring and packets (R304, R308, R311), lanes and planes (R306, R311, R313),
tags (R319), reachability (R315, R316), the order of a core's remote requests (R307), and what a reply completes
(R317, R318). The owner cache that steers tensor requests stands here too (R352). -/

namespace Sys2Proof.Machine

/-! ## Wiring (R304) -/

/-- The transmit fibre of a lane: the group of the module that it leads to. -/
def fibreOf (dst : Nat) : Nat := dst / 8

/-- The wavelength of a lane. -/
def waveOf (src dst : Nat) : Nat := (dst % 8 + 8 - src % 8) % 8

/-- The output port at which a wavelength leaves a grating that it enters at the port of a seat. -/
def gratingPort (seat w : Nat) : Nat := (seat + w) % 8

/-- The module from which light of a wavelength comes on a receive fibre of a module. -/
def sourceOf (dst fibre w : Nat) : Nat := 8 * fibre + (dst % 8 + 8 - w) % 8

/-! ## Packets on the wire (R308, R311) -/

/-- Bits 159:0 of the header flit (Table 19-1). -/
def Sent.header (x : Sent) : Nat :=
  x.op % 64 + (x.data.length + 31) / 32 % 16 * 2 ^ 6 + x.vl % 32 * 2 ^ 10 + (x.gen % 16 * 4096 + x.tag % 4096) * 2 ^ 15 + x.fwid.toNat * 2 ^ 31 +
    x.acq.toNat * 2 ^ 43 + x.rel.toNat * 2 ^ 44 + Scope.code x.scope * 2 ^ 45 + x.orig % 64 * 2 ^ 48 + x.caddr % 2 ^ 48 * 2 ^ 64 +
    x.addr % 2 ^ 48 * 2 ^ 112

/-- The data flits of a packet: what its op does not use is zero (R309). -/
def Sent.payload (x : Sent) : List Byte := x.data ++ List.replicate ((x.data.length + 31) / 32 * 32 - x.data.length) 0

/-- A byte enters a CRC-32C, its lowest bit first (R308; log 131). -/
def crcByte (c : BitVec 32) (b : Byte) : BitVec 32 :=
  (List.range 8).foldl (fun c _ => if c.getLsbD 0 then (c >>> 1) ^^^ 0x82F63B78 else c >>> 1) (c ^^^ b.setWidth 32)

/-- CRC-32C of bytes. -/
def crc32c (bs : List Byte) : BitVec 32 := ~~~(bs.foldl crcByte (BitVec.allOnes 32))

/-- The IV of a packet: plane, sending module, receiving module, 16 zero bits and the lane's count (R311). -/
def laneIv (plane src dst count : Nat) : Nat := plane % 16 * 2 ^ 92 + src % 64 * 2 ^ 86 + dst % 64 * 2 ^ 80 + count % 2 ^ 64

/-- A packet as it is transmitted: header bits 159:0 and the data flits are encrypted, the tag stands in MAC, and the CRC covers what
is transmitted besides itself. -/
def Sent.wire (key count : Nat) (x : Sent) : List Byte :=
  let iv := laneIv x.plane x.src x.dst count
  let plain := leBytes 20 x.header ++ x.payload
  let c := (plain.zip (Config.gcmStream key iv plain.length)).map fun b => b.1 ^^^ b.2
  let head := c.take 20 ++ leBytes 8 (Config.gcmTag key iv c)
  head ++ leBytes 4 (crc32c (head ++ c.drop 20)).toNat ++ c.drop 20

/-! ## Lanes -/

/-- A lane by plane and peer. -/
def laneKey (plane peer : Nat) : Nat := plane * 64 + peer

/-- The lane of a plane to a peer. -/
def State.lane (s : State) (plane peer : Nat) : Lane := Tab.get default s.lanes (laneKey plane peer)

/-- Change a lane. -/
def State.modLane (s : State) (plane peer : Nat) (f : Lane → Lane) : State :=
  { s with lanes := Tab.set default s.lanes (laneKey plane peer) (f (s.lane plane peer)) }

/-- The lit set toward a peer (R306). -/
def State.litTo (s : State) (peer : Nat) : List Nat := Tab.get [] s.lit peer

/-- Flits of a packet: the header and its data (R308). -/
def Sent.flits (x : Sent) : Nat := 1 + (x.data.length + 31) / 32

/-- The minimum of a virtual lane in a receive buffer (R313). -/
def vlMin : Nat := 18

/-- Flits that the virtual lanes of a lane draw from the shared pool (R313). -/
def Lane.pooled (l : Lane) : Nat := (l.used.map fun x => x.2 - vlMin).sum

/-- Whether the credits for a packet are held: the virtual lane's minimum first, then the pool of 108 flits (R313). -/
def Lane.room (l : Lane) (vl n : Nat) : Bool :=
  let u := Tab.get 0 l.used vl
  decide (l.pooled - (u - vlMin) + (u + n - vlMin) ≤ 108)

/-- Whether the replay buffer of 288 flits has room for `n` more (R311). -/
def Lane.keeps (l : Lane) (n : Nat) : Bool := decide ((l.replay.map Sent.flits).sum + n ≤ 288)

/-- The planes whose lanes to a peer are trained: the lit set that a change leads to (R306). -/
def State.trainedTo (s : State) (peer : Nat) : List Nat := (List.range 16).filter fun p => (s.lane p peer).trained

/-- A reply (R313). -/
def Sent.reply (x : Sent) : Bool := decide (0x20 ≤ x.op)

/-- The plane of a packet under a lit set (R306): a reply goes by its request's plane while that plane is lit. -/
def Sent.planeIn (x : Sent) (lit : List Nat) : Nat :=
  if x.reply && lit.contains x.plane then x.plane else lit.getD (x.h % lit.length) 0

/-- Whether a lane can take a packet: its credits, unless it is a reply, the replay buffer, and a count below 2^40 under its key
(R311). -/
def Lane.takes (l : Lane) (x : Sent) : Bool := (x.reply || l.room x.vl x.flits) && l.keeps x.flits && decide (l.count + 1 < 2 ^ 40)

/-- A packet goes on its lane: the count advances and the replay buffer keeps it (R311); the next virtual lane has its turn (R313). -/
def State.onLane (s : State) (x : Sent) : State :=
  (s.modLane x.plane x.dst fun l =>
    { l with count := l.count + 1, replay := l.replay ++ [x], turn := if x.reply || 24 ≤ x.vl then l.turn else (x.vl + 1) % 24
             used := if x.reply then l.used else Tab.modify 0 l.used x.vl (· + x.flits) }).emit (.packet x)

/-- Whether packets that came before keep one back: those of its peer and virtual lane that wait. -/
def behindOne (waiting : List Sent) (x : Sent) : Bool := waiting.any fun y => y.dst == x.dst && y.vl == x.vl && y.reply == x.reply

/-- A packet's turn in arbitration (R313): virtual lane 24, then 25, then the others in turn from `next` on. -/
def turnOf (waiting : List Sent) (next i : Nat) (x : Sent) : Nat :=
  if x.vl = 24 then 0 else if x.vl = 25 then 1
  else 2 + 32 * ((waiting.take i).filter fun y => y.dst == x.dst && y.vl == x.vl).length + (x.vl + 24 - next) % 24

/-- Insertion of a packet behind those whose turn is not later. -/
def insertTurn (k : Nat) (x : Sent) : List (Nat × Sent) → List (Nat × Sent)
  | [] => [(k, x)]
  | y :: ys => if k < y.1 then (k, x) :: y :: ys else y :: insertTurn k x ys

/-- Packets that wait, in the order in which they are served. -/
def State.inTurn (s : State) (waiting : List Sent) : List Sent :=
  (waiting.zipIdx.foldl (fun l y =>
    insertTurn (turnOf waiting (s.lane (y.1.planeIn (s.litTo y.1.dst)) y.1.dst).turn y.2 y.1) y.1 l) []).map (·.2)

/-- Packets of lanes that left the lit set go first, on the planes that the new set gives them (R312). -/
def State.sendAgain (s : State) : State :=
  s.resend.foldl (fun s x =>
    let lit := s.trainedTo x.dst
    let x' := { x with plane := x.planeIn lit }
    if lit ≠ [] && (s.lane x'.plane x.dst).takes x' && !behindOne s.resend x then s.onLane x'
    else { s with resend := s.resend ++ [x] }) { s with resend := [] }

/-- A lane leaves the lit set, to which a change is then due: what its replay buffer holds is sent again on the lanes that stay, and what
it has accepted is remembered (R306, R312). -/
def State.leaveLane (s : State) (plane peer : Nat) : State :=
  let l := s.lane plane peer
  if !l.trained then s
  else
    let s := { s with resend := s.resend ++ l.replay, changing := if s.changing.contains peer then s.changing else s.changing ++ [peer] }
    ((s.modLane plane peer fun l =>
      { l with
        trained := false, replay := [], used := [], fails := 0, failing := false, again := (0, 0), recent := []
        old := (l.old ++ l.recent).drop ((l.old ++ l.recent).length - 288) }).emit (.link plane peer "dark" 0)).sendAgain

/-- A packet of a count fails its CRC or its MAC: it is dropped, and replay is requested from the count that is awaited. Until that
packet comes later ones are dropped whatever their state. 8 failures of the packet awaited in a row, or 4 MAC failures within a
second, make the lane dark (R311, R312). -/
def State.failPacket (s : State) (plane peer count : Nat) (mac : Bool) : State :=
  let l := s.lane plane peer
  let macs := (if mac then l.macs ++ [s.us] else l.macs).filter fun t => decide (s.us < t + 1000000)
  let fails := l.fails + (if count = l.expect then 1 else 0)
  if !l.trained || (l.failing && count != l.expect) then s
  else
    let s := s.modLane plane peer fun l => { l with fails := fails, failing := true, macs := macs }
    if 8 ≤ fails ∨ (mac ∧ 4 ≤ macs.length) then s.leaveLane plane peer
    else s.emit (.link plane peer "replay" l.expect)

/-- Whether new packets go to a peer: its lit set stands (R306), and nothing of a dark lane is still to be sent again (R312). -/
def State.settledTo (s : State) (peer : Nat) : Bool :=
  let lit := s.litTo peer
  !lit.isEmpty && lit == s.trainedTo peer && !s.changing.contains peer && !s.resend.any fun y => y.dst == peer

/-- Packets that waited are sent where they can be. -/
def State.release (s : State) : State :=
  let s := s.sendAgain
  (s.inTurn s.held).foldl (fun s x =>
    let x' := { x with plane := x.planeIn (s.litTo x.dst) }
    if s.settledTo x.dst && (s.lane x'.plane x.dst).takes x' && !behindOne s.held x
    then s.onLane x' else { s with held := s.held ++ [x] }) { s with held := [] }

/-- A packet is sent in its turn on the plane that `h` chooses; until then it waits for credits, for the replay buffer or for the lit
set (R306, R313). No packet goes to its own module (R304). -/
def State.transmit (s : State) (h : Nat) (x : Sent) : State :=
  if x.dst = s.me then s else State.release { s with held := s.held ++ [{ x with h := h }] }

/-! ## Reachability (R315, R316) -/

/-- Whether a module is a member of a world's pod membership (R314). -/
def State.member (s : State) (vf m : Nat) : Bool := (s.world vf).fabric && (s.world vf).members.getLsbD m

/-- Whether requests of a world are sent to a module: a member of its pod membership at STATE 0 (R314, R316). -/
def State.reachable (s : State) (vf m : Nat) : Bool :=
  s.member vf m && !(s.litTo m).isEmpty && (Tab.get (0, 0, 0) (s.world vf).peers m).1 == 0

/-! ## Tags (R319) -/

/-- Take the free tag that was freed longest ago, with its next generation. -/
def Die.takeTag (d : Die) : Option (Nat × Nat × Die) :=
  if d.tagNew < 4096 then
    let g := (Tab.get 0 d.tagGen d.tagNew + 1) % 16
    some (d.tagNew, g, { d with tagNew := d.tagNew + 1, tagGen := Tab.set 0 d.tagGen d.tagNew g })
  else match d.tagFreed with
    | [] => none
    | t :: ts =>
      let g := (Tab.get 0 d.tagGen t + 1) % 16
      some (t, g, { d with tagFreed := ts, tagGen := Tab.set 0 d.tagGen t g })

/-- The core whose issue order a request belongs to (R307). -/
def ReqFor.core : ReqFor → Option Nat
  | .load c _ => some c
  | .port c _ => some c
  | _ => none

/-- Whether a request is of a core's own remote ops, which go to another module only after earlier ones are
acknowledged (R307). -/
def Req.ordered (r : Req) : Bool := r.op ≤ 5 && r.for_.core.isSome

/-- Whether a request must wait behind an earlier one of its core toward another module (R307). -/
def reqBlocked (earlier : List Req) (r : Req) : Bool :=
  r.ordered && earlier.any fun e => e.ordered && e.for_.core == r.for_.core && !e.done && !e.quar && (e.target != r.target || !e.sent)

/-- The packet of a request (Table 19-1); ACQ is that of the atomic for which it is made. -/
def State.packetOf (s : State) (r : Req) : Sent :=
  let w := s.world r.vf
  let acq := match r.for_ with
    | .port c id => r.op == 5 && (s.core c).port.any fun p => p.id == id && (p.ord == .acq || p.ord == .ar)
    | _ => false
  { op := r.op, src := s.me, dst := r.target, plane := 0, vl := if r.op = 0xC then 24 else w.pid, orig := s.me
    gen := r.gen, tag := r.tag, fwid := w.fwid, scope := r.scope, rel := r.rel, acq := acq
    addr := r.addr, caddr := r.caddr, data := r.data }

/-- What chooses the plane of a tensor access (R306). -/
def tilePlane (addr : Nat) : Nat := (addr / 65536 % 2 ^ 24 * 1024 + addr % 65536 / 64) % 2 ^ 16

/-- What chooses the plane of a request (R306). -/
def Req.plane (r : Req) : Nat :=
  match r.for_ with
  | .load c _ => if r.op ≤ 5 then c else tilePlane r.addr
  | .port c _ => c
  | _ => if r.op = 6 ∨ r.op = 7 then tilePlane r.addr else if r.op = 0xC then 0 else r.addr / 64 % 65536

/-- TAG of a request: generation above index. -/
def Req.tagWord (r : Req) : Nat := r.gen * 4096 + r.tag

/-- Change the outstanding load of a core with a given number, in whichever table holds it. -/
def Core.modLoad (c : Core) (seq : Nat) (f : Load → Load) : Core :=
  let g (x : Load) : Load := if x.valid ∧ x.seq = seq then f x else x
  { c with loads := c.loads.map g, hloads := c.hloads.map g }

/-- Word 3 of an outstanding load (R64): the module above the tag (log 87). -/
def loadWord3 (mod tag : Nat) : Word := BitVec.ofNat 64 (mod * 65536 + tag)

/-- The tag of a request stands in the entry of the load that waits for it (R64). -/
def State.noteTag (s : State) (r : Req) : State :=
  let note (c seq : Nat) : State := s.modCore c fun k => k.modLoad seq fun x => { x with w3 := loadWord3 r.target r.tagWord }
  match r.for_ with
  | .load c seq => note c seq
  | .port c id => match (s.core c).port.findSome? fun p => if p.id = id then p.seq else none with
    | some seq => note c seq
    | none => s
  | _ => s

/-- A request takes a tag, unless it holds one; none while no index is free (R319). -/
def State.tagReq (s : State) (die : Nat) (r : Req) : Option (State × Req) :=
  if r.tagged then some (s, r)
  else (s.die die).takeTag.map fun x => (s.modDie die fun _ => x.2.2, { r with tag := x.1, gen := x.2.1, tagged := true })

/-- A request ends as not sent: an index that it took is free (R316, R319). -/
def State.unsentReq (s : State) (die : Nat) (r : Req) : State × Req :=
  (if r.tagged then s.modDie die fun d => { d with tagFreed := d.tagFreed ++ [r.tag] } else s,
    { r with done := true, cause := 6, tagged := false })

/-- Send one request, if nothing keeps it: a target that is not reachable ends it as not sent, cause 6 (R316). One behind an owner-cache
entry waits under its own tag (R352). -/
def State.sendReq (s : State) (die : Nat) (earlier : List Req) (r : Req) : State × Req :=
  if r.sent || r.done || r.quar || r.busy then (s, r)
  else if r.behind then (s.tagReq die r).getD (s, r)
  else if reqBlocked earlier r then (s, r)
  else if !s.reachable r.vf r.target then
    -- queries and releases of a stub wait for a member that cannot be reached (R354)
    if r.op = 0xC && r.for_.core.isNone && r.caddr / 2 ^ 24 % 16 ≥ 3 then (s, r) else s.unsentReq die r
  else match s.tagReq die r with
    | none => (s, r)
    | some (s, r) =>
      let r := { r with sent := true, since := s.us }
      let s := s.noteTag r
      (s.transmit r.plane (s.packetOf r), r)

/-- Requests of a die that can be sent are sent, in order. -/
def State.pumpGo (die : Nat) : List Req → State → List Req → State × List Req
  | [], s, done => (s, done)
  | r :: rs, s, done =>
    let q := s.sendReq die done r
    State.pumpGo die rs q.1 (done ++ [q.2])

/-- Send what can be sent from a die. -/
def State.pump (s : State) (die : Nat) : State :=
  let q := State.pumpGo die (s.die die).reqs s []
  q.1.modDie die fun d => { d with reqs := q.2 }

/-- A request enters the port of a die. -/
def State.ask (s : State) (die op target vf addr caddr : Nat) (data : List Byte) (sc : Scope) (rel : Bool)
    (f : ReqFor) (behind : Bool := false) : State :=
  (s.modDie die fun d => { d with reqs := d.reqs ++
    [{ tag := 0, gen := 0, op := op, target := target, vf := vf, addr := addr, caddr := caddr, data := data, scope := sc
       rel := rel, for_ := f, sent := false, behind := behind, busy := false, tagged := false, quar := false, done := false, cause := 0, since := s.us }] }).pump die

/-- The request for a purpose that matches, none where there is none. -/
def State.reqFor (s : State) (die : Nat) (p : Req → Bool) : Option Req := (s.die die).reqs.find? fun r => !r.quar && p r

/-- Requests given up by a freeze, a discard or a rewind enter quarantine when they hold a tag, and vanish when not (R319). -/
def State.abandon (s : State) (die : Nat) (p : Req → Bool) : State :=
  let mark (r : Req) : Req := if p r && !r.done then { r with quar := true, since := s.us } else r
  s.modDie die fun d => { d with reqs := (d.reqs.filter fun r => !(p r && !r.sent && (r.done || !r.tagged))).map mark }

/-! ## The owner cache (R352) -/

/-- The entry of an owner cache for a tile. -/
def State.owner (s : State) (die vf tid tile : Nat) : Option OwnerEntry :=
  (s.die die).owners.find? fun o => o.fwid == (s.world vf).fwid && o.tid == tid && o.tile == tile

/-- Whether an entry may be evicted: no request stands toward the previous owner, and none waits (R352). -/
def State.ownerIdle (s : State) (die : Nat) (o : OwnerEntry) : Bool :=
  o.pend == 0 && (s.die die).reqs.all fun r =>
    !(r.behind && (s.world r.vf).fwid == o.fwid && r.caddr % 2 ^ 24 == o.tid && r.addr / 65536 == o.tile)

/-- A tensor request (TRD or TWR) to the tile's cached owner, or to the owner that the tile-map entry names; it waits
while requests toward a previous owner are outstanding. The self-lane carries none (R304). -/
def State.askTile (s : State) (die op vf tid tile off lines owner : Nat) (data : List Byte) (sc : Scope) (f : ReqFor) :
    State :=
  let o := (s.owner die vf tid tile).filter fun e => e.owner != s.me
  let target := match o with | some e => e.owner | none => owner
  let waiting := (s.die die).reqs.any fun r => r.behind && r.vf == vf && r.addr / 65536 == tile && r.caddr % 2 ^ 24 == tid
  let behind := waiting || match o with | some e => decide (0 < e.pend) | none => false
  s.ask die op target vf (tile * 65536 + off) (tid + (lines - 1) * 2 ^ 24) data sc false f behind

/-! ## Reports (R318) -/

/-- A refused write, a refused no-value atomic or a request that times out: counted, and reported to the supervisor. -/
def State.fabricReport (s : State) (vf cause op target tag addr : Nat) : State :=
  (s.refuse vf).report (s.world vf).pid
    ⟨"fabric", 0, BitVec.ofNat 64 (cause + op * 16 + target * 1024 + tag * 65536), BitVec.ofNat 64 addr⟩

/-! ## What a reply completes -/

/-- The outstanding load with a given number. -/
def Core.loadOf (c : Core) (seq : Nat) : Option Load := (c.loads ++ c.hloads).find? fun x => x.valid && x.seq == seq

/-- The checkpoint's copy of an entry takes a late reply as well (R292). -/
def Core.modCheckLoad (c : Core) (seq : Nat) (f : Load → Load) : Core :=
  { c with seg := { c.seg with check := c.seg.check.map fun k =>
      { k with loads := k.loads.map fun x => if x.valid ∧ x.seq = seq then f x else x } } }

/-- A change of a load reaches its entry and the checkpoint's copy; the value of a latched load that has arrived goes to its word or
its pending vector (R64, R187). -/
def Core.setLoad (c : Core) (seq : Nat) (f : Load → Load) : Core :=
  let c := (c.modLoad seq f).modCheckLoad seq f
  if !c.atH then c
  else match c.loads.find? fun x => x.valid && x.seq == seq && x.arrived with
    | none => c
    | some x =>
      if x.vec then { c with pvec := Tab.set 0 c.pvec x.w2.toNat x.val }
      else { c with loads := c.loads.map fun y => if y.valid ∧ y.seq = seq then { y with w2 := Vec.word y.val } else y }

/-- The value of a poisoned reply by NACK cause (Table 19-4). -/
def nackCause (n : Nat) : Nat := if n = 5 then 6 else if n = 4 then 5 else 3

/-- A value-returning request is answered: the entry takes the value or the cause; DIAP and a timeout leave it unarrived
(R316, R319). -/
def State.answerLoad (s : State) (core seq cause : Nat) (val : Vec) : State :=
  if cause = 6 ∨ cause = 16 then
    s.modCore core fun c => c.setLoad seq fun x => { x with gone := true }
  else
    s.modCore core fun c => c.setLoad seq fun x => { x with
      arrived := true, performed := true, val := if cause = 0 then val else 0
      cause := if cause = 0 then 0 else nackCause cause, unit := .core }

/-- A port operation leaves the port: its signal is made, or its semaphore poisoned never (a refusal is reported, R318). -/
def State.leavePort (s : State) (core id : Nat) : State :=
  s.modCore core fun c =>
    match c.port.find? fun p => p.id == id with
    | none => c
    | some p => (({ c with port := c.port.filter fun q => q.id != id } : Core).dropRes (.port id)).signal p.sig

/-- A store leaves the buffer with all that it has not written (R287). -/
def Core.dropStore (c : Core) (store : Nat) : Core :=
  (({ c with ssb := c.ssb.filter fun e => e.store != store } : Core).dropRes .store).settle

/-- A store is counted as sealed, once (R198). -/
def Core.tellStore (c : Core) (store : Nat) : Core :=
  { c with ssb := c.ssb.map fun e => if e.store = store then { e with told := true } else e }

/-- The first piece of a store-buffer entry has been dealt with; the entry leaves the buffer after its last (R241). -/
def Core.popPiece (c : Core) (pos : Nat) : Core :=
  let step (e : SsbEntry) : SsbEntry := if e.pos = pos then { e with parts := e.parts.tail, sent := false } else e
  (({ c with ssb := (c.ssb.map step).filter fun e => e.pos != pos || !e.parts.isEmpty } : Core).dropRes .store).settle

/-- The granules that a remote load's reply brings (R161). -/
def Req.granules (r : Req) (fwid : BitVec 12) (data : List Byte) : List RemoteLine :=
  (List.range (data.length / 8)).map fun i =>
    ⟨fwid, r.target, r.addr + 8 * i, BitVec.ofNat 64 (leVal ((data.drop (8 * i)).take 8))⟩

/-- What an answered request does where it needs no further event: loads, stores of the buffer, port operations. The
others are looked at by the event that moves their engine. `cause` 0 is good, 16 a timeout. -/
def State.deliver (s : State) (r : Req) (cause : Nat) (data : List Byte) : State :=
  match r.for_ with
  | .load c seq =>
    if r.op = 1 ∨ r.op = 2 ∨ r.op = 5 then s.answerLoad c seq cause (BitVec.ofNat 2048 (leVal data)) else s
  | .ssb c pos =>
    match (s.core c).ssb.find? fun e => e.pos == pos with
    | none => s
    | some e =>
      let pop (s : State) : State := s.modCore c fun k => k.popPiece pos
      if cause = 0 then pop s
      else if cause = 4 then pop (if e.told then s else (s.countSealed r.vf).modCore c fun k => k.tellStore e.store)
      else (s.modCore c fun k => k.dropStore e.store).fabricReport r.vf (cause % 16) r.op r.target r.tagWord r.addr
  | .port c id =>
    let s := if r.op = 5 then s.modDie (dieOf c) fun d => d.dropRemote (s.world r.vf).fwid r.target r.addr 8 else s
    match (s.core c).port.find? fun p => p.id == id with
    | none => if cause = 0 ∨ (r.op ≠ 3 ∧ r.op ≠ 4) then s else s.fabricReport r.vf (cause % 16) r.op r.target r.tagWord r.addr
    | some p =>
      let s := match p.seq with
        | some q => s.answerLoad c q cause (BitVec.ofNat 2048 (leVal data))
        | none => if cause = 0 then s else s.fabricReport r.vf (cause % 16) r.op r.target r.tagWord r.addr
      let s := if p.ord = .acq ∨ p.ord = .ar then s.acquire (dieOf c) .pod else s
      s.leavePort c id
  | _ => s

/-- Answered requests that need no further event are delivered and forgotten. -/
def State.deliverDone (s : State) (die : Nat) : State :=
  let now := (s.die die).reqs.filter fun r => r.done && (match r.for_ with
    | .load .. => r.op = 1 || r.op = 2 || r.op = 5
    | .ssb .. | .port .. => true
    | _ => false)
  let s := s.modDie die fun d => { d with reqs := d.reqs.filter fun r => !(now.contains r) }
  now.foldl (fun s r => s.deliver r r.cause r.data) s

/-- A request toward the previous owner of a tile no longer stands (R352). -/
def Die.lowerPend (d : Die) (fwid : BitVec 12) (r : Req) : Die :=
  if r.op ≠ 6 ∧ r.op ≠ 7 then d
  else { d with owners := d.owners.map fun o =>
    if o.fwid = fwid ∧ o.tid = r.caddr % 2 ^ 24 ∧ o.tile = r.addr / 65536 ∧ o.from_ = r.target then { o with pend := o.pend - 1 }
    else o }

/-- A request is answered: its tag is free. -/
def State.closeReq (s : State) (d : Nat) (r : Req) (cause : Nat) (data : List Byte) : State :=
  s.modDie d fun y => { y with
    reqs := y.reqs.map fun q => if q = r then { q with done := true, cause := cause, data := data } else q
    tagFreed := y.tagFreed ++ [r.tag] }

/-- An answer of this module to a request of its own that a stub has relayed back to it: no packet goes on the self-lane (R304, R351). -/
def State.selfReply (s : State) (tag gen : Nat) (fwid : BitVec 12) (cause : Nat) (data : List Byte) : State :=
  let all := (List.range 3).flatMap fun d => (s.die d).reqs.map fun r => (d, r)
  match all.find? fun y => y.2.sent && !y.2.done && !y.2.quar && y.2.tag == tag && y.2.gen == gen && (s.world y.2.vf).fwid == fwid with
  | none => s
  | some (d, r) => ((((s.modDie d fun y => y.lowerPend fwid r).closeReq d r cause data).deliverDone d).pump d).deliverDone d

/-- Ask and deliver what ends at once because its target is not reachable. -/
def State.askNow (s : State) (die op target vf addr caddr : Nat) (data : List Byte) (sc : Scope) (rel : Bool)
    (f : ReqFor) : State :=
  (s.ask die op target vf addr caddr data sc rel f).deliverDone die

end Sys2Proof.Machine
end

