-- ==== Sys2Proof/Machine/Commit.lean ====
section
/-! DEFINITION. When accesses perform (spec/13_memory_and_consistency.md): the order of a core's accesses (R240), commits
of the segment store buffer (R241, R242, R287), atomics at their home (R159, R160), remote stores and their counters
(R162), loads and gathers (R145, R148, R155, R157, R161), and the events that do these. -/

namespace Sys2Proof.Machine

/-! ## Order within a core (R240, Table 13-3) -/

/-- Every load with a number below `n` has performed, or stands no more. -/
def Core.loadsPast (c : Core) (n : Nat) : Bool :=
  (c.loads ++ c.hloads).all fun x => !x.valid || x.performed || x.gone || decide (n ≤ x.seq)

/-- Every element pushed to an output stream has been written (R244). -/
def Core.outputsWritten (c : Core) : Bool := c.q.all fun x => !(SDesc.ofBits x.2.desc).out || x.2.dq.isEmpty

/-- Remote operations and loads of the core that await their answer. -/
def State.unacked (s : State) (c : Nat) : Bool :=
  (s.die (dieOf c)).reqs.any fun r => r.for_.core == some c && !r.done && !r.quar

/-- Remote operations of the core that await their acknowledgment. -/
def State.unackedOps (s : State) (c : Nat) : Bool :=
  (s.die (dieOf c)).reqs.any fun r => (match r.for_ with | .port k _ => k == c | _ => false) && !r.done && !r.quar

/-- Copy lines of the core's channels, written to another module, that await their acknowledgment (Table 13-2). -/
def State.linesOut (s : State) (c : Nat) : Bool :=
  (s.die (dieOf c)).reqs.any fun r => (match r.for_ with | .line k _ _ => k == c | _ => false) && r.op != 6 && !r.done && !r.quar

/-- What a release waits for beyond the core's own stores and loads: output elements written, and at `.pod` every earlier remote
store, atomic and copy line acknowledged (R244, Table 13-2). -/
def State.outDone (s : State) (c : Nat) (sc : Scope) : Bool :=
  (s.core c).outputsWritten && (sc != .pod || (!s.unacked c && !s.linesOut c))

/-- Where a core's accesses stand now. -/
def Core.mark (c : Core) : Mark := ⟨c.ssbNext, c.loadSeq, c.portNext⟩

/-- Whether every element that an output stream holds belongs to the open segment (R292). -/
def Core.closedWritten (c : Core) : Bool := c.q.all fun x => !(SDesc.ofBits x.2.desc).out || decide (x.2.dq.length ≤ x.2.pushed)

/-- Whether the release of an engine command or a routine has taken effect: every access before it has performed, and what Table
13-2 adds. Stores and elements of a segment that is still open are no part of it, since a rewind of that segment waits for the
command and then drops them (R291; log 89). -/
def State.engineReleased (s : State) (c : Nat) (m : Mark) (sc : Scope) : Bool :=
  let k := s.core c
  (k.ssb.all fun e => decide (m.st ≤ e.pos) || !e.closed) && k.loadsPast m.ld && (k.port.all fun p => decide (m.pt ≤ p.id)) &&
    k.closedWritten && (sc != .pod || (!s.unacked c && !s.linesOut c))

/-- The end of the entries of closed segments, and of the handler, in the buffer. -/
def Core.closedEnd (c : Core) : Nat := c.ssb.foldl (fun m e => if e.closed || e.atH then Nat.max m (e.pos + 1) else m) 0

/-- Whether an operation acquires (R160). -/
def PortOp.acquires (p : PortOp) : Bool := p.ord == .acq || p.ord == .ar

/-- Whether an operation releases (R160). -/
def PortOp.releases (p : PortOp) : Bool := p.ord == .rel || p.ord == .ar

/-- The end of the port operations that later accesses wait for: those that acquire (R160, R244). -/
def Core.acqEnd (c : Core) : Nat := c.port.foldl (fun m p => if p.acquires then Nat.max m (p.id + 1) else m) 0

/-- Whether every acquire among the port operations before number `n` has taken effect (R244). -/
def Core.acquired (c : Core) (n : Nat) : Bool := c.port.all fun p => decide (n ≤ p.id) || !p.acquires

/-- Whether a load may perform now: the stores of segments closed before its issue have performed, acquires before it have taken
effect, remote operations before a remote load are on their way (R307), and earlier loads, gathers and remote loads have
performed. -/
def Core.mayPerform (c : Core) (x : Load) : Bool :=
  c.storesPast x.behind && c.acquired x.port &&
  (!(x.kind == 3 || x.kind == 4) || c.port.all fun p => decide (x.port ≤ p.id) || !p.remote || p.sent) &&
  (c.loads ++ c.hloads).all (fun y => !y.valid || y.performed || y.gone || y.kind == 5 || decide (x.seq ≤ y.seq))

/-! ## Landing writes (R162) -/

/-- Why a flat access of a world is refused, as a cause of Table 19-4; none where it is not. -/
def State.flatCause (s : State) (vf a : Nat) (wr : Bool) : Option Nat :=
  match s.walk vf 0 (a / 65536) with
  | .error f => some (if f.reason = 7 then 3 else if f.reason = 10 then 5 else 2)
  | .ok x => (s.permit vf 0 (a / 65536) x wr false).map fun f => if f.bound then 3 else 2

/-- A translation of a flat address taken at this instant, or why it is refused as a cause of Table 19-4. -/
def State.flatFind (s : State) (vf a : Nat) (wr : Bool) : Except Nat XEntry :=
  match s.flatCause vf a wr, s.flatEntry vf a wr with
  | some c, _ => .error c
  | none, some x => .ok x
  | none, none => .error 2

/-- The same by what core `c` has looked up and walked (R281, R282). -/
def State.lookFind (s : State) (c : Nat) (u : XUser) (a : Nat) (wr : Bool) : Except Nat XEntry :=
  match s.look c u 0 (a / 65536) wr false with
  | .hit x => .ok x
  | .fault f => .error (if f.bound then 3 else if f.info.toNat % 16 = 10 then 5 else 2)
  | .miss => .error 2

/-- An atomic on a word at its home: the old value, or a cause 5 or 6 and its unit. `none` while it cannot be reached. -/
def State.atomic (s : State) (vf tid unit : Nat) (x : XEntry) (off : Nat) (new : Word → Word) (own : Option Nat := none) :
    Option (State × Word × Nat × ErrUnit) :=
  let d := frameDie x.frame
  match s.readUnit d false vf tid unit x off 8 own with
  | none => none
  | some (s, g) =>
    if g.cause ≠ 0 then some (s, 0, g.cause, g.unit)
    else
      let old := BitVec.ofNat 64 (leVal g.bytes)
      let r := s.writeUnit d vf tid unit x off (leBytes 8 (new old).toNat) own
      match r.2 with
      | .wait => none
      | .done => some (r.1, old, 0, .core)
      | .sealed => some (r.1, 0, 5, g.unit)
      | .refused => some (r.1, 0, 6, .window)

/-- Why the counter of a remote store is refused, as a cause of Table 19-4: absent, unaligned, not writable or sealed (R162); one
that cannot be corrected is a refused write. -/
def State.counterCause (s : State) (vf ctr : Nat) (find : Nat → Except Nat XEntry) (own : Option Nat) : Option Nat :=
  if ctr = 0 then none
  else if ctr % 8 ≠ 0 then some 1
  else match find ctr with
    | .error _ => some 1
    | .ok x =>
      match s.atomic vf 0 (ctr / 65536) x (ctr % 65536) id own with
      | some (_, _, 5, _) => some 1
      | some (_, _, 6, _) => some 5
      | _ => none

/-- The counter add of a remote store (R162). -/
def State.countLanded (s : State) (vf ctr n : Nat) (find : Nat → Except Nat XEntry) (own : Option Nat) : State :=
  if ctr = 0 then s
  else match find ctr with
    | .error _ => s
    | .ok x => match s.atomic vf 0 (ctr / 65536) x (ctr % 65536) (fun o => o + BitVec.ofNat 64 n) own with
      | some (t, _) => t
      | none => s

/-- A remote store lands, by an agent of die `d` of this module (none for a peer's) with translations that `find` gives: its bytes,
then the counter add, or nothing where either is refused (R162); `none` while a home cannot be reached. -/
def State.landUnder (s : State) (d : Option Nat) (vf a : Nat) (bs : List Byte) (ctr : Nat) (find : Nat → Except Nat XEntry)
    (own : Option Nat) : Option (State × Nat) :=
  let held (a : Nat) : Bool := match find a with
    | .ok x => s.frameWaits vf x.frame own
    | .error _ => false
  if held a || (ctr != 0 && held ctr) then none
  else match s.counterCause vf ctr find own with
  | some n => some (s, n)
  | none =>
    match find a with
    | .error c => some (s, c)
    | .ok x =>
      let r := s.writeUnit (d.getD (frameDie x.frame)) vf 0 (a / 65536) x (a % 65536) bs own
      match r.2 with
      | .sealed => some (r.1, 4)
      | .done => some (r.1.countLanded vf ctr bs.length find own, 0)
      | _ => some (r.1, 2)

/-- A remote store of a peer lands: this module's ports translate it as it comes. -/
def State.landWrite (s : State) (vf a : Nat) (bs : List Byte) (ctr : Nat) : Option (State × Nat) :=
  s.landUnder none vf a bs ctr (fun a => s.flatFind vf a true) none

/-! ## Commits (R241, R287) -/

/-- An entry of the buffer that is marked UNCORR comes to commit (R290): the bundle that the core would issue next consumes it, with
TINFO 0, as it names neither a register nor a slot (DESIGN CHOICE, log 88). Once
that has trapped, or stopped the core at H (R188), the entry counts as reported: its lines are left uncorrectable when it commits
(R241 drops no store of a closed segment; log 88). -/
def State.badStore (s : State) (c pos : Nat) : State :=
  let k := s.core c
  let s := s.modCore c fun k =>
    { k with
      early := false
      ssb := if k.atH || !k.retries .core then k.ssb.map fun e => if e.pos = pos then { e with bad := 2 } else e else k.ssb }
  if k.atH then s.freezeCore c 6 0 true k.holding else s.consume c .core 0 k.pc

/-- The lines of a range of a frame's unit become uncorrectable (R289). -/
def State.spoilRange (s : State) (frame off n : Nat) : State :=
  (List.range ((off + n - 1) / 64 - off / 64 + 1)).foldl (fun s i =>
    { s with lines := Tab.modify ⟨none, 0⟩ s.lines (frame * 1024 + off / 64 + i) fun x => { x with ecc := 2 } }) s

/-- The lines of a range of a unit of this module become uncorrectable. -/
def State.spoilUnit (s : State) (vf : Nat) (x : XEntry) (off n : Nat) : State :=
  match s.stage vf x.frame true with
  | some r => s.spoilRange r.frame off n
  | none => s.refuse vf

/-- One piece of a store commits under a translation taken now (R237, R287): to its home, to another module by the fabric, or to
nothing where it is refused (R198). A store of which a unit does not translate writes no byte of what is left of it, and is counted
once. An entry STATE 3 whose OWNER is this module itself is taken as this module's (DESIGN CHOICE, log 122). `none` where it must
wait. -/
def State.commitPiece (s : State) (c : Nat) (e : SsbEntry) (p : Piece) : Option State :=
  let vf := (s.core c).vf
  let pop (s : State) : State := s.modCore c fun k => k.popPiece e.pos
  let drop (s : State) : State := s.modCore c fun k => k.dropStore e.store
  let units := (((s.core c).ssb.filter (·.store == e.store)).flatMap fun y => y.parts.map (·.unit)).eraseDups
  let at_ (u : Nat) : Look XEntry := s.look c .store e.tid u true false
  if units.any fun u => (match at_ u with | .fault _ => true | _ => false) then some ((drop s).refuse vf)
  else match units.find? fun u => (match at_ u with | .miss => true | _ => false) with
  | some u => some (s.want c .store e.tid u true)
  | none =>
  match at_ p.unit with
  | .miss => some (s.want c .store e.tid p.unit true)
  | .fault _ => some ((drop s).refuse vf)
  | .hit x =>
    if e.bad ≠ 0 then
      some (if x.owner = s.me then (pop s).spoilUnit vf x p.off p.data.length else (drop s).refuse vf)
    else if x.owner ≠ s.me then
      let s := s.modCore c fun k => { k with ssb := k.ssb.map fun y => if y.pos = e.pos then { y with sent := true } else y }
      some ((s.askTile (dieOf c) 7 vf e.tid p.unit p.off 1 x.owner p.data .pkg (.ssb c e.pos)).deliverDone (dieOf c))
    else
      let r := s.writeUnit (dieOf c) vf e.tid p.unit x p.off p.data (some (bulkOf c))
      match r.2 with
      | .wait => none
      | .done => some (pop r.1)
      | .refused => some ((drop r.1).refuse vf)
      | .sealed => some (pop (if e.told then r.1 else (r.1.countSealed vf).modCore c fun k => k.tellStore e.store))

/-- The oldest store goes on to commit, if its segment has closed, the loads that a `qalign` put before it have performed (R157,
R241) and the acquires before it have taken effect (R244). `none` where it cannot yet. -/
def State.commitOne (s : State) (c : Nat) : Option State :=
  let k := s.core c
  match k.ssb with
  | [] => none
  | e :: _ =>
    if !e.closed || e.sent || !k.loadsPast e.loads || !k.acquired e.port then none
    else if e.bad = 1 then
      -- the entry of a core that issues no bundle is left to commit as one reported (log 88)
      some (if k.run = .running then s.badStore c e.pos
        else s.modCore c fun k => { k with ssb := k.ssb.map fun y => if y.pos = e.pos then { y with bad := 2 } else y })
    else match e.parts with
      | [] => some (s.modCore c fun k => k.popPiece e.pos)
      | p :: _ => s.commitPiece c e p

/-- Up to `n` steps of a core's commits. -/
def State.commitN : Nat → Nat → State → State
  | 0, _, s => s
  | n + 1, c, s =>
    match s.commitOne c with
    | none => s
    | some s => State.commitN n c s

/-- Commit every store of a core that can commit now. -/
def State.drainStores (s : State) (c : Nat) : State :=
  State.commitN ((s.core c).ssb.map fun e => e.parts.length + 1).sum c s

/-! ## Atomics (R159, R160) -/

/-- The new word of an atomic, by its function (Table 7-5). -/
def atomNew (f : Nat) (old b x : Word) : Word :=
  match f with
  | 0 => old + b
  | 1 => if old.toInt ≤ b.toInt then old else b
  | 2 => if old.toNat ≤ b.toNat then old else b
  | 3 => if b.toInt ≤ old.toInt then old else b
  | 4 => if b.toNat ≤ old.toNat then old else b
  | 5 => old &&& b
  | 6 => old ||| b
  | 7 => old ^^^ b
  | 8 => b
  | 9 => if old = x then b else old
  | _ => if old.toNat < b.toNat then old + 1 else old

/-- Every remote load issued before number `n` is on its way, so that requests leave in issue order (R307). -/
def State.remoteSent (s : State) (c n : Nat) : Bool :=
  ((s.core c).loads ++ (s.core c).hloads).all fun x =>
    !x.valid || !(x.kind == 3 || x.kind == 4) || x.performed || x.gone || decide (n ≤ x.seq) || x.addr.toNat / 2 ^ 48 % 64 == s.me ||
    (s.reqFor (dieOf c) fun q => q.for_ == .load c x.seq && q.op ≤ 2).isSome

/-- Whether the oldest operation of a core's port may perform (R158, R160, R240): an operation on this module after every earlier one
on another is acknowledged, a request after earlier remote loads are sent. -/
def State.portReady (s : State) (c : Nat) (p : PortOp) : Bool :=
  let k := s.core c
  p.span == 0 && k.storesPast p.behind && k.loadsPast p.loads &&
  (if p.remote && p.mod != s.me then s.remoteSent c p.rem else !s.unackedOps c) && (!p.releases || s.outDone c p.scope)

/-- An acquire takes effect, and its operation leaves the port (R160, R244). -/
def State.finishPort (s : State) (c : Nat) (p : PortOp) : State :=
  (if p.acquires then s.acquire (dieOf c) p.scope else s).leavePort c p.id

/-- Who asks for the walks of an operation at the port: its outstanding load, or the operation itself. -/
def PortOp.user (p : PortOp) : XUser := match p.seq with | some q => .load q | none => .port p.id

/-- The translation of an operation on this module: that of its issue, or a lookup (R281, R282). -/
def State.portXl (s : State) (c : Nat) (p : PortOp) : Look XEntry :=
  match p.xl with
  | some x => .hit x
  | none => s.look c p.user 0 (p.addr / 65536) true false

/-- A translation fault that an access meets after issue stops the core at its next bundle boundary (R250). -/
def State.lateFault (s : State) (c : Nat) (u : XUser) (f : XFault) : State :=
  let s := s.modCore c fun k => k.dropRes u
  if (s.core c).run = .running then s.freezeCore c f.cause f.info (s.core c).atH (s.core c).holding else s

/-- An atomic of this module has performed: its value or cause to the load that waits, a refused one counted (R163, R287). Its
completion is its reply where it returns a value, else the acknowledgment, which comes at once (R160). One that meets an absent
bulkhead is counted whether it returns a value or not (R299). -/
def State.performed (s : State) (c : Nat) (p : PortOp) (old : Word) (cause : Nat) (unit : ErrUnit) : State :=
  match p.seq with
  | some q =>
    let s := if unit = .window then s.refuse (s.core c).vf else s
    let s := s.modCore c fun k => k.setLoad q fun y =>
      { y with performed := true, val := Word.toVec old, cause := cause, unit := unit }
    s.modCore c fun k =>
      { k with port := if p.acquires then k.port.map fun r => if r.id = p.id then { r with sent := true } else r
                       else k.port.filter fun r => r.id != p.id }
  | none =>
    let vf := (s.core c).vf
    let nack := if cause = 6 then 5 else if cause = 5 then 4 else (s.flatCause vf p.addr true).getD 2
    let refused := if p.remote then s.fabricReport vf nack 5 s.me 0 p.addr else s.refuse vf
    (if cause = 0 then s else refused).finishPort c p

/-- The oldest operation of a core's port performs, or is handed to the fabric. `none` where it cannot yet. -/
def State.performPort (s : State) (c : Nat) : Option State :=
  let k := s.core c
  match k.port with
  | [] => none
  | p :: _ =>
    let far := p.remote && p.mod != s.me
    if p.sent then
      -- an acquire whose load was given up as late completes all the same
      (if far || (p.seq.any fun q => (k.loadOf q).isSome) then none else some (s.finishPort c p))
    else if !s.portReady c p then none
    else if far then
      if p.store then
        -- a remote store completes as its packet is handed to the fabric (Table 1-5)
        let s := s.leavePort c p.id
        some (s.askNow (dieOf c) (if p.data.length = 8 then 3 else 4) p.mod k.vf p.addr (p.ctr.getD 0) p.data p.scope
          (p.ord == .rel) (.port c p.id))
      else
        let s := s.modCore c fun k => { k with port := k.port.map fun q => if q.id = p.id then { q with sent := true } else q }
        some (s.askNow (dieOf c) 5 p.mod k.vf p.addr (p.func + (if p.seq.isSome then 16 else 0))
          (leBytes 8 p.b.toNat ++ leBytes 8 p.x.toNat) p.scope p.releases (.port c p.id))
    else if p.store then
      let ctr := p.ctr.getD 0
      let miss (a : Nat) : Bool := match s.look c p.user 0 (a / 65536) true false with | .miss => true | _ => false
      if miss p.addr then some (s.want c p.user 0 (p.addr / 65536) true)
      else if ctr ≠ 0 ∧ ctr % 8 = 0 ∧ miss ctr then some (s.want c p.user 0 (ctr / 65536) true)
      else match s.landUnder (some (dieOf c)) k.vf p.addr p.data ctr (fun a => s.lookFind c p.user a true) (some (bulkOf c)) with
      | none => none
      | some (t, cause) =>
        let t := if cause = 0 then t else t.fabricReport k.vf cause (if p.data.length = 8 then 3 else 4) s.me 0 p.addr
        some (t.leavePort c p.id)
    else
      match s.portXl c p with
      | .miss => some (s.want c p.user 0 (p.addr / 65536) true)
      | .fault f =>
        if p.remote || p.seq.isNone then some (s.performed c p 0 3 .core)
        else
          -- the replay is sent again when the core is restored (R64, R257)
          some ((s.modCore c fun k => { k with port := k.port.filter fun r => r.id != p.id }).lateFault c (.load (p.seq.getD 0)) f)
      | .hit x =>
        match s.atomic k.vf 0 (p.addr / 65536) x (p.addr % 65536) (fun o => atomNew p.func o p.b p.x) (some (bulkOf c)) with
        | none => none
        | some (s, old, cause, unit) =>
          let s := match s.stage k.vf x.frame true with
            | some r => s.dropLine (dieOf c) (r.frame * 1024 + p.addr % 65536 / 64)
            | none => s
          some (s.performed c p old cause unit)

/-- Perform up to `n` operations of a core's port. -/
def State.portN : Nat → Nat → State → State
  | 0, _, s => s
  | n + 1, c, s =>
    match s.performPort c with
    | none => s
    | some s => State.portN n c s

/-! ## Loads (R148, R155, R157, R161) -/

/-- The byte that a `qalign` forwards: from the youngest store before it that still stands in the buffer (R157). -/
def Core.forwarded (c : Core) (fwd tid unit off : Nat) : Option Byte :=
  c.ssb.foldl (fun b e =>
    if e.pos < fwd ∧ e.tid = tid then
      e.parts.foldl (fun b p =>
        if p.unit = unit ∧ p.off ≤ off ∧ off < p.off + p.data.length then p.data[off - p.off]? else b) b
    else b) none

/-- Whether the byte that a `qalign` forwards comes from an entry that is marked UNCORR (R288). -/
def Core.forwardedBad (c : Core) (fwd tid unit off : Nat) : Bool :=
  c.ssb.foldl (fun b e =>
    if e.pos < fwd ∧ e.tid = tid ∧ (e.parts.any fun p => p.unit == unit && decide (p.off ≤ off) && decide (off < p.off + p.data.length))
    then e.bad != 0 else b) false

/-- Bytes of a flat range, each from the store buffer or else from memory (R157); a line of which every byte is forwarded is not
read. -/
def State.readOver (c fwd unit : Nat) (e : XEntry) : List (Nat × Nat) → State → Option (State × Got)
  | [], s => some (s, ⟨[], 0, .core⟩)
  | (o, n) :: t, s => do
    let k := s.core c
    let own := (List.range n).map fun i => k.forwarded fwd 0 unit (o + i)
    let r ← if own.all (·.isSome) then some (s, (⟨List.replicate n 0, 0, .core⟩ : Got))
      else s.readUnit (dieOf c) true k.vf 0 unit e o n (some (bulkOf c))
    let q ← State.readOver c fwd unit e t r.1
    let spoilt := (List.range n).any fun i => k.forwardedBad fwd 0 unit (o + i)
    let r := if spoilt then (r.1, ({ r.2 with cause := joinCause r.2.cause 6, unit := if r.2.cause = 0 then .core else r.2.unit } : Got))
      else r
    let cause := joinCause r.2.cause q.2.cause
    some (q.1, ⟨(own.zip r.2.bytes).map (fun x => x.1.getD x.2) ++ q.2.bytes, cause,
      if cause = r.2.cause then r.2.unit else q.2.unit⟩)

/-- A range cut at the ends of lines. -/
def linePieces (off : Nat) : Nat → List (Nat × Nat)
  | 0 => []
  | n + 1 =>
    let m := 64 - off % 64
    if n + 1 ≤ m then [(off, n + 1)] else (off, m) :: (List.range ((n + 1 - m + 63) / 64)).map fun i =>
      (off + m + 64 * i, Nat.min 64 (n + 1 - m - 64 * i))

/-- ext of R148: sign-extended for `.s` types, zero-extended for all others; the code is Table 1-6's. -/
def extCode (ty : Nat) (n : Nat) : Word :=
  if ty < 4 then wrap (toSigned (codeWidth ty) n) else BitVec.ofNat 64 n

/-- A load fixes its value. -/
def State.fixLoad (s : State) (c seq : Nat) (val : Vec) (cause : Nat) (unit : ErrUnit) (zero : Bool) : State :=
  s.modCore c fun k => (k.setLoad seq fun y =>
    { y with performed := true, val := val, cause := cause, unit := unit, zero := zero }).dropRes (.load seq)

/-- A flat load, `ldv`, or a remote load of the module's own space performs. -/
def State.performFlat (s : State) (c : Nat) (x : Load) : State :=
  let a := x.addr.toNat % 2 ^ 48
  let n := if x.vec then 256 else if x.kind = 0 then codeWidth x.ty / 8 else 8
  match s.look c (.load x.seq) 0 (a / 65536) false false with
  | .miss => s.want c (.load x.seq) 0 (a / 65536) false
  | .fault f => s.lateFault c (.load x.seq) f
  | .hit e =>
    match State.readOver c (if x.kind ≤ 1 then x.fwd else 0) (a / 65536) e (linePieces (a % 65536) n) s with
    | none => s
    | some (s, g) =>
      let v := leVal g.bytes
      let val : Vec := if x.vec then BitVec.ofNat 2048 v else Word.toVec (if x.kind = 0 then extCode x.ty v else BitVec.ofNat 64 v)
      s.fixLoad c x.seq (if g.cause = 0 then val else 0) g.cause g.unit false

/-- The descriptor of a stream suits `gath` and `scat` (R155). -/
def SDesc.gathers (d : SDesc) : Bool :=
  d.kind == 0 && !d.out && !d.bfp && decide (2 ≤ d.ndim) && decide (d.cnt.getD 0 0 ≤ 2048 / codeWidth d.ty) &&
  decide (1 ≤ d.cnt.getD 0 0)

/-- Rows of a `gath` or `scat` (R155). -/
def SDesc.rows (d : SDesc) : Nat := Nat.min 64 (2048 / codeWidth d.ty / d.cnt.getD 0 1)

/-- The places of the elements of a row with index `x`. -/
def SDesc.row (d : SDesc) (t : TDesc) (x : Nat) : List StreamRef :=
  (List.range (d.cnt.getD 0 0)).map fun j =>
    d.refIn t [Int.ofNat (d.base.getD 0 0) + Int.ofNat j * d.strd.getD 0 0, Int.ofNat (d.base.getD 1 0 + x),
      if d.ndim = 2 then 0 else Int.ofNat (d.base.getD 2 0)]

/-- The rows that an index vector chooses, none for index 0xFFFF_FFFF. -/
def SDesc.chosen (d : SDesc) (t : TDesc) (vi : Vec) : List (Option (List StreamRef)) :=
  (List.range d.rows).map fun r =>
    let x := Vec.elem 32 vi r
    if x = 0xFFFFFFFF then none else some (d.row t x)

/-- The lines that items of `n` bytes lie on, in order: unit and line. -/
def linesOf (n : Nat) (refs : List StreamRef) : List (Nat × Nat) :=
  ((refs.filter (!·.out)).flatMap fun r =>
    (List.range ((r.off + n - 1) / 64 - r.off / 64 + 1)).map fun i => (r.unit, r.off / 64 + i)).eraseDups

/-- Lines that follow one another, up to `m` together: unit, first line, count (log 107). -/
def lineRuns (m : Nat) : List (Nat × Nat) → List (Nat × Nat × Nat)
  | [] => []
  | (u, l) :: t =>
    match lineRuns m t with
    | (u', l', n) :: q => if u' = u ∧ l' = l + 1 ∧ n < m then (u, l, n + 1) :: q else (u, l, 1) :: (u', l', n) :: q
    | [] => [(u, l, 1)]

/-- The read request of a run of lines on another module (R237). -/
def State.runReq (s : State) (c : Nat) (purpose : ReqFor) (tid : Nat) (r : Nat × Nat × Nat) : Option Req :=
  s.reqFor (dieOf c) fun q =>
    q.for_ == purpose && q.op == 6 && q.addr == r.1 * 65536 + r.2.1 * 64 && q.caddr == tid + (r.2.2 - 1) * 2 ^ 24

/-- Whether every run of lines can be read at this instant: translated, within reach or answered by its module. What is missing is
asked for. -/
def State.runsReady (c : Nat) (u : XUser) (purpose : ReqFor) (tid : Nat) : List (Nat × Nat × Nat) → State → Except XFault (State × Bool)
  | [], s => .ok (s, true)
  | r :: t, s => do
    let q : State × Bool ← match s.look c u tid r.1 false false with
      | .miss => .ok (s.want c u tid r.1 false, false)
      | .fault f => .error f
      | .hit e =>
        if e.owner = s.me then .ok (s, (s.readUnit (dieOf c) true (s.core c).vf tid r.1 e (r.2.1 * 64) 1 (some (bulkOf c))).isSome)
        else match s.runReq c purpose tid r with
          | none => .ok (s.askTile (dieOf c) 6 (s.core c).vf tid r.1 (r.2.1 * 64) r.2.2 e.owner [] .core purpose, false)
          | some q => .ok (s, q.done)
    let z ← State.runsReady c u purpose tid t q.1
    .ok (z.1, q.2 && z.2)

/-- One line of a run that is ready: the cause 16 stands for a request that no answer came to. -/
def State.readRunLine (s : State) (c : Nat) (u : XUser) (purpose : ReqFor) (tid : Nat) (r : Nat × Nat × Nat) (i : Nat) : State × Got :=
  let bad (n : Nat) : Got := ⟨List.replicate 64 0, n, .core⟩
  match s.look c u tid r.1 false false with
  | .hit e =>
    if e.owner = s.me then
      (s.readUnit (dieOf c) true (s.core c).vf tid r.1 e ((r.2.1 + i) * 64) 64 (some (bulkOf c))).getD (s, bad 6)
    else match s.runReq c purpose tid r with
      | none => (s, bad 16)
      | some q =>
        if q.cause = 0 then (s, ⟨(q.data.drop (64 * i)).take 64, 0, .core⟩)
        else (s, bad (if q.cause = 6 ∨ q.cause = 16 then 16 else nackCause q.cause))
  | _ => (s, bad 6)

/-- The lines of runs that are ready, each read once: unit, line and what was found. -/
def State.readRuns (s : State) (c : Nat) (u : XUser) (purpose : ReqFor) (tid : Nat) (runs : List (Nat × Nat × Nat)) :
    State × List (Nat × Nat × Got) :=
  (runs.flatMap fun r => (List.range r.2.2).map fun i => (r, i)).foldl (fun a x =>
    let q := a.1.readRunLine c u purpose tid x.1 x.2
    (q.1, a.2 ++ [(x.1.1, x.1.2.1 + x.2, q.2)])) (s, [])

/-- An item of `n` bytes put together from lines; one outside its tensor reads nothing. -/
def itemGot (lines : List (Nat × Nat × Got)) (n : Nat) (r : StreamRef) : Got :=
  if r.out then ⟨List.replicate n 0, 0, .core⟩
  else
    let mine := (List.range ((r.off + n - 1) / 64 - r.off / 64 + 1)).filterMap fun i =>
      (lines.find? fun x => x.1 == r.unit && x.2.1 == r.off / 64 + i).map (·.2.2)
    let cause := mine.foldl (fun m g => if m = 16 ∨ g.cause = 16 then 16 else joinCause m g.cause) 0
    ⟨((mine.flatMap (·.bytes)).drop (r.off % 64)).take n, cause, ((mine.find? (·.cause == cause)).map (·.unit)).getD .core⟩

/-- Answered requests of a purpose are forgotten. -/
def State.dropDone (s : State) (die : Nat) (purpose : ReqFor) : State :=
  s.modDie die fun y => { y with reqs := y.reqs.filter fun q => !(q.for_ == purpose && q.done) }

/-- A gather with its rows read (R155): a bad row is zero under ZPOI, and poisons without; a row that no answer came to leaves the
gather unarrived. -/
def State.gathered (s : State) (c : Nat) (x : Load) (d : SDesc) (rows : List (Option (List Got))) : State :=
  let all := (rows.map (·.getD [])).flatten
  if all.any (·.cause == 16) then s.modCore c fun k => k.setLoad x.seq fun y => { y with gone := true }
  else
    let cnt := d.cnt.getD 0 1
    let causeOf (row : List Got) : Nat := row.foldl (fun m g => joinCause m g.cause) 0
    let vals := rows.flatMap fun row =>
      match row with
      | none => List.replicate cnt 0
      | some gs => if causeOf gs = 0 then gs.map fun g => leVal g.bytes else List.replicate cnt 0
    let cause := causeOf all
    let unit := ((all.find? (·.cause == cause)).map (·.unit)).getD .core
    let val := Vec.ofElems (codeWidth d.ty) vals
    if cause = 0 then s.fixLoad c x.seq val 0 .core false
    else if d.zpoi ∧ cause ≠ 3 then s.fixLoad c x.seq val 0 .core true
    else s.fixLoad c x.seq 0 cause unit false

/-- A gather performs (R155, R274): the descriptor, the extent, the format, and then every line of its rows at one instant. -/
def State.performGath (s : State) (c : Nat) (x : Load) : State :=
  let u := XUser.load x.seq
  let d := SDesc.ofBits x.desc
  match s.lookDesc c u d.id false with
  | .miss => s.want c u d.id descUnit false
  | .fault f => s.lateFault c u f
  | .hit t =>
    let rows := d.chosen t x.vi
    let refs := (rows.map (·.getD [])).flatten
    if refs.any (·.out) then s.fixLoad c x.seq 0 3 .core false
    else if !d.fits t then s.lateFault c u (xfault d.id ((refs.head?.map (·.unit)).getD 0) 0 false false 8)
    else
      let runs := (rows.flatMap fun r => lineRuns 4 (linesOf d.itemBytes (r.getD []))).eraseDups
      match State.runsReady c u (.load c x.seq) d.id runs s with
      | .error f => if f.reason = 9 then (s.fixLoad c x.seq 0 3 .core false).dropDone (dieOf c) (.load c x.seq) else s.lateFault c u f
      | .ok (s, false) => s
      | .ok (s, true) =>
        let r := s.readRuns c u (.load c x.seq) d.id runs
        (r.1.gathered c x d (rows.map fun o => o.map fun l => l.map (itemGot r.2 d.itemBytes))).dropDone (dieOf c) (.load c x.seq)

/-- The module that a remote load names. -/
def Load.module (x : Load) : Nat := x.addr.toNat / 2 ^ 48 % 64

/-- The oldest load that has not performed does so when it may; a remote load sends its request instead. -/
def State.performLoad (s : State) (c : Nat) (x : Load) : State :=
  let k := s.core c
  -- an entry that a handler has built goes out at the return (R257)
  if x.performed || x.gone || x.kind = 5 || (k.atH && x.rem == 0) || !k.mayPerform x then s
  else if x.kind = 2 then s.performGath c x
  else if x.kind ≤ 1 then s.performFlat c x
  else if x.module = s.me then (if s.unackedOps c then s else s.performFlat c x)
  else
    let n := if x.vec then 32 else 1
    match (s.die (dieOf c)).remoteVal (s.world k.vf).fwid x.module (x.addr.toNat % 2 ^ 48) n with
    | some bs => s.modCore c fun k => k.setLoad x.seq fun y => { y with performed := true, arrived := true, val := BitVec.ofNat 2048 (leVal bs) }
    | none =>
      if (s.reqFor (dieOf c) fun q => q.for_ == .load c x.seq && q.op ≤ 2).isSome then s
      else s.askNow (dieOf c) (if x.vec then 2 else 1) x.module k.vf (x.addr.toNat % 2 ^ 48) 0 [] .core false (.load c x.seq)

/-- Loads are performed in issue order up to the one with number `seq`. -/
def State.performUpTo (s : State) (c seq : Nat) : State :=
  let todo := ((s.core c).loads ++ (s.core c).hloads).filter fun x => x.valid && !x.performed && decide (x.seq ≤ seq)
  todo.foldl (fun s x => s.performLoad c x) s

/-- Remote loads that may go now are sent. -/
def State.pushLoads (s : State) (c : Nat) : State :=
  (((s.core c).loads ++ (s.core c).hloads).filter fun x => x.valid && (x.kind == 3 || x.kind == 4)).foldl
    (fun s x => if x.module = s.me then s else s.performLoad c x) s

/-! ## Events -/

/-- Whether replies and performances still reach a core: once its freeze has latched they are dropped (R252). -/
def Core.latchedNow (c : Core) : Bool := match c.freeze with
  | some f => f.latched
  | none => false

/-- Whether every load and fetch that the core has issued has read memory: what issued before a commit point sees no store that a
partner buffered (R243). A load that itself waits for stores or acquires does not count, nor does what a core that has stopped has
not read. -/
def Core.readsDone (c : Core) : Bool :=
  c.run != .running ||
  ((c.loads ++ c.hloads).all fun x =>
    !x.valid || x.kind == 5 || x.performed || x.gone || x.rem == 0 || !c.storesPast x.behind || !c.acquired x.port) &&
  c.q.all fun x => (SDesc.ofBits x.2.desc).kind == 1 || x.2.aq.all fun a => !a.sent

/-- One store of a closed segment commits (R241), in a coupled quad after those of the lower ranks and what the ranks read before
(R242, R243); the handler's at once (R385). -/
def execSegmentCommit (core : Nat) (s : State) : Result :=
  let k := s.core core
  let waits := k.coupled && !(k.ssb.head?.any (·.atH)) &&
    (quadCores core).any fun c => (decide (c < core) && (s.core c).ssb.any (·.closed)) || !(s.core c).readsDone
  if waits then .next s
  else match s.commitOne core with
    | none => .next s
    | some s => .next (s.pushLoads core)

/-- The oldest operation of the core's port performs (R159). -/
def execAtomicPerform (core : Nat) (s : State) : Result :=
  match s.performPort core with
  | none => .next s
  | some s => .next (s.pushLoads core)

/-- The reply to a local load, gather or value-returning atomic arrives (R145): earlier loads perform first, in issue
order (Table 13-3). Places from 64 on are those of the handler's table. -/
def execLoadReplyArrival (core idx : Nat) (s : State) : Result :=
  let k := s.core core
  match (if idx < 64 then k.loads[idx]? else k.hloads[idx - 64]?) with
  | none => .next s
  | some x =>
    if !x.valid || k.latchedNow || (k.atH && x.rem == 0) then .next s
    else
      let s := if x.kind = 5 then s else s.performUpTo core x.seq
      let s := s.modCore core fun k => k.setLoad x.seq fun y => if y.performed then { y with arrived := true } else y
      -- the reply completes an atomic that acquires (R160)
      let s := match (s.core core).port.find? fun p => p.sent && p.seq == some x.seq && !(p.remote && p.mod != s.me) with
        | some p => s.finishPort core p
        | none => s
      .next (s.pushLoads core)

/-- Whether the next bundle of a rank's task, once a handler has returned, carries RDV. -/
def Core.nextRdv (c : Core) : Bool :=
  (bundleOf (Tab.get 0 c.imem (if c.atH then (c.cr 0xA).toNat % 8192 else c.pc)).toNat).rdv

/-- Whether every rank of a quad has issued the bundle before a rendezvous, and some rank's carried a non-idempotent op: the commit
point has come (R242, R301). -/
def State.spanEnd (s : State) (lead : Nat) : Bool :=
  (quadCores lead).all (fun c =>
    ((s.core c).run == .running || (s.core c).run == .stopping) && (s.core c).nextRdv) &&
  (quadCores lead).any fun c => (s.core c).needSeg

/-- The stores of cores are committed from now on. -/
def State.closeStores (s : State) (cs : List Nat) : State :=
  cs.foldl (fun s c => s.modCore c fun k => { k with ssb := k.ssb.map fun e => { e with closed := true }, charge := 0 }) s

/-- Ranks that are away from their quad have come to their commit point (R242, R301). -/
def State.passSpan (s : State) (lead : Nat) : State :=
  if (s.core lead).coupled && s.spanEnd lead then s.closeStores (quadCores lead) else s

/-- Whether a command may begin and has not (R301). -/
def Core.toStart (c : Core) (m : Cmd) : Bool :=
  (match m.kind with | .reduce _ | .reduceOrdered .. | .migrate _ => true | _ => false) &&
  !m.started && m.waitFor.isEmpty && c.storesPast m.behind

/-- Whether nothing that a rank issued before a commit point still waits to be performed in its turn (R242, R301). -/
def Core.spanGone (c : Core) : Bool :=
  !(c.port.any fun p => !p.sent) && (List.range 8).all fun h => !((c.chan h).cmds.head?.any c.toStart)

/-- The commit of a coupled quad whose ranks are in step, or whose commit point has come (R242, R301): the stores of ranks 0 to 3,
then their non-idempotent operations in rank order. -/
def execRendezvousCommit (quad : Nat) (s : State) : Result :=
  let cs := quadCores (4 * quad)
  if !(s.core (4 * quad)).coupled || ((s.core (4 * quad)).away && !s.spanEnd (4 * quad)) || cs.any fun c => !(s.core c).readsDone
  then .next s
  else
    let s := cs.foldl (fun s c =>
      -- a rank's stores wait for those of the lower ranks
      if (cs.filter (· < c)).all fun b => !((s.core b).ssb.any (·.closed)) then s.drainStores c else s) s
    if cs.any fun c => (s.core c).ssb.any (·.closed) then .next s
    else
      let s := cs.foldl (fun s c =>
        if (cs.filter (· < c)).all fun b => (s.core b).spanGone then
          let s := s.modCore c fun k => (k.freeSpan 0).settle
          State.portN (s.core c).port.length c s
        else s) s
      .next (cs.foldl (fun s c => s.pushLoads c) s)

end Sys2Proof.Machine
end

