-- ==== Sys2Proof/Machine/MemInstr.lean ====
section
/-! DEFINITION. The LD and ST ops (spec/07_memory_instructions.md, R143 to R163). -/

namespace Sys2Proof.Machine

/-! ## What stops them -/

/-- Whether an address register can be used: readable, aligned and within its space. -/
def State.goodAddr (s : State) (a : BitVec 6) (align bits : Nat) : Bool :=
  s.clean a && (addrFault (s.sv a).toNat align bits).isNone

/-- Alignment and range of an address register (Table 7-2, reasons 1 and 2). -/
def State.addrStops (s : State) (a : BitVec 6) (opBit align bits : Nat) : List Stop :=
  if s.clean a then
    match addrFault (s.sv a).toNat align bits with
    | some (r, b) => [s.alignStop r b opBit]
    | none => []
  else []

/-- A 65th outstanding load (R147). -/
def State.loadOcc (s : State) : List Stop :=
  if 64 ≤ (if s.cur.atH then s.cur.hloads else s.cur.loads).length then [s.occStop none] else []

/-- The hold of a flat access in a channel's range (R44). -/
def State.flatHold (s : State) (a : BitVec 6) (align n : Nat) : List Stop :=
  if s.goodAddr a align 48 then s.holdIf (s.cur.aboveMark false (s.sv a).toNat n) 3 else []

/-- The hold of a scratchpad access (R49, R50). -/
def State.slotHold (s : State) (a : BitVec 6) (n : Nat) (wr : Bool) : List Stop :=
  if s.goodAddr a n 22 then
    match s.cur.scratchHold (s.sv a).toNat n wr with
    | some k => s.holdIf true k
    | none => []
  else []

/-- The translation of an issue-time access: its walk holds, its fault freezes (R283, R250). -/
def State.xlStops (s : State) (tid unit : Nat) (wr prb : Bool) (bit : Nat) : List Stop :=
  match s.look s.ctx.core .issue tid unit wr prb with
  | .hit _ => []
  | .fault f => [s.stop 10 bit (.freeze f.cause f.info)]
  | .miss => [s.stop 0 0 (.walk tid unit wr)]

/-- Stops of a flat store or local atomic: translation (R149, R283). -/
def State.flatXl (s : State) (a : BitVec 6) (bit align : Nat) : List Stop :=
  if s.goodAddr a align 48 then s.xlStops 0 ((s.sv a).toNat / 65536) true false bit else []

/-- Bytes charged for a store of `n` bytes (R149). -/
def chargeOf (n : Nat) : Nat := 32 * ceilDiv n 32

/-- A store that would raise the charge above the declared `ssb` (R149); the handler's stores are not charged (R385). -/
def State.chargeStop (s : State) (n : Nat) : List Stop :=
  if !s.cur.atH && decide (s.cur.occ.ssb < s.cur.charge + n) then [s.occStop none] else []

/-- A stream register at or above the declared count (R151). -/
def State.streamOcc (s : State) (q : BitVec 4) (bit : Nat) : List Stop :=
  if s.cur.occ.streams ≤ q.toNat then [s.occStop (some bit)] else []

/-! ## Issue of loads (R145) -/

/-- The signal of the op in hand. -/
def State.opSig (s : State) : Sig := s.cur.sigOf s.ctx.ws

/-- The signal of the op in hand is made after `n` bundles. -/
def State.owe (s : State) (n : Nat) : State :=
  if s.opSig.inc = 0 then s else s.modCur fun c => { c with owed := c.owed ++ [(c.atH, n, s.opSig)] }

/-- A load as it stands at issue (its own bundle counts it down to D): its place in the order, what it forwards from and waits for; a
remote load comes after every port operation, to keep the order of requests (R307). -/
def State.newLoad (s : State) (kind : Nat) (vec : Bool) (reg d ty : Nat) (addr : Word) : Load :=
  { (default : Load) with
    valid := true, kind := kind, vec := vec, reg := reg, rem := d + 1, ty := ty, addr := addr, unit := .core
    seq := s.cur.loadSeq, fwd := s.cur.qaStore, behind := s.cur.closedEnd
    port := if kind = 3 ∨ kind = 4 then s.cur.portNext else s.cur.acqEnd
    w3 := loadWord3 (if kind = 3 ∨ kind = 4 then addr.toNat / 2 ^ 48 % 64 else s.me) 0
    sig := s.opSig, born := s.cur.issued }

/-- An entry of the outstanding-load table of the privilege is taken (R64). -/
def State.takeLoad (s : State) (x : Load) : State :=
  (s.modCur fun c =>
    let c := { c with loadSeq := c.loadSeq + 1 }
    if c.atH then { c with hloads := c.hloads ++ [x] } else { c with loads := c.loads ++ [x] }).pushLoads s.ctx.core

/-- `ld` (R148). -/
def execLd (x : ClsLL) (s : State) : Result :=
  let n := x.ty.width / 8
  issueOp (fun s => s.srcStops [.s x.a.toNat 6] ++ s.addrStops x.a 6 n 48 ++ s.loadOcc ++ s.flatHold x.a n n)
    (fun s => s.takeLoad (s.newLoad 0 false x.d.toNat x.D.toNat (Ty.code x.ty) (s.sv x.a))) s

/-- `ldv` (R148). -/
def execLdv (x : ClsLL) (s : State) : Result :=
  issueOp (fun s => s.srcStops [.s x.a.toNat 6] ++ s.addrStops x.a 6 256 48 ++ s.loadOcc ++ s.flatHold x.a 256 256)
    (fun s => s.takeLoad (s.newLoad 1 true (x.d.toNat % 32) x.D.toNat 0 (s.sv x.a))) s

/-- An address in a sealed slot poisons; an uncorrectable word is consumed at issue (R50, R290). -/
def State.scratchStops (s : State) (a : BitVec 6) (n d : Nat) (vec : Bool) : List Stop :=
  if s.goodAddr a n 22 && !s.cur.slotSealed (s.sv a).toNat && s.cur.scratchBad (s.sv a).toNat n
  then [s.stop 9 6 (.consume (.slot ((s.sv a).toNat / 65536)) (consumerInfo s.ctx.slot d vec))] else []

/-- SEALED where the slot was emptied by `seqend` (R50). -/
def State.slotPoison (s : State) (a : Nat) : Option Poison :=
  if s.cur.slotSealed a then some ⟨5, .slot (a / 65536)⟩ else none

/-- `ldt` (R148). -/
def execLdt (x : ClsLT) (s : State) : Result :=
  issueOp (fun s => s.srcStops [.s x.a.toNat 6] ++ s.addrStops x.a 6 256 22 ++
      s.scratchStops x.a 256 (x.d.toNat % 32) true ++ s.slotHold x.a 256 false)
    (fun s =>
      let a := (s.sv x.a).toNat
      (s.putV (x.d.toNat % 32) 6 (BitVec.ofNat 2048 (leVal (s.cur.scratch a 256))) (s.slotPoison a)).owe 6) s

/-- `ldts` (R148). -/
def execLdts (x : ClsLT) (s : State) : Result :=
  issueOp (fun s => s.srcStops [.s x.a.toNat 6] ++ s.addrStops x.a 6 8 22 ++
      s.scratchStops x.a 8 x.d.toNat false ++ s.slotHold x.a 8 false)
    (fun s =>
      let a := (s.sv x.a).toNat
      let s' := if x.d = 0 then s else s.modCur fun c =>
        c.push .s x.d.toNat 6 (BitVec.ofNat 2048 (leVal (c.scratch a 8))) (s.slotPoison a)
      s'.owe 6) s

/-! ## Streams (R150-R154) -/

/-- The stream that an op on qN acts on. -/
def State.sq (s : State) (q : BitVec 4) : Stream := s.cur.stream q.toNat

/-- Exhausted: done, and both queues empty (R151). -/
def Stream.exhausted (q : Stream) : Bool := q.done && q.aq.isEmpty && q.dq.isEmpty

/-- `ldq` (R150, R151, R154, R292). -/
def execLdq (x : ClsQ) (s : State) : Result :=
  issueOp (fun s =>
      let q := s.sq x.q
      let d := SDesc.ofBits q.desc
      let fits := q.loaded && !d.out
      s.streamOcc x.q 6 ++
      (if !fits then [s.alignStop 3 0 6]
       else if q.exhausted then [s.alignStop 4 0 6]
       else match q.dq with
         | [] => s.holdIf true 1
         | e :: _ =>
           if e.bad then [s.stop 9 6 (.consume .core (consumerInfo s.ctx.slot (x.r.toNat % 32) true))]
           else if e.coord then [s.stop 10 6 (.trap 3 (consumerInfo s.ctx.slot (x.r.toNat % 32) true))] else []) ++
      (if fits && !s.cur.atH && decide (16 ≤ q.popped.length) then [s.occStop (some 6)] else []))
    (fun s =>
      match (s.sq x.q).dq with
      | [] => s
      | e :: t =>
        let s := s.modCur fun c => c.modStream x.q.toNat fun q =>
          { q with dq := t, head := (q.head + 1) % 16, popped := if c.atH then q.popped else q.popped ++ [e] }
        let v := if e.poison.isSome then 0 else e.val
        (s.modCur fun c => c.push .v (x.r.toNat % 32) 3 v e.poison (if e.zero then some x.q.toNat else none)).owe 3) s

/-- The 32-byte descriptor at a scratchpad address. -/
def State.descAt (s : State) (a : Nat) : BitVec 256 := BitVec.ofNat 256 (leVal (s.cur.scratch a 32))

/-- A stream that a descriptor has loaded: both queues empty (R45). -/
def Stream.ofDesc (d : BitVec 256) : Stream := { Stream.idle with desc := d, loaded := true }

/-- `ldqs` (R152): TINFO for a refused descriptor names the descriptor's bit. -/
def execLdqs (x : ClsQ) (s : State) : Result :=
  issueOp (fun s =>
      let a := (s.sv x.r).toNat
      let q := s.sq x.q
      s.srcStops [.s x.r.toNat 0] ++ s.addrStops x.r 0 32 22 ++ s.streamOcc x.q 6 ++ s.slotHold x.r 32 false ++
      (if s.goodAddr x.r 32 22 then
        (if s.cur.slotSealed a then [s.stop 9 0 (.trap 5 (consumerInfo s.ctx.slot x.r.toNat false))]
         else if s.cur.scratchBad a 32 then
           [s.stop 9 0 (.consume (.slot (a / 65536)) (consumerInfo s.ctx.slot x.r.toNat false))]
         else match SDesc.offence (s.descAt a) with
           | some b => [s.alignStop 0 b 0]
           | none => [])
       else []) ++
      s.holdIf (q.loaded && (SDesc.ofBits q.desc).out && !q.dq.isEmpty) 1)
    (fun s =>
      let d := s.descAt (s.sv x.r).toNat
      (s.modCur fun c => { c with qNew := c.qNew ++ [⟨x.q.toNat, 3, c.atH, { Stream.ofDesc d with num := c.issued + 1 }⟩] }).owe 3) s

/-- What stops a push: kind of stream, the end of the stream, a full queue, the segment's limit (R150, R151, R292). -/
def State.pushStops (s : State) (q : BitVec 4) (one : Bool) : List Stop :=
  let x := s.sq q
  let d := SDesc.ofBits x.desc
  let fits := x.loaded && d.out && !(one && d.bfp)
  -- a `stqs` appends only when it completes the entry, or the stream
  let appends := !one || x.cur + 1 == d.perEntry || x.made + 1 == d.total
  s.streamOcc q 6 ++
  (if !fits then [s.alignStop 3 0 6]
   else if d.total ≤ x.made then [s.alignStop 4 0 6]
   else s.holdIf (appends && decide (16 ≤ x.dq.length)) 1) ++
  (if fits && appends && !s.cur.atH && decide (16 ≤ x.pushed) then [s.occStop (some 6)] else [])

/-- Append an entry to an output stream's queue. -/
def Stream.append (q : Stream) (v : Vec) (atH : Bool) (port : Nat) : Stream :=
  { q with dq := q.dq ++ [⟨v, none, false, false, false, port⟩], cur := 0, build := 0, pushed := if atH then q.pushed else q.pushed + 1 }

/-- `stq` (R150, R153): below the cursor the elements already pushed stay. -/
def execStq (x : ClsQ) (s : State) : Result :=
  issueOp (fun s => s.srcStops [.v (x.r.toNat % 32) 0] ++ s.pushStops x.q false)
    (fun s =>
      let s := s.modCur fun c => c.modStream x.q.toNat fun q =>
        let d := SDesc.ofBits q.desc
        let low : Vec := BitVec.ofNat 2048 (2 ^ (q.cur * 8 * d.itemBytes) - 1)
        let v := (c.vreg (x.r.toNat % 32) &&& ~~~low) ||| (q.build &&& low)
        ({ q with made := Nat.min d.total (q.made + (d.perEntry - q.cur)) } : Stream).append v c.atH c.portNext
      s.owe 0) s

/-- `stqs` (R153). -/
def execStqs (x : ClsQ) (s : State) : Result :=
  issueOp (fun s => s.srcStops [.s x.r.toNat 0] ++ s.pushStops x.q true)
    (fun s =>
      let s := s.modCur fun c => c.modStream x.q.toNat fun q =>
        let d := SDesc.ofBits q.desc
        let w := codeWidth d.ty
        let b := q.build ||| (BitVec.ofNat 2048 ((c.sreg x.r.toNat).toNat % 2 ^ w) <<< (w * q.cur))
        let q := { q with build := b, made := q.made + 1, cur := q.cur + 1 }
        if q.cur = d.perEntry ∨ q.made = d.total then q.append b c.atH c.portNext else q
      s.owe 0) s

/-! ## Gather and scatter (R155, R156) -/

/-- A `gath` of which every row is skipped has arrived at its issue (R269). -/
def SDesc.allSkipped (d : SDesc) (vi : Vec) : Bool := (List.range d.rows).all fun r => Vec.elem 32 vi r == 0xFFFFFFFF

/-- `gath` (R155). -/
def execGath (x : ClsLG) (s : State) : Result :=
  issueOp (fun s => s.srcStops [.v x.vi.toNat 10] ++ s.streamOcc x.q 6 ++ s.loadOcc ++
      (if (s.sq x.q).loaded && (SDesc.ofBits (s.sq x.q).desc).gathers then [] else [s.alignStop 5 0 6]))
    (fun s =>
      let q := s.sq x.q
      let vi := s.cur.vreg x.vi.toNat
      let n := s.newLoad 2 true (x.d.toNat % 32) x.D.toNat 0 (BitVec.ofNat 64 (x.q.toNat * 64 + x.vi.toNat))
      let all := (SDesc.ofBits q.desc).allSkipped vi
      s.takeLoad { n with desc := q.desc, vi := vi, performed := all, arrived := all }) s

/-- Pieces that follow one another in a unit are one. -/
def joinPieces : List Piece → List Piece
  | [] => []
  | p :: t =>
    match joinPieces t with
    | q :: l => if p.unit = q.unit ∧ p.off + p.data.length = q.off then ⟨p.unit, p.off, p.data ++ q.data⟩ :: l else p :: q :: l
    | [] => [p]

/-- A list cut into parts of `n` elements; `fuel` bounds the parts. -/
def chunks (n : Nat) : Nat → List α → List (List α)
  | 0, _ => []
  | k + 1, l => if l.isEmpty then [] else l.take n :: chunks n k (l.drop n)

/-- The directory entries of a row of `scat`: one for each 128 bytes of it (R149). -/
def rowEntries (n : Nat) (row : List (StreamRef × List Byte)) : List (List Piece) :=
  (chunks (128 / n) row.length row).map fun l => joinPieces (l.map fun y => ⟨y.1.unit, y.1.off, y.2⟩)

/-- A store enters the buffer (R149), with the pieces of each of its entries: the task's at its end, the handler's ahead of the open
segment (R385). -/
def State.bufferStore (s : State) (tid : Nat) (entries : List (List Piece)) : State :=
  s.modCur fun c =>
    let es := entries.zipIdx.map fun x =>
      ({ pos := c.ssbNext + x.2, tid := tid, parts := x.1, seg := c.seg.num, closed := c.atH
         atH := c.atH, loads := c.qaLoad, port := c.acqEnd, bad := 0, sent := false, store := c.ssbNext, told := false } : SsbEntry)
    let c := { c with ssbNext := c.ssbNext + entries.length }
    if c.atH then { c with ssb := c.ssb.filter (·.closed) ++ es ++ c.ssb.filter (!·.closed) }
    else { c with ssb := c.ssb ++ es }

/-- Bytes of a flat store, one directory entry for each 128. -/
def State.bufferFlat (s : State) (a : Nat) (bs : List Byte) : State :=
  s.bufferStore 0 ((List.range (ceilDiv bs.length 128)).map fun i =>
    [⟨a / 65536, a % 65536 + 128 * i, (bs.drop (128 * i)).take 128⟩])

/-- After a store: the charge of the segment, and at H the commit at once (R149, R385). -/
def State.stored (s : State) (n : Nat) : State :=
  let s := (if s.cur.atH then s else s.modCur fun c => { c with charge := c.charge + n }).owe 0
  if s.cur.atH then s.drainStores s.ctx.core else s

/-- What stops a flat store. -/
def State.storeStops (s : State) (a : BitVec 6) (n : Nat) : List Stop :=
  s.addrStops a 6 n 48 ++ s.chargeStop (chargeOf n) ++ s.flatHold a n n ++ s.flatXl a 6 n

/-- `st` (R148, R149). -/
def execSt (x : ClsFS) (s : State) : Result :=
  let n := x.ty.width / 8
  issueOp (fun s => s.srcStops [.s x.s.toNat 0, .s x.a.toNat 6] ++ s.storeStops x.a n)
    (fun s => (s.bufferFlat (s.sv x.a).toNat (leBytes n (s.sv x.s).toNat)).stored (chargeOf n)) s

/-- `stv` (R148, R149). -/
def execStv (x : ClsFS) (s : State) : Result :=
  issueOp (fun s => s.srcStops [.v (x.s.toNat % 32) 0, .s x.a.toNat 6] ++ s.storeStops x.a 256)
    (fun s => (s.bufferFlat (s.sv x.a).toNat (leBytes 256 (s.cur.vreg (x.s.toNat % 32)).toNat)).stored 256) s

/-- `stt` (R148). -/
def execStt (x : ClsFS) (s : State) : Result :=
  issueOp (fun s => s.srcStops [.v (x.s.toNat % 32) 0, .s x.a.toNat 6] ++ s.addrStops x.a 6 256 22 ++ s.slotHold x.a 256 true)
    (fun s => (s.modCur fun c =>
      c.scratchWrite (c.sreg x.a.toNat).toNat (leBytes 256 (c.vreg (x.s.toNat % 32)).toNat) c.seqb).owe 0) s

/-- `stts` (R148). -/
def execStts (x : ClsFS) (s : State) : Result :=
  let n := x.ty.width / 8
  issueOp (fun s => s.srcStops [.s x.s.toNat 0, .s x.a.toNat 6] ++ s.addrStops x.a 6 n 22 ++ s.slotHold x.a n true)
    (fun s => (s.modCur fun c =>
      c.scratchWrite (c.sreg x.a.toNat).toNat (leBytes n (c.sreg x.s.toNat).toNat) c.seqb).owe 0) s

/-- The rows a `scat` writes: places and bytes. -/
def scatItems (d : SDesc) (t : TDesc) (vi src : Vec) : List (List (StreamRef × List Byte)) :=
  let cnt := d.cnt.getD 0 1
  ((d.chosen t vi).zipIdx).filterMap fun r =>
    match r.1 with
    | none => none
    | some refs => some ((refs.zipIdx).map fun y =>
        (y.1, leBytes d.itemBytes (Vec.elem (codeWidth d.ty) src (r.2 * cnt + y.2))))

/-- What stops a `scat` (R149, R156, R274): the descriptor, the charge, a row outside the extent, the format, and the translation of
each tile in row order. A `scat` that skips every row still meets its descriptor and its format, with UNIT 0 (DESIGN CHOICE, log
121). -/
def State.scatStops (s : State) (x : ClsSG) : List Stop :=
  let q := s.sq x.q
  let d := SDesc.ofBits q.desc
  if !(q.loaded && d.gathers) then [s.alignStop 5 0 6]
  else if !(s.srcStops [.v x.vi.toNat 10, .v (x.s.toNat % 32) 0]).isEmpty then []
  else
    match s.lookDesc s.ctx.core .issue d.id true with
    | .miss => [s.stop 0 0 (.walk d.id descUnit true)]
    | .fault f => [s.stop 10 6 (.freeze f.cause f.info)]
    | .hit t =>
      let rows := scatItems d t (s.cur.vreg x.vi.toNat) (s.cur.vreg (x.s.toNat % 32))
      let charge := (rows.map fun r => chargeOf (r.map (·.2.length)).sum).sum
      let units := (rows.flatten.map fun r => r.1.unit).eraseDups
      s.chargeStop charge ++
      (if rows.any fun r => r.any (·.1.out) then [s.stop 10 10 (.trap 3 (consumerInfo s.ctx.slot x.vi.toNat true))]
       else if !d.fits t then [s.stop 10 6 (.freeze 3 (xfault d.id (units.headD 0) 0 false true 8).info)]
       else units.flatMap fun u => s.xlStops d.id u true false 6)

/-- `scat` (R156). -/
def execScat (x : ClsSG) (s : State) : Result :=
  issueOp (fun s => s.srcStops [.v (x.s.toNat % 32) 0, .v x.vi.toNat 10] ++ s.streamOcc x.q 6 ++ s.scatStops x)
    (fun s =>
      let d := SDesc.ofBits (s.sq x.q).desc
      match s.lookDesc s.ctx.core .issue d.id true with
      | .hit t =>
        let rows := scatItems d t (s.cur.vreg x.vi.toNat) (s.cur.vreg (x.s.toNat % 32))
        let s' := rows.foldl (fun s r => s.bufferStore d.id (rowEntries d.itemBytes r)) s
        s'.stored ((rows.map fun r => chargeOf (r.map (·.2.length)).sum).sum)
      | _ => s) s

/-- `qalign` (R157). -/
def execQalign (s : State) : Result :=
  issueOp (fun _ => []) (fun s => s.modCur fun c => { c with qaStore := c.ssbNext, qaLoad := c.loadSeq }) s

/-! ## Atomics and remote operations (R158-R163) -/

/-- The operation waits at the core's port (R160). At H it performs at once where it can (R385); in a coupled quad it
waits for the commit point (R242). -/
def State.toPort (s : State) (p : PortOp) : State :=
  let c := s.cur
  let p := { p with
    id := c.portNext
    behind := if c.atH then c.closedEnd else c.ssbNext
    loads := if p.releases then p.seq.getD c.loadSeq else 0
    rem := c.loadSeq
    span := if c.coupled ∧ !c.atH then 1 else 0 }
  let s := s.modCur fun c => { c with port := c.port ++ [p], portNext := c.portNext + 1 }
  if s.cur.atH then State.portN s.cur.port.length s.ctx.core s else s

/-- A port operation with nothing filled in. -/
def PortOp.blank : PortOp := default

/-- An atomic's entry in the outstanding-load table (R64): the function, the address with ordering and scope. -/
def State.atomLoad (s : State) (f : Nat) (x : ClsAT) (w : Word) : Load :=
  let a := w.toNat % 2 ^ 54 / 4 * 4 + Ordering.code x.ord + Scope.code x.scope * 2 ^ 54
  { s.newLoad 5 false x.d.toNat (8 * x.dx.toNat) f (BitVec.ofNat 64 a) with
    b := s.sv x.b, x := if f = 9 then s.sv x.d else 0 }

/-- Sources of an atomic; `acas` reads its destination as well (R143). -/
def State.atomSrcs (s : State) (f : Nat) (x : ClsAT) : List Stop :=
  s.srcStops ((if f = 9 then [.s x.d.toNat 0] else []) ++ [.s x.a.toNat 6, .s x.b.toNat 12])

/-- A local atomic (R159, R160). -/
def atomLocal (f : Nat) (x : ClsAT) (s : State) : Result :=
  issueOp (fun s => s.atomSrcs f x ++ s.addrStops x.a 6 8 48 ++ (if x.dx = 0 then [] else s.loadOcc) ++
      s.flatHold x.a 8 8 ++ s.flatXl x.a 6 8)
    (fun s =>
      match s.look s.ctx.core .issue 0 ((s.sv x.a).toNat / 65536) true false with
      | .hit e =>
        let p := { PortOp.blank with
          seq := if x.dx = 0 then none else some s.cur.loadSeq, func := f, addr := (s.sv x.a).toNat % 2 ^ 48, b := s.sv x.b
          x := if f = 9 then s.sv x.d else 0, ord := x.ord, scope := x.scope, xl := some e
          sig := if x.dx = 0 then s.opSig else ⟨0, 0, 0⟩ }
        let s' := if x.dx = 0 then s else s.takeLoad (s.atomLoad f x (s.sv x.a))
        s'.toPort p
      | _ => s) s

/-- The module and membership check of a remote address (R161): TFAULT at issue names the address register. -/
def State.memberStop (s : State) (a : BitVec 6) (bit align : Nat) : List Stop :=
  if s.goodAddr a align 54 then
    let m := (s.sv a).toNat / 2 ^ 48
    if m = s.me || s.member s.cur.vf m then [] else [s.stop 10 bit (.trap 3 (fieldInfo s.ctx.slot (s.ctx.slot.base + 8 + bit)))]
  else []

/-- A remote atomic (R163). -/
def atomRemote (f : Nat) (x : ClsAT) (s : State) : Result :=
  issueOp (fun s => s.atomSrcs f x ++ s.addrStops x.a 6 8 54 ++ (if x.dx = 0 then [] else s.loadOcc) ++ s.memberStop x.a 6 8)
    (fun s =>
      let w := (s.sv x.a).toNat
      let p := { PortOp.blank with
        seq := if x.dx = 0 then none else some s.cur.loadSeq, func := f, remote := true, mod := w / 2 ^ 48 % 64
        addr := w % 2 ^ 48, b := s.sv x.b, x := if f = 9 then s.sv x.d else 0, ord := x.ord, scope := x.scope
        sig := if x.dx = 0 then s.opSig else ⟨0, 0, 0⟩ }
      let s' := if x.dx = 0 then s else s.takeLoad (s.atomLoad f x (s.sv x.a))
      s'.toPort p) s

/-- A remote load (R161). -/
def remLoad (vec : Bool) (x : ClsRL) (s : State) : Result :=
  let n := if vec then 256 else 8
  issueOp (fun s => s.srcStops [.s x.a.toNat 6] ++ s.addrStops x.a 6 n 54 ++ s.loadOcc ++ s.memberStop x.a 6 n)
    (fun s => s.takeLoad (s.newLoad (if vec then 4 else 3) vec (if vec then x.d.toNat % 32 else x.d.toNat) x.D.toNat 0 (s.sv x.a))) s

/-- A remote store (R162): the counter is checked like an address. -/
def remStore (vec : Bool) (x : ClsRS) (s : State) : Result :=
  let n := if vec then 256 else 8
  issueOp (fun s => s.srcStops [if vec then .v (x.s.toNat % 32) 0 else .s x.s.toNat 0, .s x.a.toNat 6, .s x.c.toNat 12] ++
      s.addrStops x.a 6 n 54 ++ (if x.c = 0 then [] else s.addrStops x.c 12 8 48) ++ s.memberStop x.a 6 n)
    (fun s =>
      let w := (s.sv x.a).toNat
      s.toPort { PortOp.blank with
        remote := true, store := true, mod := w / 2 ^ 48 % 64, addr := w % 2 ^ 48
        data := if vec then leBytes 256 (s.cur.vreg (x.s.toNat % 32)).toNat else leBytes 8 (s.sv x.s).toNat
        ctr := if x.c = 0 then none else some (s.sv x.c).toNat
        ord := if x.rel then .rel else .rlx, scope := x.scope, sig := s.opSig }) s

/-- `aadd` (R159). -/
def execAadd (x : ClsAT) (s : State) : Result := atomLocal 0 x s

/-- `amin` (R159). -/
def execAmin (x : ClsAT) (s : State) : Result := atomLocal 1 x s

/-- `aminn` (R159). -/
def execAminn (x : ClsAT) (s : State) : Result := atomLocal 2 x s

/-- `amax` (R159). -/
def execAmax (x : ClsAT) (s : State) : Result := atomLocal 3 x s

/-- `amaxn` (R159). -/
def execAmaxn (x : ClsAT) (s : State) : Result := atomLocal 4 x s

/-- `aand` (R159). -/
def execAand (x : ClsAT) (s : State) : Result := atomLocal 5 x s

/-- `aor` (R159). -/
def execAor (x : ClsAT) (s : State) : Result := atomLocal 6 x s

/-- `axor` (R159). -/
def execAxor (x : ClsAT) (s : State) : Result := atomLocal 7 x s

/-- `axch` (R159). -/
def execAxch (x : ClsAT) (s : State) : Result := atomLocal 8 x s

/-- `acas` (R159). -/
def execAcas (x : ClsAT) (s : State) : Result := atomLocal 9 x s

/-- `abinc` (R159). -/
def execAbinc (x : ClsAT) (s : State) : Result := atomLocal 10 x s

/-- `rld` (R161). -/
def execRld (x : ClsRL) (s : State) : Result := remLoad false x s

/-- `rldv` (R161). -/
def execRldv (x : ClsRL) (s : State) : Result := remLoad true x s

/-- `rst` (R162). -/
def execRst (x : ClsRS) (s : State) : Result := remStore false x s

/-- `rstv` (R162). -/
def execRstv (x : ClsRS) (s : State) : Result := remStore true x s

/-- `raadd` (R163). -/
def execRaadd (x : ClsAT) (s : State) : Result := atomRemote 0 x s

/-- `ramin` (R163). -/
def execRamin (x : ClsAT) (s : State) : Result := atomRemote 1 x s

/-- `raminn` (R163). -/
def execRaminn (x : ClsAT) (s : State) : Result := atomRemote 2 x s

/-- `ramax` (R163). -/
def execRamax (x : ClsAT) (s : State) : Result := atomRemote 3 x s

/-- `ramaxn` (R163). -/
def execRamaxn (x : ClsAT) (s : State) : Result := atomRemote 4 x s

/-- `raand` (R163). -/
def execRaand (x : ClsAT) (s : State) : Result := atomRemote 5 x s

/-- `raor` (R163). -/
def execRaor (x : ClsAT) (s : State) : Result := atomRemote 6 x s

/-- `raxor` (R163). -/
def execRaxor (x : ClsAT) (s : State) : Result := atomRemote 7 x s

/-- `raxch` (R163). -/
def execRaxch (x : ClsAT) (s : State) : Result := atomRemote 8 x s

/-- `racas` (R163). -/
def execRacas (x : ClsAT) (s : State) : Result := atomRemote 9 x s

/-- `rabinc` (R163). -/
def execRabinc (x : ClsAT) (s : State) : Result := atomRemote 10 x s

end Sys2Proof.Machine
end

