-- ==== Sys2Proof/Machine/Flags.lean ====
section
/-! DEFINITION. Flags: the relations of the compares (R95, R111), the semaphore waits of a bundle and the error predicate
they set (R17, R18), the accumulator flags OVF and SAT (R42, R81), and the sticky stream flags (R154). -/

namespace Sys2Proof.Machine

/-! ## Compares (R95) -/

/-- Signed less-than of 64-bit values. -/
def sLt (a b : Word) : Bool := decide (a.toInt < b.toInt)

/-- Signed at-most. -/
def sLe (a b : Word) : Bool := decide (a.toInt ≤ b.toInt)

/-- Natural less-than. -/
def nLt (a b : Word) : Bool := decide (a.toNat < b.toNat)

/-- Natural at-most. -/
def nLe (a b : Word) : Bool := decide (a.toNat ≤ b.toNat)

/-- The relations of the vector compares (R111). -/
inductive Rel where
  | eq | ne | lt | le | gt | ge
  deriving DecidableEq, Repr

/-- A relation between integers. -/
def Rel.holds (r : Rel) (a b : Int) : Bool :=
  match r with
  | .eq => a == b
  | .ne => a != b
  | .lt => decide (a < b)
  | .le => decide (a ≤ b)
  | .gt => decide (b < a)
  | .ge => decide (b ≤ a)

/-! ## Accumulator flags (R81) -/

/-- Set OVF of an accumulator when asked; it is sticky. -/
def Core.markOvf (c : Core) (n : Nat) (b : Bool) : Core := if b then { c with ovf := Tab.set false c.ovf n true } else c

/-- Set SAT of an accumulator when asked; it is sticky. -/
def Core.markSat (c : Core) (n : Nat) (b : Bool) : Core := if b then { c with sat := Tab.set false c.sat n true } else c

/-- `mflg`: OVF in bit 0, SAT in bit 1 (Table 6-1). -/
def Core.accFlags (c : Core) (n : Nat) : Word :=
  BitVec.ofNat 64 ((Tab.get false c.ovf n).toNat + 2 * (Tab.get false c.sat n).toNat)

/-! ## Sticky stream flags (R154, Table 2-4) -/

/-- A stream or gather on `qN` returned zeros for a bad element: ZPS bit 16 + N and ZPZ are set. -/
def Core.markZero (c : Core) (n : Nat) : Core := (c.setStatus 0 true).setStatus (16 + n) true

/-! ## Waits (R17, R18) -/

/-- A wait of a bundle: the threshold, the semaphore, and the slot whose command waits. -/
structure Wait where
  need : Nat
  sem  : Nat
  slot : Slot
  deriving DecidableEq, Repr

/-- The waits of a bundle's ops: each WS wait, and the wait of `swait` (R18). -/
def waitsOf (ops : List SlotOp) : List Wait :=
  ops.filterMap fun o =>
    match o.op with
    | .swait x => some ⟨x.imm.toNat, x.sem.toNat, o.slot⟩
    | _ => if o.ws.wthr = 0 then none else some ⟨o.ws.wthr.toNat, o.ws.wsem.toNat, o.slot⟩

/-- Whether the waits of a bundle hold it: for some semaphore that is not poisoned the count is below the sum of the
thresholds that name it (R18). -/
def Core.waitsHold (c : Core) (ws : List Wait) : Bool :=
  ws.any fun w => !(c.sema w.sem).poison &&
    decide ((c.sema w.sem).count < ((ws.filter (·.sem == w.sem)).map (·.need)).sum)

/-- The thresholds are subtracted, each remembered for a rewind (R18, R291); a poisoned semaphore subtracts nothing. -/
def Core.subtract (c : Core) (ws : List Wait) : Core :=
  ws.foldl (fun c w =>
    if (c.sema w.sem).poison then c
    else
      let c := c.modSema w.sem fun x => { x with count := x.count - w.need }
      { c with seg := { c.seg with waited := c.seg.waited ++ [(w.sem, w.need)] } }) c

/-- The slots whose command does not execute, because the semaphore they wait on is poisoned (R18). -/
def Core.skipped (c : Core) (ws : List Wait) : List Slot :=
  (ws.filter fun w => (c.sema w.sem).poison).map (·.slot)

end Sys2Proof.Machine
end

