-- ==== Sys2Proof/Machine/Float.lean ====
section
/-! DEFINITION. Number formats and rounding (spec/03_number_formats.md): the fields of the floating formats (R70), exact
values, the one rounding function (R76), stochastic draws (R77, R121), conversions (R78), and BFP records (R66, R67). -/

namespace Sys2Proof.Machine

/-! ## Formats (R70, Table 3-3) -/

/-- A floating format: fraction bits, exponent of the smallest subnormal, the greatest finite code, the code of infinity
where the format has one, the canonical NaN, and its width. -/
structure Fmt where
  width : Nat
  frac  : Nat
  emin  : Int
  maxC  : Nat
  infC  : Option Nat
  nan   : Nat
  deriving DecidableEq, Repr

/-- binary32. -/
def fmt32 : Fmt := ⟨32, 23, -149, 0x7F7FFFFF, some 0x7F800000, 0x7FC00000⟩

/-- binary16. -/
def fmt16 : Fmt := ⟨16, 10, -24, 0x7BFF, some 0x7C00, 0x7E00⟩

/-- BF16. -/
def fmtB16 : Fmt := ⟨16, 7, -133, 0x7F7F, some 0x7F80, 0x7FC0⟩

/-- E4M3, which has no infinity. -/
def fmtE4 : Fmt := ⟨8, 3, -9, 0x7E, none, 0x7F⟩

/-- E5M2. -/
def fmtE5 : Fmt := ⟨8, 2, -16, 0x7B, some 0x7C, 0x7E⟩

/-- The format of a floating type; integer types have none. -/
def Ty.fmt : Ty → Option Fmt
  | .f32 => some fmt32 | .f16 => some fmt16 | .bf16 => some fmtB16 | .e4m3 => some fmtE4 | .e5m2 => some fmtE5
  | _ => none

/-- A value of a floating format: NaN, an infinity, or `± m · 2^e` (a zero has its sign). -/
inductive FVal where
  | nan
  | inf (neg : Bool)
  | fin (neg : Bool) (m : Nat) (e : Int)
  deriving DecidableEq, Repr

/-- The value of a code (R70, R73, R74). -/
def Fmt.decode (f : Fmt) (n : Nat) : FVal :=
  let mag := n % 2 ^ (f.width - 1)
  let neg := n / 2 ^ (f.width - 1) % 2 = 1
  if f.infC = some mag then .inf neg
  else if f.maxC < mag then .nan
  else
    let ex := mag / 2 ^ f.frac
    let fr := mag % 2 ^ f.frac
    if ex = 0 then .fin neg fr f.emin else .fin neg (2 ^ f.frac + fr) (f.emin + Int.ofNat (ex - 1))

/-- The sign bit of a format. -/
def Fmt.sign (f : Fmt) (neg : Bool) : Nat := if neg then 2 ^ (f.width - 1) else 0

/-! ## Rounding (R76) -/

/-- An exact positive real `num / den`, or with `more` one a little above it, below the next value that matters. -/
structure Mag where
  num  : Nat
  den  : Nat
  more : Bool
  deriving DecidableEq, Repr

/-- `m · 2^e` as a magnitude. -/
def Mag.dyadic (m : Nat) (e : Int) : Mag :=
  match e with
  | .ofNat k => ⟨m * 2 ^ k, 1, false⟩
  | .negSucc k => ⟨m, 2 ^ (k + 1), false⟩

/-- ⌊log2 (num / den)⌋ of a positive quotient. -/
def log2Quot (num den : Nat) : Int :=
  let g : Int := Int.ofNat (Nat.log2 num) - Int.ofNat (Nat.log2 den)
  let below : Bool := match g with
    | .ofNat k => decide (num < den * 2 ^ k)
    | .negSucc k => decide (num * 2 ^ (k + 1) < den)
  if below then g - 1 else g

/-- Divide a magnitude by 2^q. -/
def Mag.scale (x : Mag) (q : Int) : Mag :=
  match q with
  | .ofNat k => { x with den := x.den * 2 ^ k }
  | .negSucc k => { x with num := x.num * 2 ^ (k + 1) }

/-- Whether a mode moves away from zero between neighbours (R76): `odd` is the last fraction bit of the lower one, the
fraction is `rem / den` with `more` a little above, and `u` the draw. The value is not a value of the format. -/
def roundsAway (rm : Rm) (neg odd : Bool) (rem den : Nat) (more : Bool) (u : Nat) : Bool :=
  match rm with
  | .rne => decide (den < 2 * rem) || (2 * rem == den && (more || odd))
  | .rtz => false
  | .rdn => neg
  | .rup => !neg
  | .rsr => decide (u < rem * 2 ^ 32 / den)

/-- What an overflow gives (R76). -/
def Fmt.overflow (f : Fmt) (rm : Rm) (neg : Bool) : Nat :=
  match f.infC with
  | none => f.sign neg + f.maxC
  | some i =>
    f.sign neg + match rm with
      | .rtz => f.maxC
      | .rdn => if neg then i else f.maxC
      | .rup => if neg then f.maxC else i
      | _ => i

/-- Round of a non-zero real into a format (R76): `u` is the draw of the element. -/
def Fmt.round (f : Fmt) (rm : Rm) (u : Nat) (neg : Bool) (x : Mag) : Nat :=
  if x.num = 0 ∧ !x.more then f.sign neg
  else
    let q := if x.num = 0 then f.emin else max f.emin (log2Quot x.num x.den - Int.ofNat f.frac)
    let y := x.scale q
    let n := y.num / y.den
    let rem := y.num % y.den
    let n' := if rem = 0 ∧ !y.more then n else if roundsAway rm neg (n % 2 = 1) rem y.den y.more u then n + 1 else n
    let code := (q - f.emin).toNat * 2 ^ f.frac + n'
    if f.maxC < code then f.overflow rm neg else f.sign neg + code

/-- Round of a value (R73, R76); an infinity goes to NaN where the format has none (Table 3-6). -/
def Fmt.roundVal (f : Fmt) (rm : Rm) (u : Nat) : FVal → Nat
  | .nan => f.nan
  | .inf neg => match f.infC with
    | some i => f.sign neg + i
    | none => f.nan
  | .fin neg m e => f.round rm u neg (.dyadic m e)

/-! ## Exact arithmetic (R75, R108) -/

/-- The sum of `± m · 2^e` values as an integer multiple of 2^g. -/
def signedAt (neg : Bool) (m : Nat) (e g : Int) : Int :=
  let v : Int := Int.ofNat (m * 2 ^ (e - g).toNat)
  if neg then -v else v

/-- Exact sum; a zero from operands of opposite sign is +0, or −0 toward −∞ (R75). -/
def FVal.add (rm : Rm) : FVal → FVal → FVal
  | .nan, _ => .nan
  | _, .nan => .nan
  | .inf a, .inf b => if a = b then .inf a else .nan
  | .inf a, .fin .. => .inf a
  | .fin .., .inf b => .inf b
  | .fin a m e, .fin b n f =>
    if m = 0 ∧ n = 0 then .fin (if a = b then a else rm == .rdn) 0 e
    else
      let g := min e f
      let t := signedAt a m e g + signedAt b n f g
      if t = 0 then .fin (rm == .rdn) 0 g else .fin (t < 0) t.natAbs g

/-- The value with its sign turned; NaN stays. -/
def FVal.neg : FVal → FVal
  | .nan => .nan
  | .inf a => .inf !a
  | .fin a m e => .fin (!a) m e

/-- Exact product; ∞ × 0 is NaN (R108). -/
def FVal.mul : FVal → FVal → FVal
  | .nan, _ => .nan
  | _, .nan => .nan
  | .inf a, .inf b => .inf (a != b)
  | .inf a, .fin b n _ => if n = 0 then .nan else .inf (a != b)
  | .fin a m _, .inf b => if m = 0 then .nan else .inf (a != b)
  | .fin a m e, .fin b n f => .fin (a != b) (m * n) (e + f)

/-- Order of values that are not NaN: negative when below; −0 equals +0. -/
def FVal.cmp : FVal → FVal → Int
  | .inf a, .inf b => if a = b then 0 else if a then -1 else 1
  | .inf a, _ => if a then -1 else 1
  | _, .inf b => if b then 1 else -1
  | .fin a m e, .fin b n f =>
    let g := min e f
    signedAt a m e g - signedAt b n f g
  | _, _ => 0

/-- Sign of a value. -/
def FVal.isNeg : FVal → Bool
  | .nan => false
  | .inf a => a
  | .fin a _ _ => a

/-- Whether a code is NaN. -/
def Fmt.isNan (f : Fmt) (n : Nat) : Bool := f.decode n == .nan

/-- Minimum or maximum of two codes (R109): NaN gives the canonical NaN, −0 orders below +0, equal operands give the
first. -/
def Fmt.minMax (f : Fmt) (isMax : Bool) (a b : Nat) : Nat :=
  let x := f.decode a
  let y := f.decode b
  if x == .nan || y == .nan then f.nan
  else
    let c := x.cmp y
    let bLess := c > 0 || (c = 0 && !x.isNeg && y.isNeg)   -- b orders below a
    let aLess := c < 0 || (c = 0 && x.isNeg && !y.isNeg)
    if isMax then (if aLess then b else a) else (if bLess then b else a)

/-! ## The counter-based generator (R121) -/

/-- One round of the generator. -/
def rngRound (key x k s m : Nat) : Nat :=
  let y := (x + key + k) % 2 ^ 64
  let z := y ^^^ (y / 2 ^ s)
  z * m % 2 ^ 64

/-- G(key, ctr) (R121, Table 5-8). -/
def rngG (key ctr : Nat) : Nat :=
  let x := rngRound key (ctr % 2 ^ 64) 0x5A17C3E90B84D26F 31 0x8C2B5E17D39A4F61
  let x := rngRound key x 0xA3D21F687C09E4B5 27 0xE5A70C936B1DF2C5
  let x := rngRound key x 0x1E8B6D43F2A5907D 33 0x4D9FB26817E30A8B
  let x := rngRound key x 0xC74F0A963BE158D3 29 0xB35C8E21A4F67D19
  x / 2 ^ 32

/-- The draw of element `e` under `.rsr` (R77): seed `mp6`, counter base `mp7`. -/
def Core.draw (c : Core) (e : Nat) : Nat := rngG (c.mpreg 6).toNat (((c.mpreg 7).toNat + e) % 2 ^ 64)

/-! ## Conversions (R78) -/

/-- Round a magnitude to an integer under a mode. -/
def Mag.toInt (x : Mag) (rm : Rm) (u : Nat) (neg : Bool) : Int :=
  let n := x.num / x.den
  let rem := x.num % x.den
  let n' := if rem = 0 ∧ !x.more then n else if roundsAway rm neg (n % 2 = 1) rem x.den x.more u then n + 1 else n
  if neg then -(Int.ofNat n') else Int.ofNat n'

/-- Conversion of one element between any two formats (Table 3-6). -/
def convert (src dst : Ty) (rm : Rm) (u : Nat) (n : Nat) : Nat :=
  match Ty.fmt src, Ty.fmt dst with
  | some f, some g => g.roundVal rm u (f.decode n)
  | some f, none =>
    match f.decode n with
    | .nan => 0
    | .inf neg => ofInt dst.width (if neg then Ty.lo dst else Ty.hi dst)
    | .fin neg m e => ofInt dst.width (clampInt (Ty.lo dst) (Ty.hi dst) ((Mag.dyadic m e).toInt rm u neg))
  | none, some g =>
    let v : Int := Ty.val src n
    g.roundVal rm u (.fin (v < 0) v.natAbs 0)
  | none, none => ofInt dst.width (clampInt (Ty.lo dst) (Ty.hi dst) (Ty.val src n))

/-! ## Block floating point (R66, R67, R118) -/

/-- Bytes of a BFPb record. -/
def bfpBytes (b : Nat) : Nat := 4 * b + 1

/-- The value of mantissa `i` of a record given as a number (R67). -/
def bfpValue (b rec i : Nat) : FVal :=
  let e := rec % 256
  if e = 255 then .nan
  else
    let m := toSigned b (rec / 2 ^ (8 + b * i) % 2 ^ b)
    if m = 0 then .fin false 0 0 else .fin (m < 0) m.natAbs (Int.ofNat e - 127 - Int.ofNat (b - 2))

/-- The mantissa that an exponent gives an element (R118). -/
def bfpMant (b e : Nat) (rm : Rm) (u : Nat) : FVal → Int
  | .fin neg m x => (Mag.dyadic m (x - (Int.ofNat e - 127 - Int.ofNat (b - 2)))).toInt rm u neg
  | _ => 0

/-- Whether every mantissa fits at an exponent (R118). -/
def bfpFits (b e : Nat) (rm : Rm) (xs : List (FVal × Nat)) : Bool :=
  xs.all fun x =>
    let m := bfpMant b e rm x.2 x.1
    decide (-Int.ofNat (2 ^ (b - 1)) ≤ m) && decide (m ≤ Int.ofNat (2 ^ (b - 1)) - 1)

/-- The smallest exponent from `e` on at which the block fits, 0xFE if there is none; `n` exponents are left to try. -/
def bfpExp (b : Nat) (rm : Rm) (xs : List (FVal × Nat)) : Nat → Nat → Nat
  | 0, _ => 0xFE
  | n + 1, e => if bfpFits b e rm xs then e else bfpExp b rm xs n (e + 1)

/-- Encode a block of 32 elements, each with its draw, as a record (R118). -/
def bfpEncode (b : Nat) (rm : Rm) (xs : List (FVal × Nat)) : Nat :=
  if xs.any fun x => match x.1 with | .fin .. => false | _ => true then 255
  else
    let e := bfpExp b rm xs 255 0
    let ms := xs.map fun x =>
      ofInt b (clampInt (-Int.ofNat (2 ^ (b - 1))) (Int.ofNat (2 ^ (b - 1)) - 1) (bfpMant b e rm x.2 x.1))
    e + 256 * joinNat b ms

/-! ## Special functions (R120) -/

/-- ⌊√n⌋ by bits: `k` bits are left to decide, `r` is the root so far. -/
def isqrtGo (n : Nat) : Nat → Nat → Nat
  | 0, r => r
  | k + 1, r => let t := r + 2 ^ k; if t * t ≤ n then isqrtGo n k t else isqrtGo n k r

/-- ⌊√n⌋ of a number below 2^(2·k). -/
def isqrt (k n : Nat) : Nat := isqrtGo n k 0

/-- 1/x rounded (R120, Table 5-7). -/
def rcp32 (rm : Rm) (u : Nat) (n : Nat) : Nat :=
  match fmt32.decode n with
  | .nan => fmt32.nan
  | .inf neg => fmt32.sign neg
  | .fin neg m e =>
    if m = 0 then fmt32.sign neg + 0x7F800000
    else
      let x : Mag := match e with
        | .ofNat k => ⟨1, m * 2 ^ k, false⟩
        | .negSucc k => ⟨2 ^ (k + 1), m, false⟩
      fmt32.round rm u neg x

/-- 1/√x rounded (R120): the root of 2^(2p)/x to a precision far beyond the format's, and whether it is exact. -/
def rsqrt32 (rm : Rm) (u : Nat) (n : Nat) : Nat :=
  match fmt32.decode n with
  | .nan => fmt32.nan
  | .inf neg => if neg then fmt32.nan else 0
  | .fin neg m e =>
    if m = 0 then fmt32.sign neg + 0x7F800000
    else if neg then fmt32.nan
    else
      -- x = M · 2^(2h) with M = m or 2m; 1/√x = √(2^400 / M) · 2^(-200 - h)
      let odd := e % 2 = 1
      let mm := if odd then 2 * m else m
      let h := (if odd then e - 1 else e) / 2
      let q := 2 ^ 400 / mm
      let r := isqrt 201 q
      let exact := 2 ^ 400 % mm = 0 && r * r == q
      let d := Mag.dyadic r (-200 - h)
      fmt32.round rm u false { d with more := !exact }

/-- Bits of working precision of `vexp2` and `vlog2` (log 9). -/
def fixP : Nat := 256

/-- Square roots of 2: 2^(2^-i) scaled by 2^256, by repeated square roots. -/
def sqrtTwo : Nat → Nat → List Nat
  | 0, _ => []
  | n + 1, r => let t := isqrt 258 (r * 2 ^ fixP); t :: sqrtTwo n t

/-- Product of the roots that a fraction's bits choose: `f` holds the bits still to read, highest first, scaled by 2^256. -/
def expGo : List Nat → Nat → Nat → Nat
  | [], _, acc => acc
  | r :: rs, f, acc =>
    let f2 := 2 * f
    if 2 ^ fixP ≤ f2 then expGo rs (f2 - 2 ^ fixP) (acc * r / 2 ^ fixP) else expGo rs f2 acc

/-- 2^x rounded (R120, Table 5-7); exact for integers; otherwise from 152 bits of the fraction (log 9). -/
def exp2_32 (rm : Rm) (u : Nat) (n : Nat) : Nat :=
  match fmt32.decode n with
  | .nan => fmt32.nan
  | .inf neg => if neg then 0 else 0x7F800000
  | .fin neg m e =>
    if m = 0 then 0x3F800000
    else
      -- x = ± m · 2^e; beyond 2^9 every result over- or underflows alike
      let big := Int.ofNat (Nat.log2 m) + e ≥ 9
      if big then (if neg then fmt32.round rm u false ⟨0, 1, true⟩ else fmt32.overflow rm false)
      else
        let fx : Int := match e with
          | .ofNat k => Int.ofNat (m * 2 ^ k * 2 ^ fixP)
          | .negSucc k => Int.ofNat (m * 2 ^ fixP / 2 ^ (k + 1))
        let fx := if neg then -fx else fx
        let ip := fx / Int.ofNat (2 ^ fixP)
        let fp := (fx % Int.ofNat (2 ^ fixP)).toNat
        if fp = 0 then fmt32.round rm u false (.dyadic 1 ip)
        else
          let v := expGo (sqrtTwo 152 (2 * 2 ^ fixP)) fp (2 ^ fixP)
          let d := Mag.dyadic v (ip - Int.ofNat fixP)
          fmt32.round rm u false { d with more := true }

/-- Bits of log2 of a mantissa in [1, 2) scaled by 2^256, `k` of them, by repeated squaring. -/
def logGo : Nat → Nat → Nat → Nat
  | 0, _, acc => acc
  | k + 1, y, acc =>
    let y2 := y * y / 2 ^ fixP
    if 2 * 2 ^ fixP ≤ y2 then logGo k (y2 / 2) (2 * acc + 1) else logGo k y2 (2 * acc)

/-- log2 x rounded (R120, Table 5-7); exact at powers of two; otherwise from 120 bits (log 9). -/
def log2_32 (rm : Rm) (u : Nat) (n : Nat) : Nat :=
  match fmt32.decode n with
  | .nan => fmt32.nan
  | .inf neg => if neg then fmt32.nan else 0x7F800000
  | .fin neg m e =>
    if m = 0 then 0xFF800000
    else if neg then fmt32.nan
    else
      let k := Nat.log2 m
      let ip : Int := Int.ofNat k + e
      if m = 2 ^ k then fmt32.roundVal rm u (.fin (ip < 0) ip.natAbs 0)
      else
        let f := logGo 120 (m * 2 ^ fixP / 2 ^ k) 0
        -- the value lies a little above ip + f / 2^120
        let t : Int := ip * Int.ofNat (2 ^ 120) + Int.ofNat f
        if t < 0 then
          -- magnitude a little below |t| / 2^120: a little above one unit less
          fmt32.round rm u true ⟨t.natAbs - 1, 2 ^ 120, true⟩
        else fmt32.round rm u false ⟨t.natAbs, 2 ^ 120, true⟩

end Sys2Proof.Machine
end

