-- ==== Sys2Proof/Machine/Vector.lean ====
section
/-! DEFINITION. The vector ops of slots VA and VB (spec/05_vector.md, R102 to R122). -/

namespace Sys2Proof.Machine

/-! ## Forms -/

/-- The elements of width `w` of vector register `r`. -/
def Core.velems (c : Core) (w r : Nat) : List Nat := Vec.elems w (c.vreg r)

/-- The sources of an op of class VR that reads its first `n` vector fields, and under `merge` its destination when a
mask governs it (R104). -/
def vrStops (n : Nat) (merge : Bool) (x : ClsVR) (s : State) : List Stop :=
  s.srcStops ((if merge ∧ x.k ≠ 0 then [.v x.vd.toNat 0] else []) ++
    [Src.v x.va.toNat 5, .v x.vb.toNat 10, .v x.vc.toNat 15].take n ++
    (if x.k ≠ 0 then [.k x.k.toNat 20] else []))

/-- The sources of an op of class VS that reads `va` (or not) and the scalar. -/
def vsStops (readVa merge : Bool) (x : ClsVS) (s : State) : List Stop :=
  s.srcStops ((if merge ∧ x.k ≠ 0 then [.v x.vd.toNat 0] else []) ++
    (if readVa then [.v x.va.toNat 5] else []) ++ [.s x.s.toNat 10] ++
    (if x.k ≠ 0 then [.k x.k.toNat 20] else []))

/-- What an op with a rounding mode reads besides its fields: the seed and the counter base of `.rsr` (R77). -/
def rmSources (rm : Rm) : List Src := if rm = .rsr then [.mp 6 27, .mp 7 27] else []

/-- The draw of element `e` where the mode is stochastic (R77). -/
def Core.drawFor (c : Core) (rm : Rm) (e : Nat) : Nat := if rm = .rsr then c.draw e else 0

/-- The elements `f` gives, merged into the destination under the governing mask (R104). -/
def State.merged (s : State) (vd : BitVec 5) (k : BitVec 3) (w : Nat) (new : List Nat) : Vec :=
  if k = 0 then Vec.ofElems w new
  else Vec.ofElems w (mergeElems (s.cur.kreg k.toNat) w new (s.cur.velems w vd.toNat))

/-- What an element op computes: from the draw of the element, its type and mode, and A, B and C. -/
abbrev ElemFn := Ty → Rm → Nat → Nat → Nat → Nat → Nat

/-- A function of the elements of three vectors, with their indices. -/
def zip3 (f : Nat → Nat → Nat → Nat → Nat) (a b c : List Nat) : List Nat :=
  (((a.zip b).zip c).zipIdx).map fun x => f x.2 x.1.1.1 x.1.1.2 x.1.2

/-- An element op of class VR (R107). -/
def vElem (n : Nat) (lat : Ty → Nat) (f : ElemFn) (x : ClsVR) (s : State) : Result :=
  issueOp (fun s => vrStops n true x s ++ s.srcStops (rmSources x.rm))
    (fun s =>
      let c := s.cur
      let w := x.ty.width
      let new := zip3 (fun e a b d => f x.ty x.rm (c.drawFor x.rm e) a b d)
        (c.velems w x.va.toNat) (c.velems w x.vb.toNat) (c.velems w x.vc.toNat)
      s.putV x.vd.toNat (lat x.ty) (s.merged x.vd x.k w new)) s

/-- An element op with the scalar operand X in place of B (R110). -/
def vElemS (lat : Ty → Nat) (readVa : Bool) (f : ElemFn) (x : ClsVS) (s : State) : Result :=
  issueOp (fun s => vsStops readVa true x s ++ s.srcStops (rmSources x.rm))
    (fun s =>
      let c := s.cur
      let w := x.ty.width
      let b := (s.sv x.s).toNat % 2 ^ w
      let new := ((c.velems w x.va.toNat).zipIdx).map fun a => f x.ty x.rm (c.drawFor x.rm a.2) a.1 b 0
      s.putV x.vd.toNat (lat x.ty) (s.merged x.vd x.k w new)) s

/-- Latency 2 for integer types, 4 for floating ones (Table 5-3). -/
def lat24 (t : Ty) : Nat := if t.isInt then 2 else 4

/-- Latency 2. -/
def lat2 (_ : Ty) : Nat := 2

/-- Latency 4. -/
def lat4 (_ : Ty) : Nat := 4

/-! ## Element functions (R107-R109) -/

/-- An op that is exact on integers and wraps, and rounds once on floats. -/
def arith (fi : Int → Int → Int → Int) (ff : Rm → FVal → FVal → FVal → FVal) : ElemFn := fun t rm u a b c =>
  match Ty.fmt t with
  | some f => f.roundVal rm u (ff rm (f.decode a) (f.decode b) (f.decode c))
  | none => ofInt t.width (fi (Ty.val t a) (Ty.val t b) (Ty.val t c))

/-- `vadd`. -/
def fAdd : ElemFn := arith (fun a b _ => a + b) (fun rm a b _ => FVal.add rm a b)

/-- `vsub`. -/
def fSub : ElemFn := arith (fun a b _ => a - b) (fun rm a b _ => FVal.add rm a b.neg)

/-- `vmul`. -/
def fMul : ElemFn := arith (fun a b _ => a * b) (fun _ a b _ => FVal.mul a b)

/-- `vfma`. -/
def fFma : ElemFn := arith (fun a b c => a * b + c) (fun rm a b c => FVal.add rm (FVal.mul a b) c)

/-- `vfms`. -/
def fFms : ElemFn := arith (fun a b c => a * b - c) (fun rm a b c => FVal.add rm (FVal.mul a b) c.neg)

/-- `vfnma`. -/
def fFnma : ElemFn := arith (fun a b c => c - a * b) (fun rm a b c => FVal.add rm (FVal.mul a b).neg c)

/-- The smaller or the larger of two elements (R109). -/
def pickMin (isMax : Bool) (t : Ty) (a b : Nat) : Nat :=
  match Ty.fmt t with
  | some f => f.minMax isMax a b
  | none => if isMax then (if Ty.val t b ≤ Ty.val t a then a else b) else (if Ty.val t a ≤ Ty.val t b then a else b)

/-- `vmin`. -/
def fMin : ElemFn := fun t _ _ a b _ => pickMin false t a b

/-- `vmax`. -/
def fMax : ElemFn := fun t _ _ a b _ => pickMin true t a b

/-- `vabs`. -/
def fAbs : ElemFn := fun t _ _ a _ _ =>
  match Ty.fmt t with
  | some f => if f.isNan a then f.nan else a % 2 ^ (f.width - 1)
  | none => ofInt t.width (Int.ofNat (Ty.val t a).natAbs)

/-- `vneg`. -/
def fNeg : ElemFn := fun t _ _ a _ _ =>
  match Ty.fmt t with
  | some f => if f.isNan a then f.nan else a ^^^ 2 ^ (f.width - 1)
  | none => ofInt t.width (-(Ty.val t a))

/-- `vshl`. -/
def fShl : ElemFn := fun t _ _ a b _ => if t.width ≤ b then 0 else a * 2 ^ b % 2 ^ t.width

/-- `vshr`: the floor of A / 2^n. -/
def fShr : ElemFn := fun t _ _ a b _ => ofInt t.width (Ty.val t a / 2 ^ (Nat.min b t.width))

/-- `vqadd`. -/
def fQadd : ElemFn := fun t _ _ a b _ => ofInt t.width (clampInt (Ty.lo t) (Ty.hi t) (Ty.val t a + Ty.val t b))

/-- `vqsub`. -/
def fQsub : ElemFn := fun t _ _ a b _ => ofInt t.width (clampInt (Ty.lo t) (Ty.hi t) (Ty.val t a - Ty.val t b))

/-- `vmulh`. -/
def fMulh : ElemFn := fun t _ _ a b _ => ofInt t.width (Ty.val t a * Ty.val t b / 2 ^ t.width)

/-- `vavg`. -/
def fAvg : ElemFn := fun t _ _ a b _ => ofInt t.width ((Ty.val t a + Ty.val t b + 1) / 2)

/-- Ones among the low `n` bits of an element. -/
def onesOf : Nat → Nat → Nat
  | 0, _ => 0
  | n + 1, x => x % 2 + onesOf n (x / 2)

/-- `vadd` (R107). -/
def execVadd (x : ClsVR) (s : State) : Result := vElem 2 lat24 fAdd x s

/-- `vsub` (R107). -/
def execVsub (x : ClsVR) (s : State) : Result := vElem 2 lat24 fSub x s

/-- `vmul` (R107). -/
def execVmul (x : ClsVR) (s : State) : Result := vElem 2 lat24 fMul x s

/-- `vfma` (R108). -/
def execVfma (x : ClsVR) (s : State) : Result := vElem 3 lat4 fFma x s

/-- `vfms` (R108). -/
def execVfms (x : ClsVR) (s : State) : Result := vElem 3 lat4 fFms x s

/-- `vfnma` (R108). -/
def execVfnma (x : ClsVR) (s : State) : Result := vElem 3 lat4 fFnma x s

/-- `vmin` (R109). -/
def execVmin (x : ClsVR) (s : State) : Result := vElem 2 lat24 fMin x s

/-- `vmax` (R109). -/
def execVmax (x : ClsVR) (s : State) : Result := vElem 2 lat24 fMax x s

/-- `vabs` (R107). -/
def execVabs (x : ClsVR) (s : State) : Result := vElem 1 lat2 fAbs x s

/-- `vneg` (R107). -/
def execVneg (x : ClsVR) (s : State) : Result := vElem 1 lat2 fNeg x s

/-- `vand` (R107). -/
def execVand (x : ClsVR) (s : State) : Result := vElem 2 lat2 (fun _ _ _ a b _ => a &&& b) x s

/-- `vor` (R107). -/
def execVor (x : ClsVR) (s : State) : Result := vElem 2 lat2 (fun _ _ _ a b _ => a ||| b) x s

/-- `vxor` (R107). -/
def execVxor (x : ClsVR) (s : State) : Result := vElem 2 lat2 (fun _ _ _ a b _ => a ^^^ b) x s

/-- `vshl` (R107). -/
def execVshl (x : ClsVR) (s : State) : Result := vElem 2 lat2 fShl x s

/-- `vshr` (R107). -/
def execVshr (x : ClsVR) (s : State) : Result := vElem 2 lat2 fShr x s

/-- `vqadd` (R107). -/
def execVqadd (x : ClsVR) (s : State) : Result := vElem 2 lat2 fQadd x s

/-- `vqsub` (R107). -/
def execVqsub (x : ClsVR) (s : State) : Result := vElem 2 lat2 fQsub x s

/-- `vmulh` (R107). -/
def execVmulh (x : ClsVR) (s : State) : Result := vElem 2 lat2 fMulh x s

/-- `vavg` (R107). -/
def execVavg (x : ClsVR) (s : State) : Result := vElem 2 lat2 fAvg x s

/-- `vclz` (R107). -/
def execVclz (x : ClsVR) (s : State) : Result :=
  vElem 1 lat2 (fun t _ _ a _ _ => if a = 0 then t.width else t.width - 1 - Nat.log2 a) x s

/-- `vpopc` (R107). -/
def execVpopc (x : ClsVR) (s : State) : Result := vElem 1 lat2 (fun t _ _ a _ _ => onesOf t.width a) x s

/-! ## Scalar operand (R110) -/

/-- `vaddsc` (R110). -/
def execVaddsc (x : ClsVS) (s : State) : Result := vElemS lat24 true fAdd x s

/-- `vsubsc` (R110). -/
def execVsubsc (x : ClsVS) (s : State) : Result := vElemS lat24 true fSub x s

/-- `vmulsc` (R110). -/
def execVmulsc (x : ClsVS) (s : State) : Result := vElemS lat24 true fMul x s

/-- `vminsc` (R110). -/
def execVminsc (x : ClsVS) (s : State) : Result := vElemS lat24 true fMin x s

/-- `vmaxsc` (R110). -/
def execVmaxsc (x : ClsVS) (s : State) : Result := vElemS lat24 true fMax x s

/-- `vbcast` (R110). -/
def execVbcast (x : ClsVS) (s : State) : Result := vElemS lat2 false (fun _ _ _ _ b _ => b) x s

/-! ## Compares, selection and masks (R111-R113) -/

/-- A relation between two elements (R111). -/
def relElem (r : Rel) (t : Ty) (a b : Nat) : Bool :=
  match Ty.fmt t with
  | some f =>
    if f.isNan a || f.isNan b then r == .ne else r.holds ((f.decode a).cmp (f.decode b)) 0
  | none => r.holds (Ty.val t a) (Ty.val t b)

/-- The mask of the elements that hold: lane(e, w), and for 64 bits the odd bit too (R111). -/
def maskOf (w : Nat) (l : List Bool) : Word :=
  BitVec.ofNat 64 (joinNat (if w = 64 then 2 else 1) (l.map fun b => if b then (if w = 64 then 3 else 1) else 0))

/-- A compare (R111). -/
def vCmp (r : Rel) (x : ClsVR) (s : State) : Result :=
  issueOp (vrStops 2 false x)
    (fun s =>
      let c := s.cur
      let w := x.ty.width
      let hs := (((c.velems w x.va.toNat).zip (c.velems w x.vb.toNat)).zipIdx).map fun y =>
        active (c.kreg x.k.toNat) y.2 w && relElem r x.ty y.1.1 y.1.2
      s.putK (x.vd.toNat % 8) 2 (maskOf w hs)) s

/-- `vceq` (R111). -/
def execVceq (x : ClsVR) (s : State) : Result := vCmp .eq x s

/-- `vcne` (R111). -/
def execVcne (x : ClsVR) (s : State) : Result := vCmp .ne x s

/-- `vclt` (R111). -/
def execVclt (x : ClsVR) (s : State) : Result := vCmp .lt x s

/-- `vcle` (R111). -/
def execVcle (x : ClsVR) (s : State) : Result := vCmp .le x s

/-- `vcgt` (R111). -/
def execVcgt (x : ClsVR) (s : State) : Result := vCmp .gt x s

/-- `vcge` (R111). -/
def execVcge (x : ClsVR) (s : State) : Result := vCmp .ge x s

/-- `vsel` (R112): the mask selects, and `vd` is not read. -/
def execVsel (x : ClsVR) (s : State) : Result :=
  issueOp (vrStops 2 false x)
    (fun s =>
      let c := s.cur
      let w := x.ty.width
      s.putV x.vd.toNat 2
        (Vec.ofElems w (mergeElems (c.kreg x.k.toNat) w (c.velems w x.va.toNat) (c.velems w x.vb.toNat)))) s

/-- A mask op (R113). -/
def vMask (two : Bool) (f : Word → Word → Word) (x : ClsVK) (s : State) : Result :=
  issueOp (fun s => s.srcStops ([.k x.ka.toNat 3] ++ (if two then [.k x.kb.toNat 6] else [])))
    (fun s => s.putK x.kd.toNat 2 (f (s.cur.kreg x.ka.toNat) (s.cur.kreg x.kb.toNat))) s

/-- `kand` (R113). -/
def execKand (x : ClsVK) (s : State) : Result := vMask true (· &&& ·) x s

/-- `kor` (R113). -/
def execKor (x : ClsVK) (s : State) : Result := vMask true (· ||| ·) x s

/-- `kxor` (R113). -/
def execKxor (x : ClsVK) (s : State) : Result := vMask true (· ^^^ ·) x s

/-- `knot` (R113). -/
def execKnot (x : ClsVK) (s : State) : Result := vMask false (fun a _ => ~~~a) x s

/-! ## Permutes and moves (R114, R115) -/

/-- A permute of class VR: `f` takes the elements of `va`, `vb` and `vc` and an index. -/
def vPerm (n : Nat) (f : List Nat → List Nat → List Nat → Nat → Nat) (x : ClsVR) (s : State) : Result :=
  issueOp (vrStops n true x)
    (fun s =>
      let c := s.cur
      let w := x.ty.width
      let a := c.velems w x.va.toNat
      let b := c.velems w x.vb.toNat
      let d := c.velems w x.vc.toNat
      s.putV x.vd.toNat 2 (s.merged x.vd x.k w ((List.range x.ty.count).map (f a b d)))) s

/-- A permute of class VS: `f` takes the count, the elements of `va`, the scalar and an index. -/
def vPermS (f : Nat → List Nat → Word → Nat → Nat) (x : ClsVS) (s : State) : Result :=
  issueOp (vsStops true true x)
    (fun s =>
      let w := x.ty.width
      let a := s.cur.velems w x.va.toNat
      s.putV x.vd.toNat 2 (s.merged x.vd x.k w ((List.range x.ty.count).map (f x.ty.count a (s.sv x.s))))) s

/-- `vperm` (Table 5-5). -/
def execVperm (x : ClsVR) (s : State) : Result :=
  vPerm 3 (fun a b c e => (a ++ c).getD (b.getD e 0) 0) x s

/-- `vrot` (Table 5-5). -/
def execVrot (x : ClsVS) (s : State) : Result :=
  vPermS (fun n a v e => a.getD ((e + n - v.toNat % n) % n) 0) x s

/-- `vzip` (Table 5-5): h is in field `vc`. -/
def execVzip (x : ClsVR) (s : State) : Result :=
  vPerm 2 (fun a b _ e => (if e % 2 = 0 then a else b).getD (e / 2 + x.vc.toNat * x.ty.count / 2) 0) x s

/-- `vunzip` (Table 5-5). -/
def execVunzip (x : ClsVR) (s : State) : Result :=
  vPerm 2 (fun a b _ e => (a ++ b).getD (2 * e + x.vc.toNat) 0) x s

/-- `vslide` (Table 5-5). -/
def execVslide (x : ClsVS) (s : State) : Result :=
  vPermS (fun n a v e =>
    let i := Int.ofNat e + v.toInt
    if 0 ≤ i ∧ i < Int.ofNat n then a.getD i.toNat 0 else 0) x s

/-- `vbrd` (Table 5-5). -/
def execVbrd (x : ClsVX) (s : State) : Result :=
  issueOp (fun s => s.srcStops ((if x.k ≠ 0 then [.v x.vd.toNat 0, .k x.k.toNat 20] else []) ++ [.v x.va.toNat 5]))
    (fun s =>
      let w := x.ty.width
      let a := Vec.elem w (s.cur.vreg x.va.toNat) x.imm.toNat
      s.putV x.vd.toNat 2 (s.merged x.vd x.k w (List.replicate x.ty.count a))) s

/-- `vcomp` (Table 5-5): no merge. -/
def execVcomp (x : ClsVR) (s : State) : Result :=
  issueOp (vrStops 1 false x)
    (fun s =>
      let c := s.cur
      let w := x.ty.width
      let a := ((c.velems w x.va.toNat).zipIdx).filter fun y => active (c.kreg x.k.toNat) y.2 w
      s.putV x.vd.toNat 2 (Vec.ofElems w (a.map (·.1)))) s

/-- `vmov` (Table 5-5). -/
def execVmov (x : ClsVR) (s : State) : Result := vElem 1 lat2 (fun _ _ _ a _ _ => a) x s

/-- `vmovs` (R115): sign-extended for `.s` types. -/
def execVmovs (x : ClsVL) (s : State) : Result :=
  issueOp (fun s => s.srcStops [.v x.v.toNat 0])
    (fun s => s.putS x.s.toNat 2 (wrap (Ty.val x.ty (Vec.elem x.ty.width (s.cur.vreg x.v.toNat) x.lane.toNat)))) s

/-- `vins` (R115). -/
def execVins (x : ClsVL) (s : State) : Result :=
  issueOp (fun s => s.srcStops [.v x.v.toNat 0, .s x.s.toNat 5])
    (fun s =>
      let w := x.ty.width
      s.putV x.v.toNat 2
        (Vec.ofElems w (modifyAt (s.cur.velems w x.v.toNat) x.lane.toNat fun _ => (s.sv x.s).toNat % 2 ^ w))) s

/-! ## Reductions (R116) -/

/-- One node of the tree: an absent child passes the other up. -/
def nodeOf (op : α → α → α) : Option α → Option α → Option α
  | none, y => y
  | x, none => x
  | some x, some y => some (op x y)

/-- One level of the tree; `j` is the index of the first node. -/
def treeLevel (op : Nat → α → α → α) : Nat → List (Option α) → List (Option α)
  | j, x :: y :: t => nodeOf (op j) x y :: treeLevel op (j + 1) t
  | _, [x] => [x]
  | _, [] => []

/-- The fixed pairwise tree: `n` levels from level `l` on, `op l j` at node `j` of level `l` (R116). -/
def treeReduce (op : Nat → Nat → α → α → α) : Nat → Nat → List (Option α) → Option α
  | 0, _, xs => xs.head?.join
  | n + 1, l, xs => treeReduce op n (l + 1) (treeLevel (op l) 0 xs)

/-- The active elements of a vector for a reduction, the others absent. -/
def Core.leaves (c : Core) (x : ClsVS) : List (Option Nat) :=
  ((c.velems x.ty.width x.va.toNat).zipIdx).map fun a =>
    if active (c.kreg x.k.toNat) a.2 x.ty.width then some a.1 else none

/-- Latency of a reduction. -/
def redLat (t : Ty) : Nat := if t.isInt then 6 else 12

/-- The scalar an element gives: signed types in two's complement, floats as their bits (R116), a NaN as the canonical one
(R73), also where it is the only active element and R116 passes it up unchanged (DEDUCED, log 83). -/
def redOut (t : Ty) (n : Nat) : Word :=
  match Ty.fmt t with
  | some f => BitVec.ofNat 64 (if f.isNan n then f.nan else n)
  | none => wrap (Ty.val t n)

/-- A reduction: sources `va` and the mask, and those of its rounding mode. -/
def vRed (rm : Rm) (f : Core → Word) (x : ClsVS) (s : State) : Result :=
  issueOp (fun s => s.srcStops ([.v x.va.toNat 5] ++ (if x.k ≠ 0 then [.k x.k.toNat 20] else []) ++ rmSources rm))
    (fun s => s.putS x.s.toNat (redLat x.ty) (f s.cur)) s

/-- `vrsum` (R116). -/
def execVrsum (x : ClsVS) (s : State) : Result :=
  vRed x.rm (fun c =>
    let n := Nat.log2 x.ty.count
    match Ty.fmt x.ty with
    | some f =>
      let op (l j a b : Nat) : Nat :=
        f.roundVal x.rm (c.drawFor x.rm (64 * (l - 1) + j)) (FVal.add x.rm (f.decode a) (f.decode b))
      redOut x.ty ((treeReduce op n 1 (c.leaves x)).getD 0)
    | none =>
      wrap ((treeReduce (fun _ _ (a b : Int) => a + b) n 1 ((c.leaves x).map fun o => o.map (Ty.val x.ty))).getD 0)) x s

/-- `vrmin` (R116). -/
def execVrmin (x : ClsVS) (s : State) : Result :=
  vRed .rne (fun c =>
    let r := treeReduce (fun _ _ a b => pickMin false x.ty a b) (Nat.log2 x.ty.count) 1 (c.leaves x)
    match r, Ty.fmt x.ty with
    | some a, _ => redOut x.ty a
    | none, some f => BitVec.ofNat 64 (f.infC.getD f.maxC)
    | none, none => wrap (Ty.hi x.ty)) x s

/-- `vrmax` (R116). -/
def execVrmax (x : ClsVS) (s : State) : Result :=
  vRed .rne (fun c =>
    let r := treeReduce (fun _ _ a b => pickMin true x.ty a b) (Nat.log2 x.ty.count) 1 (c.leaves x)
    match r, Ty.fmt x.ty with
    | some a, _ => redOut x.ty a
    | none, some f => BitVec.ofNat 64 (f.sign true + f.infC.getD f.maxC)
    | none, none => wrap (Ty.lo x.ty)) x s

/-! ## Conversions (R117-R119) -/

/-- `vcvt` (R117). -/
def execVcvt (x : ClsVT) (s : State) : Result :=
  issueOp (fun s => s.srcStops ((if x.k ≠ 0 then [.v x.vd.toNat 0] else []) ++ [.v x.va.toNat 5] ++
      (if x.k ≠ 0 then [.k x.k.toNat 21] else []) ++ (rmSources x.rm)))
    (fun s =>
      let c := s.cur
      let w := Nat.max x.src.width x.res.width
      let n := 2048 / w
      let new := (((c.velems x.src.width x.va.toNat).take n).zipIdx).map fun a =>
        convert x.src x.res x.rm (c.drawFor x.rm a.2) a.1
      let old := (c.velems x.res.width x.vd.toNat).take n
      s.putV x.vd.toNat 4 (Vec.ofElems x.res.width (mergeElems (c.kreg x.k.toNat) w new old))) s

/-- `vbfpe` (R118). -/
def execVbfpe (x : ClsVF) (s : State) : Result :=
  issueOp (fun s => s.srcStops ([.v x.va.toNat 5] ++ (if x.k ≠ 0 then [.k x.k.toNat 20] else []) ++ (rmSources x.rm)))
    (fun s =>
      let c := s.cur
      let w := x.ty.width
      let b := x.bm2.toNat + 2
      let f := (Ty.fmt x.ty).getD fmt32
      let xs := ((c.velems w x.va.toNat).zipIdx).map fun a =>
        (if active (c.kreg x.k.toNat) a.2 w then f.decode a.1 else .fin false 0 0, c.drawFor x.rm a.2)
      let recs := (List.range (x.ty.count / 32)).map fun j => bfpEncode b x.rm ((xs.drop (32 * j)).take 32)
      s.putV x.vd.toNat 6 (BitVec.ofNat 2048 (joinNat (8 * bfpBytes b) recs))) s

/-- `vbfpd` (R119). -/
def execVbfpd (x : ClsVF) (s : State) : Result :=
  issueOp (fun s => s.srcStops ([.v x.va.toNat 5] ++ (rmSources x.rm)))
    (fun s =>
      let c := s.cur
      let b := x.bm2.toNat + 2
      let f := (Ty.fmt x.ty).getD fmt32
      let n := (c.vreg x.va.toNat).toNat
      let new := (List.range x.ty.count).map fun e =>
        f.roundVal x.rm (c.drawFor x.rm e)
          (bfpValue b (n / 2 ^ (8 * bfpBytes b * (e / 32)) % 2 ^ (8 * bfpBytes b)) (e % 32))
      s.putV x.vd.toNat 4 (Vec.ofElems x.ty.width new)) s

/-! ## Special functions and the generator (R120-R122) -/

/-- A special function of binary32 elements (R120). -/
def vSpecial (lat : Nat) (f : Rm → Nat → Nat → Nat) (x : ClsVR) (s : State) : Result :=
  vElem 1 (fun _ => lat) (fun _ rm u a _ _ => f rm u a) x s

/-- `vrcp` (R120). -/
def execVrcp (x : ClsVR) (s : State) : Result := vSpecial 10 rcp32 x s

/-- `vrsqrt` (R120). -/
def execVrsqrt (x : ClsVR) (s : State) : Result := vSpecial 10 rsqrt32 x s

/-- `vexp2` (R120). -/
def execVexp2 (x : ClsVR) (s : State) : Result := vSpecial 12 exp2_32 x s

/-- `vlog2` (R120). -/
def execVlog2 (x : ClsVR) (s : State) : Result := vSpecial 12 log2_32 x s

/-- `vrng` (R122): the pair holds the counter base and the key. -/
def execVrng (x : ClsVS) (s : State) : Result :=
  issueOp (fun s => s.srcStops ((if x.k ≠ 0 then [.v x.vd.toNat 0] else []) ++
      [.s x.s.toNat 10, .s (x.s.toNat + 1) 10] ++ (if x.k ≠ 0 then [.k x.k.toNat 20] else [])))
    (fun s =>
      let base := (s.cur.sreg x.s.toNat).toNat
      let key := (s.cur.sreg (x.s.toNat + 1)).toNat
      s.putV x.vd.toNat 5
        (s.merged x.vd x.k 32 ((List.range 64).map fun i => rngG key ((base + i) % 2 ^ 64)))) s

end Sys2Proof.Machine
end

