-- ==== Sys2Proof/Machine/Reduce.lean ====
section
/-! DEFINITION. Reducing copies at the destination: the functions of Table 8-5, the indivisible update of a line at its
home (R171), ordered groups and their staging (R320 to R322), and the replies that a receiving module gives (R317). -/

namespace Sys2Proof.Machine

/-! ## Functions (Table 8-5) -/

/-- The element type and combination of a function code. -/
def reduceOp (func : Nat) : Ty × ElemFn :=
  match func with
  | 1 => (.f32, fAdd)
  | 2 => (.bf16, fAdd)
  | 3 => (.f16, fAdd)
  | 4 => (.s32, fAdd)
  | 5 => (.s64, fAdd)
  | 6 => (.f32, fMin)
  | 7 => (.f32, fMax)
  | 8 => (.s32, fMin)
  | _ => (.s32, fMax)

/-- Bytes of a destination combined with bytes of a contribution (R171). -/
def reduceBytes (func : Nat) (old new : List Byte) : List Byte :=
  let t := (reduceOp func).1
  let f := (reduceOp func).2
  let n := 8 * old.length / t.width
  let a := splitNat t.width n (leVal old)
  let b := splitNat t.width n (leVal new)
  leBytes old.length (joinNat t.width ((a.zip b).map fun x => f t .rne 0 x.1 x.2 0))

/-! ## Replies (R317) -/

/-- A reply to a packet goes to the module that issued the request, on the plane the request came by (R306). -/
def State.replyTo (s : State) (orig plane tag gen : Nat) (fwid : BitVec 12) (op caddr : Nat) (data : List Byte) : State :=
  if orig = s.me then s.selfReply tag gen fwid (if op = 0x22 then caddr else 0) data
  else s.transmit plane
    { op := op, src := s.me, dst := orig, plane := plane, vl := 0, orig := orig, gen := gen, tag := tag, fwid := fwid
      scope := .core, rel := false, acq := false, addr := 0, caddr := caddr, data := data }

/-- DATA, ACK or NACK to the issuer of a packet. -/
def State.answer (s : State) (p : Packet) (op caddr : Nat) (data : List Byte) : State :=
  s.replyTo p.orig p.plane p.tag p.gen p.fwid op caddr data

/-- ACK for cause 0, else NACK. -/
def State.acked (s : State) (p : Packet) (cause : Nat) : State :=
  if cause = 0 then s.answer p 0x21 0 [] else s.answer p 0x22 cause []

/-- The local world that answers for a fabric world id (R314). -/
def State.vfOf (s : State) (fwid : BitVec 12) : Option Nat :=
  (s.worlds.find? fun w => w.2.exists_ && w.2.fabric && w.2.fwid == fwid).map (·.1)

/-- A request answered by a cause of Table 19-4: of BOUND the target's supervisor is told. -/
def State.settleReq (s : State) (vf : Nat) (p : Packet) (cause : Nat) : State :=
  (if cause = 3 then s.report (s.world vf).pid ⟨"bound", 0, 3, p.addr.setWidth 64⟩ else s).acked p cause

/-- Answer whoever waits for a line of an ordered reduction. -/
def State.answerTo (s : State) (who : Answer) (cause : Nat) : State :=
  match who with
  | .cmd core ch id =>
    s.modCore core fun c => c.modChan ch fun h =>
      { h with cmds := h.cmds.map fun m => if m.id = id then { m with acks := 2, failed := cause != 0 } else m }
  | .peer orig plane tag gen fwid =>
    if cause = 0 then s.replyTo orig plane tag gen fwid 0x21 0 [] else s.replyTo orig plane tag gen fwid 0x22 cause []

/-! ## One line at its home (R171) -/

/-- The key of a scratchpad place of a core among the places of ordered reductions. -/
def scratchKey (core a : Nat) : Nat := 2 ^ 48 + core * 2 ^ 22 + a

/-- A line combined into the flat space of a world under an entry, issued by an agent of die `d`: 0, or the cause of Table 19-4; `none`
while the home cannot be reached. -/
def State.reduceUnder (s : State) (d vf a func : Nat) (bs : List Byte) (x : XEntry) (own : Option Nat) : Option (State × Nat) :=
    match s.readUnit (frameDie x.frame) false vf 0 (a / 65536) x (a % 65536) bs.length own with
    | none => none
    | some (s, g) =>
      if g.cause ≠ 0 then some (s, if g.cause = 5 then 4 else 5)
      else
        let r := s.writeUnit (frameDie x.frame) vf 0 (a / 65536) x (a % 65536) (reduceBytes func g.bytes bs) own
        let s := match r.1.stage vf x.frame true with
          | some f => r.1.dropLine d (f.frame * 1024 + a % 65536 / 64)
          | none => r.1
        match r.2 with
        | .done => some (s, 0)
        | .sealed => some (s, 4)
        | .refused => some (s, 5)
        | .wait => none

/-- The same under a translation taken as it lands. -/
def State.reduceFlat (s : State) (d vf a func : Nat) (bs : List Byte) : Option (State × Nat) :=
  match s.flatFind vf a true with
  | .error c => some (s, c)
  | .ok x => s.reduceUnder d vf a func bs x none

/-- Whether an engine's access to a slot waits (R140), and whether a read of it fails (R142). -/
def Core.slotWaits (c : Core) (a : Nat) : Bool :=
  let e := c.slot (a / 65536)
  e.zeroing || e.state == .filling || e.state == .draining

/-- A line combined into the scratchpad of a core. -/
def State.reduceScratch (s : State) (core a func : Nat) (bs : List Byte) (h : Handle) : Option (State × Nat) :=
  let c := s.core core
  if c.slotWaits a then none
  else if c.slotSealed a then some (s, 4)
  else if c.scratchBad a bs.length then some (s, 5)
  else some (s.modCore core fun c => c.scratchWrite a (reduceBytes func (c.scratch a bs.length) bs) h, 0)

/-- A line of an ordered reduction combined at its place, by an agent of die `d`. -/
def State.reduceAt (s : State) (d : Nat) (x : Staged) : Option (State × Nat) :=
  if x.addr < 2 ^ 48 then s.reduceFlat d x.vf x.addr x.func x.data
  else s.reduceScratch ((x.addr - 2 ^ 48) / 2 ^ 22) (x.addr % 2 ^ 22) x.func x.data x.seqb

/-! ## Ordered groups (R320, R321) -/

/-- The home die of a place (R235, R320). -/
def State.reduceHome (s : State) (vf a : Nat) : Nat :=
  if a < 2 ^ 48 then
    match s.flatPhys vf a with
    | some p => frameDie (p / 65536)
    | none => 0
  else dieOf ((a - 2 ^ 48) / 2 ^ 22)

/-- Whether a group is the one of a key. -/
def Group.isKey (g : Group) (vf a bytes last : Nat) : Bool :=
  g.vf == vf && g.addr == a && g.bytes == bytes && g.last == last

/-- The group of a line. -/
def Die.group (d : Die) (vf a bytes last : Nat) : Option Group := d.groups.find? fun g => g.isKey vf a bytes last

/-- The lines that a piece of a command covers. -/
def pieceLines (a n : Nat) : List Nat := (List.range (ceilDiv n 64)).map fun i => a + 64 * i

/-- Whether every line of a piece expects its rank. -/
def Die.expects (d : Die) (x : Staged) : Bool :=
  (pieceLines x.addr x.data.length).all fun a =>
    match d.group x.vf a x.bytes x.last with
    | some g => g.expected == x.rank
    | none => x.rank == 0

/-- A number put into a list of rising numbers. -/
def insertNat (n : Nat) : List Nat → List Nat
  | [] => [n]
  | x :: xs => if n ≤ x then n :: x :: xs else x :: insertNat n xs

/-- How many ranges of `n` bytes cover lines of rising addresses, the lines below `e` being covered. -/
def rangesOf (n : Nat) : Nat → List Nat → Nat
  | _, [] => 0
  | e, a :: as => if a < e then rangesOf n e as else rangesOf n (a + n) as + 1

/-- Entries of Table 19's group store that are in use (R321, log 13): by count and RL, one for each range of lines that the bytes of
one command can cover. -/
def Die.groupEntries (d : Die) : Nat :=
  let keys := (d.groups.map fun g => (g.vf, g.bytes, g.last)).eraseDups
  (keys.map fun k =>
    rangesOf k.2.1 0 (((d.groups.filter fun g => (g.vf, g.bytes, g.last) == k).map (·.addr)).foldl (fun l a => insertNat a l) [])).sum

/-- The expected rank of a piece's lines advances; a line that has applied rank RL ends, and begins anew where lines wait
for the next group (R320). -/
def Die.advance (d : Die) (x : Staged) (now : Nat) : Die :=
  (pieceLines x.addr x.data.length).foldl (fun d a =>
    let here (y : Staged) : Bool := y.vf == x.vf && y.bytes == x.bytes && y.last == x.last &&
      (pieceLines y.addr y.data.length).contains a
    let rest := d.groups.filter fun g => !g.isKey x.vf a x.bytes x.last
    let g : Group := match d.group x.vf a x.bytes x.last with
      | some g => g
      | none => ⟨x.vf, x.pid, a, x.bytes, x.last, 0, now⟩
    if g.expected + 1 ≤ x.last then { d with groups := rest ++ [{ g with expected := g.expected + 1 }] }
    else if d.staged.any here then { d with groups := rest ++ [{ g with expected := 0, first := now }] }
    else { d with groups := rest }) d

/-- A piece of the expected rank applies: every rank advances even where the application fails (R320). `none` while its
home cannot be reached. -/
def State.applyPiece (s : State) (d : Nat) (x : Staged) : Option (State × Nat) :=
  -- the issuing die's cache drops the line (R236); a peer's line has no issuing die here
  match s.reduceAt (match x.who with | .cmd core _ _ => dieOf core | .peer .. => d) x with
  | none => none
  | some (s, cause) => some (s.modDie d fun y => y.advance x s.us, cause)

/-- Who waits for a line of an ordered reduction is answered; of BOUND the target's supervisor is told (R317). -/
def State.answerStaged (s : State) (x : Staged) (cause : Nat) : State :=
  match x.who, cause with
  | .peer .., 3 => (s.report x.pid ⟨"bound", 0, 3, BitVec.ofNat 64 x.addr⟩).answerTo x.who cause
  | _, _ => s.answerTo x.who cause

/-- A staged line has been dealt with: the packet is answered with its last line, by the first failure among its lines. -/
def State.endStaged (s : State) (d : Nat) (x : Staged) (cause : Nat) : State :=
  let fail := if x.fail ≠ 0 then x.fail else cause
  let s := s.modDie d fun y => { y with staged := y.staged.erase x }
  if (s.die d).staged.any fun y => y.who == x.who then
    s.modDie d fun y => { y with staged := y.staged.map fun z => if z.who = x.who then { z with fail := fail } else z }
  else s.answerStaged x fail

/-- Staged pieces whose rank has come apply in turn; `n` bounds them. -/
def State.applyStaged : Nat → Nat → State → State
  | 0, _, s => s
  | n + 1, d, s =>
    match (s.die d).staged.find? fun x => (s.die d).expects x with
    | none => s
    | some x =>
      match s.applyPiece d x with
      | none => s
      | some (t, cause) => State.applyStaged n d (t.endStaged d x cause)

/-- Bytes that a partition has staged (R321). -/
def State.stagedBytes (s : State) (pid : Nat) : Nat :=
  ((List.range 3).map fun d => (((s.die d).staged.filter fun x => x.pid == pid).map fun x => x.data.length).sum).sum

/-- The lines of a packet, each by itself. -/
def Staged.lines (x : Staged) : List Staged :=
  (pieceLines x.addr x.data.length).map fun a => { x with addr := a, data := (x.data.drop (a - x.addr)).take 64 }

/-- Lines of the expected rank apply; the first cause with which one fails. -/
def State.applyLines (d : Nat) : List Staged → State → Option (State × Nat)
  | [], s => some (s, 0)
  | x :: xs, s => do
    let r ← s.applyPiece d x
    let q ← State.applyLines d xs r.1
    some (q.1, if r.2 ≠ 0 then r.2 else q.2)

/-- A packet of an ordered reduction arrives at its home, or a line of a command of this module: its lines of the expected rank apply
and the others are staged (R320). Applied with a cause, BUSY (7), or staged in part (`none` in the second place). The first `none` is
a home that cannot be reached yet. -/
def State.ordered (s : State) (x : Staged) : Option (State × Option Nat) :=
  let d := s.reduceHome x.vf x.addr
  let y := s.die d
  let fresh := (pieceLines x.addr x.data.length).filter fun a => (y.group x.vf a x.bytes x.last).isNone
  let news : List Group := fresh.map fun a => ⟨x.vf, x.pid, a, x.bytes, x.last, 0, s.us⟩
  if !fresh.isEmpty && decide (256 < ({ y with groups := y.groups ++ news } : Die).groupEntries) then some (s, some 7)
  else
    let t := s.modDie d fun y => { y with groups := y.groups ++ news }
    let late := x.lines.filter fun l => !(t.die d).expects l
    if late ≠ [] ∧ (s.part x.pid).staging * 2 ^ 20 < s.stagedBytes x.pid + 64 * late.length then some (s, some 7)
    else match State.applyLines d (x.lines.filter (t.die d).expects) t with
      | none => none
      | some (t, cause) =>
        let t := t.modDie d fun y => { y with staged := y.staged ++ late.map fun l => { l with fail := cause } }
        let t' := State.applyStaged (t.die d).staged.length d t
        some (t', if late = [] then some cause else none)

/-! ## Requests of peers on flat places (R309, R317) -/

/-- A request that waits until its home can be reached. -/
def State.holdReq (s : State) (op : Nat) (p : Packet) : State := { s with heldReqs := s.heldReqs ++ [(op, p)] }

/-- The virtual lane of a world's requests: its PID (R313). -/
def State.vlOf (s : State) (fwid : BitVec 12) : Option Nat := (s.vfOf fwid).map fun v => (s.world v).pid

/-- Remote loads, stores and atomics of one lane and virtual lane are performed in the order of acceptance (R307). -/
def State.behindHeld (s : State) (op : Nat) (p : Packet) : Bool :=
  decide (op ≤ 5) && s.heldReqs.any fun y => decide (y.1 ≤ 5) && y.2.src == p.src && y.2.plane == p.plane && s.vlOf y.2.fwid == s.vlOf p.fwid

/-- RD8 and RD256. -/
def State.serveRead (op n vf : Nat) (p : Packet) (s : State) : State :=
  let a := p.addr.toNat
  match s.flatCause vf a false, s.flatEntry vf a false with
  | some c, _ => s.settleReq vf p c
  | none, none => s.settleReq vf p 2
  | none, some x =>
    match s.readUnit (frameDie x.frame) false vf 0 (a / 65536) x (a % 65536) n with
    | none => s.holdReq op p
    | some (s, g) => if g.cause = 0 then s.answer p 0x20 0 g.bytes else s.settleReq vf p (if g.cause = 5 then 4 else 5)

/-- WR8, WR256 and CPW: `n` bytes, and the counter that CADDR names unless it is 0. -/
def State.serveWrite (op n ctr vf : Nat) (p : Packet) (s : State) : State :=
  match s.landWrite vf p.addr.toNat (p.data.take n) ctr with
  | none => s.holdReq op p
  | some (s, cause) => s.settleReq vf p cause

/-- ATOM. -/
def State.serveAtom (vf : Nat) (p : Packet) (s : State) : State :=
  let a := p.addr.toNat
  let w (i : Nat) : Word := BitVec.ofNat 64 (leVal ((p.data.drop i).take 8))
  match s.flatCause vf a true, s.flatEntry vf a true with
  | some c, _ => s.settleReq vf p c
  | none, none => s.settleReq vf p 2
  | none, some x =>
    match s.atomic vf 0 (a / 65536) x (a % 65536) fun o => atomNew (p.caddr.toNat % 16) o (w 0) (w 8) with
    | none => s.holdReq 5 p
    | some (s, old, cause, _) =>
      if cause ≠ 0 then s.settleReq vf p (if cause = 5 then 4 else 5)
      else if p.caddr.getLsbD 4 then s.answer p 0x20 0 (leBytes 8 old.toNat) else s.acked p 0

/-- RCP. -/
def State.serveRcp (vf : Nat) (p : Packet) (s : State) : State :=
  let a := p.addr.toNat
  match s.reduceFlat (s.reduceHome vf a) vf a (p.caddr.toNat / 2 ^ 25 % 16) p.data with
  | none => s.holdReq 9 p
  | some (s, cause) => s.settleReq vf p cause

/-- RCPO (R320, R321): applied, staged without an answer yet, or BUSY. -/
def State.serveRcpo (vf : Nat) (p : Packet) (s : State) : State :=
  let c := p.caddr.toNat
  let x : Staged := ⟨vf, (s.world vf).pid, p.addr.toNat, c % 2 ^ 25, c / 2 ^ 40 % 64, c / 2 ^ 32 % 64, c / 2 ^ 25 % 16, p.data,
    ⟨0, 0⟩, .peer p.orig p.plane p.tag p.gen p.fwid, 0⟩
  match s.ordered x with
  | none => s.holdReq 0xA p
  | some (s, some cause) => s.settleReq vf p cause
  | some (s, none) => s

/-- A request on a flat place by its op. -/
def State.serveFlat (op vf : Nat) (p : Packet) (s : State) : State :=
  if s.behindHeld op p then s.holdReq op p
  else match op with
    | 1 => s.serveRead 1 8 vf p
    | 2 => s.serveRead 2 256 vf p
    | 3 => s.serveWrite 3 8 p.caddr.toNat vf p
    | 4 => s.serveWrite 4 256 p.caddr.toNat vf p
    | 5 => s.serveAtom vf p
    | 8 => s.serveWrite 8 p.data.length 0 vf p
    | 9 => s.serveRcp vf p
    | _ => s.serveRcpo vf p

end Sys2Proof.Machine
end

