-- ==== Sys2Proof/Machine/Seal.lean ====
section
/-! DEFINITION. Encryption of lines, code and keys (spec/21_bulkheads_worlds_and_keys.md R335, R341, R342): the permutation of
64-byte units under a key and a tweak, the tweaks, the keys of a line, and its MAC. Memory of the model holds what lines open to; what
stands in HBM is computed from that here. -/

namespace Sys2Proof.Machine

/-! ## Units of 64 bytes -/

/-- A unit encrypted under a key and a tweak. -/
def xts (key : List Byte) (tweak : Nat) (x : BitVec 512) : BitVec 512 :=
  let l := x.extractLsb' 256 256
  let r := x.extractLsb' 0 256
  let l := l ^^^ Config.mix key tweak 0 r
  let r := r ^^^ Config.mix key tweak 1 l
  let l := l ^^^ Config.mix key tweak 2 r
  l ++ r

/-- A unit of ciphertext opened under a key and a tweak. -/
def xtsOpen (key : List Byte) (tweak : Nat) (x : BitVec 512) : BitVec 512 :=
  let l := x.extractLsb' 256 256
  let r := x.extractLsb' 0 256
  let l := l ^^^ Config.mix key tweak 2 r
  let r := r ^^^ Config.mix key tweak 1 l
  let l := l ^^^ Config.mix key tweak 0 r
  l ++ r

/-- 64 bytes encrypted. -/
def sealBytes (key : List Byte) (tweak : Nat) (bs : List Byte) : List Byte :=
  leBytes 64 (xts key tweak (BitVec.ofNat 512 (leVal bs))).toNat

/-- 64 bytes of ciphertext opened. -/
def openBytes (key : List Byte) (tweak : Nat) (bs : List Byte) : List Byte :=
  leBytes 64 (xtsOpen key tweak (BitVec.ofNat 512 (leVal bs))).toNat

/-! ## Lines of HBM (R342) -/

/-- The tweak of a line: FWID, tensor, unit and line. -/
def tweakNo (fwid : BitVec 12) (tid unit line : Nat) : Nat :=
  fwid.toNat + tid % 2 ^ 24 * 2 ^ 12 + unit % 2 ^ 36 * 2 ^ 36 + line % 2 ^ 10 * 2 ^ 72

/-- A key that the key engine derives for the lines under a handle: `label` 0 names the XTS pair, 1 the MAC key (log 127). -/
def State.lineKey (s : State) (vf : Nat) (h : Handle) (label bits : Nat) : List Byte :=
  let data := leBytes 64 (s.world vf).dataKey.toNat
  let l := leBytes 1 label
  leBytes (bits / 8) (if h = ⟨0, 0⟩ then Config.kmac data l bits
    else Config.kmac (leBytes 32 (Tab.get KeySlot.fresh s.keys h.slot).key.toNat) (data ++ leBytes 3 (h.slot % 4096 + h.gen % 256 * 4096) ++ l) bits)

/-- A line of 64 bytes as it stands in HBM, or goes to another module. -/
def State.sealLine (s : State) (vf tid unit line : Nat) (h : Handle) (bs : List Byte) : List Byte :=
  sealBytes (s.lineKey vf h 0 512) (tweakNo (s.world vf).fwid tid unit line) bs

/-- What a line of ciphertext opens to. -/
def State.openLine (s : State) (vf tid unit line : Nat) (h : Handle) (bs : List Byte) : List Byte :=
  openBytes (s.lineKey vf h 0 512) (tweakNo (s.world vf).fwid tid unit line) bs

/-- The 64-bit MAC of a line: KMAC256 of its MAC key over the tweak and the ciphertext. -/
def State.lineMac (s : State) (vf tid unit line : Nat) (h : Handle) (cipher : List Byte) : Nat :=
  Config.kmac (s.lineKey vf h 1 256) (leBytes 16 (tweakNo (s.world vf).fwid tid unit line) ++ cipher) 64

/-! ## Code (R341) -/

/-- Tweaks of a bundle and of a 64-byte unit of constants. -/
def bundleTweak (handle i : Nat) : Nat := handle * 2 ^ 32 + i
def constTweak (handle u : Nat) : Nat := handle * 2 ^ 32 + 2 ^ 31 + u

/-- The bundles of an image as the loader places them in device memory, under the world's code key: the instruction memory of a core
holds what these open to (log 127). -/
def Image.cipher (i : Image) (w : World) : List (BitVec 512) :=
  (i.bundles.zipIdx).map fun x => xts (leBytes 64 w.codeKey.toNat) (bundleTweak i.handle x.2) x.1

/-- The constants of an image likewise, by units of 64 bytes. -/
def Image.constCipher (i : Image) (w : World) : List (List Byte) :=
  (List.range ((i.consts.length + 63) / 64)).map fun u =>
    sealBytes (leBytes 64 w.codeKey.toNat) (constTweak i.handle u) ((i.consts.drop (64 * u)).take 64)

/-! ## Keys at rest (R335, R364) -/

/-- A key of up to 512 bits wrapped under the sealing key, by its place among those of its kind. -/
def wrapKey (sealing : BitVec 512) (place : Nat) (k : BitVec 512) : BitVec 512 := xts (leBytes 64 sealing.toNat) place k

/-- A wrapped key taken out. -/
def unwrapKey (sealing : BitVec 512) (place : Nat) (k : BitVec 512) : BitVec 512 := xtsOpen (leBytes 64 sealing.toNat) place k

end Sys2Proof.Machine
end

