-- ==== Sys2Proof/Machine/Migrate.lean ====
section
/-! DEFINITION. Tile migration (spec/22_tile_migration.md): shootdowns (R286), tile requests at their owner and at a
stub (R237, R351), the migration table (R348), the steps of a move at the old owner and at the new one (R349, R350),
and reclamation rounds (R354, R355). -/

namespace Sys2Proof.Machine

/-! ## Shootdown (R286, R287) -/

/-- What a shootdown matches: a world, a tensor and a unit. -/
abbrev ShootSet := Nat → Nat → Nat → Bool

/-- The entries of one tile. -/
def shootTile (vf tid tile : Nat) : ShootSet := fun v t u => v == vf && t == tid && u == tile

/-- The set that a shootdown in progress names; tensor 2^24 stands for every tensor of the world. -/
def Shootdown.set (x : Shootdown) : ShootSet := fun v t u =>
  v == x.vf && (x.tid == 2 ^ 24 || t == x.tid) &&
    (match x.range with
     | none => true
     | some (a, n) => decide (a ≤ u) && decide (u < a + n))

/-- Units that `n` bytes at a place lie in. -/
def Place.units (p : Place) (n : Nat) : List (Nat × Nat) :=
  match p with
  | .flat a => (List.range ((a + n - 1) / 65536 - a / 65536 + 1)).map fun i => (0, a / 65536 + i)
  | .tile t u => (List.range (ceilDiv n 65536)).map fun i => (t, u + i)
  | _ => []

/-- A running copy that translates, or in a chain has translated, under a matching entry (R286). -/
def Cmd.touches (m : Cmd) (vf : Nat) (f : ShootSet) : Bool :=
  m.started && (match m.kind with | .migrate _ => false | _ => true) &&
    (m.used ++ m.src.units m.bytes ++ m.dst.units m.bytes).any fun x => f vf x.1 x.2

/-- Cores that something has touched. -/
def State.coreList (s : State) : List Nat := s.cores.map (·.1)

/-- Whether an outstanding load or gather translates under a cached entry. -/
def Load.under (x : Load) (e : TlbEntry) : Bool :=
  x.valid && !x.performed && !x.gone &&
  (if x.kind ≤ 1 then e.tid == 0 && e.unit == x.addr.toNat / 65536
   else x.kind == 2 && e.tid == (SDesc.ofBits x.desc).id)

/-- Whether a core still has a load, gather or stream fetch under way that translated under a cached entry; a frozen core's
are sent again after its restore. -/
def Core.reads (k : Core) (e : TlbEntry) : Bool :=
  k.run != .frozen && ((k.loads ++ k.hloads).any (·.under e) ||
    k.q.any fun q => q.2.aq.any fun a => a.sent && a.refs.any fun r => r.tid == e.tid && r.unit == e.unit)

/-- Whether every access under a matching entry has performed: loads, gathers and stream fetches under a cached entry,
walks under way, local atomics that wait at a port, requests toward an owner, and running copies where `copies` asks for
them. -/
def State.shootReady (s : State) (f : ShootSet) (copies : Bool) : Bool :=
  (s.tlb.all fun e => !f e.vf e.tid e.unit || s.heldTile e.vf e.tid e.unit || !(s.core e.core).reads e) &&
  (s.coreList.all fun c =>
    let k := s.core c
    k.port.all (fun p => p.xl.isNone || p.sent || !f k.vf 0 (p.addr / 65536)) &&
    (!copies || (List.range 8).all fun h => (k.chan h).cmds.all fun m => !m.touches k.vf f)) &&
  ((List.range 3).all fun d =>
    (s.die d).walking.all (fun w => !f w.vf w.tid w.unit) &&
    (s.die d).reqs.all fun r => r.done || r.quar || !(r.op == 6 || r.op == 7) || !f r.vf (r.caddr % 2 ^ 24) (r.addr / 65536))

/-- A shootdown begins. -/
def State.shoot (s : State) (vf tid : Nat) (range : Option (Nat × Nat)) (core : Option Nat) (after : ShootEnd) : State :=
  let n := (s.shoots.map (·.id)).foldl Nat.max 0 + 1
  { s with shoots := s.shoots ++ [⟨n, vf, tid, range, core, after⟩] }

/-- Matching entries leave every translation cache, a tensor's descriptor with the whole tensor (R201), and what walks have brought
to accesses that have not taken it. Buffered stores hold no translation: they translate anew when they commit (R287). -/
def State.shootDrop (s : State) (f : ShootSet) : State :=
  s.coreList.foldl (fun s c => s.modCore c fun k => { k with wres := k.wres.filter fun w => !f k.vf w.tid w.unit })
    { s with
      tlb := s.tlb.filter fun e => !f e.vf e.tid e.unit
      dtlb := s.dtlb.filter fun e => !f e.vf e.tid descUnit }

/-! ## Tile-map entries as the hardware writes them (Table 2-11) -/

/-- `n` with a field replaced. -/
def setField (n lo w v : Nat) : Nat := n - fieldOf n lo w * 2 ^ lo + v % 2 ^ w * 2 ^ lo

/-- The entry of a tile and its flat address, none where the walk fails. -/
def State.tileWord (s : State) (vf tid tile : Nat) : Option (Nat × Nat) :=
  match s.tdesc vf tid with
  | .error _ => none
  | .ok d =>
    match s.tileEntry vf d tile with
    | .error _ => none
    | .ok e => some (e, d.mapb + 16 * tile)

/-- The hardware writes a walk structure in the flat space; the page's W does not bind it. -/
def State.hwStore (s : State) (vf a : Nat) (bs : List Byte) : State :=
  match s.flatWalk vf a with
  | .error _ => s
  | .ok e =>
    let x : XEntry := ⟨s.me, fieldOf e 16 36, ⟨0, 0⟩, 1, true, true⟩
    (s.writeUnit (frameDie x.frame) vf 0 (a / 65536) x (a % 65536) bs).1

/-- The peer-state table of a world as memory holds it, once its supervisor has set one (R315, log 130). -/
def State.writePeers (s : State) (vf : Nat) : State :=
  let w := s.world vf
  if w.psta = 0 || !w.fabric then s
  else (List.range 64).foldl (fun s m =>
    let p := Tab.get (0, 0, 0) w.peers m
    s.hwStore vf (w.psta + 8 * m) (leBytes 8 (p.2.1 * 4 + p.1))) s

/-- Change a tile-map entry. -/
def State.setTile (s : State) (vf tid tile : Nat) (f : Nat → Nat) : State :=
  match s.tileWord vf tid tile with
  | none => s
  | some (e, a) => s.hwStore vf a (leBytes 16 (f e))

/-! ## Receiving (R309, R312, R314, R316) -/

/-- Whether a packet comes under the count that its lane awaits: under any other its MAC fails (R311). -/
def State.inCount (s : State) (p : Packet) : Bool := p.count == (s.lane p.plane p.src).expect

/-- A packet is accepted on its lane: its count is acknowledged, and it is remembered in case it is sent again on another lane (R311,
R312). -/
def State.acceptOn (s : State) (op : Nat) (p : Packet) : State :=
  (s.modLane p.plane p.src fun l =>
    { l with
      expect := l.expect + 1, failing := false, fails := 0
      recent := (l.recent ++ [(op, p.orig, p.gen, p.tag)]).drop (l.recent.length - 287) }).emit (.link p.plane p.src "ack" p.count)

/-- The slots of a packet are free: its credits go back (R313). Replies have none. -/
def State.creditFor (s : State) (op : Nat) (p : Packet) : State :=
  if 0x20 ≤ op then s else s.emit (.link p.plane p.src "credit" (1 + (p.data.length + 31) / 32))

/-- What names a packet to a receiver of its second copy: OP, ORIG and TAG (R312). -/
def packetName (op : Nat) (p : Packet) : Nat × Nat × Nat × Nat := (op, p.orig, p.gen, p.tag)

/-- Whether a packet is the second copy of one accepted on a lane that has gone dark since (R312). Control packets, whose TAG tells
nothing, are left to their own rules (DEDUCED, log 34). -/
def State.secondCopy (s : State) (op : Nat) (p : Packet) : Bool :=
  !(decide (0xD ≤ op) && decide (op ≤ 0x11)) && (List.range 16).any fun q => (s.lane q p.src).old.contains (packetName op p)

/-- A second copy has come: it is known no more (DESIGN CHOICE, log 132). -/
def State.forgetCopy (s : State) (op : Nat) (p : Packet) : State :=
  (List.range 16).foldl (fun s q => if (s.lane q p.src).old.contains (packetName op p)
    then s.modLane q p.src fun l => { l with old := l.old.erase (packetName op p) } else s) s

/-- A packet that the receiver drops: counted and reported to the monitor (R309). -/
def State.dropPacket (s : State) (op : Nat) : State := { s with dropped := s.dropped + 1 }.emit (.note "dropped packet" op)

/-- Whether an op may have `n` data flits (Table 19-2; a MIG packet by its kind, R349; RESUME by R371, log 31). -/
def flitsOk (op n : Nat) (p : Packet) : Bool :=
  match op with
  | 3 | 5 | 0xD | 0xE => n == 1
  | 4 => n == 8
  | 7 | 0xB => decide (1 ≤ n) && decide (n ≤ 8)
  | 8 | 9 | 0xA => decide (2 ≤ n) && decide (n ≤ 8)
  | 0xC => if p.caddr.toNat / 2 ^ 24 % 16 = 1 then [2, 4, 6, 8].contains n else n == 2
  | 0x20 => n == 1 || n == 8
  | 0x10 | 0x11 => decide (n ≤ 8)
  | _ => n == 0

/-- The bits of CADDR that an op defines (Table 19-2, R349); the others are reserved. -/
def caddrBits (op : Nat) : BitVec 48 :=
  match op with
  | 3 | 4 | 0x11 => BitVec.allOnes 48
  | 5 => 0x1F
  | 6 => 0x3FFFFFF
  | 7 | 0xB => 0xFFFFFF
  | 9 => 0x1FFFFFFF
  | 0xA => 0x3F3F1FFFFFFF
  | 0xC => 0xFFFFFFFFF
  | 0xD | 0xE | 0x22 => 0xF
  | 0xF => 3
  | 0x23 => 0x3F
  | _ => 0

/-- The bits of ADDR that an op defines (Table 19-1): tile and offset of a tensor packet. -/
def addrBits (op : Nat) : BitVec 48 := if op = 6 ∨ op = 7 ∨ op = 0xB ∨ op = 0xC then 0xFFFFFFFFFF else BitVec.allOnes 48

/-- Functions of a packet that its table defines (Tables 7-5 and 8-5). -/
def funcOk (op : Nat) (p : Packet) : Bool :=
  if op = 5 then decide (p.caddr.toNat % 16 ≤ 10)
  else if op = 9 ∨ op = 0xA then decide (1 ≤ p.caddr.toNat / 2 ^ 25 % 16 ∧ p.caddr.toNat / 2 ^ 25 % 16 ≤ 9)
  else if op = 0xC then decide (p.caddr.toNat / 2 ^ 24 % 16 ≤ 4)
  else true

/-- Whether the receiver drops a packet for its form: a reserved OP or bit, or a LEN outside its op's (R309). -/
def badForm (op : Nat) (p : Packet) : Bool :=
  p.code.isSome || p.rsv != 0 || !flitsOk op ((p.data.length + 31) / 32) p || p.caddr &&& ~~~caddrBits op != 0 || p.addr &&& ~~~addrBits op != 0 || !funcOk op p

/-- Whether this module has told the members of a world that it is in diapause, or responding only (R316, R365). -/
def State.asleepFor (s : State) (vf : Nat) : Bool := s.selfState != 0 || (s.part (s.world vf).pid).away

/-- Whether a request waits for its home to be reached; its slots are not free before it is performed (R313). -/
def State.holds (s : State) (op : Nat) (p : Packet) : Bool := s.heldReqs.contains (op, p)

/-- A packet is accepted: a second copy is discarded, one of a wrong form or an unknown world is dropped (R309, R312). One out of count
order fails its MAC (R311); the self-lane carries none (R304). -/
def State.accept (s : State) (op : Nat) (p : Packet) (f : Nat → State → State) : Result :=
  if p.src = s.me then .next s
  else if !s.inCount p then .next (s.failPacket p.plane p.src p.count true)
  else
    let t := s.acceptOn op p
    if s.secondCopy op p then .next ((t.forgetCopy op p).creditFor op p)
    else if badForm op p then .next ((t.dropPacket op).creditFor op p)
    else match t.vfOf p.fwid with
      | none => .next ((t.dropPacket op).creditFor op p)
      | some vf =>
        let t := f vf t
        .next (if t.holds op p then t else t.creditFor op p)

/-- The index of a migration-table entry of a tile. -/
def State.migOf (s : State) (kind : Nat) (fwid : BitVec 12) (tid tile : Nat) : Option (Nat × MigEntry) :=
  s.mig.find? fun e => e.2.kind == kind && e.2.fwid == fwid && e.2.tid == tid && e.2.tile == tile

/-- The stub of the tile that a tensor packet names. -/
def State.stubOf (s : State) (p : Packet) : Option MigEntry :=
  (s.migOf 1 p.fwid (p.caddr.toNat % 2 ^ 24) (p.addr.toNat / 65536 % 2 ^ 24)).map (·.2)

/-- A request: answered NACK DIAP once this module has sent DIAP, else handled in the local world; a stub answers and relays
in brown-out too (R314, R316, R366). -/
def State.receive (s : State) (op : Nat) (p : Packet) (f : Nat → State → State) : Result :=
  s.accept op p fun vf s =>
    if s.asleepFor vf && !(s.selfState == 2 && (op == 6 || op == 7 || op == 0xB) && (s.stubOf p).isSome) then s.acked p 6 else f vf s

/-! ## Tile requests at the owner and at a stub (R237, R351) -/

/-- The cause of a refused walk at a receiver (Table 19-4). -/
def walkCause (f : WalkErr) : Nat := if f.reason = 7 then 3 else if f.reason = 10 then 5 else 2

/-- A stub has answered or relayed; in brown-out LAST is frozen (R351, R366). -/
def State.stubUsed (s : State) (fwid : BitVec 12) (tid tile : Nat) : State :=
  match s.migOf 1 fwid tid tile with
  | none => s
  | some (i, e) => if s.selfState ≠ 0 then s else { s with mig := Tab.set default s.mig i { e with last := s.us } }

/-- A stub's answer to a TRD (R351). -/
def State.redirect (s : State) (p : Packet) (new : Nat) : State :=
  (s.stubUsed p.fwid (p.caddr.toNat % 2 ^ 24) (p.addr.toNat / 65536 % 2 ^ 24)).answer p 0x23 new []

/-- A stub sends a TWR on to NEW (R351). -/
def State.relay (s : State) (p : Packet) (vf new : Nat) : State :=
  (s.stubUsed p.fwid (p.caddr.toNat % 2 ^ 24) (p.addr.toNat / 65536 % 2 ^ 24)).transmit (tilePlane p.addr.toNat)
    { op := 0xB, src := s.me, dst := new, plane := 0, vl := (s.world vf).pid, orig := p.orig, gen := p.gen
      tag := p.tag, fwid := p.fwid, scope := p.scope, rel := p.rel, acq := p.acq, addr := p.addr.toNat
      caddr := p.caddr.toNat, data := p.data }

/-- NEW of a stub that answers by its table entry alone: in brown-out the tile map of a shed partition is gone, and that of a frozen one
rests (R366). -/
def State.asleepStub (s : State) (vf : Nat) (p : Packet) : Option Nat := if s.asleepFor vf then (s.stubOf p).map (·.new) else none

/-- A TRD at this module: DATA has 8 flits, zero beyond the lines asked for (Table 19-2). -/
def State.serveTrd (vf : Nat) (p : Packet) (s : State) : State :=
  let tid := p.caddr.toNat % 2 ^ 24
  let tile := p.addr.toNat / 65536 % 2 ^ 24
  let n := 64 * (p.caddr.toNat / 2 ^ 24 % 4 + 1)
  match s.asleepStub vf p with
  | some new => s.redirect p new
  | none =>
  match s.walk vf tid tile with
  | .error f => s.settleReq vf p (walkCause f)
  | .ok x =>
    if x.state = 3 then s.redirect p x.owner
    else if x.owner ≠ s.me then s.acked p 2
    else match s.permit vf tid tile x false false with
      | some f => s.settleReq vf p (if f.bound then 3 else 2)
      | none =>
        match s.readUnit (frameDie x.frame) false vf tid tile x (p.addr.toNat % 65536) n with
        | none => { s with heldReqs := s.heldReqs ++ [(6, p)] }
        | some (s, g) => if g.cause = 0 then s.answer p 0x20 0 (g.bytes ++ List.replicate (256 - n) 0) else s.acked p (if g.cause = 5 then 4 else 5)

/-- A TWR, or a RELAY of one, at this module: performed here, or relayed by a stub to its NEW. -/
def State.serveTwr (relayed : Bool) (vf : Nat) (p : Packet) (s : State) : State :=
  let tid := p.caddr.toNat % 2 ^ 24
  let tile := p.addr.toNat / 65536 % 2 ^ 24
  match s.asleepStub vf p with
  | some new => s.relay p vf new
  | none =>
  match s.walk vf tid tile with
  | .error f => s.settleReq vf p (walkCause f)
  | .ok x =>
    if x.state = 3 then s.relay p vf x.owner
    else if x.owner ≠ s.me then s.acked p 2
    else match s.permit vf tid tile x true false with
      | some f => s.settleReq vf p (if f.bound then 3 else 2)
      | none =>
        let r := s.writeUnit (frameDie x.frame) vf tid tile x (p.addr.toNat % 65536) p.data
        match r.2 with
        | .wait => { s with heldReqs := s.heldReqs ++ [(if relayed then 0xB else 7, p)] }
        | .done => if relayed then r.1.answer p 0x23 s.me [] else r.1.acked p 0
        | .sealed => r.1.acked p 4
        | .refused => r.1.acked p 2

/-! ## The new owner (R349) -/

/-- Entries of the table that are used or promised (R348). -/
def State.migUsed (s : State) : Nat := s.mig.length + s.moves.length + s.arrivals.length

/-- A free index of the table. -/
def State.migFree (s : State) : Nat := ((List.range 4096).find? fun i => s.mig.all fun e => e.1 != i).getD 0

/-- The first frame of a world's arrival pool: its word's address and the frame. -/
def State.poolFrame (s : State) (vf : Nat) : Option (Nat × Nat) :=
  let p := s.part (s.world vf).pid
  (List.range p.apn).findSome? fun i =>
    match s.flatWord vf (p.apb + 8 * i) with
    | some f => if f = 0 then none else some (p.apb + 8 * i, f)
    | none => none

/-- An arrival that comes to nothing: its frame goes back into the pool. -/
def State.dropArrival (s : State) (a : Arrival) : State :=
  ({ s with arrivals := s.arrivals.erase a }).hwStore a.vf a.pool (leBytes 8 a.frame)

/-- The arrival of a tile. -/
def State.arrival (s : State) (vf tid tile : Nat) : Option Arrival :=
  s.arrivals.find? fun a => a.vf == vf && a.tid == tid && a.tile == tile

/-- Whether a tile is a stub here: only TRD and TWR are answered there (R351). -/
def State.isStub (s : State) (vf tid tile : Nat) : Bool :=
  (match s.tileWord vf tid tile with | some (e, _) => fieldOf e 0 2 == 3 | none => false) ||
    (s.migOf 1 (s.world vf).fwid tid tile).isSome

/-- ALLOC: step 1 of Table 22-2. -/
def State.serveAlloc (vf : Nat) (p : Packet) (s : State) : State :=
  let tid := p.caddr.toNat % 2 ^ 24
  let tile := p.addr.toNat / 65536 % 2 ^ 24
  let s := match s.arrival vf tid tile with
    | some a => s.dropArrival a
    | none => s
  let e := leVal (p.data.take 16)
  let h := (XEntry.ofTile e false).handle
  if !s.handleLive vf h then s.acked p 4
  else if 4096 ≤ s.migUsed ∨ (s.tileWord vf tid tile).isNone ∨ s.isStub vf tid tile then s.acked p 2
  else match s.poolFrame vf with
    | none => s.acked p 2
    | some (a, f) =>
      let n : Arrival := ⟨vf, tid, tile, p.orig, f, a, BitVec.ofNat 128 e, p.caddr.toNat / 2 ^ 28 % 4⟩
      (State.hwStore { s with arrivals := s.arrivals ++ [n] } vf a (leBytes 8 0)).acked p 0

/-- LINE: step 3 of Table 22-2. The line opens under the keys and the tweak of its place in the world, which are O's too (R342, R350). -/
def State.serveLine (vf : Nat) (p : Packet) (s : State) : State :=
  let tid := p.caddr.toNat % 2 ^ 24
  let tile := p.addr.toNat / 65536 % 2 ^ 24
  let off := p.addr.toNat % 65536
  match s.arrival vf tid tile with
  | none => s.acked p 2
  | some a =>
    let h := (XEntry.ofTile a.entry.toNat false).handle
    match s.stage vf a.frame true with
    | none => (s.dropArrival a).settleReq vf p 3
    | some f =>
      if !s.handleLive vf h then (s.dropArrival a).acked p 4
      else match s.reachFrame f with
        | .absent => (s.dropArrival a).acked p 2
        | .wait => { s with heldReqs := s.heldReqs ++ [(0xC, p)] }
        | .yes =>
          let n := p.data.length / 64
          let data := ((List.range n).map fun i =>
            s.openLine vf tid tile (off / 64 + i) h ((p.data.drop (64 * i)).take 64)).flatten
          (s.writeLines (frameDie f.frame) f.frame (fun k => s.tagOf f.vf tid tile k h) (n + 1) off
            (data ++ List.replicate (64 * n - data.length) 0)).acked p 0

/-- Whether no walk of a tile is under way. -/
def State.walksDone (s : State) (vf tid tile : Nat) : Bool :=
  (List.range 3).all fun d => (s.die d).walking.all fun w => !shootTile vf tid tile w.vf w.tid w.unit

/-- COMMIT: step 4 of Table 22-2. N's entry takes the handle, RD and W from the packet. Its shootdown waits for walks of the tile;
what has translated under the former entry goes to O, which holds it until N answers, so N waits for none of that (log 57). -/
def State.serveCommit (vf : Nat) (p : Packet) (s : State) : State :=
  let tid := p.caddr.toNat % 2 ^ 24
  let tile := p.addr.toNat / 65536 % 2 ^ 24
  match s.arrival vf tid tile with
  | none => s.acked p 2
  | some a =>
    let e := leVal (p.data.take 16)
    if !s.handleLive vf (XEntry.ofTile e false).handle then (s.dropArrival a).acked p 4
    else if !s.walksDone vf tid tile then { s with heldReqs := s.heldReqs ++ [(0xC, p)] }
    else
      let s := s.setTile vf tid tile fun _ => setField (setField (setField e 0 2 1) 4 6 s.me) 64 36 a.frame
      let s := s.shootDrop (shootTile vf tid tile)
      let m : MigEntry := { (default : MigEntry) with
        new := p.orig, dep := p.caddr.toNat / 2 ^ 28 % 4, kind := 2, fwid := p.fwid, tile := tile, tid := tid }
      let s := { s with arrivals := s.arrivals.erase a }
      { s with mig := Tab.set default s.mig s.migFree m }.acked p 0

/-! ## Reclamation at a queried module, a stub and the owner (R354) -/

/-- Requests of this module for a tile toward a module, sent or about to be. -/
def State.towards (s : State) (vf tid tile m : Nat) : Bool :=
  (List.range 3).any fun d => (s.die d).reqs.any fun r =>
    (r.op == 6 || r.op == 7) && !r.done && !r.quar && r.target == m && r.vf == vf &&
      r.caddr % 2 ^ 24 == tid && r.addr / 65536 == tile

/-- QUERY: the entry learns NEW and the tile is shot down; the answer waits for that (R286) and for the requests toward the stub. -/
def State.serveQuery (vf : Nat) (p : Packet) (s : State) : State :=
  let tid := p.caddr.toNat % 2 ^ 24
  let tile := p.addr.toNat / 65536 % 2 ^ 24
  let new := p.caddr.toNat / 2 ^ 30 % 64
  let s := s.setTile vf tid tile fun e => setField e 4 6 new
  if s.shootReady (shootTile vf tid tile) true then
    let s := s.shootDrop (shootTile vf tid tile)
    if s.towards vf tid tile p.orig then { s with heldReqs := s.heldReqs ++ [(0xC, p)] } else s.acked p 0
  else
    let s := if s.shoots.any fun x => x.vf == vf && x.tid == tid && x.range == some (tile, 1) then s
      else s.shoot vf tid (some (tile, 1)) none .nothing
    { s with heldReqs := s.heldReqs ++ [(0xC, p)] }

/-- RELEASE: a stub lowers its DEP to 1 and sends it on; the present owner lowers its arrival entry's DEP. -/
def State.serveRelease (p : Packet) (s : State) : State :=
  let tid := p.caddr.toNat % 2 ^ 24
  let tile := p.addr.toNat / 65536 % 2 ^ 24
  match s.migOf 1 p.fwid tid tile with
  | some (i, e) =>
    let s := { s with mig := Tab.set default s.mig i { e with dep := 1 } }
    s.transmit 0
      { op := 0xC, src := s.me, dst := e.new, plane := 0, vl := 24, orig := p.orig, gen := p.gen, tag := p.tag
        fwid := p.fwid, scope := p.scope, rel := p.rel, acq := p.acq, addr := p.addr.toNat, caddr := p.caddr.toNat
        data := p.data }
  | none =>
    match s.migOf 2 p.fwid tid tile with
    | none => s.acked p 0
    | some (i, e) =>
      { s with mig := if e.dep ≤ 1 then s.mig.erase i else Tab.set default s.mig i { e with dep := e.dep - 1 } }.acked p 0

/-- A MIG packet by its kind (R349). -/
def State.serveMig (vf : Nat) (p : Packet) (s : State) : State :=
  match p.caddr.toNat / 2 ^ 24 % 16 with
  | 0 => s.serveAlloc vf p
  | 1 => s.serveLine vf p
  | 2 => s.serveCommit vf p
  | 3 => s.serveQuery vf p
  | 4 => s.serveRelease p
  | _ => s.dropPacket 0xC

/-- A request that waited is served again in its world. -/
def State.serveHeld (s : State) (op vf : Nat) (p : Packet) : State :=
  match op with
  | 6 => s.serveTrd vf p
  | 7 => s.serveTwr false vf p
  | 0xB => s.serveTwr true vf p
  | 0xC => s.serveMig vf p
  | op => s.serveFlat op vf p

/-- Requests that waited are served again, in order; the slots of one that has been served are free (R313). -/
def State.retryHeld (s : State) : State :=
  s.heldReqs.foldl (fun s x =>
    let t := match s.vfOf x.2.fwid with
      | none => s
      | some vf => s.serveHeld x.1 vf x.2
    if t.holds x.1 x.2 then t else t.creditFor x.1 x.2) { s with heldReqs := [] }

/-! ## The old owner (R349, R350) -/

/-- How far a step of an engine came. -/
inductive Stride where
  | wait | next | fail
  deriving DecidableEq, Repr

/-- The CADDR of a MIG packet (R349). -/
def migCaddr (tid kind dep m : Nat) : Nat := tid + kind * 2 ^ 24 + dep * 2 ^ 28 + m * 2 ^ 30

/-- A move ends without having moved its tile: the entry is present again, and what waited goes on. -/
def State.dropMove (s : State) (m : Move) : State :=
  let s := { s with moves := s.moves.filter fun x => !(x.core == m.core && x.ch == m.ch && x.cmd == m.cmd) }
  (if m.step ≤ 1 then s else s.setTile m.vf m.tid m.tile fun e => setField e 0 2 1).retryHeld

/-- Replace a move. -/
def State.setMove (s : State) (m : Move) : State :=
  { s with moves := s.moves.map fun x => if x.core = m.core ∧ x.ch = m.ch ∧ x.cmd = m.cmd then m else x }

/-- One line of a tile as ciphertext, none where it does not open. -/
def State.cipherLine (s : State) (vf tid tile e line : Nat) : Option (List Byte) :=
  let x := XEntry.ofTile e false
  match s.stage vf x.frame false with
  | none => none
  | some f =>
    let l := f.frame * 1024 + line
    if s.opens l f.vf (s.tagOf f.vf tid tile line x.handle) ≠ 0 then none
    else some (s.sealLine vf tid tile line x.handle (s.mem.bytes (lineAddr l) 64))

/-- A tile passes step 5: its entry becomes a stub, and what waited goes to the stub. -/
def State.leaveStub (s : State) (m : Move) (d : Nat) : State :=
  let fwid := (s.world m.vf).fwid
  let s := (s.setTile m.vf m.tid m.tile fun e => setField (setField (setField e 0 2 3) 4 6 m.dst) 64 36 0).shootDrop
    (shootTile m.vf m.tid m.tile)
  let s := match s.migOf 2 fwid m.tid m.tile with
    | some (i, _) => { s with mig := s.mig.erase i }
    | none => s
  let e : MigEntry := { (default : MigEntry) with
    last := s.us, new := m.dst, dep := d + 1, kind := 1, fwid := fwid, tile := m.tile, tid := m.tid }
  let s := { s with mig := Tab.set default s.mig s.migFree e }
  ({ s with moves := s.moves.filter fun x => !(x.core == m.core && x.ch == m.ch && x.cmd == m.cmd) } : State).retryHeld

/-- One step of a `migrate` command: `next` when the tile in hand has passed step 5. -/
def State.moveStep (s : State) (core ch : Nat) (c : Cmd) (dst : Nat) : State × Stride :=
  let vf := (s.core core).vf
  let die := dieOf core
  let (tid, t0) := match c.src with | .tile t u => (t, u) | _ => (0, 0)
  let tile := t0 + c.next
  let d := match s.migOf 2 (s.world vf).fwid tid tile with | some (_, e) => e.dep | none => 0
  let ask (s : State) (kind dep line : Nat) (data : List Byte) : State :=
    s.ask die 0xC dst vf (tile * 65536 + 64 * line) (migCaddr tid kind dep 0) data .pod false (.line core ch c.id)
  match s.tileWord vf tid tile with
  | none => (s, .fail)
  | some (e, _) =>
    let entry := leBytes 16 e ++ List.replicate 48 0
    match s.moves.find? fun m => m.core == core && m.ch == ch && m.cmd == c.id with
    | none =>
      if fieldOf e 0 2 ≠ 1 ∨ fieldOf e 4 6 ≠ s.me ∨ 4096 ≤ s.migUsed then (s, .fail)
      else (ask { s with moves := s.moves ++ [⟨core, ch, c.id, vf, tid, tile, dst, 1, 0, [], 0⟩] } 0 (d + 1) 0 entry, .wait)
    | some m =>
      let r := s.reqFor die fun r => r.for_ == .line core ch c.id
      let free (s : State) : State := s.modDie die fun y => { y with reqs := y.reqs.filter fun r => r.for_ != .line core ch c.id }
      let fail (s : State) : State × Stride := ((free s).dropMove m, .fail)
      match r with
      | some q =>
        if !q.done then (s, .wait)
        else if q.cause ≠ 0 then fail s
        else
          let s := free s
          if m.step = 1 then
            ((s.setTile vf tid tile fun e => setField e 0 2 2).setMove { m with step := 2 }, .wait)
          else if m.step = 4 then (s.setMove { m with step := 5 }, .wait)
          else (s, .wait)
      | none =>
        if m.step = 2 then
          if s.shootReady (shootTile vf tid tile) true
          then ((s.shootDrop (shootTile vf tid tile)).setMove { m with step := 3 }, .wait) else (s, .wait)
        else if m.step = 3 then
          if m.line < 1024 then
            match s.cipherLine vf tid tile e m.line with
            | none => fail s
            | some bs => (ask (s.setMove { m with line := m.line + 1 }) 1 0 m.line bs, .wait)
          else match m.resend with
            | l :: t =>
              match s.cipherLine vf tid tile e l with
              | none => fail s
              | some bs => (ask (s.setMove { m with resend := t }) 1 0 l bs, .wait)
            | [] => (s.setMove { m with step := 4 }, .wait)
        else if m.step = 4 then (ask s 2 (d + 1) 0 entry, .wait)
        else if m.step ≠ 5 then fail s
        else if s.shootReady (shootTile vf tid tile) false then (s.leaveStub m d, .next)
        else (s, .wait)

/-! ## Rounds (R354, R355) -/

/-- Members that a stub's round still has to teach. -/
def State.roundLeft (s : State) (vf : Nat) (e : MigEntry) : List Nat :=
  (List.range 64).filter fun m => (s.world vf).members.getLsbD m && m != s.me && m != e.new && !e.learn.getLsbD m

/-- A round whose members have all learned ends, once every access under the stub's entry has performed (R286): the entry is present
at NEW, RELEASE goes to NEW, the stub is freed. -/
def State.roundEnd (s : State) (idx vf : Nat) : State :=
  let e := Tab.get default s.mig idx
  if e.rnd = 1 ∧ s.roundLeft vf e = [] ∧ s.shootReady (shootTile vf e.tid e.tile) true then
    let s := (s.setTile vf e.tid e.tile fun w => setField (setField (setField w 0 2 1) 4 6 e.new) 64 36 0).shootDrop
      (shootTile vf e.tid e.tile)
    let s := { s with mig := s.mig.erase idx }
    s.ask 0 0xC e.new vf (e.tile * 65536) (migCaddr e.tid 4 0 0) (List.replicate 64 0) .pod false (.query idx e.new)
  else s

/-- QUERY goes to the members that can be reached and are not asked yet. -/
def State.roundAsk (s : State) (idx vf : Nat) : State :=
  let e := Tab.get default s.mig idx
  let todo := (s.roundLeft vf e).filter fun m => !e.asked.contains m && s.reachable vf m
  let s := { s with mig := Tab.set default s.mig idx { e with asked := e.asked ++ todo } }
  (todo.foldl (fun s m => s.ask 0 0xC m vf (e.tile * 65536) (migCaddr e.tid 3 0 e.new) (List.replicate 64 0) .pod false
    (.query idx m)) s).roundEnd idx vf

/-- A member has acknowledged a query, or refused it: it is left for later then. -/
def State.learned (s : State) (idx m : Nat) (ok : Bool) : State :=
  let e := Tab.get default s.mig idx
  if e.kind ≠ 1 then s
  else
    let e := { e with asked := e.asked.erase m, learn := if ok then e.learn ||| BitVec.ofNat 64 (2 ^ m) else e.learn }
    let s := { s with mig := Tab.set default s.mig idx e }
    match s.vfOf e.fwid with
    | none => s
    | some vf => s.roundEnd idx vf

/-- A quiet stub of DEP 1 begins a round, or a round asks members that have come back (R354). -/
def execStubRoundStart (idx : Nat) (s : State) : Result :=
  let e := Tab.get default s.mig idx
  match s.vfOf e.fwid with
  | none => .next s
  | some vf =>
    if e.kind ≠ 1 then .next s
    else if e.rnd = 1 then .next (s.roundAsk idx vf)
    else if s.selfState ≠ 0 then .next s
    else if e.rnd = 0 ∧ e.dep = 1 ∧ e.last + (s.part (s.world vf).pid).stq ≤ s.us then
      .next ({ s with mig := Tab.set default s.mig idx { e with rnd := 1, began := s.us, asked := [] } }.roundAsk idx vf)
    else .next s

/-- A round that SRT has passed by persists and is reported (R355). -/
def execStubRoundTimeout (idx : Nat) (s : State) : Result :=
  let e := Tab.get default s.mig idx
  match s.vfOf e.fwid with
  | none => .next s
  | some vf =>
    if e.kind = 1 ∧ e.rnd = 1 ∧ e.began + (s.part (s.world vf).pid).srt ≤ s.us then
      .next (({ s with mig := Tab.set default s.mig idx { e with rnd := 2, asked := [] } }.raise "stub round" idx).report
        (s.world vf).pid ⟨"fabric", 0, BitVec.ofNat 64 (0x0C * 16 + e.new * 1024), BitVec.ofNat 64 (e.tile * 65536)⟩)
    else .next s

/-- A supervisor asks for another round of a persisted stub (R355). -/
def execStubRoundRequest (idx : Nat) (s : State) : Result :=
  let e := Tab.get default s.mig idx
  match s.vfOf e.fwid with
  | none => .next s
  | some vf =>
    if e.kind = 1 ∧ e.rnd = 2 ∧ e.dep = 1 then
      .next ({ s with mig := Tab.set default s.mig idx { e with rnd := 1, began := s.us, asked := [] } }.roundAsk idx vf)
    else .next s

/-- A walk of the die ends: everyone that waits for it gets the entry, or meets the fault (R281, R282), and what waited for the walk is
served. Of the walks under way the oldest ends (DESIGN CHOICE, log 120: their times vary, and the spec gives no order). -/
def execTranslationWalk (die : Nat) (s : State) : Result :=
  match (s.die die).walking with
  | [] => .next s
  | w :: q =>
    .next (w.who.foldl (fun s x => if (s.core x.1).vf = w.vf then s.bring w x.1 x.2 else s)
      (s.modDie die fun x => { x with walking := q })).retryHeld

/-! ## Packets -/

/-- TRD (R351). -/
def execTrd (x : Packet) (s : State) : Result := s.receive 6 x (State.serveTrd · x ·)

/-- TWR (R351). -/
def execTwr (x : Packet) (s : State) : Result := s.receive 7 x (State.serveTwr false · x ·)

/-- RELAY (R351). -/
def execRelay (x : Packet) (s : State) : Result := s.receive 0xB x (State.serveTwr true · x ·)

/-- ALLOC (R349). -/
def execMigAlloc (x : Packet) (s : State) : Result := s.receive 0xC x (State.serveAlloc · x ·)

/-- LINE (R349). -/
def execMigLine (x : Packet) (s : State) : Result := s.receive 0xC x (State.serveLine · x ·)

/-- COMMIT (R349). -/
def execMigCommit (x : Packet) (s : State) : Result := s.receive 0xC x (State.serveCommit · x ·)

/-- QUERY (R354). -/
def execMigQuery (x : Packet) (s : State) : Result := s.receive 0xC x (State.serveQuery · x ·)

/-- RELEASE (R354). -/
def execMigRelease (x : Packet) (s : State) : Result := s.receive 0xC x fun _ s => s.serveRelease x

/-- When PEND has reached 0, the requests that wait go to the new owner in issue order (R352). -/
def execOwnerCacheRelease (die idx : Nat) (s : State) : Result :=
  match (s.die die).owners[idx]? with
  | none => .next s
  | some o =>
    if o.pend ≠ 0 then .next s
    else
      let mine (r : Req) : Bool := r.behind && (r.op == 6 || r.op == 7) && (s.world r.vf).fwid == o.fwid &&
        r.caddr % 2 ^ 24 == o.tid && r.addr / 65536 == o.tile
      let s := s.modDie die fun d =>
        { d with reqs := d.reqs.map fun r => if mine r then { r with behind := false, target := o.owner } else r }
      .next ((s.pump die).deliverDone die)

end Sys2Proof.Machine
end

