-- ==== Sys2Proof/Machine/Copy.lean ====
section
/-! DEFINITION. The CP ops and the copy engine (spec/08_copy_and_sync.md, R164 to R174): places and their checks, the
issue of commands, the channel's watermark, and the events that move lines, read records and zero slots. -/

namespace Sys2Proof.Machine

/-! ## Places (R164) -/

/-- The kind of a place word. -/
def placeKind (w : Nat) : Nat := w / 2 ^ 62 % 4

/-- The place that a word names; a remote flat place of this module is a flat place. -/
def State.placeOf (s : State) (w : Nat) : Place :=
  match placeKind w with
  | 0 => .flat (w % 2 ^ 48)
  | 1 => .tile (w / 2 ^ 24 % 2 ^ 24) (w % 2 ^ 24)
  | 2 => .scratch (w % 2 ^ 22)
  | _ => if fieldOf w 48 6 = s.me then .flat (w % 2 ^ 48) else .remote (fieldOf w 48 6) (w % 2 ^ 48)

/-- ALIGN reasons and offending bits of a place word whose transfer has `n` bytes (Table 8-2, R164, R169). A remote flat place that
names the issuing module `me` is of kind 0. -/
def placeFaults (me w n align : Nat) (kinds : List Nat) : List (Nat × Nat) :=
  let k := if placeKind w = 3 ∧ fieldOf w 48 6 = me then 0 else placeKind w
  let a := if k = 2 then w % 2 ^ 22 else w % 2 ^ 48
  let top := if k = 2 then 22 else 48
  let free := if k = 2 then 22 else if placeKind w = 3 then 54 else 48
  (if kinds.contains k && k != 1 && a % align != 0 then [(1, lowBit w 0 22)] else []) ++
  (match lowestSet w free (62 - free) with | some b => [(2, b)] | none => []) ++
  (if k ≠ 1 ∧ 2 ^ top < a + n then [(2, top)] else []) ++
  (if !kinds.contains k || (k == 1 && w / 2 ^ 24 % 2 ^ 24 == 0) then [(3, 0)] else [])

/-- Stops of a place register. -/
def State.placeStops (s : State) (r : BitVec 6) (bit n align : Nat) (kinds : List Nat) : List Stop :=
  if s.clean r then (placeFaults s.me (s.sv r).toNat n align kinds).map fun f => s.alignStop f.1 f.2 bit else []

/-- Whether a place register can be used. -/
def State.goodPlace (s : State) (r : BitVec 6) (n align : Nat) (kinds : List Nat) : Bool :=
  s.clean r && (placeFaults s.me (s.sv r).toNat n align kinds).isEmpty

/-- A remote place outside the pod membership (R164). -/
def State.placeMember (s : State) (r : BitVec 6) (bit : Nat) : List Stop :=
  if !s.clean r then []
  else match s.placeOf (s.sv r).toNat with
    | .remote m _ =>
      if placeKind (s.sv r).toNat = 3 ∧ !s.member s.cur.vf m
      then [s.stop 10 bit (.trap 3 (fieldInfo s.ctx.slot (s.ctx.slot.base + 8 + bit)))] else []
    | _ => []

/-- The probe of a list of units, in order, up to the first that is not translated (R285). -/
def State.probe (s : State) (wr : Bool) (bit : Nat) : List (Nat × Nat) → List Stop
  | [] => []
  | u :: us =>
    match s.xlStops u.1 u.2 wr true bit with
    | [] => State.probe s wr bit us
    | l => l

/-- The probe of a source, then of a destination. -/
def State.probeBoth (s : State) (src dst : Place) (n srcBit dstBit : Nat) : List Stop :=
  match s.probe false srcBit (src.units n) with
  | [] => s.probe true dstBit (dst.units n)
  | l => l

/-! ## Queueing (R165, R174) -/

/-- A channel outside the declared count, and a full channel (R165, R167). -/
def State.chanStops (s : State) (ch : BitVec 3) (bit : Nat) : List Stop :=
  (if s.cur.occ.channels ≤ ch.toNat then [s.occStop (some bit)] else []) ++
  s.holdIf (decide (16 ≤ (s.cur.chan ch.toNat).cmds.length)) 3

/-- A command enters its channel. `late` commands take effect after their segment's stores commit (R184). -/
def State.queue (s : State) (ch : BitVec 3) (late : Bool) (m : Cmd) : State :=
  s.modCur fun c =>
    let m := { m with
      id := c.nextCmd, sig := c.sigOf s.ctx.ws, seqb := c.seqb, waitFor := c.cpWait, seg := c.seg.num, before := c.mark
      behind := if !late ∨ c.atH then c.closedEnd else if c.coupled then farBehind else c.ssbNext }
    ({ c with nextCmd := c.nextCmd + 1 } : Core).modChan ch.toNat fun h => { h with cmds := h.cmds ++ [m] }

/-- A command with nothing filled in. -/
def Cmd.blank (k : CmdKind) (dst src : Place) (bytes : Nat) : Cmd :=
  { id := 0, kind := k, dst := dst, src := src, bytes := bytes, unit := 0, next := 0, acqd := false, acq := false, rel := false
    scope := .core, sig := ⟨0, 0, 0⟩, seqb := ⟨0, 0⟩, started := false, inRec := false, recAt := 0, recNext := 0, waitFor := []
    behind := 0, seg := 0, acks := 0, failed := false, before := ⟨0, 0, 0⟩, last := 0, used := [] }

/-- A copy of class CC with destination a, source b and a byte count. -/
def ccOp (kind : CmdKind) (late : Bool) (dk sk : List Nat) (align : Nat) (bytes : Nat → Nat)
    (bad : Nat → List (Nat × Nat)) (x : ClsCC) (s : State) : Result :=
  let n (s : State) : Nat := bytes (s.sv x.c).toNat
  issueOp (fun s =>
      s.srcStops [.s x.a.toNat 3, .s x.b.toNat 9, .s x.c.toNat 15] ++ s.chanStops x.ch 0 ++
      (if s.clean x.c then (bad (s.sv x.c).toNat).map fun f => s.alignStop f.1 f.2 15 else []) ++
      s.placeStops x.a 3 (n s) align dk ++ s.placeStops x.b 9 (n s) align sk ++ s.placeMember x.a 3 ++
      (if s.clean x.c && (bad (s.sv x.c).toNat).isEmpty && s.goodPlace x.a (n s) align dk && s.goodPlace x.b (n s) align sk
       then s.probeBoth (s.placeOf (s.sv x.b).toNat) (s.placeOf (s.sv x.a).toNat) (n s) 9 3 else []))
    (fun s =>
      let kind := match kind with
        | .reduceOrdered f _ _ => .reduceOrdered f (fieldOf (s.sv x.c).toNat 32 6) (fieldOf (s.sv x.c).toNat 40 6)
        | k => k
      s.queue x.ch late { Cmd.blank kind (s.placeOf (s.sv x.a).toNat) (s.placeOf (s.sv x.b).toNat) (n s) with
        acq := x.acq, rel := x.rel, scope := x.scope }) s

/-- Limits of a byte count (Table 8-3). -/
def byteFaults (n : Nat) : List (Nat × Nat) :=
  (if n % 64 ≠ 0 then [(1, lowBit n 0 6)] else []) ++ (if n < 64 ∨ 2 ^ 24 < n then [(3, 0)] else [])

/-- A reserved part of a count word (R171). -/
def spareFaults (w : Nat) (fields : List (Nat × Nat)) : List (Nat × Nat) :=
  fields.filterMap fun f => (lowestSet w f.1 f.2).map fun b => (2, b)

/-- `tcopy` (R169). -/
def execTcopy (x : ClsCC) (s : State) : Result :=
  ccOp .copy false [0, 1, 2] [0, 1, 2] 65536 (· * 65536)
    (fun n => if n < 1 ∨ 4096 < n then [(3, 0)] else []) x s

/-- `xcopy` (R169). -/
def execXcopy (x : ClsCC) (s : State) : Result := ccOp .copy false [0, 2, 3] [0, 2] 64 id byteFaults x s

/-- `rcp` (R171). -/
def execRcp (x : ClsCC) (s : State) : Result :=
  ccOp (.reduce x.func.toNat) true [0, 2, 3] [0, 2] 64 (· % 2 ^ 25)
    (fun w => spareFaults w [(25, 39)] ++ byteFaults (w % 2 ^ 25)) x s

/-- `rcpo` (R171). -/
def execRcpo (x : ClsCC) (s : State) : Result :=
  ccOp (.reduceOrdered x.func.toNat 0 0) true [0, 2, 3] [0, 2] 64 (· % 2 ^ 25)
    (fun w => spareFaults w [(25, 7), (38, 2), (46, 18)] ++ byteFaults (w % 2 ^ 25) ++
      (if fieldOf w 40 6 < fieldOf w 32 6 then [(3, 0)] else [])) x s

/-- `ccopy` (R170). -/
def execCcopy (x : ClsCC) (s : State) : Result :=
  issueOp (fun s => s.srcStops [.s x.a.toNat 3] ++ s.chanStops x.ch 0 ++ s.addrStops x.a 3 32 48)
    (fun s => s.queue x.ch false { Cmd.blank .chain (.flat 0) (.flat 0) 0 with
      recAt := (s.sv x.a).toNat, acq := x.acq, rel := x.rel, scope := x.scope }) s

/-- The slot table as the op in hand reads it: as it stood before its bundle (R6). -/
def State.slotSeen (s : State) (n : Nat) : SlotEntry :=
  if s.ctx.mode = .alone then s.cur.slot n else Tab.get SlotEntry.drained s.ctx.slots n

/-- A slot that is FILLING or DRAINING holds `tfill`, `tdrain` and `tfree` (R49). -/
def State.slotBusy (s : State) (n : BitVec 6) : List Stop :=
  let e := s.cur.slot n.toNat
  s.holdIf (e.state == .filling || e.state == .draining) 0

/-- What stops `tfill` and `tdrain` (R167, R172). -/
def State.ctStops (s : State) (x : ClsCT) (fill : Bool) : List Stop :=
  s.srcStops [.s x.a.toNat 9] ++ s.chanStops x.ch 0 ++ s.slotBusy x.slot ++ s.placeStops x.a 9 65536 65536 [0, 1] ++
  (if s.goodPlace x.a 65536 65536 [0, 1] then s.probe (!fill) 9 ((s.placeOf (s.sv x.a).toNat).units 65536) else [])

/-- The handle of a source place: that of its tile, or the null handle (R172). -/
def State.placeHandle (s : State) (p : Place) : Handle :=
  match p with
  | .tile t u => match s.look s.ctx.core .issue t u false true with
    | .hit x => x.handle
    | _ => ⟨0, 0⟩
  | _ => ⟨0, 0⟩

/-- `tfill` (R172): the slot is FILLING from its issue, and carries the handle of its source tile (R197), taken again from what arrives
(Table 2-6; log 103). -/
def execTfill (x : ClsCT) (s : State) : Result :=
  issueOp (fun s => s.ctStops x true)
    (fun s =>
      let p := s.placeOf (s.sv x.a).toNat
      let h := s.placeHandle p
      let s := s.modCur fun c => c.modSlot x.slot.toNat fun e =>
        { e with state := .filling, ch := x.ch.toNat, sealed := false, handle := h }
      s.queue x.ch false { Cmd.blank (.fill x.slot.toNat) (.scratch (x.slot.toNat * 65536)) p 65536 with
        acq := x.acq, rel := x.rel, scope := x.scope }) s

/-- `tdrain` (R172); of an EMPTY slot nothing is moved and the signal is made at once (Table 2-6). -/
def execTdrain (x : ClsCT) (s : State) : Result :=
  issueOp (fun s => s.ctStops x false)
    (fun s =>
      let p := s.placeOf (s.sv x.a).toNat
      if (s.slotSeen x.slot.toNat).state = .empty then s.owe 0
      else
        let s := s.modCur fun c => c.modSlot x.slot.toNat fun e => { e with state := .draining, ch := x.ch.toNat }
        s.queue x.ch false { Cmd.blank (.drain x.slot.toNat) p (.scratch (x.slot.toNat * 65536)) 65536 with
          acq := x.acq, rel := x.rel, scope := x.scope }) s

/-- `tfree` (R172). -/
def execTfree (x : ClsCT) (s : State) : Result :=
  issueOp (fun s => s.slotBusy x.slot)
    (fun s =>
      (if (s.slotSeen x.slot.toNat).state = .ready then s.modCur fun c => c.emptySlot x.slot.toNat false else s).owe 0) s

/-- The stops of the first of some checks that finds any. -/
def firstStops (f : Nat → List Stop) : List Nat → List Stop
  | [] => []
  | i :: is => match f i with
    | [] => firstStops f is
    | l => l

/-- `migrate` (R173): the probe checks each tile and the new owner. -/
def execMigrate (x : ClsCM) (s : State) : Result :=
  let n (s : State) : Nat := (s.sv x.b).toNat
  issueOp (fun s =>
      let w := (s.sv x.a).toNat
      let m := (s.sv x.m).toNat
      let tid := w / 2 ^ 24 % 2 ^ 24
      let fwid := (s.world s.cur.vf).fwid
      let one (i : Nat) : List Stop :=
        let t := w % 2 ^ 24 + i
        let refuse (r : Nat) : List Stop := [s.stop 10 0 (.freeze 3 (xfault tid t 0 true false r).info)]
        match s.look s.ctx.core .issue tid t false true with
        | .fault f => if f.info.toNat % 16 = 2 then refuse 11 else s.xlStops tid t false true 0
        | .hit e =>
          if e.state ≠ 1 ∨ e.owner ≠ s.me then refuse 11
          else match s.migOf 2 fwid tid t with
            | some (_, y) => if 2 ≤ y.dep then refuse 12 else []
            | none => []
        | .miss => s.xlStops tid t false true 0
      s.srcStops [.s x.a.toNat 0, .s x.b.toNat 6, .s x.m.toNat 12] ++ s.chanStops x.ch 18 ++ s.placeStops x.a 0 0 1 [1] ++
      (if s.clean x.b && (decide (n s < 1) || decide (64 < n s)) then [s.alignStop 3 0 6] else []) ++
      (if s.clean x.m then (spareFaults m [(6, 58)]).map fun f => s.alignStop f.1 f.2 12 else []) ++
      (if s.goodPlace x.a 0 1 [1] && s.clean x.b && s.clean x.m && decide (1 ≤ n s) && decide (n s ≤ 64) && decide (m < 64) then
        (match firstStops one (List.range (n s)) with
         | [] =>
           if m = s.me then [s.stop 10 12 (.freeze 3 (xfault tid (w % 2 ^ 24) 0 true false 11).info)]
           else if !s.member s.cur.vf m then
             [s.stop 10 12 (.trap 3 (fieldInfo s.ctx.slot (s.ctx.slot.base + 8 + 12)))]
           else []
         | l => l)
       else []))
    (fun s => s.queue x.ch true (Cmd.blank (.migrate (s.sv x.m).toNat) (.flat 0) (s.placeOf (s.sv x.a).toNat) (n s))) s

/-! ## Queries (R174) -/

/-- The snapshot word of a slot-table entry (Table 2-5, R174). -/
def SlotEntry.word (e : SlotEntry) : Word :=
  let st := match e.state with | .empty => 0 | .filling => 1 | .ready => 2 | .draining => 3
  BitVec.ofNat 64 (e.handle.gen % 256 * 2 + e.handle.slot % 4096 * 2 ^ 9 + e.ch % 8 * 2 ^ 23 +
    e.sealed.toNat * 2 ^ 26 + st * 2 ^ 32)

/-- `tstat`. Table 1-5, R168 and R174 give it, `chq`, `chset` and `cpfence` no completion point: their signal is made in the cycle
of issue (DESIGN CHOICE, log 90). -/
def execTstat (x : ClsCQ) (s : State) : Result :=
  issueOp (fun _ => []) (fun s => (s.putS x.s.toNat 1 (s.slotSeen x.slot.toNat).word).owe 0) s

/-- A channel outside the declared count. -/
def State.chanOcc (s : State) (ch : BitVec 3) (bit : Nat) : List Stop :=
  if s.cur.occ.channels ≤ ch.toNat then [s.occStop (some bit)] else []

/-- `chq`; its signal is made in the cycle of issue (DESIGN CHOICE, log 90). -/
def execChq (x : ClsCQ) (s : State) : Result :=
  issueOp (fun s => s.chanOcc x.ch 6)
    (fun s =>
      let h := s.cur.chan x.ch.toNat
      let v := match x.sel.toNat with | 0 => h.base | 1 => h.limit | 2 => h.wmark | _ => h.head
      (s.putS x.s.toNat 1 v).owe 0) s

/-- `chset` (R166); its signal is made in the cycle of issue (DESIGN CHOICE, log 90). -/
def execChset (x : ClsCQ) (s : State) : Result :=
  issueOp (fun s =>
      s.srcStops [.s x.s.toNat 0] ++ s.chanOcc x.ch 6 ++
      (if s.clean x.s then (spareFaults (s.sv x.s).toNat [(48, 15)]).map fun f => s.alignStop f.1 f.2 0 else []) ++
      s.holdIf (!(s.cur.chan x.ch.toNat).cmds.isEmpty) 3)
    (fun s =>
      let v := s.sv x.s
      (s.modCur fun c => c.modChan x.ch.toNat fun h =>
        if x.sel = 0 then { h with base := v, wmark := v, wrote := [] }
        else { h with limit := v, wmark := h.base, wrote := [] }).owe 0) s

/-- `cpfence`; its signal is made in the cycle of issue (DESIGN CHOICE, log 90). -/
def execCpfence (x : ClsCF) (s : State) : Result :=
  issueOp (fun s =>
      if (List.range 8).any fun i => x.mask.getLsbD i && decide (s.cur.occ.channels ≤ i) then [s.occStop (some 0)] else [])
    (fun s =>
      (s.modCur fun c =>
        let ids := ((List.range 8).filter fun i => x.mask.getLsbD i).flatMap fun i => (c.chan i).cmds.map (·.id)
        { c with cpWait := c.cpWait ++ ids.filter fun i => !c.cpWait.contains i }).owe 0) s

/-! ## The watermark (R166) -/

/-- The end of the prefix that pieces reach from `w`; `n` bounds the pieces. -/
def reachFrom (l : List (Nat × Nat)) : Nat → Nat → Nat
  | 0, w => w
  | n + 1, w =>
    match l.find? fun p => decide (p.1 ≤ w) && decide (w < p.2) with
    | some p => reachFrom l n p.2
    | none => w

/-- A channel has written bytes: the pieces within its range count, and WMARK moves to the end of the prefix. -/
def Channel.mark (h : Channel) (scratch : Bool) (a n : Nat) : Channel :=
  let lo := Nat.max (spaceAddr scratch a) h.base.toNat
  let hi := Nat.min (spaceAddr scratch a + n) h.limit.toNat
  if hi ≤ lo then h
  else
    let ws := h.wrote ++ [(lo, hi)]
    let w := reachFrom ws ws.length (Nat.max h.base.toNat h.wmark.toNat)
    { h with wmark := BitVec.ofNat 64 w, wrote := ws.filter fun p => decide (w < p.2) }

/-- Bytes written at a place of this module by channel `ch`. -/
def Core.marked (c : Core) (ch : Nat) (p : Place) (n : Nat) : Core :=
  match p with
  | .flat a => c.modChan ch fun h => h.mark false a n
  | .scratch a => c.modChan ch fun h => h.mark true a n
  | _ => c

/-! ## Ends of a command (R167) -/

/-- A command leaves its channel; what a `cpfence` put behind it may go on. -/
def Core.leave (c : Core) (ch id : Nat) : Core :=
  let free (h : Channel) : Channel := { h with cmds := h.cmds.map fun m => { m with waitFor := m.waitFor.erase id } }
  let c := { c with cpWait := c.cpWait.erase id, ch := c.ch.map fun (x : Nat × Channel) => (x.1, free x.2) }
  c.modChan ch fun h => { h with cmds := h.cmds.filter fun m => m.id != id }

/-- A slot command's slot is READY again (Table 2-6). -/
def Core.slotReady (c : Core) (n : Nat) : Core := c.modSlot n fun e => { e with state := .ready }

/-- The slot of a command that has moved its last byte, or failed: READY, or emptied where a fill failed (Table 2-6). -/
def Core.slotEnd (c : Core) (m : Cmd) (ok : Bool) : Core :=
  match m.kind with
  | .fill n => if ok then c.slotReady n else c.emptySlot n false
  | .drain n => c.slotReady n
  | _ => c

/-- A command leaves its channel, its release having taken effect: complete, with its signal, or failed, its semaphore poisoned
(R167). -/
def State.finishCmd (s : State) (core ch : Nat) (m : Cmd) (ok : Bool) : State :=
  s.modCore core fun c =>
    let c := match m.kind with
      | .chain => if ok then c.modChan ch fun h => { h with head := 0 } else c
      | _ => c
    let c := (c.leave ch m.id).dropRes (.chan ch)
    if ok then c.signal m.sig else c.signalFail m.sig

/-- Replace the command in hand. -/
def State.setCmd (s : State) (core ch : Nat) (m : Cmd) : State :=
  s.modCore core fun c => c.modChan ch fun h => { h with cmds := h.cmds.map fun y => if y.id = m.id then m else y }

/-- A command has moved its last byte, or failed: its slot changes, and its release comes before its signal (R167). -/
def State.endCmd (s : State) (core ch : Nat) (m : Cmd) (ok : Bool) : State :=
  let s := if m.last = 0 then s.modCore core fun c => c.slotEnd m ok else s
  if m.rel && !s.engineReleased core m.before m.scope then s.setCmd core ch { m with last := if ok then 1 else 2 }
  else s.finishCmd core ch m ok

/-- A command completes. -/
def State.completeCmd (s : State) (core ch : Nat) (m : Cmd) : State := s.endCmd core ch m true

/-- A command fails. -/
def State.failCmd (s : State) (core ch : Nat) (m : Cmd) : State := s.endCmd core ch m false

/-! ## One line (R165) -/

/-- The place `o` bytes on. -/
def Place.at (p : Place) (o : Nat) : Place :=
  match p with
  | .flat a => .flat (a + o)
  | .tile t u => .tile t (u + o / 65536)
  | .scratch a => .scratch (a + o)
  | .remote m a => .remote m (a + o)

/-- The tensor, the unit and the offset of the byte `o` bytes into a place that is translated. -/
def Place.unitAt (p : Place) (o : Nat) : Nat × Nat × Nat :=
  match p with
  | .flat a => (0, (a + o) / 65536, (a + o) % 65536)
  | .tile t u => (t, u + o / 65536, o % 65536)
  | _ => (0, 0, 0)

/-- A line's translation in a channel (R281, R282, R285): what it finds, or how the line goes on. -/
def State.chanXl (s : State) (core ch tid unit : Nat) (wr : Bool) : Except (State × Stride) XEntry :=
  match s.look core (.chan ch) tid unit wr false with
  | .hit x => .ok x
  | .fault _ => .error (s, .fail)
  | .miss => .error (s.want core (.chan ch) tid unit wr, .wait)

/-- Requests of a command are forgotten. -/
def State.freeLine (s : State) (core ch id : Nat) : State :=
  s.modDie (dieOf core) fun d => { d with reqs := d.reqs.filter fun r => r.for_ != .line core ch id }

/-- The source line of the command in hand: its bytes and handle, or how it ends. -/
def State.readSource (s : State) (core ch : Nat) (m : Cmd) : State × Except Stride (List Byte × Handle) :=
  let c := s.core core
  match m.src with
  | .scratch a =>
    let a := a + m.next
    let own := match m.kind with | .drain _ => true | _ => false
    if !own && c.slotWaits a then (s, .error .wait)
    else if c.slotSealed a || c.scratchBad a 64 then (s, .error .fail)
    else (s, .ok (c.scratch a 64, m.seqb))
  | .remote .. => (s, .error .fail)
  | p =>
    let (tid, unit, off) := p.unitAt m.next
    match s.chanXl core ch tid unit false with
    | .error (s, e) => (s, .error e)
    | .ok x =>
      -- a slot filled from the flat space takes the null handle (R172)
      let h := if tid ≠ 0 then x.handle else match m.kind with
        | .fill _ => ⟨0, 0⟩
        | _ => m.seqb
      if x.owner = s.me then
        match s.readUnit (dieOf core) true c.vf tid unit x off 64 (some (bulkOf core)) with
        | none => (s, .error .wait)
        | some (s, g) => if g.cause = 0 then (s, .ok (g.bytes, h)) else (s, .error .fail)
      else
        match s.reqFor (dieOf core) fun r => r.for_ == .line core ch m.id && r.op == 6 with
        | none => (s.askTile (dieOf core) 6 c.vf tid unit off 1 x.owner [] m.scope (.line core ch m.id), .error .wait)
        | some r =>
          if !r.done then (s, .error .wait)
          else if r.cause = 0 then (s.freeLine core ch m.id, .ok (r.data, h))
          else (s.freeLine core ch m.id, .error .fail)

/-- CADDR of a reducing-copy line (Table 19-2). -/
def reduceCaddr (bytes func rk last : Nat) : Nat := bytes + func * 2 ^ 25 + rk * 2 ^ 32 + last * 2 ^ 40

/-- What a refused or performed update means to its command. -/
def causeStride (c : Nat) : Stride := if c = 0 then .next else .fail

/-- The line is written, or combined, at its destination. -/
def State.writeDest (s : State) (core ch : Nat) (m : Cmd) (bs : List Byte) (h : Handle) : State × Stride :=
  let c := s.core core
  let die := dieOf core
  let line : ReqFor := .line core ch m.id
  match m.kind, m.dst with
  | .reduce f, .flat a =>
    match s.chanXl core ch 0 ((a + m.next) / 65536) true with
    | .error r => r
    | .ok x =>
      match s.reduceUnder die c.vf (a + m.next) f bs x (some (bulkOf core)) with
      | none => (s, .wait)
      | some (s, k) => (s, causeStride k)
  | .reduce f, .scratch a =>
    match s.reduceScratch core (a + m.next) f bs m.seqb with
    | none => (s, .wait)
    | some (s, k) => (s, causeStride k)
  | .reduce f, .remote t a =>
    let s := s.modDie die fun d => d.dropRemote (s.world c.vf).fwid t (a + m.next) 64
    (s.ask die 9 t c.vf (a + m.next) (reduceCaddr m.bytes f 0 0) bs m.scope false line, .wait)
  | .reduceOrdered f rk last, .remote t a =>
    let s := s.modDie die fun d => d.dropRemote (s.world c.vf).fwid t (a + m.next) 64
    (s.ask die 0xA t c.vf (a + m.next) (reduceCaddr m.bytes f rk last) bs m.scope false line, .wait)
  | .reduceOrdered f rk last, p =>
    let key := match p with | .flat a => a + m.next | .scratch a => scratchKey core (a + m.next) | _ => 0
    -- a line of the flat space is translated by the core's own path before it joins its group (R281, R282)
    match (match p with | .flat a => (s.chanXl core ch 0 ((a + m.next) / 65536) true).map fun _ => () | _ => .ok ()) with
    | .error r => r
    | .ok _ =>
    match s.ordered ⟨c.vf, c.pid, key, m.bytes, last, rk, f, bs, m.seqb, .cmd core ch m.id, 0⟩ with
    | none => (s, .wait)
    | some (s, some 7) => (s, .wait)
    | some (s, some k) => (s, causeStride k)
    | some (s, none) => (s.setCmd core ch { m with acks := 1 }, .wait)
  | .fill _, .scratch a =>
    if (c.slot (a / 65536)).zeroing then (s, .wait)
    else (s.modCore core fun c => (c.scratchWrite (a + m.next) bs h).modSlot (a / 65536) fun e => { e with handle := h }, .next)
  | _, .scratch a =>
    if c.slotWaits (a + m.next) then (s, .wait)
    else (s.modCore core fun c => c.scratchWrite (a + m.next) bs h, .next)
  | _, .remote t a => (s.ask die 8 t c.vf (a + m.next) 0 bs m.scope false line, .wait)
  | _, p =>
    let (tid, unit, off) := p.unitAt m.next
    match s.chanXl core ch tid unit true with
    | .error r => r
    | .ok x =>
      if x.owner ≠ s.me then (s.askTile die 7 c.vf tid unit off 1 x.owner bs m.scope line, .wait)
      else
        let r := s.writeUnit die c.vf tid unit x off bs (some (bulkOf core))
        match r.2 with
        | .done => (r.1, .next)
        | .wait => (s, .wait)
        | .refused => (r.1.refuse c.vf, .fail)
        | .sealed => (r.1, .fail)

/-- One line of a copy moves, or waits for an answer from elsewhere. -/
def State.moveLine (s : State) (core ch : Nat) (m : Cmd) : State × Stride :=
  match s.reqFor (dieOf core) fun r => r.for_ == .line core ch m.id && r.op != 6 with
  | some r =>
    if !r.done then (s, .wait)
    else
      -- a reducing line that another module has combined leaves the issuing die's cache (R236)
      let s := if r.op = 9 ∨ r.op = 0xA
        then s.modDie (dieOf core) fun d => d.dropRemote (s.world r.vf).fwid r.target r.addr r.data.length else s
      (s.freeLine core ch m.id, causeStride r.cause)
  | none =>
    if m.acks = 1 then (s, .wait)
    else if m.acks = 2 then (s.setCmd core ch { m with acks := 0 }, if m.failed then .fail else .next)
    else match s.readSource core ch m with
      | (s, .error e) => (s, e)
      | (s, .ok (bs, h)) => s.writeDest core ch m bs h

/-- The command at the head of a channel may start: those a `cpfence` puts before it have ended, the stores before it have
performed, and so have acquires before it (R174, R184, R241, R244). -/
def Core.mayStart (c : Core) (m : Cmd) : Bool := m.waitFor.isEmpty && c.storesPast m.behind && c.acquired m.before.pt

/-- A command starts: its acquire is performed, a slot command sets the channel's range, a chain its HEAD (R166, R167). -/
def State.startCmd (s : State) (core ch : Nat) (m : Cmd) : State :=
  let s := if m.acq then s.acquire (dieOf core) m.scope else s
  let s := s.modCore core fun c => c.modChan ch fun h =>
    match m.kind with
    | .fill n | .drain n =>
      { h with base := BitVec.ofNat 64 (2 ^ 63 + n * 65536), limit := BitVec.ofNat 64 (2 ^ 63 + n * 65536 + 65536)
               wmark := BitVec.ofNat 64 (2 ^ 63 + n * 65536), wrote := [] }
    | .chain => { h with head := BitVec.ofNat 64 m.recAt }
    | _ => h
  s.setCmd core ch { m with started := true, acqd := true }

/-- A record's bytes are all visible: OWN := 0, and the walk goes on at NEXT (R170). -/
def State.endRecord (s : State) (core ch : Nat) (m : Cmd) : State :=
  let a := m.recAt + 24
  match s.chanXl core ch 0 (a / 65536) true with
  | .error (s, .fail) => s.failCmd core ch m
  | .error (s, _) => s
  | .ok x =>
    let r := s.writeUnit (dieOf core) (s.core core).vf 0 (a / 65536) x (a % 65536) (leBytes 8 m.bytes) (some (bulkOf core))
    match r.2 with
    | .wait => s
    | .done =>
      let s := r.1.modCore core fun c => (c.modChan ch fun h => { h with head := BitVec.ofNat 64 m.recNext }).dropRes (.chan ch)
      if m.recNext = 0 then s.completeCmd core ch m
      else s.setCmd core ch { m with inRec := false, recAt := m.recNext, next := 0, acks := 0 }
    | .refused => (r.1.refuse (s.core core).vf).failCmd core ch m
    | .sealed => r.1.failCmd core ch m

/-- The command in hand has moved a line, or a tile. -/
def State.advanceCmd (s : State) (core ch : Nat) (m : Cmd) : State :=
  match m.kind with
  | .migrate _ =>
    if m.next + 1 < m.bytes then s.setCmd core ch { m with next := m.next + 1 } else s.completeCmd core ch m
  | _ =>
    let at_ := match m.kind with | .drain n => Place.scratch (n * 65536) | _ => m.dst
    let s := s.modCore core fun c => (c.marked ch (at_.at m.next) 64).dropRes (.chan ch)
    let m := { m with next := m.next + 64, acks := 0 }
    let s := s.setCmd core ch m
    if m.next < m.bytes then s else match m.kind with
      | .chain => s.endRecord core ch m
      | _ => s.completeCmd core ch m

/-- A channel moves one line, or one step of a migration (R165, R349); a command that only waits for its release ends when that has
taken effect. -/
def execCopyLine (core ch : Nat) (s : State) : Result :=
  match ((s.core core).chan ch).cmds with
  | [] => .next s
  | m :: _ =>
    if !m.started && !(s.core core).mayStart m then .next s
    else if m.last ≠ 0 then .next (s.endCmd core ch m (m.last == 1))
    else if m.inRec && decide (m.bytes ≤ m.next) then .next (s.endRecord core ch m)
    else
      let s := if m.started then s else s.startCmd core ch m
      let m := { m with started := true, acqd := true }
      let r := match m.kind with
        | .chain => if m.inRec then s.moveLine core ch m else (s, .wait)
        | .migrate dst => s.moveStep core ch m dst
        | _ => s.moveLine core ch m
      .next (match r.2 with
        | .wait => r.1
        | .next => r.1.advanceCmd core ch { m with acks := 0 }
        | .fail => r.1.failCmd core ch m)

/-- A transfer record (Table 8-4): NEXT, DST, SRC and COUNT with OWN, none where R51 refuses it. -/
def recordOf (me : Nat) (bs : List Byte) : Option (Nat × Nat × Nat × Nat × Bool) :=
  let w (i : Nat) : Nat := leVal ((bs.drop (8 * i)).take 8)
  let cnt := w 3 % 2 ^ 25
  if fieldOf (w 3) 25 7 ≠ 0 ∨ fieldOf (w 3) 33 31 ≠ 0 ∨ w 0 % 32 ≠ 0 ∨ 2 ^ 48 ≤ w 0 ∨ !(byteFaults cnt).isEmpty ∨
    !(placeFaults me (w 1) cnt 64 [0, 2, 3]).isEmpty ∨ !(placeFaults me (w 2) cnt 64 [0, 2]).isEmpty
  then none else some (w 0, w 1, w 2, cnt, bitOf (w 3) 32)

/-- The translations of a record's places, checked as it is reached (R170). -/
def State.chanUnits (s : State) (core ch : Nat) : List ((Nat × Nat) × Bool) → Except (State × Stride) Unit
  | [] => .ok ()
  | u :: us => do
    let _ ← s.chanXl core ch u.1.1 u.1.2 u.2
    State.chanUnits s core ch us

/-- What a record read from memory leads to: the end of the chain, a failure, or the move of its bytes. -/
def State.takeTransfer (s : State) (core ch : Nat) (m : Cmd) (g : Got) : State :=
  match (if g.cause = 0 then recordOf s.me g.bytes else none) with
  | none => s.failCmd core ch m
  | some (nxt, d, r, cnt, own) =>
    if !own then s.completeCmd core ch m
    else
      let dst := s.placeOf d
      let src := s.placeOf r
      if (match dst with | .remote k _ => !s.member (s.core core).vf k | _ => false) then s.failCmd core ch m
      else match s.chanUnits core ch ((src.units cnt).map (·, false) ++ (dst.units cnt).map (·, true)) with
        | .error (s, .fail) => s.failCmd core ch m
        | .error (s, _) => s
        | .ok _ => s.setCmd core ch { m with
            inRec := true, recNext := nxt, dst := dst, src := src, bytes := cnt, next := 0, acks := 0
            used := (m.used ++ src.units cnt ++ dst.units cnt).eraseDups }

/-- The engine reads the next record of a chain (R170). -/
def execCcopyRecord (core ch : Nat) (s : State) : Result :=
  match ((s.core core).chan ch).cmds with
  | [] => .next s
  | m :: _ =>
    if m.kind != .chain || m.inRec || m.last != 0 || (!m.started && !(s.core core).mayStart m) then .next s
    else
      let s := if m.started then s else s.startCmd core ch m
      let m := { m with started := true, acqd := true }
      if m.recAt = 0 then .next (s.completeCmd core ch m)
      else .next (match s.chanXl core ch 0 (m.recAt / 65536) false with
        | .error (s, .fail) => s.failCmd core ch m
        | .error (s, _) => s
        | .ok x =>
          let m := { m with used := if m.used.contains (0, m.recAt / 65536) then m.used else m.used ++ [(0, m.recAt / 65536)] }
          let s := s.setCmd core ch m
          match s.readUnit (dieOf core) true (s.core core).vf 0 (m.recAt / 65536) x (m.recAt % 65536) 32 (some (bulkOf core)) with
          | none => s
          | some (s, g) => s.takeTransfer core ch m g)

/-- A slot that entered EMPTY has been zeroed: its holds end (R49). -/
def execSlotZeroed (core slot : Nat) (s : State) : Result :=
  .next (s.modCore core fun c => c.modSlot slot fun e => { e with zeroing := false })

end Sys2Proof.Machine
end

