-- ==== Sys2Proof/Machine/Sched.lean ====
section
/-! DEFINITION. Reams, tasks and the scheduler (spec/11_execution_and_scheduling.md): creating a ream (R210, R58), the
shares and the choice of work (R211 to R214), the start of a task and the resumption of a record (R41, R61, R217),
continuation records (R215), watched words (R216, R218), barriers (R226 to R228), aborts (R220), settings (R209). -/

namespace Sys2Proof.Machine

/-! ## Units (R208) -/

/-- The cores of the unit that a core belongs to. -/
def State.unitOf (s : State) (c : Nat) : List Nat := if (s.core c).coupled then quadCores c else [c]

/-- The dies of a partition. -/
def State.partDies (s : State) (pid : Nat) : List Nat :=
  (List.range 3).filter fun d => (s.part pid).bulkheads.any fun b => b / 8 == d

/-- The index that a core's task runs. -/
def Core.index (c : Core) : Nat := (c.cr 4).toNat % 2 ^ 32

/-! ## Reams (R58, R210) -/

/-- A ream by its number. -/
def State.ream (s : State) (rid : Nat) : Option Ream := s.reams.find? fun r => r.rid == rid

/-- Change a ream. -/
def State.modReam (s : State) (rid : Nat) (f : Ream → Ream) : State :=
  { s with reams := s.reams.map fun r => if r.rid = rid then f r else r }

/-- Whether a ream is live (R210). -/
def State.reamLive (s : State) (r : Ream) : Bool :=
  (r.shares.any fun h => decide (h.ctr < h.end_) || !h.back.isEmpty) || !r.recs.isEmpty || (r.aborted && !r.ored) ||
    s.coreList.any fun c => match (s.core c).task with
      | some t => t.rid == r.rid
      | none => false

/-- Reams that are not live and owe no queue entry are forgotten. -/
def State.sweep (s : State) : State :=
  let l := s.reams.filter fun r => s.reamLive r || r.queue.isSome
  { s with reams := l, bars := s.bars.filter fun b => !b.poisoned || l.any fun r => r.rid == b.rid }

/-- Live reams of a partition. -/
def State.liveReams (s : State) (pid : Nat) : Nat := (s.reams.filter fun r => r.pid == pid && s.reamLive r).length

/-- Whether a 64-bit value is a flat address with an alignment. -/
def flatOk (a align : Nat) : Bool := decide (a < 2 ^ 48) && a % align == 0

/-- A ream descriptor (Table 2-13), none where R51 or R58 refuses it. Shares, number and world are filled in later. -/
def reamOf (bs : List Byte) : Option Ream :=
  let w (i : Nat) : Nat := leVal ((bs.drop (8 * i)).take 8)
  let k := w 1
  let ndep := fieldOf k 56 3
  let waits := (List.range 4).map fun i => (w (6 + 2 * i), w (7 + 2 * i))
  let n := fieldOf k 0 32
  if n = 0 ∨ fieldOf k 32 16 = 0 ∨ 4 < ndep ∨ fieldOf k 59 5 ≠ 0 ∨ w 5 ≠ 0 ∨ w 14 ≠ 0 ∨ w 15 ≠ 0 ∨
    (bitOf k 51 != decide (fieldOf k 52 3 ≠ 0)) ∨ !flatOk (w 2) 64 ∨ !flatOk (w 3) 8 ∨
    (waits.zipIdx).any (fun x => if x.2 < ndep then !flatOk x.1.1 8 else x.1 != (0, 0))
  then none
  else some
    { rid := 0, pid := 0, vf := 0, rda := 0, prog := w 0, n := n, chunk := fieldOf k 32 16, quad := bitOf k 48
      pri := fieldOf k 49 2, dgp := bitOf k 51, maxs := fieldOf k 52 3, roa := bitOf k 55, argb := w 2, cctr := w 3
      budget := w 4, waits := (waits.take ndep).map fun x => ⟨x.1, x.2, false, false⟩
      shares := [], recs := [], aborted := false, ored := false, since := 0, queue := none, passed := [] }

/-- The image that a program handle names for a world (R210, R37). -/
def State.image (s : State) (vf prog : Nat) : Option Image := (s.world vf).images.find? fun i => i.handle == prog

/-- The share of each die (R211). -/
def sharesOf (dies : List Nat) (n : Nat) : List Share :=
  (dies.zipIdx).map fun x => ⟨x.1, n * x.2 / dies.length, n * (x.2 + 1) / dies.length, []⟩

/-- What a wait's word says: met, or aborted by bit 63 (R218). -/
def DepWait.look (d : DepWait) (n : Nat) : Option Bool :=
  if 2 ^ 63 ≤ n then some false else if d.val ≤ n then some true else none

/-- Every wait met and not aborted (R218). -/
def Ream.eligible (r : Ream) : Bool := !r.aborted && r.waits.all (·.met)

/-! ## Memory of records and counters -/

/-- A completion counter changes (R190, R220): an indivisible update of a word, which needs W alone, or a refused write; `none`
while its home cannot be reached. -/
def State.counter (s : State) (vf a : Nat) (f : Nat → Nat) : Option State :=
  if s.flatWaits vf a then none
  else match s.flatEntry vf a true with
    | none => some (s.refuse vf)
    | some x =>
      match s.atomic vf 0 (a / 65536) x (a % 65536) fun o => BitVec.ofNat 64 (f o.toNat) with
      | none => none
      | some (t, _, cause, _) => some (if cause = 0 then t else t.refuse vf)

/-- The eight words of a continuation record, none where it cannot be read. -/
def State.recWords (s : State) (vf a : Nat) : Option (List Nat) :=
  match s.flatBytes vf a 64 with
  | some (_, g) => if g.cause = 0 then some ((List.range 8).map fun i => leVal ((g.bytes.drop (8 * i)).take 8)) else none
  | none => none

/-- Replace a field of a word of a record; while its home is in reset the write is held (R331). -/
def State.recField (s : State) (vf a lo w v : Nat) : State :=
  if s.flatWaits vf a then { s with heldFields := s.heldFields ++ [⟨vf, a, lo, w, v⟩] }
  else match s.flatWord vf a with
    | none => s.seen vf a 8
    | some n => (s.seen vf a 8).hwStore vf a (leBytes 8 (setField n lo w v))

/-- STAT of a record. -/
def State.setStat (s : State) (vf a v : Nat) : State := s.recField vf a 13 3 v

/-- Write a record's words. -/
def State.writeRec (s : State) (vf a : Nat) (ws : List Nat) : State := s.hwStore vf a ((ws.map (leBytes 8)).flatten)

/-- Records that a task about to be suspended has been promised. -/
def State.promised (s : State) (vf a : Nat) : Bool :=
  s.coreList.any fun c => (s.core c).vf == vf && (match (s.core c).closing with
    | some (.record b _) => b == a
    | _ => false)

/-- The free record of a world's pool with the lowest address (R215), or the first that cannot be told while its home is in reset, for
which the search waits (R331). A record whose word cannot be read at all, its page absent or its line sealed or uncorrectable, counts as
not free, since the spec does not say (DESIGN CHOICE, log 117). -/
def State.freeRecord (s : State) (vf : Nat) : Option Nat :=
  let w := s.world vf
  ((List.range w.crpn).map fun i => w.crpb + 64 * i).find? fun a =>
    !s.promised vf a && (s.flatWaits vf a || match s.flatWord vf a with
      | some n => [0, 4, 5].contains (fieldOf n 13 3)
      | none => false)

/-- The search of a pool reads the records that are not promised up to the one it finds; one that fails the ECC is told of (R295). -/
def State.sawPool (s : State) (vf : Nat) : State :=
  let w := s.world vf
  let upto := (s.freeRecord vf).getD (w.crpb + 64 * w.crpn)
  (((List.range w.crpn).map fun i => w.crpb + 64 * i).filter fun a => decide (a ≤ upto) && !s.promised vf a).foldl
    (fun s a => s.seen vf a 8) s

/-! ## Barriers (R226 to R228) -/

/-- The network of an instance: partition, scope, place, id. -/
def Barrier.at (b : Barrier) (pid : Nat) (sc : Scope) (place id : Nat) : Bool :=
  b.pid == pid && b.scope == sc && b.place == place && b.id == id

/-- The home die of an index (R211). -/
def Ream.homeDie (r : Ream) (i : Nat) : Nat := ((r.shares.find? fun h => decide (i < h.end_)).map (·.die)).getD 0

/-- Participants of an instance on this module (Table 11-2). -/
def Ream.participants (r : Ream) (dies : List Nat) (sc : Scope) (place : Nat) : Nat :=
  match sc with
  | .die => (((sharesOf dies r.n).filter fun h => h.die == place).map fun h => h.end_ - h.ctr).sum
  | _ => r.n

/-- The cores that run an index of a ream. -/
def State.runners (s : State) (rid idx : Nat) : List Nat :=
  s.coreList.filter fun c => (s.core c).index == idx && match (s.core c).task with
    | some t => t.rid == rid
    | none => false

/-- The holders of an instance go on; for those off their cores or frozen it is remembered (R255). -/
def State.barGo (s : State) (b : Barrier) (poison : Bool) : State :=
  b.holders.foldl (fun s i =>
    match (s.runners b.rid i).filter fun c =>
        (s.core c).barHold.isSome && (s.core c).run != .stopping && (s.core c).run != .frozen with
    | [] => s.modReam b.rid fun r => { r with passed := r.passed ++ [(Scope.code b.scope, b.id, i, poison)] }
    | cs => cs.foldl (fun s c => s.modCore c fun k => { k with barHold := some (if poison then 3 else 2) }) s)
    s

/-- An instance completes. -/
def State.barDone (s : State) (b : Barrier) : State := (State.barGo { s with bars := s.bars.erase b } b false)

/-- A control packet of a world to every other member: those that are not reachable get it later (R324). -/
def State.tellMembers (s : State) (vf op id step : Nat) : State :=
  let w := s.world vf
  ((List.range 64).filter fun m => w.members.getLsbD m && m != s.me).foldl (fun s m =>
    let x : Sent :=
      { op := op, src := s.me, dst := m, plane := 0, vl := 24, orig := s.me, gen := 0, tag := 0, fwid := w.fwid
        scope := .pod, rel := false, acq := false, addr := 0, caddr := id, data := leBytes 32 step }
    if s.reachable vf m then s.transmit 0 x
    else s.modWorld vf fun w => { w with toSend := w.toSend ++ [x] }) s

/-- The step of a pod barrier id. -/
def State.step_ (s : State) (vf id : Nat) : Nat := Tab.get 0 (s.world vf).steps id

/-- A pod instance ends: the step advances, and the BARs that came for it are forgotten (R323). A BPOI that is held for the instance that
begins poisons it at once, so that the step advances again (R324); the tasks here that arrive at it later are poisoned then. -/
def State.podStep (s : State) (vf id : Nat) : State :=
  let n := s.step_ vf id
  s.modWorld vf fun w =>
    let k := if w.poisonIn.contains (id, n + 1) then n + 1 else n
    { w with steps := Tab.set 0 w.steps id (k + 1), barIn := w.barIn.filter fun x => !(x.1 == id && decide (x.2.1 ≤ k)) }

/-- An instance is poisoned (R228): its holders go on, and it stands, serving nothing but the arrivals of its ream that are still to
come, until all of them have come. -/
def State.barSpoil (s : State) (b : Barrier) : State :=
  let full := match s.ream b.rid with
    | some r => decide (r.participants (s.partDies r.pid) b.scope b.place ≤ b.holders.length)
    | none => true
  let rest := s.bars.erase b
  State.barGo { s with bars := if full then rest else rest ++ [{ b with poisoned := true, barSent := true }] } b true

/-- BPOI of a pod id goes to every other member, and its step advances (R324). -/
def State.podPoison (s : State) (vf id : Nat) : State := (s.tellMembers vf 0xE id (s.step_ vf id)).podStep vf id

/-- An instance is poisoned: on the peers as well when it is a pod instance (R228, R324). -/
def State.barPoison (s : State) (b : Barrier) : State :=
  if b.poisoned then s
  else
    let s := s.barSpoil b
    match b.scope, s.ream b.rid with
    | .pod, some r => s.podPoison r.vf b.id
    | _, _ => s

/-- Every instance that a test picks is poisoned. -/
def State.poisonBars (s : State) (p : Barrier → Bool) : State := (s.bars.filter p).foldl State.barPoison s

/-- The pod ids of a world of which an instance stands here. -/
def State.podIds (s : State) (vf : Nat) : List Nat :=
  (s.bars.filter fun b => b.scope == .pod && !b.poisoned && match s.ream b.rid with | some r => r.vf == vf | none => false).map (·.id)

/-- The pod instances of a world at which no task has arrived here are poisoned on the peers (R228; log 93); `here` were poisoned with
their reams. -/
def State.poisonPeers (s : State) (vf : Nat) (here : List Nat) : State :=
  if (s.world vf).fabric then ((List.range 16).filter fun i => !here.contains i).foldl (fun s i => s.podPoison vf i) s else s

/-- Whether BAR has come from every other member for the current step. -/
def State.podIn (s : State) (vf id : Nat) : Bool :=
  let w := s.world vf
  (List.range 64).all fun m => !w.members.getLsbD m || m == s.me || w.barIn.contains (id, s.step_ vf id, m)

/-- All local arrivals of a pod instance are in: BAR goes out once (R323). -/
def State.podSend (s : State) (b : Barrier) (r : Ream) : State :=
  if b.scope = .pod ∧ !b.barSent ∧ r.participants [] .pod 0 ≤ b.holders.length then
    ({ s with bars := s.bars.map fun x => if x = b then { x with barSent := true } else x } : State).tellMembers r.vf 0xD b.id
      (s.step_ r.vf b.id)
  else s

/-- The place of an instance (Table 11-2). -/
def barPlace (sc : Scope) (home : Nat) : Nat := match sc with | .die => home | _ => 0

/-- A task arrives at a barrier (R226, R227); an arrival made before stays counted (R255). The unit's cores hold until
the instance completes; where the id serves another ream they hold without having arrived. -/
def State.barArrive (s : State) (lead : Nat) (sc : Scope) (id : Nat) : State :=
  let c := s.core lead
  let hold (s : State) (n : Nat) : State :=
    (s.unitOf lead).foldl (fun s k => s.modCore k fun k => { k with barHold := some n }) s
  match c.task.bind fun t => s.ream t.rid with
  | none => hold s 2
  | some r =>
    let i := c.index
    let place := barPlace sc (r.homeDie i)
    let put (b b' : Barrier) : State := { s with bars := s.bars.map fun x => if x = b then b' else x }
    let join (b : Barrier) : Barrier := { b with holders := if b.holders.contains i then b.holders else b.holders ++ [i] }
    let fresh : Barrier := ⟨r.pid, sc, place, id, r.rid, [i], false, false⟩
    match r.passed.find? fun x => x.1 == Scope.code sc && x.2.1 == id && x.2.2.1 == i with
    | some x =>
      hold (s.modReam r.rid fun r => { r with passed := r.passed.erase x }) (if x.2.2.2 then 3 else 2)
    | none =>
      if sc = .quad then hold s (if r.aborted then 3 else 2)
      else match s.bars.find? fun b => b.at r.pid sc place id && b.poisoned && b.rid == r.rid with
      | some b =>
        -- those that came before have gone on; the instance stands until all have come (R228)
        let b' := join b
        let s := if r.participants (s.partDies r.pid) sc place ≤ b'.holders.length then { s with bars := s.bars.erase b } else put b b'
        hold s 3
      | none =>
        match s.bars.find? fun b => b.at r.pid sc place id && !b.poisoned with
        | some b =>
          if b.rid ≠ r.rid then (if r.aborted then hold s 3 else s)
          else (hold (put b (join b)) 1).podSend (join b) r
        | none =>
          let s := { s with bars := s.bars ++ [fresh] }
          match if sc = .pod then (s.world r.vf).poisonIn.find? fun x => x.1 == id && decide (x.2 < s.step_ r.vf id) else none with
          | some x =>
            -- a BPOI has ended this instance with no arrival here
            (hold (s.modWorld r.vf fun w => { w with poisonIn := w.poisonIn.erase x }) 1).barSpoil fresh
          | none => if r.aborted then (hold s 1).barPoison fresh else (hold s 1).podSend fresh r

/-- An instance completes after its last arrival (R226, R323). -/
def execBarrierComplete (idx : Nat) (s : State) : Result :=
  match s.bars[idx]? with
  | none => .next s
  | some b =>
    match s.ream b.rid with
    | none => .next { s with bars := s.bars.erase b }
    | some r =>
      if b.poisoned then .next s
      else
      let full := decide (r.participants (s.partDies r.pid) b.scope b.place ≤ b.holders.length)
      if b.scope = .pod then
        if full && b.barSent && s.podIn r.vf b.id then .next ((s.barDone b).podStep r.vf b.id) else .next s
      else if full then .next (s.barDone b) else .next s

/-! ## Ends of tasks (R212, R220) -/

/-- A core gives up what it has in flight; replies to its tags are dropped (R190, R181). -/
def State.discard (s : State) (c : Nat) : State :=
  (s.modCore c fun k =>
    { k with pend := [], hpend := [], loads := [], hloads := [], pvec := [], owed := [], wres := [], late := [], qNew := [], zstat := [] }).abandon
    (dieOf c) fun r => match r.for_ with
      | .load k _ => k == c
      | _ => false

/-- A core leaves service (R294): it enters the quarantine list under the number of that event (R264, R297), and holds nothing any more;
its mismatch count stands. That its drain (R225) happens at once is the model's choice (DESIGN CHOICE, log 126). -/
def State.quarantineCore (s : State) (c : Nat) : State :=
  let k := s.core c
  let n := s.seqNo
  let s := (s.raise "quarantine" c).setCore c
    { Core.drained with run := .quarantined, mism := k.mism, nextCmd := k.nextCmd, loadSeq := k.loadSeq, portNext := k.portNext }
  if s.quarantine.contains c then s
  else State.writeLists { s with quarantine := s.quarantine ++ [c], quarSeq := s.quarSeq ++ [n] }

/-- A core is free: no task, nothing of the last one in hand; one whose freeze is a quarantine leaves service instead (R294). -/
def State.freeCore (s : State) (c : Nat) : State :=
  if (s.core c).freeze.any (·.retire) then (s.discard c).quarantineCore c
  else
  (s.discard c).modCore c fun k =>
    { k with
      run := .free, task := none, closing := none, early := false, freeze := none, stopReq := none, holding := false
      needSeg := false, fencing := none, barHold := none, keyHold := none, tinvHold := none, rplHold := false, away := false
      bus := none, charge := 0, hCount := 0, seg := { k.seg with opened := false, check := none, retry := [], waited := [], signals := [] } }

/-- Indices not started go to the return list of their home die (R212). -/
def State.giveBack (s : State) (rid : Nat) (is : List Nat) : State :=
  s.modReam rid fun r =>
    if r.aborted then r
    else { r with shares := r.shares.map fun h =>
      { h with back := (List.range (h.end_)).filter fun i =>
          h.back.contains i || (is.contains i && r.homeDie i == h.die) } }

/-- An aborted ream none of whose tasks runs puts 2^63 into its counter, once (R220); while the counter's home cannot be reached the
abort is still to be finished. -/
def State.orAborted (s : State) (rid : Nat) : State :=
  match s.ream rid with
  | none => s
  | some r =>
    if r.aborted ∧ !r.ored ∧ !(s.coreList.any fun c => match (s.core c).task with | some t => t.rid == rid | none => false) then
      match s.counter r.vf r.cctr fun n => n ||| 2 ^ 63 with
      | some s => s.modReam rid fun r => { r with ored := true }
      | none => s
    else s

/-- The unit of a task that has ended otherwise than by `halt` is free. -/
def State.endUnit (s : State) (lead : Nat) (back : Bool) : State :=
  match (s.core lead).task with
  | none => s
  | some t =>
    let s := if back then s.giveBack t.rid t.held else s
    ((s.unitOf lead).foldl State.freeCore s |>.orAborted t.rid).sweep

/-- An abort of a ream (R220): indices and records go, its barriers are poisoned, its running tasks end at their next SEG
bundle, and the counter takes 2^63 when they have. -/
def State.abortReam (s : State) (rid : Nat) : State :=
  match s.ream rid with
  | none => s
  | some r =>
    if r.aborted then s.orAborted rid
    else
      let s := s.modReam rid fun r => { r with aborted := true, shares := r.shares.map fun h => { h with ctr := h.end_, back := [] } }
      -- records that wait or are ready take STAT 4; those of running tasks do when the tasks end
      let running : List Nat := s.coreList.filterMap fun c => match (s.core c).task with
        | some t => if t.rid = rid then t.crec else none
        | none => none
      let dead := r.recs.filter fun a => !running.contains a
      let s := dead.foldl (fun s a => s.setStat r.vf a 4) s
      let s := s.modReam rid fun r => { r with recs := r.recs.filter fun a => running.contains a }
      let s := { s with watches := s.watches.filter fun w => match w with
        | .record _ _ _ _ k _ => k != rid
        | .dep _ _ k _ => k != rid
        | .wait .. => true }
      let s := (List.range 3).foldl (fun s d => s.modDie d fun x => { x with ready := x.ready.filter fun y => y.rid != rid }) s
      let s := s.coreList.foldl (fun s c => s.modCore c fun k =>
        { k with task := k.task.map fun t => if t.rid = rid then { t with abort := true, held := [] } else t }) s
      let s := s.poisonBars fun b => b.rid == rid
      (s.orAborted rid).sweep

/-- A running task of an aborted ream ends: its record takes STAT 4 (R220). -/
def State.endAborted (s : State) (lead : Nat) : State :=
  match (s.core lead).task with
  | none => s
  | some t =>
    let vf := (s.core lead).vf
    let s := match t.crec with
      | none => s
      | some a => (s.setStat vf a 4).modReam t.rid fun r => { r with recs := r.recs.erase a }
    s.endUnit lead false

/-- A ream is aborted (R220). -/
def execReamAbort (rid : Nat) (s : State) : Result := .next (s.abortReam rid)

/-! ## Creation (R210, R218) -/

/-- A wait that has not been met is watched. -/
def State.watchDeps (s : State) (r : Ream) : State :=
  { s with watches := s.watches ++ ((r.waits.zipIdx).filter fun x => !x.1.met).map fun x => .dep r.vf x.1.addr r.rid x.2 }

/-- What has been seen of a ream's waits, each met, aborted or neither: an aborted wait aborts the ream, or counts as met under ROA
(R218). A wait that is met stays met, whatever its word reads later: R218 does not say (DESIGN CHOICE, log 91). `us` is when the
words stood so. -/
def State.depsSeen (s : State) (rid us : Nat) (seen : List (Option Bool)) : State :=
  match s.ream rid with
  | none => s
  | some r =>
    if !r.roa && (r.waits.zip seen).any fun x => !x.1.met && x.2 == some false then s.abortReam rid
    else
      let was := r.eligible
      let s := s.modReam rid fun r => { r with waits := (r.waits.zip seen).map fun x => { x.1 with met := x.1.met || x.2.isSome } }
      if was then s else s.modReam rid fun r => { r with since := us }

/-- The waits of a ream are looked at as it is created (R218); one whose home is in reset is looked at when the reset is over (R331). A
word that fails the ECC is told of (R295). -/
def State.lookDeps (s : State) (rid : Nat) : State :=
  match s.ream rid with
  | none => s
  | some r =>
    let look := r.waits.map fun d => (s.flatWord r.vf d.addr).bind d.look
    let blind := r.waits.map fun d => !d.met && s.flatWaits r.vf d.addr
    let s := r.waits.foldl (fun s d => s.seen r.vf d.addr 8) s
    (s.modReam rid fun r => { r with waits := (r.waits.zip blind).map fun x => { x.1 with blind := x.2 } }).depsSeen rid s.us look

/-- What was held for a bulkhead in reset goes on when the reset is over (R331): fields of records, waits not looked at yet, and the
counters of aborted reams. -/
def State.afterReset (s : State) : State :=
  let l := s.heldFields
  let s := l.foldl (fun s x => s.recField x.vf x.addr x.lo x.w x.val) { s with heldFields := [] }
  s.reams.foldl (fun s r =>
    let s := if r.waits.any (·.blind) then s.lookDeps r.rid else s
    s.orAborted r.rid) s |>.sweep

/-- A ream of a world is created from an accepted descriptor. -/
def State.createReam (s : State) (vf rda : Nat) (r : Ream) (queue : Option (Nat × Nat)) : State :=
  let pid := (s.world vf).pid
  let rid := (s.reams.map (·.rid)).foldl Nat.max s.nextRid + 1
  let r := { r with rid := rid, pid := pid, vf := vf, rda := rda, shares := sharesOf (s.partDies pid) r.n, since := s.us, queue := queue }
  let s := { s with reams := s.reams ++ [r], nextRid := rid }
  let s := s.lookDeps rid
  match s.ream rid with
  | some r => s.watchDeps r
  | none => s

/-- What the bytes of a descriptor say: their cause, and the ream that they describe for a world (R210). -/
def reamFrom (vf : Nat) (x : State × Got) : State × Nat × Option Ream :=
  (x.1, x.2.cause, (reamOf x.2.bytes).filter fun r => (x.1.image vf r.prog).isSome)

/-- The descriptor at a flat address, read by the scheduler. -/
def State.readReam (s : State) (vf a : Nat) : Option (State × Nat × Option Ream) := (s.flatBytes vf a 128).map (reamFrom vf)

/-! ## Watched words (R216) -/

/-- A record is ready on a die from a time on (R216). -/
def State.makeReady (s : State) (vf a die rid : Nat) (quad : Bool) (us tick : Nat) : State :=
  let pri := match s.ream rid with | some r => r.pri | none => 0
  ((s.setStat vf a 2).recField vf a 22 2 pri).modDie die fun x => { x with ready := x.ready ++ [⟨vf, a, quad, us, tick, pri, rid, us⟩] }

/-- The home die looks at a word as a write left it, for one that watches it: a record wakes, a wait of a ream is met or aborted, the
`waitc` of a core is met (R180, R216, R218). -/
def State.lookWrite (s : State) (x : Dirty) : State :=
  match x.who with
  | .record vf _ a die rid quad =>
    match s.recWords vf a with
    | none => s
    | some ws =>
      if ws.getD 3 0 ≤ x.val.toNat ∧ s.watches.contains x.who
      then { s.makeReady vf a die rid quad x.us x.tick with
        watches := s.watches.erase x.who, dirty := s.dirty.filter fun y => y.who != x.who } else s
  | .dep _ _ rid i =>
    match s.ream rid with
    | none => { s with watches := s.watches.erase x.who }
    | some r =>
      let seen := r.waits.mapIdx fun k d => if k = i then d.look x.val.toNat else none
      let s := s.depsSeen rid x.us seen
      if (seen.getD i none).isSome then { s with watches := s.watches.erase x.who } else s
  | .wait vf a c v _ =>
    if v ≤ x.val.toNat then { s with watches := s.watches.map fun w => if w = x.who then .wait vf a c v true else w } else s

/-- Whether the record that watches a word cannot be reached yet, so that the write is looked at later (R331). -/
def State.lookWaits (s : State) (x : Dirty) : Bool :=
  match x.who with
  | .record vf _ a _ _ _ => s.flatWaits vf a
  | _ => false

/-- The home die re-reads a watched word, as the oldest write not yet looked at left it: no write goes unseen (R216). -/
def execWatchedWordReread (phys : Nat) (s : State) : Result :=
  match s.dirty.find? fun x => x.phys == phys && !s.lookWaits x with
  | none => .next s
  | some x => .next (State.lookWrite { s with dirty := s.dirty.erase x } x)

/-! ## Starting and resuming (R41, R61, R152) -/

/-- An image takes its place in instruction and constant memory, with the world's handler image at its end (R37, R225), and the
routine pack in the microprogram store (R133). -/
def Core.place (c : Core) (i : Image) (h : Option Image) : Core :=
  let hb := (h.map (·.bundles)).getD []
  let put (m : Tab (BitVec 512)) (at_ : Nat) (l : List (BitVec 512)) : Tab (BitVec 512) :=
    (l.zipIdx).foldl (fun m x => Tab.set 0 m (at_ + x.2) x.1) m
  { c with
    imem := put (put [] 0 i.bundles) (8192 - hb.length) hb, imemBad := []
    imgLen := i.bundles.length, imgProg := i.handle, hLen := hb.length, store := List.range 20
    cmem := Memory.write [] 0 i.consts, occ := i.occ }

/-- The task registers after a start or a resumption, before what each of them sets (Table 2-1, R41, R61). -/
def Core.freshRegs (c : Core) : Core :=
  { c with
    s := [], sPoi := [], p := 1, v := [], vPoi := [], k := [], mp := []
    bad := c.bad.filter fun b => match b with | .acc _ => true | _ => false }

/-- The control registers that a start and a resumption set: TASK, REAMD, ARGP, BUDGET, DEGRADE, PL, CPL and RANK. -/
def Core.taskRegs (c : Core) (r : Ream) (idx planes rank : Nat) : Core :=
  let deg := if r.dgp then Nat.min planes r.maxs + 8 + r.maxs * 16 else 0
  let st := (c.cr 0).toNat
  let st := setField (setField (setField st 2 1 0) 3 1 r.quad.toNat) 4 2 (if r.quad then rank else 0)
  (((((c.setCr 4 (BitVec.ofNat 64 idx)).setCr 5 (BitVec.ofNat 64 r.rda)).setCr 6 (BitVec.ofNat 64 r.argb)).setCr 1
    (BitVec.ofNat 64 r.budget)).setCr 0xF (BitVec.ofNat 64 deg)).setCr 0 (BitVec.ofNat 64 st)

/-- Nothing of a former run of the core is left in its pipeline; a stop asked of its unit meanwhile stands (R251). -/
def Core.quiet (c : Core) : Core :=
  { c with
    pend := [], hpend := [], loads := [], hloads := [], pvec := [], owed := [], late := [], wres := [], qNew := [], zstat := []
    holding := false, needSeg := false, fencing := none, badStream := none, barHold := none, keyHold := none, tinvHold := none, rplHold := false
    early := false, closing := none, freeze := none, hCount := 0, charge := 0, bubble := 0, away := false
    bus := none, run := .running
    seg := ⟨c.seg.num + 1, false, none, [], [], []⟩ }

/-- The streams that an image loads at task start (R152); the others are idle. A refused descriptor stops the first bundle
(Table 2-2); `badStream` holds its offending bit. -/
def Core.imageStreams (c : Core) (i : Image) : Core :=
  i.streams.foldl (fun c x =>
    let d : BitVec 256 := BitVec.ofNat 256 (leVal (c.cmem.bytes x.2 32))
    match SDesc.offence d with
    | some b => { c with badStream := c.badStream <|> some b }
    | none => c.modStream x.1 fun _ => { Stream.idle with desc := d, loaded := true }) { c with q := [] }

/-- A core at the first bundle of a task index (R41, R123). -/
def Core.begin (c : Core) (i : Image) (r : Ream) (idx planes rank : Nat) : Core :=
  let c := (c.freshRegs.taskRegs r idx planes rank).quiet
  let c := { c with
    acc := [], accw := [], ovf := [], sat := [], gix := 0, routine := none, bad := [], pc := 0
    s := [(1, BitVec.ofNat 64 idx), (2, BitVec.ofNat 64 r.argb), (3, BitVec.ofNat 64 r.n)].filter fun x => x.2 != 0 }
  let c := ((List.range 16).foldl (fun c q => c.setStatus (16 + q) false) c).setStatus 0 false
  c.imageStreams i

/-- Whether an argument block is accepted: its 64 handles have no bit above 23 (R59). One that cannot be read, its page absent or a line
sealed or uncorrectable, counts as refused, since the spec does not say (DESIGN CHOICE, log 92). -/
def State.argOk (s : State) (vf a : Nat) : Bool :=
  match s.flatBytes vf a 256 with
  | some (_, g) => g.cause == 0 && (List.range 64).all fun i => g.bytes.getD (4 * i + 3) 0 == 0
  | none => false

/-- The first held index of a unit's task starts; where its image is gone or its argument block is refused the task
retires aborted (Table 2-2, R220). The acquire at `.pkg` comes before its first bundle (Table 13-4). -/
def execTaskStart (core : Nat) (s : State) : Result :=
  let lead := if (s.core core).coupled then quadLead core else core
  let c := s.core lead
  match c.task with
  | none => .next s
  | some t =>
    if c.run ≠ .ending ∨ c.closing.isSome then .next s
    -- a diapause starts no further index (R361)
    else if (s.unitOf lead).any fun k => (s.core k).stopReq.any (·.cause == 11) then .next (s.endUnit lead true)
    else match t.held, s.ream t.rid with
      | i :: rest, some r =>
        match s.image r.vf r.prog with
        | none => .next ((s.abortReam t.rid).endUnit lead false)
        | some img =>
          if s.flatWaits r.vf r.argb then .next s
          else if !s.argOk r.vf r.argb then .next (((s.seen r.vf r.argb 256).abortReam t.rid).endUnit lead false)
          else
            let planes := (s.bulk (bulkOf lead)).planes
            let h := (s.world r.vf).handler
            let s := (s.unitOf lead).foldl (fun s k => s.modCore k fun x =>
              { (x.place img h).begin img r i planes (k % 4) with task := some { t with held := rest, crec := none } }) s
            .next (s.acquire (dieOf lead) .pkg)
      | _, _ => .next (s.endUnit lead false)

/-- Whether a record is accepted (R51, R60): reserved fields zero, NLIVE at most 4, WKIND at most 1. -/
def recOk (ws : List Nat) : Bool :=
  let w0 := ws.getD 0 0
  let w2 := ws.getD 2 0
  decide (fieldOf w0 16 3 ≤ 4) && decide (fieldOf w0 19 3 ≤ 1) && decide (fieldOf w0 13 3 ≤ 5) && fieldOf w2 13 3 == 0 &&
    fieldOf w2 61 3 == 0

/-- A core that resumes a record: PC, TASK, REAMD and the live scalars (R61). -/
def Core.resume (c : Core) (r : Ream) (ws : List Nat) (planes rank : Nat) : Core :=
  let w0 := ws.getD 0 0
  let n := fieldOf w0 16 3
  let c := (c.freshRegs.taskRegs r (fieldOf (ws.getD 1 0) 0 32) planes rank).quiet
  { c with
    pc := fieldOf w0 0 13
    creg := Tab.set 0 c.creg 5 (BitVec.ofNat 64 (fieldOf w0 24 40 * 256))
    s := ((List.range n).map fun i => (i + 1, BitVec.ofNat 64 (ws.getD (4 + i) 0))).filter fun x => x.2 != 0 }

/-! ## The choice (R213, R214) -/

/-- Whether the work of a partition stands still: in a diapause, shed, or in retention (R361, R365, R366). -/
def State.halted (s : State) (pid : Nat) : Bool := s.mon.full || (s.part pid).shed || (s.part pid).retained

/-- Whether a unit is free (R208): its cores are, and belong to one world (R225). -/
def State.unitFree (s : State) (lead : Nat) : Bool :=
  (s.unitOf lead).all fun c =>
    let k := s.core c
    k.run == .free && k.task.isNone && !s.halted k.pid && (s.world k.vf).exists_ && !(s.world k.vf).draining && !s.quarantine.contains c &&
      !(s.bulk (bulkOf c)).inReset && !(s.bulk (bulkOf c)).absent && (s.bulk (bulkOf c)).pid == some k.pid &&
      k.vf == (s.core lead).vf && k.pid == (s.core lead).pid

/-- Effective priority of a ream: the AGEs completed since raise it (R214). -/
def State.reamPriority (s : State) (r : Ream) : Nat := Nat.min 3 (r.pri + (s.us - r.since) / (s.part r.pid).age)

/-- Effective priority of a ready record (R214): its PRI, which rises as it completes AGEs. -/
def State.recordPriority (_ : State) (x : ReadyRec) : Nat := x.pri

/-- The largest of a list, 0 of an empty one. -/
def maxOf (l : List Nat) : Nat := l.foldl Nat.max 0

/-- The record that a unit takes among those of the highest priority: longest ready, then lowest address. -/
def oldestRecord : List ReadyRec → Option ReadyRec
  | [] => none
  | x :: xs => match oldestRecord xs with
    | none => some x
    | some y => if y.tick < x.tick ∨ (y.tick = x.tick ∧ y.addr < x.addr) then some y else some x

/-- Indices taken from a ream on a die: the return list first, then the counter (R211, R212). -/
def Ream.take (r : Ream) (d : Nat) : List Nat × Ream :=
  match r.shares.find? fun h => h.die == d with
  | none => ([], r)
  | some h =>
    let put (h' : Share) : Ream := { r with shares := r.shares.map fun x => if x.die = d then h' else x }
    if h.back ≠ [] then (h.back.take r.chunk, put { h with back := h.back.drop r.chunk })
    else ((List.range (Nat.min (h.ctr + r.chunk) h.end_ - h.ctr)).map (h.ctr + ·), put { h with ctr := h.ctr + r.chunk })

/-- Whether a ream has indices on a die. -/
def Ream.hasOn (r : Ream) (d : Nat) : Bool := r.shares.any fun h => h.die == d && (!h.back.isEmpty || decide (h.ctr < h.end_))

/-- A record that is refused when it is taken: STAT 4, and its ream is aborted (R217). -/
def State.refuseRecord (s : State) (x : ReadyRec) : State :=
  ((s.setStat x.vf x.addr 4).modReam x.rid fun r => { r with recs := r.recs.erase x.addr }).abortReam x.rid

/-- A unit takes a record from a ready list and resumes it (R61, R217). One that names a save area is taken up by the restore of
R261. A record that cannot be read, its page absent or a line of it sealed or uncorrectable, counts as refused, since the spec does not
say (DESIGN CHOICE, log 116); one whose home is in reset is waited for (R331). -/
def State.takeRecord (s : State) (lead d : Nat) (x : ReadyRec) : State :=
  if s.flatWaits x.vf x.addr then s else
  let ws := s.recWords x.vf x.addr
  let s := (s.seen x.vf x.addr 64).modDie d fun y => { y with ready := y.ready.erase x }
  match ws, s.ream x.rid with
  | some ws, some r =>
    match s.image r.vf r.prog with
    | none => s.refuseRecord x
    | some img =>
      if !recOk ws then s.refuseRecord x
      else
        let s := (s.recField x.vf x.addr 22 2 r.pri).setStat x.vf x.addr 3
        let planes := (s.bulk (bulkOf lead)).planes
        let h := (s.world r.vf).handler
        let s := (s.unitOf lead).foldl (fun s k => s.modCore k fun c =>
          { (c.place img h).resume r ws planes (k % 4) with task := some ⟨r.rid, some x.addr, [], false⟩ }) s
        s.acquire (dieOf lead) .pkg
  | _, _ => s.refuseRecord x

/-- Whether a record is of a unit's world: one whose WORLD differs from the core's is never pulled (R61). -/
def State.recordMine (s : State) (c : Core) (x : ReadyRec) : Bool :=
  match s.recWords x.vf x.addr with
  | some ws => fieldOf (ws.getD 2 0) 0 13 == (c.cr 2).toNat % 2 ^ 13
  | none => true

/-- What a free unit would take on a die: a record or a ream (R213). -/
def State.choice (s : State) (lead d : Nat) : Option (ReadyRec ⊕ Ream) :=
  let c := s.core lead
  let rs := (s.die d).ready.filter fun x => x.vf == c.vf && x.quad == c.coupled && s.recordMine c x
  let ms := s.reams.filter fun r => r.vf == c.vf && r.pid == c.pid && r.quad == c.coupled && r.eligible && r.hasOn d
  let p := Nat.max (maxOf (rs.map s.recordPriority)) (maxOf (ms.map s.reamPriority))
  match oldestRecord (rs.filter fun x => s.recordPriority x == p) with
  | some x => some (.inl x)
  | none => match ms.find? fun r => s.reamPriority r == p with
    | some r => some (.inr r)
    | none => none

/-! ## Aging, settings (R209, R214) -/

/-- A ready record of a die completes the AGEs that are due: its PRI rises by 1 with each, up to 3, and is written (R214). -/
def State.ageRecord (s : State) (die : Nat) (x : ReadyRec) : State :=
  let age := (s.part (s.world x.vf).pid).age
  let n := Nat.min (3 - x.pri) ((s.us - x.ageing) / age)
  if n = 0 then s
  else (s.recField x.vf x.addr 22 2 (x.pri + n)).modDie die fun d =>
    { d with ready := d.ready.map fun y => if y = x then { x with pri := x.pri + n, ageing := x.ageing + n * age } else y }

/-- Time has gone on: the ready records of every die age (R214). -/
def State.ageRecords (s : State) : State :=
  (List.range 3).foldl (fun s d => (s.die d).ready.foldl (fun s x => s.ageRecord d x) s) s

/-- An AGE is completed (R214): a ready record's PRI rises and is written. A ream's priority is a function of the time, which
`State.reamPriority` computes, and keeps nothing. -/
def execPriorityAging (t : AgingTarget) (s : State) : Result :=
  match t with
  | .record die idx =>
    match (s.die die).ready[idx]? with
    | none => .next s
    | some x => .next (s.ageRecord die x)
  | .ream _ => .next s

/-- Quads that a CPLM mask names: bit n is the n-th quad of the partition. -/
def Part.quadsOf (p : Part) (mask : Nat) : List Nat :=
  (((p.bulkheads.flatMap fun b => [4 * b, 4 * b + 1, 4 * b + 2, 4 * b + 3]).zipIdx).filter fun x => bitOf mask x.2).map (·.1)

/-- A supervisor sets a value of Table 11-1, or of R315, R319, R321, R322, R348, R371 or R375. Times are in microseconds,
the staging area in MiB. A value outside its range is refused and the previous one stays. -/
def execSchedulingSettingWrite (pid : Nat) (x : Setting) (value : Nat) (s : State) : Result :=
  let within (lo hi : Nat) (f : Part → Part) : Result := if lo ≤ value ∧ value ≤ hi then .next (s.modPart pid f) else .next s
  let world (vf : Nat) (ok : Bool) (f : World → World) : Result :=
    if ok && (s.world vf).exists_ && (s.world vf).pid == pid then .next (s.modWorld vf f) else .next s
  if !(s.part pid).exists_ then .next s
  else match x with
  | .age => within 10 10000 fun p => { p with age := value }
  | .qmq => within 20 1000 fun p => { p with qmq := value }
  | .crpb vf => world vf (flatOk value 64) fun w => { w with crpb := value }
  | .crpn vf => world vf (decide (value ≤ 65536)) fun w => { w with crpn := value }
  | .cplm =>
    if 2 ^ (4 * (s.part pid).bulkheads.length) ≤ value then .next s
    else .next (s.modPart pid fun p => { p with cplm := p.quadsOf value })
  | .psta vf =>
    if flatOk value 64 && (s.world vf).exists_ && (s.world vf).pid == pid
    then .next ((s.modWorld vf fun w => { w with psta := value }).writePeers vf) else .next s
  | .tto => within 10 10000 fun p => { p with tto := value }
  | .staging => within 0 64 fun p => { p with staging := value }
  | .rwt => within 1000 10000000 fun p => { p with rwt := value }
  | .apb => if flatOk value 8 then .next (s.modPart pid fun p => { p with apb := value }) else .next s
  | .apn => within 0 (2 ^ 36) fun p => { p with apn := value }
  | .stq => within 1000 1000000 fun p => { p with stq := value }
  | .srt => within 10000 100000000 fun p => { p with srt := value }
  | .rjt => within 1000000 600000000 fun p => { p with rjt := value }
  | .hostTimeout => within 1000 64000 fun p => { p with hostTo := value }
  | .spare vf =>
    let w := s.world vf
    if w.exists_ && w.pid == pid && decide (value < w.slen) && !(s.part pid).spare.contains (w.sbase + value)
    then .next (s.modPart pid fun p => { p with spare := p.spare ++ [w.sbase + value] }) else .next s
  | .shootdown vf tid =>
    if (s.world vf).exists_ && (s.world vf).pid == pid && decide (tid < 2 ^ 24)
    then .next (s.shoot vf tid (some (value, 1)) none .nothing) else .next s

/-- Whether a core is free in the sense of R208: no task, and a world that is not being drained. A core that is quarantined or in no
world has no task either. -/
def State.coreIdle (s : State) (c : Nat) : Bool :=
  let k := s.core c
  k.task.isNone && (match k.run with
    | .free => !(s.world k.vf).draining
    | .draining | .quarantined => true
    | _ => false)

/-- A change of CPLM takes effect for a quad whose cores are all free (R209): CPL and RANK follow. A quad with a quarantined core runs
uncoupled (R294). -/
def execQuadCouplingChange (quad : Nat) (s : State) : Result :=
  let cs := quadCores (4 * quad)
  match (s.bulk (bulkOf (4 * quad))).pid with
  | none => .next s
  | some pid =>
    let want := (s.part pid).cplm.contains quad && cs.all fun c => !s.quarantine.contains c && (s.core c).run != .quarantined
    if cs.all s.coreIdle then
      let s := cs.foldl (fun s c => s.modCore c fun k =>
        k.setCr 0 (BitVec.ofNat 64 (setField (setField (k.cr 0).toNat 3 1 want.toNat) 4 2 (if want then c % 4 else 0)))) s
      .next (s.modPart pid fun p =>
        { p with coupled := if want then (if p.coupled.contains quad then p.coupled else p.coupled ++ [quad]) else p.coupled.erase quad })
    else .next s

end Sys2Proof.Machine
end

