-- ==== Sys2Proof/Machine/Sync.lean ====
section
/-! DEFINITION. The SY ops (spec/08_copy_and_sync.md, R175 to R184): semaphores, barriers, the broadcast bus, fences,
counter waits, suspension, launch and software traps; the close of a segment by such an op (R241), and the end of a
task (R181, R190). -/

namespace Sys2Proof.Machine

/-! ## The close of a segment (R241) -/

/-- A segment closes by a non-idempotent op: its stores may commit, its charge is done, and no checkpoint is held until the
next SEG bundle (R241, R290, R292). At H nothing closes (R385). -/
def Core.closeSeg (c : Core) : Core :=
  if c.atH then c
  else { c with
    ssb := c.ssb.map fun e => { e with closed := true }
    charge := 0
    q := c.q.map fun (x : Nat × Stream) => (x.1, { x.2 with popped := [], pushed := 0 })
    seg := { c.seg with check := none, retry := [], waited := [], signals := [] } }

/-- Whether the stores that an op waits for have committed: the task's with those it has closed, the handler's own at H
(R385). -/
def Core.committed (c : Core) : Bool := c.ssb.all fun e => !e.closed && !e.atH

/-- Whether the stores before the bundle in hand have committed: in a coupled quad whose ranks are in step those of every rank
(R242). -/
def State.allCommitted (s : State) : Bool :=
  if s.cur.coupled && !s.cur.away && !s.cur.atH then (quadCores s.ctx.core).all fun c => (s.core c).committed else s.cur.committed

/-- A release of a scope has nothing left to wait for (R244, Table 13-2). -/
def State.released (s : State) (c : Nat) (sc : Scope) : Bool :=
  let k := s.core c
  k.committed && k.loadsPast k.loadSeq && k.port.isEmpty && s.outDone c sc

/-! ## Semaphores (R175, R176) -/

/-- A semaphore outside the declared range (R176). -/
def State.semOcc (s : State) (sem : BitVec 8) : List Stop :=
  if sem.toNat < s.cur.occ.semLo ∨ s.cur.occ.semHi < sem.toNat then [s.occStop (some 0)] else []

/-- A change that takes effect after its segment's stores have committed (R184); at H after the handler's (R385), in a
coupled quad at the commit point (R242). -/
def State.semLater (s : State) (o : SemOp) : State :=
  s.modCur fun c =>
    { c with semOps := c.semOps ++ [(if c.atH then c.closedEnd else if c.coupled then farBehind else c.ssbNext, o)] }

/-- `ssig`. -/
def execSsig (x : ClsYM) (s : State) : Result :=
  issueOp (fun s => s.semOcc x.sem) (fun s => s.semLater (.add x.sem.toNat x.imm.toNat)) s

/-- `swait`: its threshold is one of the bundle's waits (R18), which the bundle's issue holds for and subtracts; alone it
does both itself. -/
def execSwait (x : ClsYM) (s : State) : Result :=
  let w : List Wait := [⟨x.imm.toNat, x.sem.toNat, .sy⟩]
  issueOp (fun s => s.semOcc x.sem ++ (if s.ctx.mode = .alone then s.holdIf (s.cur.waitsHold w) 2 else []))
    (fun s =>
      if s.ctx.mode = .alone then
        let s' := s.modCur fun c => c.subtract w
        if (s.cur.sema x.sem.toNat).poison then s'.setP15 else s'
      else s) s

/-- `sset`. -/
def execSset (x : ClsYX) (s : State) : Result :=
  issueOp (fun s => s.srcStops [.s x.s.toNat 8] ++ s.semOcc x.sem)
    (fun s => s.semLater (.set x.sem.toNat (s.sv x.s).toNat)) s

/-- A semaphore as the op in hand reads it: as it stood before its bundle, whose own waits lower it for the next one (R6, R175). -/
def State.semSeen (s : State) (n : Nat) : Sema :=
  if s.ctx.mode = .alone then s.cur.sema n else Tab.get Sema.zero s.ctx.sem n

/-- `srd`. -/
def execSrd (x : ClsYX) (s : State) : Result :=
  issueOp (fun s => s.semOcc x.sem)
    (fun s =>
      let m := s.semSeen x.sem.toNat
      s.putS x.s.toNat 1 (BitVec.ofNat 64 (m.count + m.poison.toNat * 65536))) s

/-- `spoi`. -/
def execSpoi (x : ClsYX) (s : State) : Result :=
  issueOp (fun s => s.semOcc x.sem) (fun s => s.semLater (.poison x.sem.toNat)) s

/-- `sunp`. -/
def execSunp (x : ClsYX) (s : State) : Result :=
  issueOp (fun s => s.semOcc x.sem) (fun s => s.semLater (.unpoison x.sem.toNat)) s

/-! ## Barriers (R177) -/

/-- The task of a unit arrives once the release of the scope is performed on every rank. -/
def State.barTry (s : State) (sc : Scope) (id : Nat) : State :=
  let s := s.modCur Core.closeSeg
  let lead := (s.unitOf s.ctx.core).headD s.ctx.core
  if s.cur.barHold.isNone && (s.unitOf s.ctx.core).all fun c => s.released c sc then s.barArrive lead sc id else s

/-- `bar` (R177). -/
def execBar (x : ClsYB) (s : State) : Result :=
  lateOp true (fun s => if s.cur.barHold = some 2 ∨ s.cur.barHold = some 3 then [] else s.lateHold)
    (fun s => s.barTry x.scope x.id.toNat)
    (fun s =>
      let poison := s.cur.barHold == some 3
      let s := (s.modCur fun c => { c with barHold := none }).acquire (dieOf s.ctx.core) x.scope
      if poison then s.setP15 else s) s

/-! ## The broadcast bus (R178) -/

/-- A broadcast slot at or above the declared count, and an op of the bus in a core that is not coupled. -/
def State.busStops (s : State) (b : BitVec 5) : List Stop :=
  (if s.cur.coupled then [] else [s.stop 4 0 (.trap 1 (fieldInfo .sy 344))]) ++
  (if s.cur.occ.bcast ≤ b.toNat then [s.occStop (some 6)] else [])

/-- `bcx` (R178). -/
def execBcx (x : ClsYC) (s : State) : Result :=
  issueOp (fun s => s.srcStops [.v (x.x.toNat % 32) 0] ++ s.busStops x.bslot)
    (fun s => s.modCur fun c => { c with bus := some (x.bslot.toNat, c.vreg (x.x.toNat % 32)) }) s

/-- `bcl` (R178): the transmission of the named rank, by the rules of `stt`. -/
def execBcl (x : ClsYC) (s : State) : Result :=
  issueOp (fun s => s.srcStops [.s x.x.toNat 0] ++ s.busStops x.bslot ++ s.addrStops x.x 0 256 22 ++ s.slotHold x.x 256 true)
    (fun s =>
      match (s.core (quadLead s.ctx.core + x.rank.toNat)).bus with
      | some (b, v) =>
        if b = x.bslot.toNat then
          s.modCur fun c => c.scratchWrite (c.sreg x.x.toNat).toNat (leBytes 256 v.toNat) c.seqb
        else s.setP15
      | none => s.setP15) s

/-! ## Fences (R179, R246) -/

/-- A fence: the accesses after it wait until its effect is had, which the next bundle holds for (log 14). At T one of
kind 0 or 2 closes its segment (R184). -/
def fenceOp (kind : Nat) (x : ClsYF) (s : State) : Result :=
  issueOp (fun _ => []) (fun s => s.modCur fun c => { c with fencing := some (kind, x.scope) }) s

/-- `fence` of kind 0. -/
def execFenceFull (x : ClsYF) (s : State) : Result := fenceOp 0 x s

/-- `fence` of kind 1. -/
def execFenceAcq (x : ClsYF) (s : State) : Result := fenceOp 1 x s

/-- `fence` of kind 2. -/
def execFenceRel (x : ClsYF) (s : State) : Result := fenceOp 2 x s

/-- Whether the effect of a fence is had: for an acquire every load and value-returning atomic before it has performed;
for a release every access. -/
def State.fenceReady (s : State) (c : Nat) (f : Nat × Scope) : Bool :=
  let k := s.core c
  (f.1 == 2 || (k.loadsPast k.loadSeq && k.port.all fun p => p.seq.isNone)) && (f.1 == 1 || s.released c f.2)

/-- The effect of a fence is had: an acquire discards lines. -/
def State.fenceDone (s : State) (c : Nat) (f : Nat × Scope) : State :=
  let s := s.modCore c fun k => { k with fencing := none }
  if f.1 = 2 then s else s.acquire (dieOf c) f.2

/-! ## Counter waits (R180) -/

/-- The evaluation of an op whose checks read memory: `see` is what the reading leaves (R295). -/
def issueRead (stops : State → List Stop) (see eff : State → State) (s : State) : Result :=
  match s.ctx.mode with
  | .probe => .next (see { s with ctx := { s.ctx with stops := s.ctx.stops ++ stops s } })
  | .effect => .next (eff s)
  | .alone =>
    match pickStop (stops s) with
    | none => .next (eff (see s))
    | some x => .next ((see s).takeStop x.kind)
  | .late => .next s

/-- Bytes read at their home under the translation that the bundle in hand has of a flat address (R281, R283); none where they cannot
be. -/
def State.readNow (s : State) (a n : Nat) : Option (State × Got) :=
  match s.look s.ctx.core .issue 0 (a / 65536) false false with
  | .hit x => s.readUnit (frameDie x.frame) false s.cur.vf 0 (a / 65536) x (a % 65536) n
  | _ => none

/-- The state after such a read. -/
def State.seenNow (s : State) (a n : Nat) : State :=
  match s.readNow a n with
  | some (t, _) => t
  | none => s

/-- Whether a write has met the wait of the core in hand since it began to hold (R180, R216). -/
def State.waitMet (s : State) (a v : Nat) : Bool := s.watches.contains (.wait s.cur.vf a s.ctx.core v true)

/-- The core in hand holds at a `waitc`: its word is watched. -/
def State.watchWord (s : State) (a v : Nat) : State :=
  if s.watches.contains (.wait s.cur.vf a s.ctx.core v false) || s.waitMet a v then s
  else
    let t := s.dropWait s.ctx.core
    { t with watches := t.watches ++ [.wait s.cur.vf a s.ctx.core v false] }

/-- The line of a flat word leaves a die's cache, so that no later read of the die finds an older one (R238). -/
def State.freshen (s : State) (d vf a : Nat) : State :=
  match s.flatPhys vf a with
  | some p => s.dropLine d (p / 64)
  | none => s

/-- `waitc` (R180): the word is read at its home, and read again as each write to its granule leaves it. -/
def execWaitc (x : ClsYW) (s : State) : Result :=
  let addr (s : State) : Nat := (s.sv x.a).toNat
  let val (s : State) : Nat := (s.sv x.b).toNat
  issueRead (fun s => s.srcStops [.s x.a.toNat 0, .s x.b.toNat 6] ++ s.addrStops x.a 0 8 48 ++
      (if s.goodAddr x.a 8 48 then
        match s.xlStops 0 (addr s / 65536) false false 0 with
        | [] =>
          match s.readNow (addr s) 8 with
          | none => s.holdIf true 5
          | some (_, g) =>
            if g.cause = 5 then [s.stop 9 0 (.trap 5 (consumerInfo .sy x.a.toNat false))]
            else if g.cause ≠ 0 then [s.stop 9 0 (.trap 6 (consumerInfo .sy x.a.toNat false))]
            else s.holdIf (s.clean x.b && decide (leVal g.bytes < val s) && !s.waitMet (addr s) (val s)) 5
        | l => l
      else []))
    (fun t => if s.goodAddr x.a 8 48 then ((t.seenNow (addr s) 8).freshen (dieOf s.ctx.core) s.cur.vf (addr s)).watchWord (addr s) (val s) else t)
    (fun s => (s.dropWait s.ctx.core).acquire (dieOf s.ctx.core) x.scope) s

/-! ## Suspension (R181, R215) -/

/-- No record for the task's next suspension (R215), or a pool whose search waits for a home in reset (R331). -/
def State.poolStop (s : State) : List Stop :=
  match s.cur.task with
  | none => []
  | some t =>
    if t.crec.isSome ∨ s.cur.closing.isSome then []
    else match s.freeRecord s.cur.vf with
      | none => [s.occStop none]
      | some a => s.holdIf (s.flatWaits s.cur.vf a) 5

/-- The words of the record of rank 0 (R60, R181). -/
def State.suspendWords (s : State) (wait : Option (Nat × Nat)) : List Nat :=
  let c := s.cur
  let pri := match c.task.bind fun t => s.ream t.rid with | some r => r.pri | none => 0
  let w0 := (s.ctx.pc + 1) % 8192 + 4 * 2 ^ 16 + (if wait.isSome then 2 ^ 19 else 0) + pri * 2 ^ 22 +
    (c.cr 5).toNat / 256 % 2 ^ 40 * 2 ^ 24
  let w2 := (c.cr 2).toNat % 2 ^ 13 + (match wait with | some w => w.1 / 8 % 2 ^ 45 * 2 ^ 16 | none => 0)
  [w0, (c.cr 4).toNat % 2 ^ 32, w2, (match wait with | some w => w.2 | none => 0)] ++
    (List.range 4).map fun i => (c.sreg (i + 1)).toNat

/-- A task has issued its last bundle: it ends when what that bundle started has ended. -/
def State.closeTask (s : State) (x : Closing) : State :=
  s.modCur fun c => { (c.closeSeg) with run := .ending, closing := some x, ssb := c.ssb.map fun e => { e with closed := true } }

/-- The segment of a task's last bundle closes, and so does whatever else stands in the buffer. -/
def Core.closeAll (c : Core) : Core := { c.closeSeg with ssb := c.ssb.map fun e => { e with closed := true } }

/-- The record that the suspension of the task in hand takes (R215): its own, the one promised, or a free one of the pool. -/
def State.suspendAt (s : State) : Nat :=
  match s.cur.task.bind (·.crec) with
  | some a => a
  | none =>
    match s.cur.closing, (s.core ((s.unitOf s.ctx.core).headD s.ctx.core)).closing with
    | some (.record a _), _ => a
    | _, some (.record a _) => a
    | _, _ => (s.freeRecord s.cur.vf).getD 0

/-- The suspension of a task takes its record. -/
def State.suspendTask (s : State) (wait : Option (Nat × Nat)) : State :=
  match s.cur.task with
  | none => s.closeTask .halt
  | some _ => s.closeTask (.record s.suspendAt (s.suspendWords wait))

/-- What a suspension holds for (R181, R184, Table 13-4): no routine and no command in a channel, then the release at `.pkg`. -/
def State.suspendHold (s : State) : List Stop :=
  let k := s.cur
  if k.routine.isSome then s.lateHoldOf 4
  else if (List.range 8).any fun h => !(k.chan h).cmds.isEmpty then s.lateHoldOf 3
  else if !s.released s.ctx.core .pkg || !k.semOps.isEmpty then s.lateHold else []

/-- A suspension that holds has closed its segment and been promised its record. -/
def State.suspendBegin (s : State) : State :=
  let a := s.suspendAt
  let s := if s.cur.task.isSome ∧ s.cur.closing.isNone then s.sawPool s.cur.vf else s
  s.modCur fun c => { c.closeAll with closing := if c.task.isSome then some (.record a []) else c.closing }

/-- `suspend` (R181). -/
def execSuspend (x : ClsYU) (s : State) : Result :=
  lateOp true (fun s => s.srcStops [.s x.a.toNat 0, .s (x.a.toNat + 1) 0] ++ s.addrStops x.a 0 8 48 ++ s.poolStop ++ s.suspendHold)
    State.suspendBegin
    (fun s => s.suspendTask (some ((s.sv x.a).toNat, (s.cur.sreg (x.a.toNat + 1)).toNat))) s

/-- `yield` (R181). -/
def execYield (s : State) : Result :=
  lateOp true (fun s => s.poolStop ++ s.suspendHold) State.suspendBegin (fun s => s.suspendTask none) s

/-- A record is written and waits, or is ready at once (R215). -/
def State.putRecord (s : State) (lead a rid : Nat) (words : List Nat) : State :=
  let c := s.core lead
  let vf := c.vf
  let die := dieOf lead
  let wadr := fieldOf (words.getD 2 0) 16 45 * 8
  let s := (s.writeRec vf a (words.mapIdx fun i w => if i = 0 then setField w 13 3 1 else w)).modReam rid fun r =>
    { r with recs := if r.recs.contains a then r.recs else r.recs ++ [a] }
  let met : Bool := fieldOf (words.getD 0 0) 19 3 == 0 || match s.flatWord vf wadr with
    | some n => decide (words.getD 3 0 ≤ n)
    | none => false
  let s := s.seen vf wadr 8
  if met then s.makeReady vf a die rid c.coupled s.us s.tick
  else { s with watches := s.watches ++ [.record vf wadr a die rid c.coupled] }

/-- The task of a unit has ended by `halt` (R190): the counter, the record, and the next held index or a free unit; `none` while the
counter cannot be reached. -/
def State.retireTask (s : State) (lead : Nat) : Option State :=
  match (s.core lead).task with
  | none => some ((s.unitOf lead).foldl State.freeCore s)
  | some t =>
    let s := (s.unitOf lead).foldl State.discard s
    match s.ream t.rid with
    | none => some (s.endUnit lead false)
    | some r => do
      let s ← s.counter r.vf r.cctr (· + 1)
      let s := match t.crec with
        | none => s
        | some a => (s.setStat r.vf a 5).modReam t.rid fun r => { r with recs := r.recs.erase a }
      return if t.held = [] then s.endUnit lead false
      else (s.unitOf lead).foldl (fun s c => s.modCore c fun k =>
        { k with run := .ending, closing := none, early := false, task := some { t with crec := none } }) s

/-- The task of a unit has ended by suspension (R181, R212). -/
def State.parkTask (s : State) (lead a : Nat) (words : List Nat) : State :=
  match (s.core lead).task with
  | none => (s.unitOf lead).foldl State.freeCore s
  | some t =>
    if t.abort then s.endAborted lead
    else (s.putRecord lead a t.rid words).endUnit lead true

/-- What still keeps the end of a task: a routine, a channel, a store or another access that a release waits for (R190,
R181, Table 13-4). -/
def State.closeWait (s : State) (cs : List Nat) : Option Nat :=
  if cs.any fun c => (s.core c).routine.isSome then some 4
  else if cs.any fun c => (List.range 8).any fun h => !((s.core c).chan h).cmds.isEmpty then some 3
  else if cs.any fun c =>
      let k := s.core c
      !k.ssb.isEmpty || !k.port.isEmpty || !s.outDone c .pkg || !k.semOps.isEmpty || !k.relSigs.isEmpty then some 5
  else none

/-- The cores of a unit wait under a hold condition. -/
def State.holdUnit (s : State) (cs : List Nat) (k : Nat) : State :=
  cs.foldl (fun s c => s.modCore c fun x => { x with holding := true, holdCond := k }) s

/-- A unit whose task has issued its last bundle goes on to its end. -/
def State.closeStep (s : State) (lead : Nat) : State :=
  let cs := s.unitOf lead
  if cs.any fun c => (s.core c).closing.isNone then s
  else match s.closeWait cs with
    | some k => s.holdUnit cs k
    | none =>
      match (s.core lead).closing with
      | some (.record a ws) =>
        -- the record, and the word that it waits on, are reached before it is written (R215, R331)
        let vf := (s.core lead).vf
        if s.flatWaits vf a || (fieldOf (ws.getD 0 0) 19 3 != 0 && s.flatWaits vf (fieldOf (ws.getD 2 0) 16 45 * 8)) then s.holdUnit cs 5
        else s.parkTask lead a ws
      | _ => (s.retireTask lead).getD (s.holdUnit cs 5)

/-! ## Launch (R182, R210) -/

/-- What the descriptor of a `launch` stops it with, once its stores have committed: its address, its translation, its bytes and its
fields (R182). -/
def State.launchStops (s : State) (r : BitVec 6) : List Stop :=
  let a := (s.sv r).toNat
  let info := consumerInfo .sy r.toNat false
  if s.cur.coupled ∧ s.cur.rank ≠ 0 then []
  else if !s.allCommitted || !s.released s.ctx.core .pkg then s.lateHold
  else match s.addrStops r 0 256 48, s.xlStops 0 (a / 65536) false false 0 with
    | [], [] =>
      match (s.readNow a 128).map (reamFrom s.cur.vf) with
      | none => s.lateHold
      | some (_, cause, r) =>
        if cause = 5 then [s.stop 9 0 (.trap 5 info)]
        else if cause ≠ 0 then [s.stop 9 0 (.trap 6 info)]
        else if r.isNone then [s.alignStop 4 0 0]
        else if 256 ≤ s.liveReams (s.world s.cur.vf).pid then s.lateHold else []
    | [], l => l
    | l, _ => l

/-- Whether the stores of the segment of the op in hand have still to be closed: in a bundle those of the bundle come first. -/
def State.stillOpen (s : State) : Bool :=
  if s.ctx.mode = .probe then !s.cur.early else !s.cur.atH && s.cur.ssb.any fun e => !e.closed

/-- `launch` (R182): it looks at nothing before its segment's stores have committed, which they stay whatever it meets. -/
def execLaunch (x : ClsYU) (s : State) : Result :=
  lateOp true
    (fun s => s.srcStops [.s x.a.toNat 0] ++
      (if !s.clean x.a then [] else if s.stillOpen then s.lateHold else s.launchStops x.a))
    (fun s => s.modCur Core.closeSeg)
    (fun s =>
      if s.cur.coupled ∧ s.cur.rank ≠ 0 then s
      else match (s.readNow (s.sv x.a).toNat 128).map (reamFrom s.cur.vf) with
        | some (s, _, some r) => s.createReam s.cur.vf (s.sv x.a).toNat r none
        | _ => s) s

/-! ## Software traps (R183) -/

/-- A bundle has issued: BUDGET at T counts it (R222, R187), and so do the results in flight, which land when due. -/
def Core.endBundle (c : Core) : Core :=
  let c := if c.atH then { c with hCount := c.hCount + 1 } else c.setCr 1 (c.cr 1 - 1)
  c.count.landDue

/-- `trap` (R183): the bundle's results of latency 1 land, then the handler is entered. -/
def execTrap (x : ClsYT) (s : State) : Result :=
  issueOp (fun s => if s.cur.atH then [s.stop 5 0 (.trap 2 (fieldInfo .sy 344))] else [])
    (fun s => (s.modCur Core.endBundle).trapEntry s.ctx.core 0 (BitVec.ofNat 64 (65536 + x.code.toNat)) (s.ctx.pc + 1)) s

end Sys2Proof.Machine
end

