-- ==== Sys2Proof/Machine/Matrix.lean ====
section
/-! DEFINITION. The matrix unit (spec/06_matrix.md): the MX ops (R125 to R129), the checks of a routine's parameters
(R131, R132), and the steps of the standard routines (R133 to R142) with the order of sums (R79 to R82). -/

namespace Sys2Proof.Machine

/-! ## Routines (Table 6-3) -/

/-- Routines of BFP records that accumulate in binary32. -/
def isBfp (i : Nat) : Bool := decide (i ≤ 3) || i == 10

/-- Routines of 16-bit elements. -/
def isHalf (i : Nat) : Bool := (decide (4 ≤ i) && decide (i ≤ 7)) || i == 11

/-- The integer routines. -/
def isIntR (i : Nat) : Bool := i == 8 || i == 9

/-- Routines whose A rows GIX names. -/
def gathered (i : Nat) : Bool := i == 2 || i == 3

/-- The grouped routines. -/
def grouped (i : Nat) : Bool := i == 10 || i == 11

/-- The epilogues. -/
def isEpi (i : Nat) : Bool := decide (12 ≤ i)

/-- Product routines that start from zero. -/
def fromZero (i : Nat) : Bool := [1, 3, 5, 7, 9].contains i

/-! ## Parameters (Table 6-4) -/

/-- The parameters of a routine, `mp0` to `mp7` as read at issue. -/
structure MArgs where
  mps : List Word
  deriving DecidableEq, Repr

/-- Register `i` as a number. -/
def MArgs.reg (a : MArgs) (i : Nat) : Nat := (a.mps.getD i 0).toNat

/-- A field of a register. -/
def MArgs.fld (a : MArgs) (i lo w : Nat) : Nat := fieldOf (a.reg i) lo w

/-- Output rows. -/
def MArgs.m (a : MArgs) : Nat := a.fld 0 44 7 + 1

/-- Output columns. -/
def MArgs.n (a : MArgs) : Nat := a.fld 1 44 6 + 1

/-- K-blocks. -/
def MArgs.kb (a : MArgs) : Nat := a.fld 2 0 16

/-- Width of the A operand. -/
def MArgs.bA (a : MArgs) : Nat := a.fld 2 16 3 + 2

/-- Width of the B operand. -/
def MArgs.bB (a : MArgs) : Nat := a.fld 2 19 3 + 2

/-- Bytes of an A block. -/
def MArgs.rA (a : MArgs) (i : Nat) : Nat := if isHalf i then 64 else bfpBytes a.bA

/-- Bytes of a B block. -/
def MArgs.rB (a : MArgs) (i : Nat) : Nat := if isHalf i then 64 else bfpBytes a.bB

/-- Address of an A block. -/
def MArgs.aAt (a : MArgs) (i row kb : Nat) : Nat := a.fld 0 0 22 + row * a.fld 0 22 22 + kb * a.rA i

/-- Address of a B block, from a base. -/
def MArgs.bAt (a : MArgs) (i base kb j : Nat) : Nat := base + kb * a.fld 1 22 22 + j * a.rB i

/-- Whether `accn` holds `.s32` for a routine. -/
def MArgs.asInt (a : MArgs) (i : Nat) : Bool := isIntR i || (isEpi i && a.fld 4 56 1 == 1)

/-- Groups. -/
def MArgs.g (a : MArgs) : Nat := a.fld 3 22 5

/-- The address of an entry of the group table. -/
def MArgs.gAt (a : MArgs) (g : Nat) : Nat := a.fld 3 0 22 + 8 * g

/-- Address of row `i` of an epilogue. -/
def MArgs.oAt (a : MArgs) (i : Nat) : Nat := a.fld 4 0 22 + i * a.fld 4 22 22

/-- The result type of ECVT. -/
def MArgs.ty (a : MArgs) : Ty := Ty.ofCode (a.fld 4 44 4)

/-- Width of the records of EBFP. -/
def MArgs.eb (a : MArgs) : Nat := a.fld 4 51 3 + 2

/-- Rounding of ECVT and EBFP. -/
def MArgs.rm (a : MArgs) : Rm := Rm.ofCode (a.fld 4 48 3)

/-- The draw of element (i, j) (R77, R136). -/
def MArgs.draw (a : MArgs) (i j : Nat) : Nat := rngG (a.reg 6) ((a.reg 7 + 64 * i + j) % 2 ^ 64)

/-! ## Checks (R128, R132) -/

/-- A bit set in bits lo … lo + w − 1 of a register that must be zero there. -/
def mustZero (r src lo w : Nat) : List (Nat × Nat) :=
  match lowestSet r lo w with
  | some b => [(src, b)]
  | none => []

/-- A condition that must not hold: its source and offending bit. -/
def offIf (b : Bool) (src bit : Nat) : List (Nat × Nat) := if b then [(src, bit)] else []

/-- Whether a unit of `n` bytes at `a` lies across a slot boundary. -/
def straddles (a n : Nat) : Bool := a / 65536 != (a + n - 1) / 65536

/-- Whether the blocks at addresses `f` of rows and K-blocks are faulty: beyond 2^22, across a slot, misaligned. -/
def blocksBad (half : Bool) (n : Nat) (rows kbs : List Nat) (f : Nat → Nat → Nat) : Bool :=
  rows.any fun r => kbs.any fun k =>
    let a := f r k
    decide (2 ^ 22 < a + n) || straddles a n || (half && a % 2 == 1)

/-- The A rows that a product routine reads; an accumulator has no row beyond 127. -/
def MArgs.rowsOf (a : MArgs) (i : Nat) (gix : BitVec 1024) (counts : List Nat) : List Nat :=
  if gathered i then (List.range a.m).map fun k => gix.toNat / 256 ^ k % 256
  else if grouped i then List.range (Nat.min counts.sum 128) else List.range a.m

/-- Offences of a product or grouped routine's parameters, but for its group table. -/
def MArgs.prodBad (a : MArgs) (i : Nat) (gix : BitVec 1024) (counts bases : List Nat) : List (Nat × Nat) :=
  let bfp := !isHalf i
  mustZero (a.reg 0) 0 51 13 ++ (if grouped i then mustZero (a.reg 0) 0 44 7 else []) ++
  mustZero (a.reg 1) 1 50 14 ++ (if grouped i then mustZero (a.reg 1) 1 0 22 else []) ++
  mustZero (a.reg 2) 2 22 42 ++
  (if bfp then offIf (a.fld 2 16 3 == 7) 2 16 ++ offIf (a.fld 2 19 3 == 7) 2 19 else mustZero (a.reg 2) 2 16 6) ++
  offIf (a.kb == 0) 2 0 ++
  (if grouped i then
    mustZero (a.reg 3) 3 36 28 ++ (if a.fld 3 35 1 = 0 then mustZero (a.reg 3) 3 27 8 else []) ++
      offIf (a.g == 0 || decide (16 < a.g)) 3 22 ++ offIf (a.gAt 0 % 8 != 0 || decide (2 ^ 22 < a.gAt a.g)) 3 0
   else []) ++
  (if a.kb = 0 ∨ (bfp ∧ a.fld 2 16 3 = 7) then []
   else
    let rows := a.rowsOf i gix counts
    -- no row lies below row 0, so that what lies beyond the scratchpad there lies beyond it everywhere
    offIf (!rows.isEmpty && (decide (2 ^ 22 < a.aAt i 0 (a.kb - 1) + a.rA i) ||
      blocksBad (isHalf i) (a.rA i) rows (List.range a.kb) (a.aAt i))) 0 0) ++
  (if a.kb = 0 ∨ (bfp ∧ a.fld 2 19 3 = 7) then []
   else
    (if grouped i then []
     else offIf (decide (2 ^ 22 < a.bAt i (a.fld 1 0 22) (a.kb - 1) 0) ||
      blocksBad (isHalf i) (a.rB i) (List.range a.kb) (List.range a.n) (a.bAt i (a.fld 1 0 22))) 1 0) ++
    ((bases.zip counts).zipIdx.filter fun x => decide (0 < x.1.2) &&
      (decide (2 ^ 22 < a.bAt i x.1.1 (a.kb - 1) 0) ||
        blocksBad (isHalf i) (a.rB i) (List.range a.kb) (List.range a.n) (a.bAt i x.1.1))).map fun x => (9, x.2))

/-- Offences of an epilogue's parameters. -/
def MArgs.epiBad (a : MArgs) (i : Nat) : List (Nat × Nat) :=
  let unused (b : Bool) (lo w : Nat) : List (Nat × Nat) := if b then [] else mustZero (a.reg 4) 4 lo w
  let out := [16, 17, 18, 19].contains i
  let w := a.ty.width / 8
  mustZero (a.reg 4) 4 57 7 ++ unused ([12, 14, 15, 17, 19].contains i) 56 1 ++ unused (i == 15) 54 2 ++
  unused (i == 18) 51 3 ++ unused (i == 17 || i == 18) 48 3 ++ unused (i == 17) 44 4 ++ unused out 22 22 ++ unused out 0 22 ++
  (if i = 18 then offIf (a.fld 4 51 3 == 7) 4 51 else []) ++
  (if i = 17 ∨ i = 18 then offIf (decide (4 < a.fld 4 48 3)) 4 48 else []) ++
  (if i = 17 then offIf (decide (10 < a.fld 4 44 4)) 4 44 else []) ++
  (if i = 16 then offIf (a.oAt 0 % 4 != 0 || a.fld 4 22 22 % 4 != 0 || decide (2 ^ 22 < a.oAt 127 + 256)) 4 0 else []) ++
  (if i = 17 ∧ a.fld 4 44 4 ≤ 10 then
    offIf (a.oAt 0 % w != 0 || a.fld 4 22 22 % w != 0 || decide (2 ^ 22 < a.oAt 127 + 64 * w)) 4 0 else []) ++
  (if i = 18 ∧ a.fld 4 51 3 ≠ 7 then
    offIf ((List.range 128).any fun r =>
      let n := bfpBytes a.eb
      decide (2 ^ 22 < a.oAt r + 2 * n) || straddles (a.oAt r) n || straddles (a.oAt r + n) n) 4 0 else []) ++
  (if i = 19 then offIf (a.oAt 0 % 4 != 0 || a.fld 4 22 22 % 4 != 0 || decide (2 ^ 22 < a.oAt 127 + 4)) 4 0 else []) ++
  (if i = 12 ∨ i = 13 then
    mustZero (a.reg 5) 5 44 20 ++ offIf (a.fld 5 0 22 % 4 != 0 || decide (2 ^ 22 < a.fld 5 0 22 + 256)) 5 0 ++
      (if i = 13 then offIf (a.fld 5 22 22 % 4 != 0 || decide (2 ^ 22 < a.fld 5 22 22 + 256)) 5 22
       else mustZero (a.reg 5) 5 22 22)
   else [])

/-- The entry at which a running count of rows passes 128. -/
def passes128 : List Nat → Nat → Nat → Option Nat
  | [], _, _ => none
  | c :: cs, i, r => if 128 < r + c then some i else passes128 cs (i + 1) (r + c)

/-- The group table as it stands: its words. -/
def Core.groupTable (c : Core) (a : MArgs) : List Nat :=
  (List.range a.g).map fun g => leVal (c.scratch (a.gAt g) 8)

/-- Registers that a routine reads at its issue besides its group table: parameters by Table 6-3, GIX, the accumulators (R139). -/
def MArgs.sources (a : MArgs) (i n : Nat) : List Src :=
  let ps : List Nat := if i ≤ 9 then [0, 1, 2] else if i ≤ 11 then [0, 1, 2, 3]
    else if i = 12 ∨ i = 13 then [4, 5] else if (i = 17 ∨ i = 18) ∧ a.fld 4 48 3 = 4 then [4, 6, 7] else [4]
  ps.map (fun k => .mp k 0) ++ (if gathered i then [.gix] else []) ++
    (if (i ≤ 9 ∧ !fromZero i) ∨ (isEpi i ∧ i ≠ 16) then [.acc n 0] else []) ++ (if i = 15 then [.acc (a.fld 4 54 2) 0] else [])

/-- What an `mcall` stops on: a hold, a register or accumulator whose parity fails, a sealed or uncorrectable table, MXBOUND (R126,
R128, R132). R128 names bits 9:4 for a running count alone: for an entry with a reserved bit or a faulty BASE they are its index too
(DESIGN CHOICE, log 94). A table that is sealed or uncorrectable comes before an offence of `mp0` to `mp3`, and TINFO is 9 (DESIGN
CHOICE, log 95). -/
def State.mcallStops (s : State) (i n : Nat) : List Stop :=
  let c := s.cur
  let a : MArgs := ⟨(List.range 8).map c.mpreg⟩
  if !c.store.contains i then [s.stop 4 0 (.trap 1 (fieldInfo .mx 192))]
  else if c.routine.isSome then s.holdIf true 4
  else
    let table := grouped i && decide (1 ≤ a.g) && decide (a.g ≤ 16) && a.gAt 0 % 8 == 0 && decide (a.gAt a.g ≤ 2 ^ 22)
    let slots := if table then [a.gAt 0 / 65536, (a.gAt a.g - 1) / 65536] else []
    let words := if table then c.groupTable a else []
    let counts := words.map (· % 256)
    let sealed := slots.any fun n => c.slotSealed (n * 65536)
    let par := s.srcStops (a.sources i n)
    if !sealed && slots.any (fun n => (c.slot n).state != .ready || (c.slot n).zeroing) then s.holdIf true 0
    else if !par.isEmpty then par
    else if sealed then [s.stop 9 (64 * 9) (.trap 5 9)]
    else if table && c.scratchBad (a.gAt 0) (8 * a.g) then [s.stop 9 (64 * 9) (.consume (.slot (a.gAt 0 / 65536)) 9)]
    else
      let tbl := (words.zipIdx.filter fun x => decide (2 ^ 30 ≤ x.1)).map (fun x => (9, x.2)) ++
        (match passes128 counts 0 0 with | some k => [(9, k)] | none => [])
      let bad := if isEpi i then a.epiBad i
        else tbl ++ a.prodBad i c.gix counts (words.map fun w => w / 256 % 2 ^ 22)
      match least (bad.map fun x => 64 * x.1 + x.2) with
      | none => []
      | some k => [s.stop 9 k (.trap 12 (BitVec.ofNat 64 (k / 64 + k % 64 * 16)))]

/-- `mcall` (R126). -/
def mcallOp (i : Nat) (x : ClsMC) (s : State) : Result :=
  issueOp (fun s => s.mcallStops i x.acc.toNat)
    (fun s => s.modCur fun c =>
      let a : MArgs := ⟨(List.range 8).map c.mpreg⟩
      let n := x.acc.toNat
      let r : Routine :=
        { idx := i, target := n, mps := a.mps, gix := c.gix
          counts := if grouped i then (c.groupTable a).map (· % 256) else []
          group := 0, row := 0, wb := false, kb := 0xFFFF, s := 0, acqd := false, acq := x.acq, rel := x.rel
          scope := x.scope, sig := c.sigOf s.ctx.ws, base := none, seg := c.seg.num, before := c.mark, fixed := false }
      { (c.setAccWm n 0) with routine := some r }) s

/-! ## The other MX ops (R125, R129) -/

/-- Whether a running EADD reads `accn` as its source. -/
def Core.eaddReads (c : Core) (n : Nat) : Bool :=
  match c.routine with
  | some r => r.idx == 15 && (MArgs.mk r.mps).fld 4 54 2 == n
  | none => false

/-- `mpw`. -/
def execMpw (x : ClsMP) (s : State) : Result :=
  issueOp (fun s => s.srcStops [.s x.s.toNat 3])
    (fun s => (s.modCur fun c => c.push .mp x.mp.toNat 1 (Word.toVec (c.sreg x.s.toNat)) none).owe 1) s

/-- `mpr`. -/
def execMpr (x : ClsMP) (s : State) : Result :=
  issueOp (fun s => s.srcStops [.mp x.mp.toNat 0]) (fun s => (s.putS x.s.toNat 1 (s.cur.mpreg x.mp.toNat)).owe 1) s

/-- `mclr`. -/
def execMclr (x : ClsMA) (s : State) : Result :=
  issueOp (fun s => s.holdIf (s.cur.accWm x.acc.toNat != 128 || s.cur.eaddReads x.acc.toNat) 4)
    (fun s => (s.modCur fun c => c.clearAcc x.acc.toNat).owe 1) s

/-- `mrow`. -/
def execMrow (x : ClsMA) (s : State) : Result :=
  issueOp (fun s => s.srcStops [.s x.s.toNat 7, .acc x.acc.toNat 0] ++
      (if s.clean x.s then
        if 127 < (s.sv x.s).toNat then [s.stop 9 7 (.trap 12 0x78)]
        else s.holdIf (decide (s.cur.accWm x.acc.toNat ≤ (s.sv x.s).toNat)) 4
      else []))
    (fun s => (s.putV x.v.toNat 4 (s.cur.accRow x.acc.toNat (s.sv x.s).toNat)).owe 4) s

/-- `mwm`. -/
def execMwm (x : ClsMA) (s : State) : Result :=
  issueOp (fun _ => []) (fun s => (s.putS x.s.toNat 1 (BitVec.ofNat 64 (s.cur.accWm x.acc.toNat))).owe 1) s

/-- `mflg`. -/
def execMflg (x : ClsMA) (s : State) : Result :=
  issueOp (fun s => s.holdIf (s.cur.accWm x.acc.toNat != 128) 4)
    (fun s => (s.putS x.s.toNat 1 (s.cur.accFlags x.acc.toNat)).owe 1) s

/-- `mgix`. -/
def execMgix (x : ClsMA) (s : State) : Result :=
  issueOp (fun s => s.srcStops [.v x.v.toNat 2] ++
      s.holdIf (match s.cur.routine with | some r => gathered r.idx | none => false) 4)
    (fun s => (s.modCur fun c => { c with gix := (c.vreg x.v.toNat).setWidth 1024, bad := c.bad.filter (· != .gix) }).owe 1) s

/-- `mwait`. -/
def execMwait (x : ClsMA) (s : State) : Result :=
  issueOp (fun s => s.holdIf (s.cur.accWm x.acc.toNat != 128) 4) (fun s => s.owe 1) s

/-- `mstop` (R129): the routine that targets the accumulator ends and the accumulator is cleared. Its signal is made in this cycle,
or, where its release has still something to wait for, when that is done: `mstop` does not hold for it (DEDUCED, log 99). -/
def execMstop (x : ClsMA) (s : State) : Result :=
  let n := x.acc.toNat
  issueOp (fun s => s.holdIf (s.cur.eaddReads n && (match s.cur.routine with | some r => r.target != n | none => false)) 4)
    (fun s =>
      let free (r : Routine) : Bool := !r.rel || s.engineReleased s.ctx.core r.before r.scope
      (s.modCur fun c =>
        match c.routine with
        | some r =>
          if r.target ≠ n then c.clearAcc n
          else if free r then (({ c with routine := none } : Core).signal r.sig).clearAcc n
          else ({ c with routine := none, relSigs := c.relSigs ++ [⟨r.before, r.scope, r.sig⟩] } : Core).clearAcc n
        | none => c.clearAcc n).owe 1) s

/-! ## Steps (R137) -/

/-- The parameters of the routine in flight. -/
def Routine.args (r : Routine) : MArgs := ⟨r.mps⟩

/-- How a step finds the scratchpad places it touches (R140, R142). -/
inductive Touch where
  | ok | wait | fail
  deriving DecidableEq, Repr

/-- Reads and writes of a step: a slot in transfer or being zeroed waits, a sealed slot or a bad word fails a read. -/
def Core.touches (c : Core) (reads writes : List (Nat × Nat)) : Touch :=
  let busy (a : Nat × Nat) : Bool :=
    [a.1 / 65536, (a.1 + a.2 - 1) / 65536].any fun n =>
      let e := c.slot n
      e.zeroing || e.state == .filling || e.state == .draining
  if (reads ++ writes).any busy then .wait
  else if reads.any fun a => c.slotSealed a.1 || c.slotSealed (a.1 + a.2 - 1) || c.scratchBad a.1 a.2 then .fail
  else .ok

/-- The planes to skip, as they stand (R82, R83). -/
def Core.planesNow (c : Core) (b : Nat) : Nat :=
  let d := (c.cr 0xF).toNat
  if fieldOf d 3 1 = 1 then Nat.min (Nat.min (fieldOf d 0 3) (fieldOf d 4 3)) (b - 1) else 0

/-- The planes that the step in hand skips: those that a freeze has recorded, else as they stand for a BFP float block, none for others
(R82, R134, R137). -/
def Routine.planes (r : Routine) (c : Core) : Nat :=
  if r.fixed then r.s else if isBfp r.idx then c.planesNow r.args.bA else 0

/-- A routine at the latch of a freeze: the step in hand is recorded with its planes (R138). -/
def Routine.record (r : Routine) (c : Core) : Routine :=
  { r with s := if !r.wb && r.kb != 0xFFFF then r.planes c else 0, fixed := true }

/-- Exact sum of a block of BFP products (R79, R80, R82): the A mantissas lose their low `p` bits. -/
def bfpSum (bA bB p ra rb : Nat) : FVal :=
  if ra % 256 = 255 ∨ rb % 256 = 255 then .nan
  else
    let t : Int := ((List.range 32).map fun i =>
      let m := toSigned bA (ra / 2 ^ (8 + bA * i) % 2 ^ bA)
      let m' := m / Int.ofNat (2 ^ p) * Int.ofNat (2 ^ p)
      m' * toSigned bB (rb / 2 ^ (8 + bB * i) % 2 ^ bB)).sum
    .fin (t < 0) t.natAbs
      (Int.ofNat (ra % 256) + Int.ofNat (rb % 256) - 254 - Int.ofNat (bA - 2) - Int.ofNat (bB - 2))

/-- Exact sum of a block of 16-bit products (R79, R80): an exact zero is +0. -/
def halfSum (f : Fmt) (ra rb : Nat) : FVal :=
  let t := ((splitNat 16 32 ra).zip (splitNat 16 32 rb)).foldl
    (fun acc x => FVal.add .rne acc ((f.decode x.1).mul (f.decode x.2))) (.fin false 0 0)
  match t with
  | .fin _ 0 e => .fin false 0 e
  | v => v

/-- Sum of a block of mantissa products (R79). -/
def intSum (bA bB ra rb : Nat) : Int :=
  ((List.range 32).map fun i =>
    toSigned bA (ra / 2 ^ (8 + bA * i) % 2 ^ bA) * toSigned bB (rb / 2 ^ (8 + bB * i) % 2 ^ bB)).sum

/-- Whether a binary32 code is an infinity. -/
def isInf32 (n : Nat) : Bool := n % 2 ^ 31 == 0x7F800000

/-- Whether a binary32 code is finite. -/
def isFin32 (n : Nat) : Bool := decide (n % 2 ^ 31 < 0x7F800000)

/-- An element of binary32 takes a value with one rounding: its new code, and whether OVF is set (R79, R81). -/
def accFloat (old : Nat) (v : FVal) : Nat × Bool :=
  let n := fmt32.roundVal .rne 0 v
  (n, isFin32 old && isInf32 n)

/-- An element of `.s32` takes a value with the clamp of R81: its new code, and whether SAT is set. -/
def accInt (v : Int) : Nat × Bool :=
  let w := clampInt (-2147483648) 2147483647 v
  (ofInt 32 w, w != v)

/-- A row of an accumulator as codes. -/
def Core.accCodes (c : Core) (n r : Nat) : List Nat := Vec.elems 32 (c.accRow n r)

/-- A row of an accumulator is replaced, with what it marks. -/
def Core.putRow (c : Core) (n r : Nat) (int : Bool) (new : List (Nat × Bool)) : Core :=
  let c := c.setAccRow n r (Vec.ofElems 32 (new.map (·.1)))
  if int then c.markSat n (new.any (·.2)) else c.markOvf n (new.any (·.2))

/-- The A row that feeds output row `i`. -/
def Routine.aRow (r : Routine) (i : Nat) : Nat := if gathered r.idx then r.gix.toNat / 256 ^ i % 256 else i

/-- The B operand of the steps in hand. -/
def Routine.bBase (r : Routine) : Nat := if grouped r.idx then r.base.getD 0 else r.args.fld 1 0 22

/-- The first row and the number of rows of the group in hand, or of the whole product. -/
def Routine.span (r : Routine) : Nat × Nat :=
  if grouped r.idx then ((r.counts.take r.group).sum, r.counts.getD r.group 0) else (0, r.args.m)

/-- One K-block of a product (R134, R135). -/
def Core.kBlock (c : Core) (r : Routine) : Core :=
  let a := r.args
  let (r0, m) := r.span
  let rd (at_ n : Nat) : Nat := leVal (c.scratch at_ n)
  let bs := (List.range a.n).map fun j => rd (a.bAt r.idx r.bBase r.kb j) (a.rB r.idx)
  let zero := grouped r.idx && r.kb == 0
  let f16 := if r.idx = 6 ∨ r.idx = 7 then fmt16 else fmtB16
  let c := (List.range m).foldl (fun c i =>
    let i := r0 + i
    let ra := rd (a.aAt r.idx (r.aRow i) r.kb) (a.rA r.idx)
    let old := c.accCodes r.target i
    let new := (old.zipIdx).map fun x =>
      match bs[x.2]? with
      | none => (x.1, false)
      | some rb =>
        let o := if zero then 0 else x.1
        if isIntR r.idx then accInt (toSigned 32 o + intSum a.bA a.bB ra rb)
        else if isBfp r.idx then accFloat o (FVal.add .rne (fmt32.decode o) (bfpSum a.bA a.bB r.s ra rb))
        else accFloat o (FVal.add .rne (fmt32.decode o) (halfSum f16 ra rb))
    c.putRow r.target i (isIntR r.idx) new) c
  if isBfp r.idx ∧ 0 < r.s then c.setCr 0xF (c.cr 0xF ||| 0x80) else c

/-- The places a K-block reads. -/
def Routine.blockReads (r : Routine) : List (Nat × Nat) :=
  let a := r.args
  let (r0, m) := r.span
  ((List.range m).map fun i => (a.aAt r.idx (r.aRow (r0 + i)) r.kb, a.rA r.idx)) ++
    (List.range a.n).map fun j => (a.bAt r.idx r.bBase r.kb j, a.rB r.idx)

/-- The routine ends: the watermark, and its signal (R126, R127). -/
def Core.endRoutine (c : Core) (r : Routine) : Core :=
  (({ c with routine := none } : Core).setAccWm r.target 128).signal r.sig

/-- The routine fails (R142). -/
def Core.failRoutine (c : Core) (r : Routine) : Core :=
  let fill : Nat := if r.args.asInt r.idx then 0 else 0x7FC00000
  let row := Vec.ofElems 32 (List.replicate 64 fill)
  let c := (List.range 128).foldl (fun c i => c.setAccRow r.target i row) c
  let c := (({ c with routine := none } : Core).setAccWm r.target 128).signalFail r.sig
  if grouped r.idx ∧ r.args.fld 3 35 1 = 1 then c.signalFail ⟨1, r.args.fld 3 27 8, r.seg⟩ else c

/-- From group `g` on: groups without rows make their signal at once; the next with rows begins with its own setup (Table 6-7). After the last the routine ends, at
once where the watermark stands at 128 already, else in a step of its own (Table 6-10). -/
def Core.nextGroup (c : Core) (r : Routine) : List Nat → Nat → Core
  | [], g =>
    let e := r.counts.sum
    if e = 128 then c.endRoutine r else { c with routine := some { r with group := g - 1, wb := true, row := e } }
  | n :: ns, g =>
    if n = 0 then
      Core.nextGroup (if r.args.fld 3 35 1 = 1 then c.signal ⟨1, r.args.fld 3 27 8, r.seg⟩ else c) r ns (g + 1)
    else { c with routine := some { r with group := g, kb := 0xFFFF, wb := false, row := 0, base := none } }

/-- A value of the vectors of EBIAS and ESCALE. -/
def Core.vecAt (c : Core) (base j : Nat) : Nat := leVal (c.scratch (base + 4 * j) 4)

/-- What an epilogue makes of element (i, j) of its accumulator, and what that marks (Table 6-6). -/
def Core.epiElem (c : Core) (r : Routine) (i j old : Nat) : Nat × Bool :=
  let a := r.args
  let int := a.asInt r.idx
  match r.idx with
  | 12 =>
    let b := c.vecAt (a.fld 5 0 22) j
    if int then accInt (toSigned 32 old + toSigned 32 b) else accFloat old (FVal.add .rne (fmt32.decode old) (fmt32.decode b))
  | 13 =>
    accFloat old (FVal.add .rne (FVal.mul (fmt32.decode old) (fmt32.decode (c.vecAt (a.fld 5 0 22) j)))
      (fmt32.decode (c.vecAt (a.fld 5 22 22) j)))
  | 14 => if int then (if 2 ^ 31 ≤ old then 0 else old, false) else (fmt32.minMax true old 0, false)
  | 15 =>
    let b := (c.accCodes (a.fld 4 54 2) i).getD j 0
    if int then accInt (toSigned 32 old + toSigned 32 b) else accFloat old (FVal.add .rne (fmt32.decode old) (fmt32.decode b))
  | 16 => (leVal (c.scratch (a.oAt i + 4 * j) 4), false)
  | _ => (old, false)

/-- What an epilogue writes to the scratchpad for row `i`: places and bytes, in order (Table 6-6). -/
def Core.epiWrites (c : Core) (r : Routine) (i : Nat) : List (Nat × List Byte) :=
  let a := r.args
  let src : Ty := if a.asInt r.idx then .s32 else .f32
  let row := c.accCodes r.target i
  match r.idx with
  | 17 =>
    let w := a.ty.width / 8
    (row.zipIdx).map fun x => (a.oAt i + x.2 * w, leBytes w (convert src a.ty a.rm (a.draw i x.2) x.1))
  | 18 =>
    let n := bfpBytes a.eb
    (List.range 2).map fun h =>
      (a.oAt i + h * n, leBytes n (bfpEncode a.eb a.rm
        (((row.zipIdx).drop (32 * h)).take 32 |>.map fun x => (fmt32.decode x.1, a.draw i x.2))))
  | 19 =>
    let m := match row with
      | [] => 0
      | x :: xs => xs.foldl (fun m y =>
          if a.asInt r.idx then (if toSigned 32 m < toSigned 32 y then y else m) else fmt32.minMax true m y) x
    [(a.oAt i, leBytes 4 m)]
  | _ => []

/-- The places an epilogue reads for row `i`. -/
def Routine.epiReads (r : Routine) (i : Nat) : List (Nat × Nat) :=
  let a := r.args
  match r.idx with
  | 12 => [(a.fld 5 0 22, 256)]
  | 13 => [(a.fld 5 0 22, 256), (a.fld 5 22 22, 256)]
  | 16 => [(a.oAt i, 256)]
  | _ => []

/-- Four rows of an epilogue (R136): values depend on what stood before the step. -/
def Core.epiStep (c : Core) (r : Routine) : Core :=
  let rows := (List.range 4).map (r.row + ·)
  let new := rows.map fun i => (i, ((c.accCodes r.target i).zipIdx).map fun x => c.epiElem r i x.2 x.1)
  let writes := rows.flatMap fun i => c.epiWrites r i
  let c := if [17, 18, 19].contains r.idx then c
    else new.foldl (fun c x => c.putRow r.target x.1 (r.args.asInt r.idx) x.2) c
  writes.foldl (fun c w => c.scratchWrite w.1 w.2 c.seqb) c

/-- A row count raised by a write-back or an epilogue: the routine goes on or ends. -/
def Core.raiseWm (c : Core) (r : Routine) (w : Nat) : Core :=
  if 128 ≤ w then c.endRoutine r
  else { (c.setAccWm r.target w) with routine := some { r with row := w } }

/-- One step of the routine of a core (Table 6-7): nothing while it waits on a slot. Operands and the planes to skip are read as the
step runs (R137). BASE of a group is read as its first step begins (R135); where the program has rewritten it since `mcall` so that B
leaves the scratchpad or lies across slots, the step reads on with no further check, since R132 checks at issue alone (DESIGN CHOICE,
log 96). -/
def Core.routineStep (c : Core) (r : Routine) : Core :=
  let a := r.args
  let go (reads writes : List (Nat × Nat)) (f : Unit → Core) : Core :=
    match c.touches reads writes with
    | .wait => c
    | .fail => c.failRoutine r
    | .ok => f ()
  if !r.wb && r.kb = 0xFFFF then
    let own := r.acqd && decide (0 < r.counts.getD r.group 0)
    let r := { r with acqd := true }
    if isEpi r.idx then { c with routine := some { r with wb := true, row := 0, kb := 0 } }
    else if grouped r.idx then
      -- a group's own setup follows the routine's, or the group before it
      if own then { c with routine := some { r with kb := 0 } } else c.nextGroup r (r.counts.drop r.group) r.group
    else
      let c := if !fromZero r.idx then c
        else (List.range a.m).foldl (fun c i =>
          c.setAccRow r.target i (Vec.ofElems 32 (((c.accCodes r.target i).zipIdx).map fun x => if x.2 < a.n then 0 else x.1))) c
      { c with routine := some { r with kb := 0 } }
  else if isEpi r.idx then
    let rows := (List.range 4).map (r.row + ·)
    go (rows.flatMap r.epiReads) (rows.flatMap fun i => (c.epiWrites r i).map fun w => (w.1, w.2.length))
      fun _ => (c.epiStep r).raiseWm r (r.row + 4)
  else if !r.wb then
    let tab := if grouped r.idx ∧ r.base.isNone then [(a.gAt r.group, 8)] else []
    let r := if tab = [] then r else { r with base := some (leVal (c.scratch (a.gAt r.group) 8) / 256 % 2 ^ 22) }
    go (tab ++ r.blockReads) [] fun _ =>
      let r := { r with s := r.planes c, fixed := false }
      let c := c.kBlock r
      if r.kb + 1 < a.kb then { c with routine := some { r with kb := r.kb + 1 } }
      else { c with routine := some { r with wb := true, row := r.span.1 } }
  else if grouped r.idx then
    let stop := r.span.1 + r.span.2
    let w := Nat.min (r.row + 8) stop
    if stop ≤ r.row then c.endRoutine r
    else if w < stop then { (c.setAccWm r.target w) with routine := some { r with row := w } }
    else
      let c := c.setAccWm r.target w
      let c := if a.fld 3 35 1 = 1 then c.signal ⟨1, a.fld 3 27 8, r.seg⟩ else c
      c.nextGroup r (r.counts.drop (r.group + 1)) (r.group + 1)
  else c.raiseWm r (r.row + 8)

/-- Signals of stopped routines whose release is done are made (R129). -/
def State.payReleased (s : State) (core : Nat) : State :=
  let due := (s.core core).relSigs.filter fun x => s.engineReleased core x.before x.scope
  s.modCore core fun c => due.foldl (fun c x => c.signal x.sig) { c with relSigs := c.relSigs.filter fun x => !due.contains x }

/-- A routine runs one step (R137); it stops only at a freeze of its core (R124). The step that ends it, or at which it fails, waits
for its release (R127, R142): the whole of it, its rows and its writes as well as its signal (DESIGN CHOICE, log 99). -/
def execRoutineStep (core : Nat) (s : State) : Result :=
  let s := s.payReleased core
  let c := s.core core
  match c.routine with
  | none => .next s
  | some r =>
    if c.run = .stopping ∨ c.run = .frozen ∨ c.run = .quarantined then .next s
    else
      let s := if !r.wb ∧ r.kb = 0xFFFF ∧ r.acq ∧ !r.acqd then s.acquire (dieOf core) r.scope else s
      let c := (s.core core).routineStep r
      if c.routine.isNone && r.rel && !s.engineReleased core r.before r.scope then .next s
      else .next (s.setCore core c)

/-! ## mcall by routine (Table 6-3) -/

/-- `mcall` of BMM. -/
def execMcallBmm (x : ClsMC) (s : State) : Result := mcallOp 0 x s

/-- `mcall` of BMMZ. -/
def execMcallBmmz (x : ClsMC) (s : State) : Result := mcallOp 1 x s

/-- `mcall` of BMMG. -/
def execMcallBmmg (x : ClsMC) (s : State) : Result := mcallOp 2 x s

/-- `mcall` of BMMGZ. -/
def execMcallBmmgz (x : ClsMC) (s : State) : Result := mcallOp 3 x s

/-- `mcall` of HMM. -/
def execMcallHmm (x : ClsMC) (s : State) : Result := mcallOp 4 x s

/-- `mcall` of HMMZ. -/
def execMcallHmmz (x : ClsMC) (s : State) : Result := mcallOp 5 x s

/-- `mcall` of FMM. -/
def execMcallFmm (x : ClsMC) (s : State) : Result := mcallOp 6 x s

/-- `mcall` of FMMZ. -/
def execMcallFmmz (x : ClsMC) (s : State) : Result := mcallOp 7 x s

/-- `mcall` of IMM. -/
def execMcallImm (x : ClsMC) (s : State) : Result := mcallOp 8 x s

/-- `mcall` of IMMZ. -/
def execMcallImmz (x : ClsMC) (s : State) : Result := mcallOp 9 x s

/-- `mcall` of GROUPED. -/
def execMcallGrouped (x : ClsMC) (s : State) : Result := mcallOp 10 x s

/-- `mcall` of GROUPEDH. -/
def execMcallGroupedh (x : ClsMC) (s : State) : Result := mcallOp 11 x s

/-- `mcall` of EBIAS. -/
def execMcallEbias (x : ClsMC) (s : State) : Result := mcallOp 12 x s

/-- `mcall` of ESCALE. -/
def execMcallEscale (x : ClsMC) (s : State) : Result := mcallOp 13 x s

/-- `mcall` of ERELU. -/
def execMcallErelu (x : ClsMC) (s : State) : Result := mcallOp 14 x s

/-- `mcall` of EADD. -/
def execMcallEadd (x : ClsMC) (s : State) : Result := mcallOp 15 x s

/-- `mcall` of ELOAD. -/
def execMcallEload (x : ClsMC) (s : State) : Result := mcallOp 16 x s

/-- `mcall` of ECVT. -/
def execMcallEcvt (x : ClsMC) (s : State) : Result := mcallOp 17 x s

/-- `mcall` of EBFP. -/
def execMcallEbfp (x : ClsMC) (s : State) : Result := mcallOp 18 x s

/-- `mcall` of EROWMAX. -/
def execMcallErowmax (x : ClsMC) (s : State) : Result := mcallOp 19 x s

end Sys2Proof.Machine
end

