-- ==== Sys2Proof/Machine/Snapshot.lean ====
section
/-! DEFINITION. The snapshot space (R62 to R65, Table 2-10, Table 6-8, Table 7-4): its words as a view of a core, the tests
that a restore image passes (R255), and the core that an image describes. -/

namespace Sys2Proof.Machine

/-! ## Words (Table 2-10) -/

/-- A stack of fields: the first at bit 0, each with its width. -/
def packFields : List (Nat × Nat) → Nat
  | [] => 0
  | (w, v) :: t => v % 2 ^ w + 2 ^ w * packFields t

/-- Cause nibbles of sixteen registers. -/
def nibbles (f : Nat → Option Poison) (r0 : Nat) : Nat :=
  packFields ((List.range 16).map fun i => (4, match f (r0 + i) with | some p => p.cause.toNat | none => 0))

/-- Poison bits of `n` registers. -/
def poisonBits (f : Nat → Option Poison) (n : Nat) : Nat :=
  packFields ((List.range n).map fun i => (1, (f i).isSome.toNat))

/-- A vector's 64-bit word `l`. -/
def vecWord (v : Vec) (l : Nat) : Word := (v >>> (64 * l)).setWidth 64

/-- The entry of a stream's data queue that stands in ring place `e`. -/
def Stream.ring (q : Stream) (e : Nat) : Option QEntry := q.dq[(e + 16 - q.head) % 16]?

/-- The address that a stored place shows in the snapshot (log 15). -/
def placeBits (unit off : Nat) : Nat := (unit * 65536 + off) % 2 ^ 48

/-- A word of a stream's state (Table 2-10, Table 7-4). -/
def Stream.word (q : Stream) (i : Nat) : Word :=
  if i < 4 then (q.desc >>> (64 * i)).setWidth 64
  else match i with
    | 4 => BitVec.ofNat 64 q.i0
    | 5 => BitVec.ofNat 64 q.i1
    | 6 => BitVec.ofNat 64 q.i2
    | 7 => BitVec.ofNat 64 (packFields
        [(7, q.aq.length), (4, q.head), (5, q.dq.length), (8, q.cur), (1, q.done.toNat), (1, q.zps.toNat)])
    | _ => match (q.aq.filter (·.sent))[i - 8]? with
      | some a => match a.refs with
        | r :: _ => BitVec.ofNat 64 (placeBits r.unit r.off)
        | [] => 0
      | none => 0

/-- The bytes of a store-buffer entry that have not committed, in order. -/
def SsbEntry.bytes (e : SsbEntry) : List Byte := e.parts.flatMap (·.data)

/-- Bytes of the store buffer as its data words show them: each entry padded to its charge (R149; log 15). -/
def Core.ssbBytes (c : Core) : List Byte :=
  c.ssb.flatMap fun e => e.bytes ++ List.replicate (chargeOf e.bytes.length - e.bytes.length) 0

/-- A directory word of the store buffer. -/
def Core.ssbDir (c : Core) (i : Nat) : Word :=
  match c.ssb[i]? with
  | some e =>
    let a := match e.parts with
      | p :: _ => placeBits p.unit p.off
      | [] => 0
    BitVec.ofNat 64 (a + e.bytes.length % 256 * 2 ^ 48 + 2 ^ 63)
  | none => 0

/-- A matrix word (Table 6-8). -/
def Core.matrixWord (c : Core) (i : Nat) : Word :=
  if i < 4 then BitVec.ofNat 64 (c.accWm i + (Tab.get false c.ovf i).toNat * 256 + (Tab.get false c.sat i).toNat * 512)
  else if 13 ≤ i ∧ i < 29 then (c.gix >>> (64 * (i - 13))).setWidth 64
  else match c.routine with
    | none => 0
    | some r =>
      let r := r.record c
      if i = 4 then BitVec.ofNat 64 (packFields
        [(5, r.idx), (1, 1), (2, r.target), (16, r.kb), (3, r.s), (1, r.wb.toNat), (7, r.row), (4, r.group), (1, r.acqd.toNat),
          (1, r.acq.toNat), (1, r.rel.toNat), (3, Scope.code r.scope)])
      else if i < 13 then r.mps.getD (i - 5) 0
      else if i < 31 then BitVec.ofNat 64 (packFields ((List.range 8).map fun g => (8, r.counts.getD (8 * (i - 29) + g) 0)))
      else BitVec.ofNat 64 (r.sig.sem % 256 + r.sig.inc % 256 * 256)

/-- A word of an outstanding-load entry (R64). -/
def Load.word (x : Load) (i : Nat) : Word :=
  match i with
  | 0 => x.word0
  | 1 => x.addr
  | 2 => x.w2
  | _ => x.w3

/-- Word `i` of the snapshot space of core `c`, whose record is `k` (R62, R191). -/
def State.snapWord (s : State) (c : Nat) (k : Core) (i : Nat) : Word :=
  if i = 0 then BitVec.ofNat 64 (1 + c * 65536 + k.coupled.toNat * 2 ^ 25 + k.rank * 2 ^ 26)
  else if i = 1 then
    if k.run = .running ∧ k.atH then (k.cr 0xA) &&& 0x1FFF
    else BitVec.ofNat 64 (k.pc % 8192 + k.holding.toNat * 8192 + (if k.holding then k.holdCond % 16 else 0) * 16384)
  else if i = 2 then k.p.setWidth 64
  else if i = 3 then BitVec.ofNat 64 (poisonBits k.spoi 64)
  else if i = 4 then BitVec.ofNat 64 (poisonBits k.vpoi 32)
  else if i < 9 then BitVec.ofNat 64 (nibbles k.spoi (16 * (i - 5)))
  else if i < 0xB then BitVec.ofNat 64 (nibbles k.vpoi (16 * (i - 9)))
  else if i < 0x10 then 0
  else if i < 0x50 then k.sreg (i - 0x10)
  else if i < 0x58 then k.kreg (i - 0x50)
  else if i < 0x60 then k.mpreg (i - 0x58)
  else if i < 0x80 then (if i - 0x60 < 0x16 then s.creg c (i - 0x60) else 0)
  else if i < 0xC0 then
    BitVec.ofNat 64 (packFields ((List.range 4).map fun n => (16, (k.sema (4 * (i - 0x80) + n)).count)))
  else if i < 0xC4 then
    BitVec.ofNat 64 (packFields ((List.range 64).map fun n => (1, (k.sema (64 * (i - 0xC0) + n)).poison.toNat)))
  else if i < 0x100 then 0
  else if i < 0x140 then (k.slot (i - 0x100)).word
  else if i < 0x160 then
    let h := k.chan ((i - 0x140) / 4)
    match i % 4 with
    | 0 => h.base
    | 1 => h.limit
    | 2 => h.wmark
    | _ => h.head
  else if i < 0x180 then k.matrixWord (i - 0x160)
  else if i < 0x200 then Tab.get 0 k.late i
  else if i < 0x300 then
    match k.pend[(i - 0x200) / 2]? with
    | some x => if i % 2 = 0 then x.word0 else x.w1
    | none => 0
  else if i < 0x400 then
    match k.loads[(i - 0x300) / 4]? with
    | some x => x.word (i % 4)
    | none => 0
  else if i < 0x800 then vecWord (k.vreg ((i - 0x400) / 32)) (i % 32)
  else if i < 0x1000 then vecWord (Tab.get 0 k.pvec ((i - 0x800) / 32)) (i % 32)
  else if i < 0x1100 then (k.stream ((i - 0x1000) / 16)).word (i % 16)
  else if i < 0x2000 then 0
  else if i < 0x4000 then
    match (k.stream ((i - 0x2000) / 512)).ring ((i - 0x2000) / 32 % 16) with
    | some e => vecWord e.val (i % 32)
    | none => 0
  else if i < 0x8000 then vecWord (k.accRow ((i - 0x4000) / 4096) ((i - 0x4000) / 32 % 128)) (i % 32)
  else if i < 0x9000 then BitVec.ofNat 64 (leVal ((k.ssbBytes.drop (8 * (i - 0x8000))).take 8))
  else if i < 0x9400 then k.ssbDir (i - 0x9000)
  else 0

/-! ## The tests of a restore (R255) -/

/-- The tests of R193 on the first word of a load entry. -/
def loadWordOk (w : Nat) : Bool := decide (fieldOf w 2 3 ≤ 5) && fieldOf w 32 32 == 0

/-- The tests of R193 on the first word of a pending-write entry; zero is the empty entry. -/
def pendWordOk (w : Nat) : Bool :=
  w == 0 || (decide (fieldOf w 1 3 ≤ 5) && decide (1 ≤ fieldOf w 10 12) && decide (fieldOf w 10 12 ≤ 17) && fieldOf w 33 31 == 0)

/-- Whether a restore image is accepted for a target core (R255). `w` gives the image's words. -/
def State.restoreOk (s : State) (c : Nat) (w : Nat → Nat) : Bool :=
  let k := s.core c
  let range (lo n : Nat) (f : Nat → Bool) : Bool := (List.range n).all fun i => f (lo + i)
  fieldOf (w 0) 0 16 == 1 && fieldOf (w 0) 28 36 == 0 && bitOf (w 0) 25 == k.coupled && fieldOf (w 0) 26 2 == k.rank &&
  fieldOf (w 1) 18 46 == 0 && decide (fieldOf (w 1) 14 4 ≤ 7) && fieldOf (w 2) 16 48 == 0 &&
  fieldOf (w 4) 32 32 == 0 && w 0x62 == (k.cr 2).toNat &&
  range 0xB 5 (fun i => w i == 0) && range 0xC4 0x3C (fun i => w i == 0) && range 0x1100 0xF00 (fun i => w i == 0) &&
  range 0x60 0x20 (fun i => if i < 0x76 then i == 0x63 || BitVec.ofNat 64 (w i) &&& ~~~(cregMask (i - 0x60)) == 0 else w i == 0) &&
  range 0x100 64 (fun i => fieldOf (w i) 34 30 == 0 && fieldOf (w i) 27 5 == 0 && fieldOf (w i) 21 2 == 0 && !bitOf (w i) 0 &&
    fieldOf (w i) 32 2 != 1 && fieldOf (w i) 32 2 != 3) &&
  range 0 8 (fun h =>
    let b := w (0x140 + 4 * h)
    let l := w (0x141 + 4 * h)
    let m := w (0x142 + 4 * h)
    fieldOf b 48 15 == 0 && fieldOf l 48 15 == 0 && fieldOf m 48 15 == 0 &&
      (decide (l ≤ b) || (decide (b ≤ m) && decide (m ≤ l)))) &&
  range 0x160 4 (fun i => fieldOf (w i) 10 54 == 0 && decide (fieldOf (w i) 0 8 ≤ 128)) && fieldOf (w 0x164) 45 19 == 0 &&
  fieldOf (w 0x17F) 16 48 == 0 &&
  range 0 128 (fun i => pendWordOk (w (0x200 + 2 * i))) && range 0 64 (fun i => loadWordOk (w (0x300 + 4 * i))) &&
  range 0 16 (fun n =>
    let x := w (0x1007 + 16 * n)
    fieldOf (w (0x1003 + 16 * n)) 24 40 == 0 && fieldOf x 26 38 == 0 && decide (fieldOf x 0 7 ≤ 64) && decide (fieldOf x 11 5 ≤ 16)) &&
  range 0x9000 0x400 (fun i => fieldOf (w i) 56 7 == 0)

/-! ## The core of an image (R65) -/

/-- A vector from 32 words. -/
def vecOfWords (w : Nat → Nat) (i : Nat) : Vec := BitVec.ofNat 2048 (packFields ((List.range 32).map fun l => (64, w (i + l))))

/-- The poison that a bit and a nibble record. -/
def poisonOf (bit : Bool) (nib : Nat) : Option Poison := if bit then some ⟨BitVec.ofNat 4 nib, .core⟩ else none

/-- A table of `n` values by their numbers, canonical. -/
def tabOf [DecidableEq α] (d : α) (n : Nat) (f : Nat → α) : Tab α :=
  ((List.range n).map fun i => (i, f i)).filter fun x => x.2 != d

/-- The generator stands at item `k` (R45, R53). -/
def Stream.at (q : Stream) (k : Nat) : Stream :=
  let d := SDesc.ofBits q.desc
  { q with i0 := k % d.steps 0, i1 := k / d.steps 0 % d.steps 1, i2 := k / d.steps 0 / d.steps 1 }

/-- The stream that its words describe (R45, Table 7-4): what the address queue held is placed again. -/
def streamOf (w : Nat → Nat) (n : Nat) : Stream :=
  let b := 0x1000 + 16 * n
  let w7 := w (b + 7)
  let head := fieldOf w7 7 4
  let desc : BitVec 256 := BitVec.ofNat 256 (packFields ((List.range 4).map fun i => (64, w (b + i))))
  let d := SDesc.ofBits desc
  let pos := w (b + 4) + d.steps 0 * (w (b + 5) + d.steps 1 * w (b + 6))
  let back := d.perEntry * (ceilDiv pos d.perEntry - fieldOf w7 0 7)
  let q : Stream := { (default : Stream) with
    desc := desc, loaded := desc != 0, head := head, done := bitOf w7 24 && fieldOf w7 0 7 == 0, cur := fieldOf w7 16 8
    zps := bitOf w7 25
    made := if d.out then Nat.min d.total (pos + d.perEntry * fieldOf w7 11 5 + fieldOf w7 16 8) else back
    wrote := if d.out then pos else 0
    dq := (List.range (fieldOf w7 11 5)).map fun k =>
      ⟨vecOfWords w (0x2000 + 512 * n + 32 * ((head + k) % 16)), none, false, false, false, 0⟩ }
  q.at (if d.out then pos else back)

/-- The slot-table entry of a word. -/
def slotOf (w : Nat) : SlotEntry :=
  let st : SlotState := match fieldOf w 32 2 with | 0 => .empty | 1 => .filling | 2 => .ready | _ => .draining
  ⟨st, bitOf w 26, fieldOf w 23 3, ⟨fieldOf w 9 12, fieldOf w 1 8⟩, false⟩

/-- The routine that the matrix words record (Table 6-8): the recorded step runs again with the recorded planes. The words hold no BASE
of a group: it is that of `b`, the routine of the core as it was saved, where that is the routine of the words and at the same group,
else it is read anew (log 15). -/
def routineOf (w : Nat → Nat) (seg : Nat) (m : Mark) (b : Option Routine) : Option Routine :=
  let r := w 0x164
  if !bitOf r 5 then none
  else
    let mps := (List.range 8).map fun i => BitVec.ofNat 64 (w (0x165 + i))
    let base := b.bind fun x => if x.idx = fieldOf r 0 5 ∧ x.group = fieldOf r 35 4 ∧ x.mps = mps then x.base else none
    some
      { idx := fieldOf r 0 5, target := fieldOf r 6 2, mps := mps
        gix := BitVec.ofNat 1024 (packFields ((List.range 16).map fun i => (64, w (0x16D + i))))
        counts := (List.range (fieldOf (mps.getD 3 0).toNat 22 5)).map fun g => fieldOf (w (0x17D + g / 8)) (8 * (g % 8)) 8
        group := fieldOf r 35 4, row := fieldOf r 28 7, wb := bitOf r 27, kb := fieldOf r 8 16, s := fieldOf r 24 3
        acqd := bitOf r 39, acq := bitOf r 40, rel := bitOf r 41
        scope := match fieldOf r 42 3 with | 0 => .core | 1 => .quad | 2 => .die | 3 => .pkg | _ => .pod
        sig := ⟨fieldOf (w 0x17F) 8 8, fieldOf (w 0x17F) 0 8, seg⟩, base := base, seg := seg
        before := m, fixed := true }

/-- Stores that the directory and data words record, as flat stores of the open segment, placed from `p0` on (log 15); `n`
entries are left. -/
def storesOf (w : Nat → Nat) (p0 : Nat) : Nat → Nat → Nat → List SsbEntry
  | 0, _, _ => []
  | n + 1, i, at_ =>
    let d := w (0x9000 + i)
    if !bitOf d 63 then []
    else
      let len := fieldOf d 48 8
      let a := fieldOf d 0 48
      let bytes := (List.range len).map fun k => BitVec.ofNat 8 (w (0x8000 + (at_ + k) / 8) / 2 ^ (8 * ((at_ + k) % 8)))
      { pos := p0 + i, tid := 0, parts := [⟨a / 65536, a % 65536, bytes⟩], seg := 0, closed := false, atH := false, loads := 0, port := 0
        bad := 0, sent := false, store := p0 + i, told := false } :: storesOf w p0 n (i + 1) (at_ + chargeOf len)

/-- A stream whose core goes on after a freeze: its outstanding fetches are sent again (R64, R250). -/
def Stream.unsent (q : Stream) : Stream := { q with aq := q.aq.map fun a => { a with sent := false, refs := [] } }

/-- A segment that has no checkpoint and no retry record until the next SEG bundle issues (R292). -/
def Segment.unchecked (g : Segment) : Segment := ⟨g.num + 1, g.opened, none, [], [], []⟩

/-- The hold at a barrier after a freeze: an arrival stays counted, and whether its instance has completed meanwhile is tested anew
(R255). -/
def barTested (b : Option Nat) : Option Nat := if b = some 1 then none else b

/-- A core goes on where its freeze stopped it (R65). -/
def Core.resumed (c : Core) : Core :=
  { c with
    q := c.q.map fun (x : Nat × Stream) => (x.1, x.2.unsent)
    qNew := c.qNew.map fun i => { i with q := i.q.unsent }
    barHold := barTested c.barHold, wres := [] }

/-- Whether two images agree in a range. -/
def sameWords (f g : Nat → Nat) (lo n : Nat) : Bool := (List.range n).all fun i => f (lo + i) == g (lo + i)

/-- The core that an image describes. What its words do not hold comes from `b`, the core as it was saved there, where the
words still are those it was saved with (log 15). -/
def State.imageCore (s : State) (c : Nat) (w : Nat → Nat) (b : Core) : Core :=
  let t := s.core c
  let old (i : Nat) : Nat := (s.snapWord c b i).toNat
  let word (i : Nat) : Word := BitVec.ofNat 64 (w i)
  let keepPend := sameWords w old 0x200 0x100 && sameWords w old 0x800 0x800
  let keepLoads := sameWords w old 0x300 0x100 && sameWords w old 0x800 0x800
  let keepSsb := sameWords w old 0x8000 0x1400
  let pvec := tabOf (0 : Vec) 64 fun i => vecOfWords w (0x800 + 32 * i)
  let pend := if keepPend then b.pend
    else ((List.range 128).map fun i =>
      ({ (default : Pending).setWord0 (word (0x200 + 2 * i)) with w1 := word (0x201 + 2 * i) } : Pending)).filter (·.valid)
  let loads := if keepLoads then b.loads
    else ((List.range 64).map fun i =>
      let x := (default : Load).setWord0 (word (0x300 + 4 * i))
      let addr := word (0x301 + 4 * i)
      { x with
        addr := addr, w2 := word (0x302 + 4 * i), w3 := word (0x303 + 4 * i), unit := .core, performed := x.arrived, seq := b.loadSeq + i
        desc := (b.stream (addr.toNat / 64 % 16)).desc, vi := vecOfWords w (0x400 + 32 * (addr.toNat % 32))
        b := word (0x180 + 2 * x.reg), x := word (0x181 + 2 * x.reg) }).filter (·.valid)
  let creg : Tab Word := tabOf (0 : Word) 0x16 fun i => if i = 3 ∨ i = 0xD ∨ i = 0x10 ∨ i = 0x11 then t.cr i else word (0x60 + i)
  { b with
    s := tabOf (0 : Word) 64 fun i => if i = 0 then 0 else word (0x10 + i)
    sPoi := tabOf (none : Option Poison) 64 fun i => poisonOf (bitOf (w 3) i && i != 0) (fieldOf (w (5 + i / 16)) (4 * (i % 16)) 4)
    p := BitVec.ofNat 16 (w 2) ||| 1
    v := tabOf (0 : Vec) 32 fun i => vecOfWords w (0x400 + 32 * i)
    vPoi := tabOf (none : Option Poison) 32 fun i => poisonOf (bitOf (w 4) i) (fieldOf (w (9 + i / 16)) (4 * (i % 16)) 4)
    k := tabOf (0 : Word) 8 fun i => if i = 0 then 0 else word (0x50 + i)
    mp := tabOf (0 : Word) 8 fun i => word (0x58 + i)
    acc := tabOf (0 : Vec) 512 fun i => vecOfWords w (0x4000 + 32 * i)
    accw := tabOf 128 4 fun i => fieldOf (w (0x160 + i)) 0 8
    ovf := tabOf false 4 fun i => bitOf (w (0x160 + i)) 8
    sat := tabOf false 4 fun i => bitOf (w (0x160 + i)) 9
    gix := BitVec.ofNat 1024 (packFields ((List.range 16).map fun i => (64, w (0x16D + i))))
    bad := [], creg := creg
    routine := if sameWords w old 0x164 0x1C then b.routine else routineOf w b.seg.num b.mark b.routine
    q := (List.range 16).filterMap fun n =>
      let x := if sameWords w old (0x1000 + 16 * n) 16 && sameWords w old (0x2000 + 512 * n) 512 then (b.stream n).unsent
        else streamOf w n
      if x = Stream.idle then none else some (n, x)
    sem := tabOf Sema.zero 256 fun n => ⟨fieldOf (w (0x80 + n / 4)) (16 * (n % 4)) 16, bitOf (w (0xC0 + n / 64)) (n % 64)⟩
    ch := tabOf Channel.idle 8 fun h =>
      { (default : Channel) with
        base := word (0x140 + 4 * h), limit := word (0x141 + 4 * h), wmark := word (0x142 + 4 * h), head := word (0x143 + 4 * h) }
    slots := tabOf SlotEntry.drained 64 fun n => slotOf (w (0x100 + n))
    late := ((List.range 0x80).map fun i => (0x180 + i, word (0x180 + i))).filter fun x => x.2 != 0
    pend := pend, loads := loads.map (fun x => if x.arrived then x else { x with performed := false, gone := false })
    pvec := pvec
    ssb := if keepSsb then b.ssb else storesOf w b.ssbNext 0x400 0 0
    ssbNext := if keepSsb then b.ssbNext else b.ssbNext + 0x400
    loadSeq := if keepLoads then b.loadSeq else b.loadSeq + 64
    pc := w 1 % 8192, holding := bitOf (w 1) 13, holdCond := fieldOf (w 1) 14 4
    early := b.early && b.pc == w 1 % 8192, barHold := barTested b.barHold
    run := .running, freeze := none, stopReq := none, wres := []
    seg := b.seg.unchecked
    imem := t.imem, imemBad := t.imemBad, imgLen := t.imgLen, imgProg := t.imgProg, hLen := t.hLen, cmem := t.cmem, occ := t.occ
    store := t.store, mism := t.mism, scr := [], scrBad := [] }

end Sys2Proof.Machine
end

