-- ==== Sys2Proof/Machine/System.lean ====
section
/-! DEFINITION. The system ops (spec/09_system_instructions.md, R185 to R204): control registers, the snapshot space from a
handler, the return to the task and replays (R189, R257), `halt`, known answers, sequence keys and their seal points
(R195 to R198, R343), `tinv` and shootdowns (R201, R286), `ifence`, `diapack`. -/

namespace Sys2Proof.Machine

/-! ## Control registers (R46, R47) -/

/-- Registers of Table 2-3 that cannot be read at T. -/
def cregHidden (a : Nat) : Bool := [7, 8, 9, 0xA, 0xB, 0x12, 0x13, 0x14, 0x15].contains a

/-- `crr` (R47). -/
def execCrr (x : ClsSCR) (s : State) : Result :=
  issueOp (fun s => (if cregHidden x.creg.toNat then s.privStop else []) ++ s.srcStops [.creg x.creg.toNat 6])
    (fun s => s.putS x.s.toNat 1 (s.creg s.ctx.core x.creg.toNat)) s

/-- `crw` (R47). -/
def execCrw (x : ClsSCR) (s : State) : Result :=
  issueOp (fun s => s.privStop ++ s.srcStops [.s x.s.toNat 0]) (fun s => s.putCr x.creg.toNat (s.sv x.s)) s

/-! ## The snapshot space (R191 to R193) -/

/-- `snrd` (R192). -/
def execSnrd (x : ClsSR) (s : State) : Result :=
  issueOp (fun s => s.privStop ++ s.srcStops [.s x.a.toNat 6])
    (fun s => s.putS x.d.toNat 1 (s.snapWord s.ctx.core s.cur (s.sv x.a).toNat)) s

/-- Whether `snwr` may write a value at an index (R193). -/
def snwrOk (i w : Nat) : Bool :=
  (decide (0x180 ≤ i) && decide (i < 0x200)) || (decide (0x800 ≤ i) && decide (i < 0x1000)) ||
  (decide (0x200 ≤ i) && decide (i < 0x300) && (i % 2 == 1 || pendWordOk w)) ||
  (decide (0x300 ≤ i) && decide (i < 0x400) && (i % 4 != 0 || loadWordOk w))

/-- `snwr` (R193). -/
def execSnwr (x : ClsSR) (s : State) : Result :=
  issueOp (fun s => s.privStop ++ s.srcStops [.s x.a.toNat 6, .s x.b.toNat 12])
    (fun s =>
      let i := (s.sv x.a).toNat
      if snwrOk i (s.sv x.b).toNat then s.modCur fun c => c.push .snap i 1 (Word.toVec (s.sv x.b)) none else s.setP15) s

/-! ## The return to the task (R187, R189, R257) -/

/-- A replay entry of the latched table (R257). -/
def Load.isReplay (x : Load) : Bool := x.valid && !x.arrived && x.rem == 0

/-- The request of a replay entry is made anew: what it reads is taken as it stands at the return. -/
def Core.replayed (c : Core) (x : Load) (seq : Nat) : Load :=
  { x with
    replay := true, performed := false, gone := false, dead := false, seq := seq, fwd := c.qaStore, behind := c.closedEnd
    port := if x.kind = 3 ∨ x.kind = 4 then c.portNext else c.acqEnd, sig := ⟨0, 0, 0⟩, born := c.issued, val := 0, cause := 0, unit := .core
    desc := (c.stream (x.addr.toNat / 64 % 16)).desc, vi := c.vreg (x.addr.toNat % 32)
    b := Tab.get 0 c.late (0x180 + 2 * x.reg), x := Tab.get 0 c.late (0x181 + 2 * x.reg) }

/-- The entries of the table with the replay entries renewed, numbered from `n`. -/
def Core.replayAll (c : Core) : List Load → Nat → List Load × Nat
  | [], n => ([], n)
  | x :: xs, n =>
    if x.isReplay then
      let r := c.replayAll xs (n + 1)
      (c.replayed x n :: r.1, r.2)
    else
      let r := c.replayAll xs n
      (x :: r.1, r.2)

/-- The operation that a replay entry of kind 5 puts at the port; a module field of 0 names this module. A local one is translated
when it performs. -/
def State.replayOp (s : State) (x : Load) : PortOp :=
  let a := x.addr.toNat
  let ord : Ordering := match a % 4 with | 0 => .rlx | 1 => .acq | 2 => .rel | _ => .ar
  let sc : Scope := match fieldOf a 54 3 with | 0 => .core | 1 => .quad | 2 => .die | 3 => .pkg | _ => .pod
  { PortOp.blank with
    seq := some x.seq, func := x.ty, remote := fieldOf a 48 6 != 0, mod := if fieldOf a 48 6 = 0 then s.me else fieldOf a 48 6
    addr := a % 2 ^ 48 / 4 * 4, b := x.b, x := x.x, ord := ord, scope := sc }

/-- The requests of a core's replay entries that have no reply are sent (R257, R64). -/
def State.sendReplays (s : State) (c : Nat) : State :=
  let ops := ((s.core c).loads.filter fun x => x.replay && x.kind == 5 && !x.performed && !x.arrived).map s.replayOp
  let s := s.modCore c fun k => ops.foldl (fun k p =>
    let rel := p.ord = .rel ∨ p.ord = .ar
    { k with
      port := k.port ++ [{ p with id := k.portNext, behind := k.closedEnd, loads := if rel then p.seq.getD k.loadSeq else 0 }]
      portNext := k.portNext + 1 }) k
  s.pushLoads c

/-- Loads leave a core without an outcome: their requests are given up, and walks bring them nothing. -/
def State.dropLoads (s : State) (c : Nat) (xs : List Load) : State :=
  let mine (n : Nat) : Bool := xs.any fun x => x.seq == n
  (s.abandon (dieOf c) fun r => match r.for_ with
    | .load k n => k == c && mine n
    | _ => false).modCore c fun k =>
      { k with wres := k.wres.filter fun r => match r.user with | .load n => !mine n | _ => true }

/-- A core leaves its handler: what the handler had in flight is discarded, the task's tables count on, and the requests of
replay entries are made. -/
def State.leaveHandler (s : State) (c : Nat) : State :=
  let s := (s.dropLoads c (s.core c).hloads).modCore c fun k =>
    let k := { (k.setPL false).unlatch with
      hpend := [], hloads := [], qNew := k.qNew.filter (!·.atH), owed := k.owed.filter (!·.1), hCount := 0, holding := false
      pc := (k.cr 0xA).toNat % 8192 }
    let r := k.replayAll k.loads k.loadSeq
    { k with loads := r.1, loadSeq := r.2, rplHold := r.1.any (·.replay) }
  s.sendReplays c

/-- What stops a return (R189, R100): the target lies in the task image. -/
def State.returnStops (s : State) : List Stop :=
  s.privStop ++
  (if s.cur.atH && decide (s.cur.imgLen ≤ (s.cur.cr 0xA).toNat % 8192) then [s.stop 4 0 (.trap 1 (illbInfo 64))] else [])

/-- `eret` (R189). -/
def execEret (s : State) : Result := issueOp State.returnStops (fun s => s.leaveHandler s.ctx.core) s

/-- `diapack` (R203). -/
def execDiapack (s : State) : Result :=
  issueOp (fun s => s.returnStops ++
      s.holdIf (s.cur.atH && (s.cur.cr 9).toNat % 256 == 0xB && (s.world s.cur.vf).rejoin) 5)
    (fun s => s.leaveHandler s.ctx.core) s

/-! ## The end of a task (R190) -/

/-- `halt` (R190): it holds for the engines, then for the stores of its segment and of its own bundle. Commands and routines that its
bundle starts begin as it issues, and the end of the task waits for them (`State.closeStep`; log 108). -/
def execHalt (s : State) : Result :=
  lateOp true (fun s =>
      s.holdIf s.cur.routine.isSome 4 ++
      s.holdIf ((List.range 8).any fun h => !(s.cur.chan h).cmds.isEmpty) 3 ++
      (if s.allCommitted then [] else s.lateHold))
    (fun s => s.modCur Core.closeAll)
    (fun s => s.closeTask .halt) s

/-! ## Known answers (R194) -/

/-- The signature of a row. -/
def katSign (row : Vec) : Nat :=
  (List.range 32).foldl (fun h j =>
    let w := row.toNat / 2 ^ (64 * j) % 2 ^ 64
    let h := ((h ^^^ w) * 0x8C2B5E17D39A4F61 + 0x5A17C3E90B84D26F) % 2 ^ 64
    h ^^^ (h / 2 ^ 31)) 0

/-- `katc` (R194). -/
def execKatc (x : ClsSL) (s : State) : Result :=
  issueOp (fun s =>
      let w := (s.sv x.a).toNat
      let n := fieldOf w 8 2
      s.srcStops [.s x.a.toNat 6] ++
      (if s.clean x.a then
        match lowestSet w 7 1, lowestSet w 10 54 with
        | some b, _ => [s.alignStop 2 b 6]
        | none, some b => [s.alignStop 2 b 6]
        | none, none =>
          if s.cur.accWm n ≤ fieldOf w 0 7 then s.holdIf true 4
          else s.srcStops [.acc n 6] ++
            (if katSign (s.cur.accRow n (fieldOf w 0 7)) ≠ x.imm.toNat then [s.stop 11 0 .katf] else [])
      else []))
    id s

/-! ## Sequence keys (R195 to R199, R343) -/

/-- The handle in a register (R195). -/
def handleOf (w : Nat) : Handle := ⟨w % 4096, w / 4096 % 256⟩

/-- A handle as a register holds it. -/
def Handle.word (h : Handle) : Word := BitVec.ofNat 64 (h.slot % 4096 + h.gen % 256 * 4096)

/-- A malformed handle (R195). -/
def State.handleStops (s : State) (a : BitVec 6) : List Stop :=
  if s.clean a then (spareFaults (s.sv a).toNat [(20, 44)]).map fun f => s.alignStop f.1 f.2 6 else []

/-- Change a key slot. -/
def State.setKey (s : State) (n : Nat) (k : KeySlot) : State := { s with keys := Tab.set KeySlot.fresh s.keys n k }

/-- The reach set of an opening: the mask with the issuing module. -/
def State.reachOf (s : State) (mask : BitVec 64) : BitVec 64 := mask ||| BitVec.ofNat 64 (2 ^ s.me)

/-- Modules of a reach set besides this one. -/
def State.others (s : State) (reach : BitVec 64) : List Nat :=
  (List.range 64).filter fun m => reach.getLsbD m && m != s.me

/-- A slot that can be taken: it holds no key, and is free at its generation on the other modules (R343). -/
def State.slotFree (s : State) (reach : BitVec 64) (n : Nat) : Bool :=
  !(s.key n).live && (s.others reach).all fun m => Config.peerSlotFree s.tick m n

/-- The slot that an opening takes (R195): those never destroyed first, then the one destroyed longest ago. -/
def State.nextSlot (s : State) (reach : BitVec 64) : Option Nat :=
  match (List.range 4095).find? fun i => !s.keyOrder.contains (i + 1) && s.slotFree reach (i + 1) with
  | some i => some (i + 1)
  | none => s.keyOrder.find? fun n => s.slotFree reach n

/-- A key takes its slot: its number tells it from every key made before (log 85). -/
def State.installKey (s : State) (n gen vf : Nat) (reach : BitVec 64) (key : BitVec 256) (mine : Bool) : State :=
  { s.setKey n ⟨gen, true, vf, reach, key, s.keysMade + 1, mine⟩ with
    keysMade := s.keysMade + 1, keyOrder := s.keyOrder.filter (· != n) }

/-- A key is destroyed: the slot is free, its generation advances (R195). -/
def State.destroyKey (s : State) (n : Nat) : State :=
  { s.setKey n ⟨((s.key n).gen + 1) % 256, false, 0, 0, 0, 0, false⟩ with keyOrder := s.keyOrder.filter (· != n) ++ [n] }

/-- SEQQ of a world changes. -/
def State.holdKey (s : State) (vf : Nat) (f : Nat → Nat) : State := s.modWorld vf fun w => { w with held := f w.held }

/-- Whether a world is at its quota. -/
def World.atQuota (w : World) : Bool := decide (w.quota ≤ w.held)

/-- An opening begins (R196 steps 2 and 3), or is refused. -/
def State.beginOpen (s : State) (mask : BitVec 64) : State :=
  let vf := s.cur.vf
  let w := s.world vf
  let reach := s.reachOf mask
  let hold (s : State) (h : KeyHold) : State := s.modCur fun c => { c with keyHold := some h }
  if w.atQuota || (s.others reach).any fun m => !s.member vf m then hold s ⟨0, true, false⟩
  else match s.nextSlot reach with
    | none => hold s ⟨0, true, false⟩
    | some n =>
      let k := s.key n
      let s := s.installKey n k.gen vf reach (Config.draw (s.tick * 512 + s.ctx.core)) true
      let wait := s.others reach
      let s := if wait = [] then s.holdKey vf (· + 1)
        else { s with keyOps := s.keyOps ++ [⟨s.ctx.core, vf, n, k.gen, true, wait, true⟩] }
      hold s ⟨n, wait.isEmpty, true⟩

/-- The hold of an op of the key engine: until its outcome is there. -/
def State.keyWait (s : State) : List Stop :=
  match s.cur.keyHold with
  | some h => if h.done then [] else s.lateHold
  | none => s.lateHold

/-- `seqopen` (R196). -/
def execSeqopen (x : ClsSR) (s : State) : Result :=
  lateOp true (fun s => s.srcStops [.s x.a.toNat 6] ++ s.keyWait)
    (fun s =>
      let s := s.modCur Core.closeSeg
      if s.cur.keyHold.isNone && s.allCommitted then s.beginOpen (s.sv x.a) else s)
    (fun s =>
      let h := s.cur.keyHold
      let s := s.modCur fun c => { c with keyHold := none }
      match h with
      | some h =>
        if h.ok then s.putS x.d.toNat 1 (Handle.word ⟨h.slot, (s.key h.slot).gen⟩)
        else (s.putS x.d.toNat 1 0).setP15
      | none => s) s

/-- An ending begins (R197), or has no effect where the handle is not live. -/
def State.beginEnd (s : State) (h : Handle) : State :=
  let vf := s.cur.vf
  if h.slot = 0 ∨ !s.handleLive vf h then s.modCur fun c => { c with keyHold := some ⟨0, true, false⟩ }
  else
    let wait := (List.range 64).filter fun m => (s.key h.slot).reach.getLsbD m
    ({ s with keyOps := s.keyOps ++ [⟨s.ctx.core, vf, h.slot, h.gen, false, wait, true⟩] } : State).modCur fun c =>
      { c with keyHold := some ⟨h.slot, false, true⟩ }

/-- `seqend` (R197). -/
def execSeqend (x : ClsSR) (s : State) : Result :=
  lateOp true (fun s => s.srcStops [.s x.a.toNat 6] ++ s.handleStops x.a ++ s.keyWait)
    (fun s =>
      let s := s.modCur Core.closeSeg
      if s.cur.keyHold.isNone && s.allCommitted then s.beginEnd (handleOf (s.sv x.a).toNat) else s)
    (fun s =>
      let bad := match s.cur.keyHold with | some h => !h.ok | none => false
      let s := s.modCur fun c => { c with keyHold := none }
      if bad then s.setP15 else s) s

/-- `seqbind` (R199). -/
def execSeqbind (x : ClsSR) (s : State) : Result :=
  issueOp (fun s => s.srcStops [.s x.a.toNat 6] ++ s.handleStops x.a)
    (fun s => if s.handleLive s.cur.vf (handleOf (s.sv x.a).toNat) then s.putCr 0xE (s.sv x.a) else s.setP15) s

/-- A key operation has all its answers: its core goes on; an opening that every module has acknowledged counts in SEQQ, a failed one
destroys the key (R196). -/
def State.settleKey (s : State) (op : KeyOp) : State :=
  if op.await ≠ [] then s
  else
    let s := { s with keyOps := s.keyOps.filter (· != op) }
    let s := if !op.opening then s else if op.ok then s.holdKey op.vf (· + 1) else s.destroyKey op.slot
    s.modCore op.core fun c =>
      match c.keyHold with
      | some h => if h.slot = op.slot then { c with keyHold := some { h with done := true, ok := op.ok } } else c
      | none => c

/-- A module has answered a key operation. -/
def State.answerKey (s : State) (op : KeyOp) (m : Nat) (ok : Bool) : State :=
  let op' := { op with await := op.await.erase m, ok := op.ok && (ok || !op.opening) }
  ({ s with keyOps := s.keyOps.map fun x => if x = op then op' else x } : State).settleKey op'

/-- A step of an installation (R196, R343): this module takes a peer's key, or refuses it at its quota; or a module
answers. -/
def execKeyInstall (x : KeyStep) (s : State) : Result :=
  match x with
  | .answer idx m ok =>
    match s.keyOps[idx]? with
    | none => .next s
    | some op => if op.await.contains m && m != s.me then .next (s.answerKey op m ok) else .next s
  | .peer vf slot gen reach key =>
    let w := s.world vf
    if !w.exists_ || !w.fabric || slot = 0 then .next s
    else if w.atQuota || (s.key slot).live || (s.key slot).gen ≠ gen then .next (s.emit (.note "key refused" slot))
    else
      .next (((s.installKey slot gen vf reach key false).holdKey vf (· + 1)).emit (.note "key installed" slot))

/-- What a core loses at a seal point (R197): slots that carry the handle, with the transfers of those that are filling or
draining, and SEQB. -/
def Core.sealed (c : Core) (h : Handle) : Core :=
  let c := if c.seqb = h then c.setCr 0xE 0 else c
  (List.range 64).foldl (fun c n =>
    let e := c.slot n
    if e.state = .empty ∨ e.handle ≠ h then c
    else
      let mine := ((List.range 8).flatMap fun ch => (c.chan ch).cmds.map fun m => (ch, m)).filter fun x =>
        match x.2.kind with
        | .fill k | .drain k => k == n
        | _ => false
      let c := mine.foldl (fun c x => (c.leave x.1 x.2.id).signalFail x.2.sig) c
      -- a bundle that holds on the slot goes on in the same cycle (R50)
      let held := c.holding && c.holdCond == 0
      (c.emptySlot n true).modSlot n fun e => { e with zeroing := !held }) c

/-- The seal point of this module for a handle (R197, R198, R344). -/
def State.sealKey (s : State) (h : Handle) : State :=
  let vf := (s.key h.slot).vf
  let cancelled (s : State) (c : Nat) : List Nat :=
    (List.range 8).flatMap fun ch => ((s.core c).chan ch).cmds.map (·.id)
  let s := s.raise "seal point" h.slot
  let s := s.coreList.foldl (fun s c =>
    let before := cancelled s c
    let s := s.modCore c fun k => k.sealed h
    let gone := before.filter fun i => !(cancelled s c).contains i
    s.abandon (dieOf c) fun r => match r.for_ with
      | .line k _ i => k == c && gone.contains i
      | _ => false) s
  let s := (List.range 3).foldl (fun s d => s.modDie d fun x => { x with rdc := x.rdc.filter fun l => l.tag.handle != h }) s
  let s := { s with tlb := s.tlb.filter fun e => e.xl.handle != h }
  -- a member that cannot be reached is told when it comes back (R371)
  let away (w : World) : Bool := (List.range 64).any fun m =>
    w.members.getLsbD m && m != s.me && (Tab.get (0, 0, 0) w.peers m).1 != 0
  ((s.destroyKey h.slot).holdKey vf (· - 1)).modWorld vf fun w =>
    if w.fabric && away w then { w with ended := w.ended ++ [h] } else w

/-- A seal point (R197): that of an ending of this module's, or of a peer that shares the key. -/
def execSealPoint (handle : Nat) (s : State) : Result :=
  let h := handleOf handle
  let k := s.key h.slot
  -- every ending of the key that waits for this module
  let ops := s.keyOps.filter fun o => !o.opening && o.slot == h.slot && o.gen == h.gen && o.await.contains s.me
  if h.slot = 0 ∨ !k.live ∨ k.gen ≠ h.gen then .next s
  else if ops = [] && s.others k.reach = [] then .next s
  else .next (ops.foldl (fun s o => s.answerKey o s.me true) (s.sealKey h))

/-! ## Translation and fetch (R201, R202, R286) -/

/-- Malformed operands of `tinv` (R201). -/
def tinvFaults (a b : Nat) : List (Nat × Nat) :=
  ((lowestSet a 24 40).toList.map fun i => (i, 6)) ++
  ((if bitOf b 63 then lowestSet b 0 63
    else if a ≠ 0 then (lowestSet b 24 8) <|> (lowestSet b 48 15) else lowestSet b 48 15).toList.map fun i => (i, 12))

/-- A shootdown begins for a core. -/
def State.beginTinv (s : State) (a b : Nat) : State :=
  let range := if bitOf b 63 then none else some (fieldOf b 0 32, fieldOf b 32 16 + 1)
  (s.shoot s.cur.vf (a % 2 ^ 24) range (some s.ctx.core) .nothing).modCur fun c => { c with tinvHold := some 0 }

/-- `tinv` (R201). -/
def execTinv (x : ClsSR) (s : State) : Result :=
  lateOp false
    (fun s => s.privStop ++ s.srcStops [.s x.a.toNat 6, .s x.b.toNat 12] ++
      (if s.clean x.a && s.clean x.b then
        (tinvFaults (s.sv x.a).toNat (s.sv x.b).toNat).map fun f => s.alignStop 2 f.1 f.2 else []) ++
      (if s.cur.tinvHold = some 1 then [] else s.lateHold))
    (fun s => if s.cur.tinvHold.isNone then s.beginTinv (s.sv x.a).toNat (s.sv x.b).toNat else s)
    (fun s => s.modCur fun c => { c with tinvHold := none }) s

/-- A measurement register extended with an item whose SHA3-512 digest is `d` (R336). -/
def extend (m d : BitVec 512) : BitVec 512 := Config.hash (leBytes 64 m.toNat ++ leBytes 64 d.toNat)

/-- A world's register extended with the bytes of an item (Table 21-3). -/
def State.extendWM (s : State) (vf : Nat) (item : List Byte) : State :=
  if (s.world vf).exists_ then s.modWorld vf fun w => { w with wm := extend w.wm (Config.hash item) } else s

/-- A window as its record lays it out (Table 21-2). -/
def Window.word (w : Window) : Nat :=
  w.gbase + w.rbase * 2 ^ 24 + (if w.rw then 2 else 1) * 2 ^ 62 + w.wlen * 2 ^ 64 + w.rvf * 2 ^ 88 + w.gvf * 2 ^ 96

/-- Whether a second-stage record is accepted (R278): no reserved bit, frames of the partition's bulkheads alone, none of the carve-out
of another VF that has a world. A record of no frames names none. -/
def State.recordOk (s : State) (vf : Nat) (r : Nat) : Bool :=
  let b := fieldOf r 0 24
  let n := fieldOf r 64 24
  let own := (s.part (s.world vf).pid).bulkheads
  fieldOf r 24 40 == 0 && fieldOf r 88 40 == 0 &&
  (n == 0 ||
    (decide (b + n ≤ 9437184) &&
     ((List.range 24).all fun k => own.contains k || decide (393216 * (k + 1) ≤ b) || decide (b + n ≤ 393216 * k)) &&
     s.worlds.all fun w =>
      w.1 == vf || !w.2.exists_ || w.2.slen == 0 || decide (b + n ≤ w.2.sbase) || decide (w.2.sbase + w.2.slen ≤ b)))

/-- What follows a shootdown: a window goes, or a second-stage record is installed, unless records that took effect meanwhile refuse it
(R278); the worlds are measured (R336). -/
def State.afterShoot (s : State) (vf : Nat) (x : ShootEnd) : State :=
  match x with
  | .nothing => s
  | .window w =>
    if s.windows.contains w then
      (State.extendWM { s with windows := s.windows.erase w } w.gvf (leBytes 16 w.word)).extendWM w.rvf (leBytes 16 w.word)
    else s
  | .record r =>
    if !s.recordOk vf r.toNat then s.emit (.note "record refused" vf)
    else (s.modWorld vf fun w => { w with sbase := fieldOf r.toNat 0 24, slen := fieldOf r.toNat 64 24 }).extendWM vf
      (leBytes 16 r.toNat)

/-- A shootdown completes (R286): every access under a matching entry has performed; the entries are dropped. -/
def execShootdownComplete (idx : Nat) (s : State) : Result :=
  match s.shoots[idx]? with
  | none => .next s
  | some x =>
    -- records of one VF take effect in the order in which they were written (R278)
    if !s.shootReady x.set true || (x.after != .nothing && s.shoots.any fun y => y.vf == x.vf && decide (y.id < x.id) && y.after != .nothing)
    then .next s
    else
      let s := { s.shootDrop x.set with shoots := s.shoots.filter fun y => y.id != x.id }
      let s := (s.afterShoot x.vf x.after).retryHeld
      .next (match x.core with
        | some c => s.modCore c fun k => if k.tinvHold = some 0 then { k with tinvHold := some 1 } else k
        | none => s)

/-- A core takes up the image of its program handle, and the world's handler image, as they are placed now (R37, R202); nothing
changes where neither was replaced. -/
def Core.takeUp (c : Core) (w : World) : Core :=
  match w.images.find? fun i => i.handle == c.imgProg with
  | none => c
  | some i =>
    let x := c.place i w.handler
    if x.imem = c.imem ∧ x.imgLen = c.imgLen ∧ x.hLen = c.hLen ∧ x.cmem = c.cmem ∧ x.occ = c.occ then c else x

/-- `ifence` (R202): what was replaced is taken up, and a bubble of six cycles passes. -/
def execIfence (s : State) : Result :=
  issueOp (fun _ => [])
    (fun s => s.modCur fun c => ({ c with bubble := 6 } : Core).takeUp (s.world s.cur.vf)) s

end Sys2Proof.Machine
end

