-- ==== Sys2Proof/Machine/Fabric.lean ====
section
/-! DEFINITION. The pod's fabric as events (spec/19_pyrty_fabric.md): lanes, lit sets and link control (R306, R311 to R313),
peer states (R315, R316), requests of peers and their replies (R309, R317 to R319, R352), ordered groups (R320 to R322)
and pod barriers (R323, R324). -/

namespace Sys2Proof.Machine

/-! ## Peer states (R315, R324) -/

/-- Send what all dies have waiting. -/
def State.pumpAll (s : State) : State := (List.range 3).foldl (fun s d => (s.pump d).deliverDone d) s

/-- Control packets that waited for a member go ahead of any other control packet (R324). -/
def State.sendWaiting (s : State) (vf m : Nat) : State :=
  let mine := (s.world vf).toSend.filter fun x => x.dst == m
  let s := s.modWorld vf fun w => { w with toSend := w.toSend.filter fun x => x.dst != m }
  State.release { s with held := mine ++ s.held }

/-- Requests of a world whose packets wait for a lane to a member that does not take them any more are not sent (R316); they give their
tags back. Stub queries and releases, and relays of others' requests, stay. -/
def State.refuseHeld (s : State) (vf m : Nat) : State :=
  let fwid := (s.world vf).fwid
  let out (x : Sent) : Bool := x.dst == m && x.fwid == fwid && x.orig == s.me && decide (1 ≤ x.op) && decide (x.op ≤ 0xC) &&
    !(x.op == 0xC && decide (3 ≤ x.caddr / 2 ^ 24 % 16))
  let gone := s.held.filter out
  let is (r : Req) : Bool := r.sent && !r.done && !r.quar && r.target == m && r.vf == vf && gone.any fun x => x.tag == r.tag && x.gen == r.gen
  (List.range 3).foldl (fun s d => ((s.die d).reqs.filter is).foldl (fun s r => s.closeReq d r 6 []) s)
    { s with held := s.held.filter fun x => !out x }

/-- The state of a member changes: the record, and the word of the world's peer-state table, once its supervisor has set
one. -/
def State.setPeer (s : State) (vf m st told : Nat) : State :=
  if !s.member vf m || m = s.me then s
  else
    let w := s.world vf
    let old := Tab.get (0, 0, 0) w.peers m
    let chg := if old.1 = st then old.2.1 else old.2.1 + 1
    let s := s.modWorld vf fun w => { w with peers := Tab.set (0, 0, 0) w.peers m (st, chg, told) }
    let s := if w.psta = 0 then s else s.hwStore vf (w.psta + 8 * m) (leBytes 8 (chg * 4 + st))
    -- once every member is back, none is left to be told of keys that ended meanwhile (R371)
    let s := s.modWorld vf fun w =>
      if (List.range 64).all fun k => !w.members.getLsbD k || k == s.me || (Tab.get (0, 0, 0) w.peers k).1 == 0
      then { w with ended := [] } else w
    (if st = 0 then s.sendWaiting vf m else s.refuseHeld vf m).pumpAll

/-- The worlds that take part in the pod. -/
def State.fabricWorlds (s : State) : List Nat := (s.worlds.filter fun w => w.2.exists_ && w.2.fabric).map (·.1)

/-! ## Lanes -/

/-- A lane trains and takes a key, or fails to (R311, R312). -/
def execLaneTraining (plane peer : Nat) (ok : Bool) (s : State) : Result :=
  let s := s.leaveLane plane peer
  let l := s.lane plane peer
  .next (if ok then
      (s.modLane plane peer fun l => { (default : Lane) with trained := true, key := l.key + 1, old := l.old }).emit
        (.link plane peer "key" (l.key + 1))
    else s)

/-- A lane whose count nears 2^40 is retrained with another key (R311). -/
def execLaneRekey (plane peer : Nat) (s : State) : Result := .next (s.leaveLane plane peer)

/-- Packets up to a count are acknowledged (R311). -/
def execLinkAck (plane peer count : Nat) (s : State) : Result :=
  let l := s.lane plane peer
  if count < l.acked ∨ l.count ≤ count then .next s
  else .next (s.modLane plane peer fun l =>
    { l with replay := l.replay.drop (count + 1 - l.acked), acked := count + 1, again := (0, 0) }).release

/-- Every unacknowledged packet is sent again in count order; a lane that asks for one packet 8 times in a row is dark
(R311, R312). -/
def execReplayRequest (plane peer count : Nat) (s : State) : Result :=
  let l := s.lane plane peer
  let n := if l.again.1 = count then l.again.2 + 1 else 1
  if !l.trained then .next s
  else if 8 ≤ n then .next (s.leaveLane plane peer)
  else
    let s := s.modLane plane peer fun l => { l with again := (count, n) }
    .next (l.replay.foldl (fun s x => s.emit (.packet x)) s)

/-- Credits come back (R313). -/
def execCreditReturn (plane peer vl flits : Nat) (s : State) : Result :=
  .next (s.modLane plane peer fun l => { l with used := Tab.modify 0 l.used vl (· - flits) }).release

/-- A lane is dark (R312). -/
def execLaneDark (plane peer : Nat) (s : State) : Result := .next (s.leaveLane plane peer)

/-- A packet fails its CRC or its MAC (R311, R312). -/
def execCrcOrMacFailure (plane peer : Nat) (x : FailedPacket) (s : State) : Result := .next (s.failPacket plane peer x.count x.mac)

/-- The lit set toward a peer changes once what was sent on the lanes that stay, and what was sent again, is acknowledged
(R306), also where the same lanes are lit again; a peer without a lit lane is unreachable (R312, R315). -/
def execLitSetChange (peer : Nat) (s : State) : Result :=
  let lit := s.trainedTo peer
  let old := s.litTo peer
  if lit = old ∧ !s.changing.contains peer then .next s
  else if lit ≠ [] ∧ (s.resend.any (fun x => x.dst == peer) || lit.any fun p => !(s.lane p peer).replay.isEmpty) then .next s
  else
    let s := { s with lit := Tab.set [] s.lit peer lit, changing := s.changing.filter (· != peer) }
    let s := if (lit = []) = (old = []) then s
      else s.fabricWorlds.foldl (fun s vf =>
        let told := (Tab.get (0, 0, 0) (s.world vf).peers peer).2.2
        s.setPeer vf peer (if lit = [] then 3 else told) told) s
    .next s.release.pumpAll

/-! ## Worlds across the pod (R314) -/

/-- A fabric world entry is installed, with the world's keys (R330): members that can be reached stand at STATE 0, all other modules at 3
(R315). An FWID that another world here has is refused: it is unique within the pod. -/
def execFabricWorldInstall (x : FabricWorld) (s : State) : Result :=
  if !(s.world x.vf).exists_ then .next s
  else if s.worlds.any fun y => y.1 != x.vf && y.2.exists_ && y.2.fwid == x.fwid then .next (s.emit (.note "fabric world refused" x.vf))
  else
    let new := (s.world x.vf).dataKey != x.dataKey
    .next (State.writePeers (State.modWorld { s with keysMade := if new then s.keysMade + 1 else s.keysMade } x.vf fun w =>
    { w with
      fabric := true, fwid := x.fwid, members := x.members, dataKey := x.dataKey, codeKey := x.codeKey
      keyNo := if new then s.keysMade + 1 else w.keyNo
      peers := (List.range 64).foldl (fun t m =>
        let st := if x.members.getLsbD m && (m == s.me || !(s.litTo m).isEmpty) then 0 else 3
        Tab.set (0, 0, 0) t m (st, 0, 0)) [] }) x.vf)

/-! ## Requests of peers on flat places (R309) -/

/-- RD8. -/
def execRd8 (x : Packet) (s : State) : Result := s.receive 1 x (State.serveFlat 1 · x ·)

/-- RD256. -/
def execRd256 (x : Packet) (s : State) : Result := s.receive 2 x (State.serveFlat 2 · x ·)

/-- WR8 (R162). -/
def execWr8 (x : Packet) (s : State) : Result := s.receive 3 x (State.serveFlat 3 · x ·)

/-- WR256 (R162). -/
def execWr256 (x : Packet) (s : State) : Result := s.receive 4 x (State.serveFlat 4 · x ·)

/-- ATOM (R163). -/
def execAtom (x : Packet) (s : State) : Result := s.receive 5 x (State.serveFlat 5 · x ·)

/-- CPW (R167). -/
def execCpw (x : Packet) (s : State) : Result := s.receive 8 x (State.serveFlat 8 · x ·)

/-- RCP (R171). -/
def execRcpPacket (x : Packet) (s : State) : Result := s.receive 9 x (State.serveFlat 9 · x ·)

/-- RCPO (R171, R320). -/
def execRcpoPacket (x : Packet) (s : State) : Result := s.receive 0xA x (State.serveFlat 0xA · x ·)

/-! ## Control packets (R315, R324) -/

/-- Change the monitor. -/
def State.modMon (s : State) (f : Monitor → Monitor) : State := { s with mon := f s.mon }

/-- BAR: it counts for the current step, is held for the next, or is dropped (R324). -/
def State.takeBar (x : Packet) (vf : Nat) (s : State) : State :=
  let id := x.caddr.toNat % 16
  let n := leVal (x.data.take 8)
  if n = s.step_ vf id ∨ n = s.step_ vf id + 1 then
    s.modWorld vf fun w => { w with barIn := if w.barIn.contains (id, n, x.orig) then w.barIn else w.barIn ++ [(id, n, x.orig)] }
  else s.dropPacket 0xD

/-- The current instance of a pod barrier completes poisoned; where no task has arrived yet, it does as the first arrives. The step
advances in either case (R324). -/
def State.poisonPod (s : State) (vf id : Nat) : State :=
  let here (b : Barrier) : Bool := b.scope == .pod && b.id == id && !b.poisoned && match s.ream b.rid with
    | some r => r.vf == vf
    | none => false
  (match s.bars.find? here with
    | some b => s.barSpoil b
    | none => s.modWorld vf fun w => { w with poisonIn := w.poisonIn ++ [(id, s.step_ vf id)] }).podStep vf id

/-- BPOI: it poisons the current instance, or the next when that begins (R324); the event has a number (R264). -/
def State.takeBpoi (x : Packet) (vf : Nat) (s : State) : State :=
  let id := x.caddr.toNat % 16
  let s := s.raise "barrier poison" id
  let n := leVal (x.data.take 8)
  if n = s.step_ vf id then s.poisonPod vf id
  else if n = s.step_ vf id + 1 then
    s.modWorld vf fun w => { w with poisonIn := if w.poisonIn.contains (id, n) then w.poisonIn else w.poisonIn ++ [(id, n)] }
  else s.dropPacket 0xE

/-- Whether the world of a packet is in diapause, or not restored yet. -/
def State.sleepsFor (s : State) (fwid : BitVec 12) : Bool :=
  s.selfState == 1 || match s.vfOf fwid with
    | some vf => (s.part (s.world vf).pid).shed
    | none => false

/-- A control packet that comes for a world in diapause waits for its restore: no diapause may lose one (R358, Table 23-9; log 111). -/
def State.acceptBar (op : Nat) (x : Packet) (f : Nat → State → State) (s : State) : Result :=
  if x.src != s.me && s.inCount x && !badForm op x && s.sleepsFor x.fwid then
    .next ((s.acceptOn op x).modMon fun m => { m with waits := m.waits ++ [(op, x)] })
  else s.accept op x f

/-- BAR. -/
def execBarPacket (x : Packet) (s : State) : Result := s.acceptBar 0xD x (State.takeBar x)

/-- BPOI. -/
def execBpoi (x : Packet) (s : State) : Result := s.acceptBar 0xE x (State.takeBpoi x)

/-- DIAP of a member: the first to tell something new is the event of R264 (R316). -/
def State.takeDiap (x : Packet) (vf : Nat) (s : State) : State :=
  let st := x.caddr.toNat % 4
  let s := if (Tab.get (0, 0, 0) (s.world vf).peers x.orig).2.2 = st then s else s.raise "peer diapause" x.orig
  s.setPeer vf x.orig st st

/-- The words of the handles that a world has destroyed (R371). -/
def State.endedWords (s : State) (vf : Nat) : List Byte := ((s.world vf).ended.map fun h => leBytes 8 h.word.toNat).flatten

/-- RESUME of a world to a member, with the handles destroyed meanwhile (R371): as many packets of 32 handles as there are, and one of
fewer, which is the last (log 31). -/
def State.sendResume (s : State) (vf m : Nat) : State :=
  let bs := s.endedWords vf
  (List.range (bs.length / 256 + 1)).foldl (fun s i => s.transmit 0
    { op := 0x10, src := s.me, dst := m, plane := 0, vl := 24, orig := s.me, gen := 0, tag := 0, fwid := (s.world vf).fwid
      scope := .pod, rel := false, acq := false, addr := 0, caddr := 0, data := (bs.drop (256 * i)).take 256 }) s

/-- RESUME of a member: the keys that it has destroyed are destroyed here. With the last packet of it the member is reachable; it is the
member's answer where this module has sent RESUME to it and had none yet, and is answered else (R371; log 31). -/
def State.takeResume (x : Packet) (vf : Nat) (s : State) : State :=
  let hs := (splitNat 64 (x.data.length / 8) (leVal x.data)).map handleOf
  let s := hs.foldl (fun s h =>
    if h.slot ≠ 0 && (s.key h.slot).live && (s.key h.slot).gen == h.gen && (s.key h.slot).vf == vf then s.sealKey h else s) s
  if 256 ≤ x.data.length then s
  else
    let s := if (s.world vf).unanswered.contains x.orig
      then s.modWorld vf fun w => { w with unanswered := w.unanswered.erase x.orig } else s.sendResume vf x.orig
    s.setPeer vf x.orig 0 0

/-- A control packet of a world by its op. -/
def State.takeControl (op : Nat) (x : Packet) (vf : Nat) (s : State) : State :=
  match op with
  | 0xD => s.takeBar x vf
  | 0xE => s.takeBpoi x vf
  | 0xF => s.takeDiap x vf
  | _ => s.takeResume x vf

/-- What came for worlds that are restored now is taken, in the order in which it came. -/
def State.takeWaiting (s : State) : State :=
  s.mon.waits.foldl (fun s y =>
    if s.sleepsFor y.2.fwid then s.modMon fun m => { m with waits := m.waits ++ [y] }
    else match s.vfOf y.2.fwid with
      | none => s.dropPacket y.1
      | some vf => s.takeControl y.1 y.2 vf) (s.modMon fun m => { m with waits := [] })

/-- DIAP (R316), which comes on every lit lane. -/
def execDiapPacket (x : Packet) (s : State) : Result := s.acceptBar 0xF x (State.takeDiap x)

/-- RESUME (R371). -/
def execResumePacket (x : Packet) (s : State) : Result := s.acceptBar 0x10 x (State.takeResume x)

/-- MON: its payload is the monitors' own. -/
def execMon (x : Packet) (s : State) : Result := s.accept 0x11 x fun _ s => s.emit (.note "monitor message" x.src)

/-! ## Replies (R317 to R319, R352) -/

/-- Whether a packet answers a request. -/
def Req.answeredBy (r : Req) (s : State) (x : Packet) : Bool :=
  r.sent && !r.done && r.tag == x.tag && r.gen == x.gen && (s.world r.vf).fwid == x.fwid

/-- The request that a reply answers, with its die: one toward the sender of the reply, else one that others may answer,
being relayed. -/
def State.requestFor (s : State) (x : Packet) : Option (Nat × Req) :=
  let all := (List.range 3).flatMap fun d => (s.die d).reqs.map fun r => (d, r)
  let live := all.filter fun y => !y.2.quar && y.2.answeredBy s x
  (live.find? fun y => y.2.target == x.src) <|> (live.find? fun y => y.2.op == 7 || y.2.op == 0xC)

/-- The die that drives a plane (R304). -/
def dieOfPlane (p : Nat) : Nat := if p < 6 then 0 else if p < 11 then 1 else 2

/-- A reply that nothing waits for is dropped and counted; one to a quarantined tag still ends that request toward the
previous owner of its tile. -/
def State.lateReply (s : State) (x : Packet) : State :=
  let all := (List.range 3).flatMap fun d => (s.die d).reqs.map fun r => (d, r)
  match all.find? fun y => y.2.quar && y.2.answeredBy s x with
  | some (d, r) =>
    s.modDie d fun y => { y.lowerPend x.fwid r with
      reqs := y.reqs.map fun q => if q = r then { q with sent := false } else q, lateReplies := y.lateReplies + 1 }
  | none => s.modDie (dieOfPlane x.plane) fun y => { y with lateReplies := y.lateReplies + 1 }

/-- Answered queries and releases of a stub are looked at: a member has learned, or is left for later; a release that was not
acknowledged is sent again, so that it reaches the tile's owner (R354). -/
def State.settleQueries (s : State) (d : Nat) : State :=
  let mine (r : Req) : Bool := match r.for_ with
    | .query .. => r.done
    | _ => false
  let now := (s.die d).reqs.filter mine
  let s := s.modDie d fun y => { y with reqs := y.reqs.filter fun r => !mine r }
  now.foldl (fun s r => match r.for_ with
    | .query i m =>
      if r.caddr / 2 ^ 24 % 16 = 3 then s.learned i m (r.cause == 0)
      else if r.cause = 0 then s else s.ask d 0xC m r.vf r.addr r.caddr (List.replicate 64 0) .pod false r.for_
    | _ => s) s

/-- What an answered request was for goes on, and what waited for its tag or its answer. -/
def State.afterReply (s : State) (d : Nat) : State := ((((s.deliverDone d).settleQueries d).pump d).deliverDone d).retryHeld

/-- A request is answered: its tag is free, it stands toward a previous owner no more (R352), and what it was for goes on. -/
def State.endReq (s : State) (d : Nat) (r : Req) (cause : Nat) (data : List Byte) : State :=
  ((s.modDie d fun y => y.lowerPend (s.world r.vf).fwid r).closeReq d r cause data).afterReply d

/-- A reply is accepted (R313): second copies are discarded, wrong forms and unknown worlds dropped. -/
def State.reply (s : State) (op : Nat) (x : Packet) (f : Nat → Req → State → State) : Result :=
  s.accept op x fun _ s =>
    match s.requestFor x with
    | some (d, r) => f d r s
    | none => s.lateReply x

/-- The bytes of a DATA reply that an op uses. -/
def Req.wants (r : Req) : Nat :=
  match r.op with
  | 1 | 5 => 8
  | 2 => 256
  | _ => 64 * (r.caddr / 2 ^ 24 % 4 + 1)

/-- DATA: remote loads fill the die's remote-data cache (R161), unless something that happened meanwhile may be newer (R238, R245);
what is on its way from the same lines is not cached after it. -/
def execData (x : Packet) (s : State) : Result :=
  s.reply 0x20 x fun d r s =>
    let bs := x.data.take r.wants
    let s := if r.op = 1 ∨ r.op = 2 then s.modDie d fun y =>
        let z := y.dropRemote x.fwid r.target r.addr r.wants
        let z := { z with reqs := z.reqs.map fun q => if q = { r with stale := true } then r else q }
        if r.stale then z else z.fillRemote (r.granules x.fwid bs)
      else s
    s.endReq d r 0 bs

/-- ACK. -/
def execAck (x : Packet) (s : State) : Result := s.reply 0x21 x fun d r s => s.endReq d r 0 []

/-- NACK, by its cause (Table 19-4): BUSY frees the tag and sends the line again later; reserved causes drop the packet. -/
def execNack (x : Packet) (s : State) : Result :=
  s.reply 0x22 x fun d r s =>
    let c := x.caddr.toNat % 16
    if c = 0 ∨ 9 ≤ c then s.dropPacket 0x22
    else if c = 7 then
      (s.modDie d fun y => { y with
        reqs := y.reqs.map fun q => if q = r then { q with sent := false, busy := true, tagged := false, since := s.us } else q
        tagFreed := y.tagFreed ++ [r.tag] }).pump d
    else s.endReq d r c []

/-- Whether the owner cache of a die can take an entry of a tile: it holds one, or has room, or can evict one (R352). -/
def State.ownerRoom (s : State) (d : Nat) (r : Req) : Bool :=
  (s.owner d r.vf (r.caddr % 2 ^ 24) (r.addr / 65536)).isSome || decide ((s.die d).owners.length < 1024) ||
    (s.die d).owners.any (s.ownerIdle d)

/-- The owner cache learns from a REDIRECT: PEND counts the requests for the tile that stand toward the module that sent
it (R352). An entry without any makes room where the cache is full; where none can go nothing is learned, and what follows goes to
the stub as before. Requests for the tile that are not sent yet are for the new owner, after those that stand. -/
def State.learnOwner (s : State) (d : Nat) (r : Req) (new : Nat) : State :=
  if !s.ownerRoom d r || new = s.me then s else
  let fwid := (s.world r.vf).fwid
  let tid := r.caddr % 2 ^ 24
  let tile := r.addr / 65536
  let n := ((s.die d).reqs.filter fun q => q != r && (q.op == 6 || q.op == 7) && q.sent && !q.done && q.target == r.target &&
    (s.world q.vf).fwid == fwid && q.caddr % 2 ^ 24 == tid && q.addr / 65536 == tile).length
  s.modDie d fun y =>
    let rest := y.owners.filter fun o => !(o.fwid == fwid && o.tid == tid && o.tile == tile)
    let rest := if rest.length < 1024 then rest else
      match rest.find? (s.ownerIdle d) with
      | some o => rest.erase o
      | none => rest
    let waits (q : Req) : Bool := (q.op == 6 || q.op == 7) && !q.sent && !q.done && !q.quar && q.target == r.target &&
      (s.world q.vf).fwid == fwid && q.caddr % 2 ^ 24 == tid && q.addr / 65536 == tile
    { y with
      owners := rest ++ [⟨fwid, tid, tile, new, r.target, n⟩]
      reqs := y.reqs.map fun q => if waits q then { q with behind := true, target := new } else q }

/-- REDIRECT (R351, R352): a read goes to the new owner under its own tag, once the requests toward the old one are
answered; a write has been performed through the stub. Where the tile has come to this module the read walks anew (R327): its request is
gone, and so are the translations that named another owner. -/
def execRedirect (x : Packet) (s : State) : Result :=
  s.reply 0x23 x fun d r s =>
    let new := x.caddr.toNat % 64
    if r.op = 7 then ((s.learnOwner d r new).closeReq d r 0 []).afterReply d
    else if r.op ≠ 6 then s.dropPacket 0x23
    else if new = s.me then
      let s := (s.modDie d fun y => { y with reqs := y.reqs.erase r, tagFreed := y.tagFreed ++ [r.tag] }).shootDrop
        (shootTile r.vf (r.caddr % 2 ^ 24) (r.addr / 65536))
      s.afterReply d
    else if !s.ownerRoom d r then
      -- sent to the stub again
      (s.modDie d fun y => { y with reqs := y.reqs.map fun q => if q = r then { q with sent := false } else q }).pump d
    else
      let s := s.modDie d fun y => { y with reqs := y.reqs.map fun q =>
        if q = r then { q with sent := false, behind := true, target := new } else q }
      s.learnOwner d r new

/-- Whether a request that times out is reported here: a load, a gather, a value-returning atomic or a stream fetch. Stores and no-value
atomics are reported as they end, and lines of commands not at all (R318). -/
def State.tellsTimeout (s : State) (r : Req) : Bool :=
  match r.for_ with
  | .load .. => true
  | .fetch .. => r.op == 6
  | .port c id => (s.core c).port.any fun p => p.id == id && p.seq.isSome
  | _ => false

/-- TTO has passed without a reply (R319): the tag is quarantined and the request ends as timed out, and is counted and reported
(R318). -/
def execTagTimeout (die tag : Nat) (s : State) : Result :=
  match (s.die die).reqs.find? fun r => r.sent && !r.done && !r.quar && r.tag == tag with
  | none => .next s
  | some r =>
    if s.us < r.since + (s.part (s.world r.vf).pid).tto then .next s
    else
      let s := s.modDie die fun y => { y with reqs := y.reqs.flatMap fun q =>
        if q = r then [{ q with quar := true, since := s.us }, { q with done := true, cause := 16 }] else [q] }
      let s := if s.tellsTimeout r then s.fabricReport r.vf 0 r.op r.target r.tagWord r.addr else s
      .next (((s.deliverDone die).settleQueries die).pump die)

/-- A quarantined tag is free after 4 TTO (R319). -/
def execTagQuarantineExpiry (die tag : Nat) (s : State) : Result :=
  match (s.die die).reqs.find? fun r => r.quar && r.tag == tag with
  | none => .next s
  | some r =>
    if s.us < r.since + 4 * (s.part (s.world r.vf).pid).tto then .next s
    else
      let s := s.modDie die fun y =>
        { (if r.sent then y.lowerPend (s.world r.vf).fwid r else y) with
          reqs := y.reqs.erase r, tagFreed := y.tagFreed ++ [r.tag] }
      .next ((s.pump die).deliverDone die)

/-- A line refused BUSY is sent again after 2 us (Table 19-4). -/
def execBusyResend (die tag : Nat) (s : State) : Result :=
  match (s.die die).reqs.find? fun r => r.busy && r.tag == tag with
  | none => .next s
  | some r =>
    if s.us < r.since + 2 then .next s
    else
      let s := s.modDie die fun y => { y with reqs := y.reqs.map fun q => if q = r then { q with busy := false } else q }
      .next ((s.pump die).deliverDone die)

/-- A group that RWT has passed by is abandoned (R322): its staged lines fail, its supervisor is told. Lines that one command can
cover and that RWT has passed by too are abandoned with it, in one report (log 13). -/
def execRcpoGroupAbandon (die idx : Nat) (s : State) : Result :=
  match (s.die die).groups[idx]? with
  | none => .next s
  | some g =>
    if s.us < g.first + (s.part g.pid).rwt then .next s
    else
      let due (y : Group) : Bool := y.vf == g.vf && y.bytes == g.bytes && y.last == g.last &&
        decide (y.addr < g.addr + g.bytes) && decide (g.addr < y.addr + g.bytes) &&
        decide (y.first + (s.part y.pid).rwt ≤ s.us)
      let gs := (s.die die).groups.filter due
      let out := (s.die die).staged.filter fun y => gs.any fun g => g.isKey y.vf y.addr y.bytes y.last
      let s := s.modDie die fun y => { y with groups := y.groups.filter fun g => !due g }
      let s := out.foldl (fun s y => match (s.die die).staged.find? fun z => { z with fail := 0 } == { y with fail := 0 } with
        | some z => s.endStaged die z 8
        | none => s) s
      .next (s.report g.pid ⟨"fabric", 0, BitVec.ofNat 64 (8 + 0xA * 16 + s.me * 1024), BitVec.ofNat 64 g.addr⟩)

end Sys2Proof.Machine
end

