-- ==== Sys2Proof/Machine/Queues.lean ====
section
/-! DEFINITION. Software queues (spec/11_execution_and_scheduling.md R219, R221; spec/25_host_power_and_management.md R374,
R375): recording and mapping, doorbells, dispatch, completion and teardown. A queue's number is 4,096 times its VF plus the
number of its doorbell. -/

namespace Sys2Proof.Machine

/-- A queue by its number. -/
def State.queueOf (s : State) (q : Nat) : Queue := Tab.get default s.queues q

/-- Change a queue. -/
def State.modQueue (s : State) (q : Nat) (f : Queue → Queue) : State := { s with queues := Tab.set default s.queues q (f (s.queueOf q)) }

/-- Whether a supervisor has recorded a queue. -/
def Queue.known (q : Queue) : Bool := decide (4 ≤ q.log)

/-- The address of an entry (Table 25-1). -/
def Queue.entry (q : Queue) (i : Nat) : Nat := q.base + 32 * (i % 2 ^ q.log)

/-! ## Host memory (R372, R373, R375) -/

/-- The page of the host that a VF's page is translated to by ATS, where a translation of it is in use. -/
def State.hostPage (s : State) (vf page : Nat) : Option Nat :=
  (s.host.xl.find? fun x => x.1 == vf && x.2.1 == page).map (·.2.2)

/-- A page for which no translation is in use is asked for: the host's answer is a free value (log 124). -/
def State.askHost (s : State) (vf page : Nat) : State :=
  if (s.hostPage vf page).isSome then s
  else
    let n := s.host.asks + 1
    ({ s with host := { s.host with asks := n, xl := s.host.xl ++ [(vf, page, Config.hostPage vf page n)] } } : State).emit
      (.note "translation request" vf)

/-- The pages of a range of a VF are translated before it is accessed (R373). -/
def State.askRange (s : State) (vf a n : Nat) : State := (s.askHost vf (a / 4096)).askHost vf ((a + n - 1) / 4096)

/-- Where a byte of a VF's address space lies in host memory. -/
def State.hostAt (s : State) (vf a : Nat) : Nat := (s.hostPage vf (a / 4096)).getD 0 * 4096 + a % 4096

/-- Whether an access to a ring in host memory that has no answer has come to its timeout (R375). -/
def State.hostTimedOut (s : State) (q : Queue) : Bool := q.asked != 0 && decide (q.asked - 1 + (s.part q.pid).hostTo ≤ s.us)

/-- Whether an access to a ring in host memory waits for an answer: while the link is down, until the timeout. -/
def State.hostWaits (s : State) (q : Queue) : Bool := q.host && !s.host.up && !s.hostTimedOut q

/-- An access to a queue's ring begins, if none stands; one that is answered stands no more; one that timed out leaves its tag in
quarantine (R319, R375). -/
def State.hostAsk (s : State) (id : Nat) : State :=
  let q := s.queueOf id
  if !q.host then s
  else if s.host.up then s.modQueue id fun q => { q with asked := 0 }
  else if q.asked = 0 then s.modQueue id fun q => { q with asked := s.us + 1 }
  else if s.hostTimedOut q then
    { s.modQueue id (fun q => { q with asked := 0 }) with host := { s.host with quar := s.host.quar ++ [s.us] } }
  else s

/-! ## Rings (R374, R375) -/

/-- Bytes of a ring, in host memory or in the flat space; none where they cannot be read, which for the host is a
completion timeout (R375). -/
def State.queueBytes (s : State) (q : Queue) (a n : Nat) : State × Option (List Byte) :=
  if q.host then
    if s.host.up then
      let s := s.askRange q.vf a n
      (s, some ((List.range n).map fun i => s.hostMem.byte (s.hostAt q.vf (a + i))))
    else (s, none)
  else match s.flatBytes q.vf a n with
    | some (s, g) => (s, if g.cause = 0 then some g.bytes else none)
    | none => (s, none)

/-- Bytes of a ring written by the module. -/
def State.queueStore (s : State) (q : Queue) (a : Nat) (bs : List Byte) : State :=
  if q.host then
    if s.host.up then
      let s := s.askRange q.vf a bs.length
      { s with hostMem := (bs.zipIdx).foldl (fun m x => m.setByte (s.hostAt q.vf (a + x.2)) x.1) s.hostMem }
    else s
  else
    let r := s.flatStore 0 q.vf a bs
    if r.2 then r.1 else s.refuse q.vf

/-- An entry completes (R375): the signal word, then STAT, then the interrupt. Reserved bits are written as zero (R5). -/
def State.completeEntry (s : State) (id i : Nat) (ok : Bool) : State :=
  let q := s.queueOf id
  let a := q.entry i
  let (s, bs) := s.queueBytes q (a + 0x10) 8
  let sig := leVal (bs.getD [])
  let s := if sig = 0 then s
    else if !flatOk sig 8 then s.refuse q.vf
    else
      let r := s.flatStore 0 q.vf sig (leBytes 8 (if ok then 1 else 2 ^ 63))
      if r.2 then r.1 else s.refuse q.vf
  (s.queueStore q (a + 8) (leBytes 8 (if ok then 1 else 2))).emit (.msix q.vf q.vector)

/-- Whether what the completion of an entry reads or writes cannot be reached yet (R331), or has no answer from the host yet (R375). -/
def State.entryWaits (s : State) (id i : Nat) : Bool :=
  let q := s.queueOf id
  let a := q.entry i
  s.hostWaits q || (!q.host && s.flatWaits q.vf a) ||
    match (s.queueBytes q (a + 0x10) 8).2 with
    | some bs => leVal bs != 0 && flatOk (leVal bs) 8 && s.flatWaits q.vf (leVal bs)
    | none => false

/-- A supervisor records a queue, or maps or unmaps it (R219, R374). -/
def execQueueMap (queue : Nat) (x : QueueMapping) (s : State) : Result :=
  let q := s.queueOf queue
  let vf := queue / 4096
  match x with
  | .record r =>
    if (s.world vf).exists_ ∧ q.slot.isNone ∧ q.head = q.tail ∧ 4 ≤ r.log ∧ r.log ≤ 16 ∧ r.vector < 4096 ∧
      (r.host ∨ r.base + 32 * 2 ^ r.log ≤ 2 ^ 48)
    then .next (s.modQueue queue fun _ => ⟨vf, (s.world vf).pid, r.base, r.log, r.host, 0, 0, none, false, r.vector, 0⟩)
    else .next s
  | .map n =>
    if q.known ∧ !q.torn ∧ q.slot.isNone ∧ n < 64 ∧ !(s.queues.any fun y => y.2.pid == q.pid && y.2.slot == some n)
    then .next (s.modQueue queue fun q => { q with slot := some n }) else .next s
  | .unmap => .next (s.modQueue queue fun q => { q with slot := none })

/-- The host writes a queue's tail (R374); the write is an event of the arbiter (R264). -/
def execDoorbellWrite (vf queue tail : Nat) (s : State) : Result :=
  let id := 4096 * vf + queue
  let q := s.queueOf id
  if !s.host.up || 4096 ≤ queue then .next s
  else
    let s := s.raise "pcie" vf
    if q.known ∧ !q.torn then .next (s.modQueue id fun q => { q with tail := tail % 2 ^ q.log }) else .next s

/-- Whether a queue may dispatch: it is mapped, holds an entry, its interface runs, and a ream-table entry is free (R210,
R345). -/
def State.mayDispatch (s : State) (q : Queue) : Bool :=
  q.known && q.slot.isSome && !q.torn && q.head != q.tail && (s.world q.vf).exists_ && (s.world q.vf).ifs == .run &&
    !(s.world q.vf).draining && !s.asleepFor q.vf && !s.halted q.pid && decide (s.liveReams q.pid < 256)

/-- Whether the 32 bytes of an entry are accepted: no reserved bit or value, and RDA aligned (R5, Table 25-1). -/
def entryOk (bs : List Byte) : Bool :=
  let w (i : Nat) : Nat := leVal ((bs.drop (8 * i)).take 8)
  flatOk (w 0) 256 && decide (w 1 < 3) && w 3 == 0

/-- The oldest entry of a torn queue that is not dispatched completes ABORTED (R221). -/
def State.abortEntry (s : State) (id : Nat) : State :=
  let q := s.queueOf id
  (s.completeEntry id q.head false).modQueue id fun q => { q with head := (q.head + 1) % 2 ^ q.log }

/-- A mapped queue creates the ream of its next entry; one that cannot be read or is refused, or whose descriptor cannot be read or is
refused, completes ABORTED (R5, R210, R219, R375). What is left of a torn queue completes ABORTED, entry by entry (R221). -/
def execQueueDispatch (queue : Nat) (s : State) : Result :=
  let q := s.queueOf queue
  let more := q.known && q.torn && q.head != q.tail
  if !s.mayDispatch q && !more then .next s
  else if s.entryWaits queue q.head then .next (s.hostAsk queue)
  else if more then .next (s.abortEntry queue)
  else
    let s := s.hostAsk queue
    let next (s : State) : State := s.modQueue queue fun q => { q with head := (q.head + 1) % 2 ^ q.log }
    let refused (s : State) : Result := .next (next (s.completeEntry queue q.head false))
    match s.queueBytes q (q.entry q.head) 32 with
    | (s, none) => refused s
    | (s, some bs) =>
      let rda := leVal (bs.take 8)
      if !entryOk bs then refused s
      else if s.flatWaits q.vf rda then .next s
      else match s.readReam q.vf rda with
        | some (s, 0, some r) => .next (next (s.createReam q.vf rda r (some (queue, q.head))))
        | some (s, _, _) => refused s
        | none => refused s

/-- The ream of an entry is no longer live: the entry completes (R375). -/
def execQueueEntryComplete (rid : Nat) (s : State) : Result :=
  match s.ream rid with
  | none => .next s
  | some r =>
    match r.queue with
    | none => .next s
    | some (q, i) =>
      if s.reamLive r then .next s
      else if s.entryWaits q i then .next (s.hostAsk q)
      else .next (((s.hostAsk q).modReam rid fun r => { r with queue := none }).completeEntry q i (!r.aborted)).sweep

/-- Entries of a torn queue that are not dispatched complete ABORTED until one must wait; `n` bounds them. -/
def State.abortEntries (id : Nat) : Nat → State → State
  | 0, s => s
  | n + 1, s =>
    let q := s.queueOf id
    if q.head = q.tail ∨ s.entryWaits id q.head then s else State.abortEntries id n (s.abortEntry id)

/-- A queue is torn down (R221): the reams that it created are aborted and their entries complete ABORTED, but for one that has ended
already; entries not yet dispatched complete ABORTED. What cannot be reached yet completes when it can be (R331). -/
def State.tearQueue (s : State) (id : Nat) : State :=
  let q := s.queueOf id
  let mine := s.reams.filter fun r => match r.queue with | some y => y.1 == id | none => false
  let s := mine.foldl (fun s r =>
    let ok := !s.reamLive r && !r.aborted
    let i := (r.queue.map (·.2)).getD 0
    if s.entryWaits id i then s.abortReam r.rid
    else ((s.modReam r.rid fun r => { r with queue := none }).completeEntry id i ok).abortReam r.rid) s
  State.abortEntries id (2 ^ q.log) (s.modQueue id fun q => { q with torn := true })

/-- Whether a world's queues still owe an entry's completion (R221). -/
def State.owesEntries (s : State) (vf : Nat) : Bool :=
  (s.queues.any fun q => q.2.vf == vf && q.2.torn && q.2.head != q.2.tail) ||
  s.reams.any fun r => r.vf == vf && r.queue.any fun y => (s.queueOf y.1).torn

end Sys2Proof.Machine
end

