-- ==== Sys2Proof/Machine/Engines.lean ====
section
/-! DEFINITION. The stream generators (R45, R53, R150 to R154, R268, R274), the instruction fetch after an error (R288),
discards that the device makes of its own accord (R236, R281), and soft errors (R288, R289). -/

namespace Sys2Proof.Machine

/-! ## Input streams (R268) -/

/-- Whether the engines of a core move: from its start until its freeze has latched (R252). -/
def Core.engineOn (c : Core) : Bool :=
  !c.latchedNow && (c.run == .running || c.run == .stopping || c.run == .rewinding || c.run == .ending)

/-- The streams of a register that generate: the one that governs it, none, and those loaded that do not govern it yet, by their
place among the incoming (R152, R268). -/
def Core.gens (c : Core) (q : Nat) : List (Option Nat) :=
  none :: ((List.range c.qNew.length).filter fun j => (c.qNew[j]?).any fun i => i.reg == q).map some

/-- A stream that generates. -/
def Core.gen (c : Core) (q : Nat) : Option Nat → Stream
  | none => c.stream q
  | some j => ((c.qNew[j]?).map (·.q)).getD Stream.idle

/-- Change a stream that generates. -/
def Core.modGen (c : Core) (q : Nat) (g : Option Nat) (f : Stream → Stream) : Core :=
  match g with
  | none => c.modStream q f
  | some j => { c with qNew := modifyAt c.qNew j fun i => { i with q := f i.q } }

/-- Whether a generator has an address to place and room for it (R268). -/
def Stream.places (x : Stream) : Bool := x.loaded && !(SDesc.ofBits x.desc).out && !x.done && decide (x.aq.length < 64)

/-- The generator of a register places one address-queue entry (R268). -/
def execStreamAddressPlace (core q : Nat) (s : State) : Result :=
  let c := s.core core
  match (c.gens q).find? fun g => (c.gen q g).places with
  | none => .next s
  | some g =>
    if c.run != .running then .next s
    else .next (s.modCore core fun c => c.modGen q g fun x =>
      let d := SDesc.ofBits x.desc
      let k := Nat.min d.total (x.made + d.perEntry)
      { x.at k with aq := x.aq ++ [⟨x.made, false, [], false⟩], made := k, done := decide (d.total ≤ k) })

/-- The places of an entry's elements (R274, R275): an element outside its tensor comes before any translation, and then the format is
looked at. -/
def State.entryLook (s : State) (core q : Nat) (x : Stream) (item : Nat) : Look (List StreamRef) :=
  let d := SDesc.ofBits x.desc
  let n := Nat.min d.perEntry (d.total - item)
  if d.kind = 1 then .hit (d.refs (d.refSlot x.desc) item n)
  else match s.lookDesc core (.stream q) d.id d.out with
    | .miss => .miss
    | .fault f => .fault f
    | .hit t =>
      let refs := d.refs (d.refIn t) item n
      if (if d.out then refs.all (·.out) else refs.any (·.out)) || d.fits t then .hit refs
      else .fault (xfault d.id (((refs.find? (!·.out)).map (·.unit)).getD 0) 0 false d.out 8)

/-- The first entry whose fetch is not sent takes its places. -/
def sendFirst (refs : List StreamRef) : List AEntry → List AEntry
  | [] => []
  | a :: l => if a.sent then a :: sendFirst refs l else { a with sent := true, refs := refs } :: l

/-- Whether a generator has a fetch to send: those in flight and the data queue stay below 16 (R268). -/
def Stream.sends (x : Stream) : Bool :=
  x.aq.any (!·.sent) && decide ((x.aq.filter (·.sent)).length + x.dq.length < 16)

/-- Whether a fetch may be sent: stores of closed segments have performed (R241), and every acquire before it has taken effect (R244). -/
def Core.fetchesGo (c : Core) : Bool :=
  c.run == .running && !(c.ssb.any (·.closed)) && c.acquired c.portNext && !(c.fencing.any fun f => f.1 != 2)

/-- The fetch of the oldest unsent entry is sent (R268). -/
def execStreamFetchSend (core q : Nat) (s : State) : Result :=
  let c := s.core core
  match (c.gens q).find? fun g => (c.gen q g).sends with
  | none => .next s
  | some g =>
    let x := c.gen q g
    if !c.fetchesGo then .next s
    else match s.entryLook core q x (((x.aq.find? (!·.sent)).map (·.item)).getD 0) with
      | .miss => .next (s.want core (.stream q) (SDesc.ofBits x.desc).id descUnit false)
      | .fault f => .next (s.lateFault core (.stream q) f)
      | .hit refs =>
        let s := s.modCore core fun c => c.modGen q g fun x => { x with aq := sendFirst refs x.aq }
        .next (if refs.any (·.out) then s
          else refs.foldl (fun s r => if r.tid = 0 then s else s.seek core (.stream q) r.tid r.unit false) s)

/-- What requests of a stream's fetches and writes are for: the register and the number of its load. -/
def Stream.purpose (x : Stream) (core q : Nat) : ReqFor := .fetch core (q + 16 * x.num)

/-- Requests of the streams that a register held before are given up (R152). -/
def State.dropOld (s : State) (core q : Nat) (now : ReqFor) : State :=
  let old (r : Req) : Bool := match r.for_ with
    | .fetch c n => c == core && n % 16 == q && r.for_ != now && !r.quar
    | _ => false
  (s.abandon (dieOf core) old).modDie (dieOf core) fun d => { d with reqs := d.reqs.filter fun r => !(old r && r.done) }

/-- The items of a KIND 1 entry, none while the slot holds them back (R50). -/
def Core.slotItems (c : Core) (n : Nat) : List StreamRef → Option (List Got)
  | [] => some []
  | r :: rs =>
    let a := r.unit * 65536 + r.off
    if r.out then (c.slotItems n rs).map (⟨List.replicate n 0, 0, .core⟩ :: ·)
    else if (c.scratchHold a n false).isSome then none
    else
      let g : Got := if c.slotSealed a then ⟨List.replicate n 0, 5, .slot r.unit⟩
        else if c.scratchBad a n then ⟨List.replicate n 0, 6, .slot r.unit⟩ else ⟨c.scratch a n, 0, .core⟩
      (c.slotItems n rs).map (g :: ·)

/-- The data-queue entry of items that have come back (R150, R151, R154). A fetch that no answer came to counts as a fetch of
bad lines of the core. -/
def entryOf (d : SDesc) (refs : List StreamRef) (gs : List Got) : QEntry :=
  let gs := gs.map fun g => if g.cause = 16 then { g with cause := 6, unit := .core } else g
  let cause := gs.foldl (fun m g => joinCause m g.cause) 0
  let unit := ((gs.find? (·.cause == cause)).map (·.unit)).getD .core
  let zero := d.zpoi && cause != 3 && cause != 0
  let bytes := (gs.map fun g => if g.cause = 0 then g.bytes else List.replicate g.bytes.length 0).flatten
  { val := BitVec.ofNat 2048 (leVal bytes)
    poison := if cause = 0 ∨ zero then none else some ⟨BitVec.ofNat 4 cause, unit⟩
    zero := zero, coord := refs.any (·.out), bad := false, port := 0 }

/-- A line of a fetch whose owner has refused it with TFAULT: the fetch faults to the supervisor with reason 2 (R325, log 67). -/
def State.refusedRun (s : State) (core : Nat) (me : ReqFor) (tid : Nat) (runs : List (Nat × Nat × Nat)) : Option XFault :=
  runs.findSome? fun r => match s.runReq core me tid r with
    | some q => if q.done && q.cause == 2 then some (xfault tid r.1 0 false false 2) else none
    | none => none

/-- The oldest fetch of the governing stream lands in the data queue (R268): every line it needs is read, each once (R154). An entry
with an element outside its tensor reads nothing (R53), and one whose address failed its parity counts as a fetch of bad lines
(R288). -/
def execStreamFetchLand (core q : Nat) (s : State) : Result :=
  let c := s.core core
  let x := c.stream q
  let d := SDesc.ofBits x.desc
  match x.aq with
  | [] => .next s
  | a :: _ =>
    if !a.sent || !c.engineOn then .next s
    else
      let me := x.purpose core q
      let s := s.dropOld core q me
      let put (refs : List StreamRef) (s : State) (gs : List Got) : State :=
        s.modCore core fun c => (c.modStream q fun x => { x with aq := x.aq.tail, dq := x.dq ++ [entryOf d refs gs] }).dropRes (.stream q)
      let land := put a.refs
      let empty (cause : Nat) : List Got := a.refs.map fun _ => ⟨List.replicate d.itemBytes 0, cause, .core⟩
      if a.bad then .next (land s (empty 6))
      else if a.refs.any (·.out) then .next (land s (empty 0))
      else if d.kind = 1 then
        match c.slotItems d.itemBytes a.refs with
        | none => .next s
        | some gs => .next (land s gs)
      else
        let runs := lineRuns 1 (linesOf d.itemBytes a.refs)
        match State.runsReady core (.stream q) me d.id runs s with
        | .error f =>
          -- a tile that the tensor no longer has is outside it (R284)
          .next (if f.reason = 9 then (put (a.refs.map fun r => { r with out := true }) s (empty 0)).dropDone (dieOf core) me
            else s.lateFault core (.stream q) f)
        | .ok (s, false) => .next s
        | .ok (s, true) =>
          match s.refusedRun core me d.id runs with
          | some f => .next ((s.dropDone (dieOf core) me).lateFault core (.stream q) f)
          | none =>
          let r := s.readRuns core (.stream q) me d.id runs
          .next ((land r.1 (a.refs.map (itemGot r.2 d.itemBytes))).dropDone (dieOf core) me)

/-! ## Output streams (R150, R153) -/

/-- The pieces of an output entry, in visiting order, each within one line: elements that follow one another are written together
(R384). After the last record of a tile come its padding bytes, zero (R68). -/
def SDesc.pieces (d : SDesc) (refs : List StreamRef) (v : Vec) : List Piece :=
  let bytes := leBytes 256 v.toNat
  let n := d.itemBytes
  let item (y : StreamRef × Nat) : Piece :=
    let pad := if d.bfp && d.kind == 0 && decide (65536 < y.1.off + 2 * n) then 65536 - (y.1.off + n) else 0
    ⟨y.1.unit, y.1.off, (bytes.drop (y.2 * n)).take n ++ List.replicate pad 0⟩
  (joinPieces ((refs.zipIdx.filter fun y => !y.1.out).map item)).flatMap fun p =>
    (linePieces p.off p.data.length).map fun x => ⟨p.unit, x.1, (p.data.drop (x.1 - p.off)).take x.2⟩

/-- A piece of a tile that another module owns goes as a TWR and waits for its answer (R237). -/
def State.writeFar (s : State) (core : Nat) (me : ReqFor) (tid owner : Nat) (p : Piece) : State × Bool :=
  let vf := (s.core core).vf
  let die := dieOf core
  match s.reqFor die fun x => x.for_ == me && x.op == 7 with
  | none => (s.askTile die 7 vf tid p.unit p.off 1 owner p.data .pkg me, false)
  | some x =>
    if !x.done then (s, false)
    else
      let s := s.modDie die fun d => { d with reqs := d.reqs.filter fun y => y.for_ != me }
      (if x.cause = 0 then s else s.fabricReport vf (x.cause % 16) 7 x.target x.tagWord x.addr, true)

/-- A piece of an output entry of a slot is written, unless the slot holds it back (R50). -/
def Core.writeSlot (c : Core) (p : Piece) (bad : Bool) : Option Core :=
  let a := p.unit * 65536 + p.off
  let n := p.data.length
  if (c.scratchHold a n true).isSome then none
  else
    let c := c.scratchWrite a p.data c.seqb
    some (if bad then { c with scrBad := (c.scrBad ++ (List.range ((a + n - 1) / 8 - a / 8 + 1)).map (a / 8 + ·)).eraseDups } else c)

/-- A piece of an output entry is written; false where it must wait. What cannot be written writes no byte and is counted with the
world's refused writes (R287; log 17). An entry that failed its parity leaves its lines uncorrectable (log 97). -/
def State.writePiece (s : State) (core q : Nat) (x : Stream) (bad : Bool) (p : Piece) : State × Bool :=
  let d := SDesc.ofBits x.desc
  let vf := (s.core core).vf
  if d.kind = 1 then
    match (s.core core).writeSlot p bad with
    | some k => (s.setCore core k, true)
    | none => (s, false)
  else match s.look core (.stream q) d.id p.unit true false with
    | .miss => (s.want core (.stream q) d.id p.unit true, false)
    | .fault _ => (s.refuse vf, true)
    | .hit e =>
      if bad then (if e.owner = s.me then s.spoilUnit vf e p.off p.data.length else s.refuse vf, true)
      else if e.owner ≠ s.me then s.writeFar core (x.purpose core q) d.id e.owner p
      else
        let w := s.writeUnit (dieOf core) vf d.id p.unit e p.off p.data (some (bulkOf core))
        match w.2 with
        | .done => (w.1, true)
        | .wait => (w.1, false)
        | .refused => (w.1.refuse vf, true)
        | .sealed => (w.1.countSealed vf, true)

/-- Pieces of the entry in hand are written, one after another, until one must wait. -/
def State.writePieces (core q : Nat) (x : Stream) (bad : Bool) : List Piece → Nat → State → State × Nat
  | [], n, s => (s, n)
  | p :: l, n, s =>
    let w := s.writePiece core q x bad p
    if w.2 then State.writePieces core q x bad l (n + 1) w.1 else (w.1, n)

/-- The oldest entry of an output stream has been dealt with. -/
def Core.dropOutput (c : Core) (q : Nat) : Core :=
  (c.modStream q fun x =>
    let d := SDesc.ofBits x.desc
    let k := Nat.min d.total (x.wrote + d.perEntry)
    { x.at k with dq := x.dq.tail, head := (x.head + 1) % 16, part := 0, wrote := k, done := decide (d.total ≤ k) }).dropRes (.stream q)

/-- The generator writes the oldest entry of an output stream: entries of the open segment stay until it closes (R292), or
the core stops (R252). A format that is not the tensor's stops a core that runs (R274); the entry of a core that has stopped is refused
like any other that does not translate, since the latch waits for it (log 17). -/
def execStreamOutputWrite (core q : Nat) (s : State) : Result :=
  let c := s.core core
  let x := c.stream q
  let d := SDesc.ofBits x.desc
  match x.dq with
  | [] => .next s
  | e :: _ =>
    if !x.loaded || !d.out || !c.engineOn || !c.acquired e.port || (x.dq.length ≤ x.pushed && c.run != .stopping) then .next s
    else match s.entryLook core q x x.wrote with
      | .miss => .next (s.want core (.stream q) d.id descUnit true)
      | .fault f =>
        if f.info.toNat % 16 = 8 ∧ c.run = .running then .next (s.lateFault core (.stream q) f)
        else .next ((s.refuse c.vf).modCore core fun c => c.dropOutput q)
      | .hit refs =>
        let pieces := d.pieces refs e.val
        let w := State.writePieces core q x e.bad (pieces.drop x.part) x.part s
        if w.2 < pieces.length then .next (w.1.modCore core fun c => c.modStream q fun x => { x with part := w.2 })
        else .next (((refs.filter (·.out)).foldl (fun s _ => s.refuse c.vf) w.1).modCore core fun c => c.dropOutput q)

/-! ## Instruction fetch (R288) -/

/-- The bundle that failed its code has come back from the image's ciphertext. -/
def execInstructionRefetch (core : Nat) (s : State) : Result :=
  .next (s.modCore core fun c => { c with imemBad := c.imemBad.filter (· != c.pc) })

/-! ## Evictions (R236, R281) -/

/-- Element `i` of a list left out. -/
def dropAt (l : List α) (i : Nat) : List α := l.take i ++ l.drop (i + 1)

/-- The device discards a line or an entry of its own accord; an owner-cache entry while requests pend stays (R352). -/
def execEviction (x : Evicted) (s : State) : Result :=
  .next (match x with
    | .line d i => s.modDie d fun y => { y with rdc := dropAt y.rdc i }
    | .remoteGranule d i => s.modDie d fun y => { y with rdcRemote := dropAt y.rdcRemote i }
    | .translation i => { s with tlb := dropAt s.tlb i }
    | .descriptor i => { s with dtlb := dropAt s.dtlb i }
    | .owner d i => s.modDie d fun y =>
      match y.owners[i]? with
      | some o => if s.ownerIdle d o then { y with owners := dropAt y.owners i } else y
      | none => y)

/-! ## Soft errors (R288, R289) -/

/-- A register whose parity no longer checks. -/
def Core.spoil (c : Core) (b : BadReg) : Core := { c with bad := if c.bad.contains b then c.bad else c.bad ++ [b] }

/-- A frame's corrected count rises; at 8 a retirement event is raised (R295). -/
def State.countCorrected (s : State) (frame : Nat) : State :=
  let n := Tab.get 0 s.corrected frame + 1
  let s := { s with corrected := Tab.set 0 s.corrected frame n }
  if n = 8 then s.raiseRetirement frame else s

/-- The ECC state of a line. -/
def State.spoilLine (s : State) (l ecc : Nat) : State :=
  { s with lines := Tab.modify ⟨none, 0⟩ s.lines l fun x => { x with ecc := ecc } }

/-- A bit of a protected structure changes (Table 17-1). -/
def execSoftError (x : ErrorSite) (s : State) : Result :=
  .next (match x with
    | .scalar c r => s.modCore c fun k => if r = 0 then k else k.spoil (.s r)
    | .vector c r => s.modCore c fun k => k.spoil (.v r)
    | .mask c r => s.modCore c fun k => if r = 0 then k else k.spoil (.k r)
    | .predicate c => s.modCore c fun k => k.spoil .p
    | .accumulator c n => s.modCore c fun k => k.spoil (.acc n)
    | .streamEntry c q => s.modCore c fun k => k.modStream q fun x =>
      { x with dq := match x.dq with | [] => [] | e :: l => { e with bad := true } :: l }
    | .matrixParameter c r => s.modCore c fun k => k.spoil (.mp r)
    | .gatherIndex c => s.modCore c fun k => k.spoil .gix
    | .control c a => s.modCore c fun k => k.spoil (.creg a)
    | .addressEntry c q => s.modCore c fun k => k.modStream q fun x =>
      { x with aq := match x.aq with | [] => [] | a :: l => { a with bad := true } :: l }
    | .scratchpad c a => s.modCore c fun k =>
      { k with scrBad := if k.scrBad.contains (a / 8) then k.scrBad else k.scrBad ++ [a / 8] }
    | .storeBuffer c i => s.modCore c fun k => { k with ssb := modifyAt k.ssb i fun e => { e with bad := 1 } }
    | .instructionMemory c i => s.modCore c fun k =>
      { k with imemBad := if k.imemBad.contains i then k.imemBad else k.imemBad ++ [i] }
    | .hbmLine l always => s.spoilLine l (if always then 2 else 1)
    | .hbmCorrected l => s.countCorrected (l / 1024)
    | .l2Clean _ => s
    | .l2Dirty l => s.spoilLine l 2
    | .remoteDataCache d i => s.modDie d fun y => { y with rdc := dropAt y.rdc i }
    -- a line of a manifest slot is restored as a poisoned line (R369)
    | .storage slot l =>
      let hit (m : Manifest) : Manifest := { m with states := Tab.modify ⟨none, 0⟩ m.states l fun x => { x with ecc := 2 } }
      { s with mon := if slot = 1 then { s.mon with manA := hit s.mon.manA } else { s.mon with manB := hit s.mon.manB } })

end Sys2Proof.Machine
end

