-- ==== Sys2Proof/Machine/Scalar.lean ====
section
/-! DEFINITION. The scalar, address and control ops below code 0xC0 (spec/04_scalar_and_control.md, R84 to R101). -/

namespace Sys2Proof.Machine

/-! ## Forms -/

/-- An op of class SR with two sources: `d := f(A, B)` after `lat` bundles (R84, R86). -/
def scRR (lat : Nat) (f : Word → Word → Word) (x : ClsSR) (s : State) : Result :=
  issueOp (fun s => s.srcStops [.s x.a.toNat 6, .s x.b.toNat 12])
    (fun s => s.putS x.d.toNat lat (f (s.sv x.a) (s.sv x.b))) s

/-- An op of class SR with one source (R92, R94). -/
def scR (f : Word → Word) (x : ClsSR) (s : State) : Result :=
  issueOp (fun s => s.srcStops [.s x.a.toNat 6]) (fun s => s.putS x.d.toNat 1 (f (s.sv x.a))) s

/-- An op of class SI with a source: `d := f(A, I)`, with the signed immediate (R89). -/
def scRI (lat : Nat) (f : Word → Word → Word) (x : ClsSI) (s : State) : Result :=
  issueOp (fun s => s.srcStops [.s x.a.toNat 6])
    (fun s => s.putS x.d.toNat lat (f (s.sv x.a) (x.imm.signExtend 64))) s

/-- A register compare of class SP (R95). -/
def scCmp (f : Word → Word → Bool) (x : ClsSP) (s : State) : Result :=
  issueOp (fun s => s.srcStops [.s x.a.toNat 4, .s x.b.toNat 10]) (fun s => s.putP x.pd.toNat (f (s.sv x.a) (s.sv x.b))) s

/-- An immediate compare of class SPI (R95): J is the sign-extended immediate. -/
def scCmpI (f : Word → Word → Bool) (x : ClsSPI) (s : State) : Result :=
  issueOp (fun s => s.srcStops [.s x.a.toNat 4]) (fun s => s.putP x.pd.toNat (f (s.sv x.a) (x.imm.signExtend 64))) s

/-- A predicate op of class PL (R96). -/
def scPL (f : Bool → Bool → Bool) (x : ClsPL) (s : State) : Result :=
  issueOp (fun s => s.srcStops [.p])
    (fun s => s.putP x.pd.toNat (f (s.cur.preg x.pa.toNat != x.na) (s.cur.preg x.pb.toNat != x.nb))) s

/-! ## Register arithmetic and logic (R86-R88) -/

/-- Left shift by the whole natural value of B (Table 4-1). -/
def shlBy (a b : Word) : Word := if b.toNat < 64 then a <<< b.toNat else 0

/-- Right shift of the natural value. -/
def shrBy (a b : Word) : Word := if b.toNat < 64 then a >>> b.toNat else 0

/-- Right shift of the signed value. -/
def sraBy (a b : Word) : Word := if b.toNat < 64 then a.sshiftRight b.toNat else if a.toInt < 0 then BitVec.allOnes 64 else 0

/-- Upper half of the signed product. -/
def mulHi (a b : Word) : Word := wrap ((a.toInt * b.toInt) / 2 ^ 64)

/-- Upper half of the natural product. -/
def mulHiN (a b : Word) : Word := BitVec.ofNat 64 (a.toNat * b.toNat / 2 ^ 64)

/-- Signed quotient toward zero (R88). -/
def divS (a b : Word) : Word := if b = 0 then BitVec.allOnes 64 else wrap (a.toInt.tdiv b.toInt)

/-- Natural quotient (R88). -/
def divN (a b : Word) : Word := if b = 0 then BitVec.allOnes 64 else BitVec.ofNat 64 (a.toNat / b.toNat)

/-- Signed remainder, of the sign of A (R88). -/
def remS (a b : Word) : Word := if b = 0 then a else wrap (a.toInt.tmod b.toInt)

/-- Natural remainder (R88). -/
def remN (a b : Word) : Word := if b = 0 then a else BitVec.ofNat 64 (a.toNat % b.toNat)

/-- `add` (R86). -/
def execAdd (x : ClsSR) (s : State) : Result := scRR 1 (· + ·) x s

/-- `sub` (R86). -/
def execSub (x : ClsSR) (s : State) : Result := scRR 1 (· - ·) x s

/-- `mul` (R86). -/
def execMul (x : ClsSR) (s : State) : Result := scRR 3 (· * ·) x s

/-- `mulh` (R86). -/
def execMulh (x : ClsSR) (s : State) : Result := scRR 3 mulHi x s

/-- `mulhn` (R86). -/
def execMulhn (x : ClsSR) (s : State) : Result := scRR 3 mulHiN x s

/-- `div` (R88). -/
def execDiv (x : ClsSR) (s : State) : Result := scRR 18 divS x s

/-- `divn` (R88). -/
def execDivn (x : ClsSR) (s : State) : Result := scRR 18 divN x s

/-- `rem` (R88). -/
def execRem (x : ClsSR) (s : State) : Result := scRR 18 remS x s

/-- `remn` (R88). -/
def execRemn (x : ClsSR) (s : State) : Result := scRR 18 remN x s

/-- `and` (R86). -/
def execAnd (x : ClsSR) (s : State) : Result := scRR 1 (· &&& ·) x s

/-- `or` (R86). -/
def execOr (x : ClsSR) (s : State) : Result := scRR 1 (· ||| ·) x s

/-- `xor` (R86). -/
def execXor (x : ClsSR) (s : State) : Result := scRR 1 (· ^^^ ·) x s

/-- `shl` (R86). -/
def execShl (x : ClsSR) (s : State) : Result := scRR 1 shlBy x s

/-- `shr` (R86). -/
def execShr (x : ClsSR) (s : State) : Result := scRR 1 shrBy x s

/-- `sra` (R86). -/
def execSra (x : ClsSR) (s : State) : Result := scRR 1 sraBy x s

/-- `madd` (R87): from the exact product, reduced once. -/
def execMadd (x : ClsS4) (s : State) : Result :=
  issueOp (fun s => s.srcStops [.s x.a.toNat 6, .s x.b.toNat 12, .s x.c.toNat 18])
    (fun s => s.putS x.d.toNat 3 (s.sv x.a * s.sv x.b + s.sv x.c)) s

/-! ## Immediates (R89, R90) -/

/-- `addi` (R89). -/
def execAddi (x : ClsSI) (s : State) : Result := scRI 1 (· + ·) x s

/-- `andi` (R89). -/
def execAndi (x : ClsSI) (s : State) : Result := scRI 1 (· &&& ·) x s

/-- `ori` (R89). -/
def execOri (x : ClsSI) (s : State) : Result := scRI 1 (· ||| ·) x s

/-- `xori` (R89). -/
def execXori (x : ClsSI) (s : State) : Result := scRI 1 (· ^^^ ·) x s

/-- `shli` (R89): imm20 holds the amount, 0 to 63. -/
def execShli (x : ClsSI) (s : State) : Result := scRI 1 shlBy x s

/-- `shri` (R89). -/
def execShri (x : ClsSI) (s : State) : Result := scRI 1 shrBy x s

/-- `srai` (R89). -/
def execSrai (x : ClsSI) (s : State) : Result := scRI 1 sraBy x s

/-- `muli` (R89). -/
def execMuli (x : ClsSI) (s : State) : Result := scRI 3 (· * ·) x s

/-- `lui` (R89). -/
def execLui (x : ClsSI) (s : State) : Result :=
  issueOp (fun _ => []) (fun s => s.putS x.d.toNat 1 (x.imm.signExtend 64 <<< 12)) s

/-- `lpc` (R89): from the index of the issuing bundle. -/
def execLpc (x : ClsSI) (s : State) : Result :=
  issueOp (fun _ => []) (fun s => s.putS x.d.toNat 1 (BitVec.ofNat 64 s.ctx.pc + x.imm.signExtend 64)) s

/-- `movl` (R90). -/
def execMovl (x : ClsSL) (s : State) : Result := issueOp (fun _ => []) (fun s => s.putS x.d.toNat 1 x.imm) s

/-- `addl` (R90). -/
def execAddl (x : ClsSL) (s : State) : Result :=
  issueOp (fun s => s.srcStops [.s x.a.toNat 6]) (fun s => s.putS x.d.toNat 1 (s.sv x.a + x.imm)) s

/-- `andl` (R90). -/
def execAndl (x : ClsSL) (s : State) : Result :=
  issueOp (fun s => s.srcStops [.s x.a.toNat 6]) (fun s => s.putS x.d.toNat 1 (s.sv x.a &&& x.imm)) s

/-! ## Address arithmetic, selection and extrema (R91, R92) -/

/-- `lea` (R91). -/
def execLea (x : ClsSA) (s : State) : Result :=
  issueOp (fun s => s.srcStops [.s x.a.toNat 6, .s x.b.toNat 12])
    (fun s => s.putS x.d.toNat 1 (s.sv x.a + s.sv x.b <<< x.sh.toNat)) s

/-- `min` (R92). -/
def execMin (x : ClsSR) (s : State) : Result := scRR 1 (fun a b => if sLe a b then a else b) x s

/-- `minn` (R92). -/
def execMinn (x : ClsSR) (s : State) : Result := scRR 1 (fun a b => if nLe a b then a else b) x s

/-- `max` (R92). -/
def execMax (x : ClsSR) (s : State) : Result := scRR 1 (fun a b => if sLe b a then a else b) x s

/-- `maxn` (R92). -/
def execMaxn (x : ClsSR) (s : State) : Result := scRR 1 (fun a b => if nLe b a then a else b) x s

/-- `abs` (R92): of -2^63 it gives 2^63 mod 2^64. -/
def execAbs (x : ClsSR) (s : State) : Result := scR (fun a => if a.toInt < 0 then -a else a) x s

/-- `sel` (R92): both operands are read, whatever the predicate (R84). -/
def execSel (x : ClsSS) (s : State) : Result :=
  issueOp (fun s => s.srcStops [.s x.a.toNat 6, .s x.b.toNat 12, .p])
    (fun s => s.putS x.d.toNat 1 (if s.cur.preg x.p.toNat then s.sv x.a else s.sv x.b)) s

/-! ## Bit fields and counts (R93, R94) -/

/-- `bext` (R93). -/
def execBext (x : ClsSB) (s : State) : Result :=
  issueOp (fun s => s.srcStops [.s x.a.toNat 6])
    (fun s =>
      let len := x.len1.toNat + 1
      s.putS x.d.toNat 1 (wrap (toSigned len ((s.sv x.a).toNat / 2 ^ x.pos.toNat % 2 ^ len)))) s

/-- `bextn` (R93). -/
def execBextn (x : ClsSB) (s : State) : Result :=
  issueOp (fun s => s.srcStops [.s x.a.toNat 6])
    (fun s => s.putS x.d.toNat 1 (BitVec.ofNat 64 ((s.sv x.a).toNat / 2 ^ x.pos.toNat % 2 ^ (x.len1.toNat + 1)))) s

/-- `bins` (R93): the destination is read too. -/
def execBins (x : ClsSB) (s : State) : Result :=
  issueOp (fun s => s.srcStops [.s x.d.toNat 0, .s x.a.toNat 6])
    (fun s =>
      let m : Word := BitVec.ofNat 64 ((2 ^ (x.len1.toNat + 1) - 1) * 2 ^ x.pos.toNat)
      s.putS x.d.toNat 1 ((s.sv x.d &&& ~~~m) ||| (s.sv x.a <<< x.pos.toNat &&& m))) s

/-- Ones among the low `n` bits. -/
def countOnes : Nat → Nat → Nat
  | 0, _ => 0
  | n + 1, x => x % 2 + countOnes n (x / 2)

/-- Zeros above the highest one of `w` bits; `w` when there is none. -/
def leadZeros (w x : Nat) : Nat := if x = 0 then w else w - 1 - Nat.log2 x

/-- Zeros below the lowest one; `w` when there is none. -/
def trailZeros : Nat → Nat → Nat
  | 0, _ => 0
  | w + 1, x => if x % 2 = 1 then 0 else 1 + trailZeros w (x / 2)

/-- The low `n` bits in reverse order. -/
def revBits : Nat → Nat → Nat → Nat
  | 0, _, acc => acc
  | n + 1, x, acc => revBits n (x / 2) (acc * 2 + x % 2)

/-- `clz` (R94). -/
def execClz (x : ClsSR) (s : State) : Result := scR (fun a => BitVec.ofNat 64 (leadZeros 64 a.toNat)) x s

/-- `ctz` (R94). -/
def execCtz (x : ClsSR) (s : State) : Result := scR (fun a => BitVec.ofNat 64 (trailZeros 64 a.toNat)) x s

/-- `popc` (R94). -/
def execPopc (x : ClsSR) (s : State) : Result := scR (fun a => BitVec.ofNat 64 (countOnes 64 a.toNat)) x s

/-- `bswap` (R94). -/
def execBswap (x : ClsSR) (s : State) : Result :=
  scR (fun a => BitVec.ofNat 64 (joinNat 8 (splitNat 8 8 a.toNat).reverse)) x s

/-- `brev` (R94). -/
def execBrev (x : ClsSR) (s : State) : Result := scR (fun a => BitVec.ofNat 64 (revBits 64 a.toNat 0)) x s

/-! ## Compares and predicate logic (R95, R96) -/

/-- `ceq` (R95). -/
def execCeq (x : ClsSP) (s : State) : Result := scCmp (· == ·) x s

/-- `cne` (R95). -/
def execCne (x : ClsSP) (s : State) : Result := scCmp (· != ·) x s

/-- `clt` (R95). -/
def execClt (x : ClsSP) (s : State) : Result := scCmp sLt x s

/-- `cltn` (R95). -/
def execCltn (x : ClsSP) (s : State) : Result := scCmp nLt x s

/-- `cle` (R95). -/
def execCle (x : ClsSP) (s : State) : Result := scCmp sLe x s

/-- `clen` (R95). -/
def execClen (x : ClsSP) (s : State) : Result := scCmp nLe x s

/-- `ctst` (R95). -/
def execCtst (x : ClsSP) (s : State) : Result := scCmp (fun a b => a &&& b != 0) x s

/-- `ceqi` (R95). -/
def execCeqi (x : ClsSPI) (s : State) : Result := scCmpI (· == ·) x s

/-- `cnei` (R95). -/
def execCnei (x : ClsSPI) (s : State) : Result := scCmpI (· != ·) x s

/-- `clti` (R95). -/
def execClti (x : ClsSPI) (s : State) : Result := scCmpI sLt x s

/-- `cltni` (R95). -/
def execCltni (x : ClsSPI) (s : State) : Result := scCmpI nLt x s

/-- `clei` (R95). -/
def execClei (x : ClsSPI) (s : State) : Result := scCmpI sLe x s

/-- `cleni` (R95). -/
def execCleni (x : ClsSPI) (s : State) : Result := scCmpI nLe x s

/-- `pand` (R96). -/
def execPand (x : ClsPL) (s : State) : Result := scPL (· && ·) x s

/-- `por` (R96). -/
def execPor (x : ClsPL) (s : State) : Result := scPL (· || ·) x s

/-- `pxor` (R96). -/
def execPxor (x : ClsPL) (s : State) : Result := scPL (· != ·) x s

/-- `pnot` (R96): only `pa` is used. -/
def execPnot (x : ClsPL) (s : State) : Result := scPL (fun a _ => !a) x s

/-- `pmov` (R96): only `pa` is used. -/
def execPmov (x : ClsPL) (s : State) : Result := scPL (fun a _ => a) x s

/-! ## Moves between files (R97) -/

/-- `movp` (R97). -/
def execMovp (x : ClsSR) (s : State) : Result :=
  issueOp (fun s => s.srcStops [.p]) (fun s => s.putS x.d.toNat 1 ((s.cur.p ||| 1).setWidth 64)) s

/-- `pmovs` (R97): for each i from 1 to 15 with B[i] = 1, P[i] := A[i]. -/
def execPmovs (x : ClsSR) (s : State) : Result :=
  issueOp (fun s => s.srcStops [.s x.a.toNat 6, .s x.b.toNat 12])
    (fun s =>
      let a := s.sv x.a
      let b := s.sv x.b
      (List.range 16).foldl (fun s i => if b.getLsbD i then s.putP i (a.getLsbD i) else s) s) s

/-- `movk` (R97). -/
def execMovk (x : ClsSK) (s : State) : Result :=
  issueOp (fun s => s.srcStops [.s x.s.toNat 0]) (fun s => s.putK x.k.toNat 1 (s.sv x.s)) s

/-- `kmov` (R97). -/
def execKmov (x : ClsSK) (s : State) : Result :=
  issueOp (fun s => s.srcStops [.k x.k.toNat 6]) (fun s => s.putS x.s.toNat 1 (s.cur.kreg x.k.toNat)) s

/-! ## Transfer of control (R98, R99) -/

/-- The next bundle is at `t`. -/
def State.goto (s : State) (t : Nat) : State := s.modCur fun c => { c with pc := t }

/-- The bundle indices a core may reach (R16): its task image, and at H the handler image of its world (R37). -/
def Core.reaches (c : Core) (t : Int) : Bool :=
  (0 ≤ t && t < c.imgLen) || (c.atH && 8192 - (c.hLen : Int) ≤ t && t < 8192)

/-- A register jump to a bundle that the core may not reach is an ILLB at issue (R16, R99, R100), which comes before the
poison of the register (R251); a register whose parity fails has no value to look at. -/
def State.jumpStop (s : State) (a : BitVec 6) : List Stop :=
  if (a.toNat = 0 ∨ .s a.toNat ∉ s.cur.bad) ∧ !s.cur.reaches (Int.ofNat (s.sv a).toNat) then
    [s.stop 4 6 (.trap 1 (illbInfo 78))] else []

/-- `jmp` (R98): its offset was checked at decode. -/
def execJmp (x : ClsSO) (s : State) : Result :=
  issueOp (fun _ => []) (fun s => s.goto (ofInt 13 (Int.ofNat s.ctx.pc + x.off.toInt))) s

/-- `call` (R98). -/
def execCall (x : ClsSO) (s : State) : Result :=
  issueOp (fun _ => [])
    (fun s => (s.putS x.d.toNat 1 (BitVec.ofNat 64 (s.ctx.pc + 1))).goto (ofInt 13 (Int.ofNat s.ctx.pc + x.off.toInt))) s

/-- `jr` (R99). -/
def execJr (x : ClsSJ) (s : State) : Result :=
  issueOp (fun s => s.srcStops [.s x.a.toNat 6] ++ s.jumpStop x.a) (fun s => s.goto (s.sv x.a).toNat) s

/-- `jalr` (R99): the target is the value of `a` at issue. -/
def execJalr (x : ClsSJ) (s : State) : Result :=
  issueOp (fun s => s.srcStops [.s x.a.toNat 6] ++ s.jumpStop x.a)
    (fun s => (s.putS x.d.toNat 1 (BitVec.ofNat 64 (s.ctx.pc + 1))).goto (s.sv x.a).toNat) s

/-- `nop` (R22). -/
def execNop (s : State) : Result := issueOp (fun _ => []) (fun s => s) s

/-! ## The tree (R12, R14) -/

/-- The leaf a tree's tests lead to, as a path tag (Table 1-3, Table 1-4). -/
def treeLeaf (shape : Nat) (t0 t1 t2 t3 : Bool) : Nat :=
  match shape with
  | 0 => if t0 then 4 else 8
  | 1 => if t0 then 4 else if t1 then 5 else 8
  | 2 => if t0 then 4 else if t1 then 5 else if t2 then 6 else 8
  | 3 => if t0 then 4 else if t1 then 5 else if t2 then 6 else if t3 then 7 else 8
  | 4 => if t0 then (if t1 then 4 else 5) else if t2 then 6 else 8
  | 5 => if t0 then (if t1 then 4 else if t2 then 5 else 6) else if t3 then 7 else 8
  | 6 => if t0 then (if t1 then 4 else 5) else if t2 then 6 else if t3 then 7 else 8
  | _ => if t0 then 4 else if t1 then (if t2 then 5 else 6) else if t3 then 7 else 8

/-- The leaf of a tree as the predicates stand (R14). -/
def leafOf (t : Tree) (c : Core) : Nat :=
  let v (x : TreeTest) : Bool := c.preg x.idx.toNat != x.pol
  treeLeaf t.shape.toNat (v t.t0) (v t.t1) (v t.t2) (v t.t3)

/-- The tree's branch: the next bundle is at the leaf's target, or follows (R14). -/
def execTreeBranch (t : Tree) (s : State) : Result :=
  issueOp (fun s => s.srcStops [.p])
    (fun s =>
      let off : Int := match leafOf t s.cur with
        | 4 => t.g0.toInt | 5 => t.g1.toInt | 6 => t.g2.toInt | 7 => t.g3.toInt | _ => 1
      s.goto (ofInt 13 (Int.ofNat s.ctx.pc + off))) s

end Sys2Proof.Machine
end

