-- ==== Sys2Proof/Machine/Traps.lean ====
section
/-! DEFINITION. Freezes, rewinds, saves and restores (spec/14_traps_and_preemption.md R249 to R265, R290 to R294, R139), what the
supervisor does with a frozen core, and the choice of a free unit (R213), which takes up saved tasks (R261). -/

namespace Sys2Proof.Machine

/-! ## Landing and outcomes (R30, R145) -/

/-- Results that have no bundle left to wait for land (R30). -/
def execResultLanding (core : Nat) (s : State) : Result := .next (s.modCore core Core.landDue)

/-- The outcomes of loads that are due are fixed (R145). -/
def execLoadOutcome (core : Nat) (s : State) : Result := .next (s.modCore core Core.fixLoads)

/-! ## The bundle at the pc (R16, R24, R29, R100) -/

/-- The bits of targets that the core may not reach (R16, R100). -/
def Core.reachOffences (c : Core) (b : Bundle) : List Nat :=
  (staticTargets b c.pc).filterMap fun t => if c.reaches t.2 then none else some t.1

/-- The bit of an `mcall` whose routine is not loaded (R24). -/
def Core.unloaded (c : Core) (b : Nat) : List Nat :=
  if slotField b .mx % 256 = 1 ∧ !c.store.contains (fieldOf b 192 5) then [192] else []

/-- The bundle at the core's pc, or the lowest offending bit over all its offences (R29). -/
def Core.fetched (c : Core) : Except Nat Bundle :=
  let b := (Tab.get 0 c.imem c.pc).toNat
  match leastBit (offences b ++ c.reachOffences (bundleOf b) ++ c.unloaded b) with
  | some n => .error n
  | none => .ok (bundleOf b)

/-- Whether a bundle can be fetched now: no bubble (R202, R291), and no word of it that failed its check (Table 17-1). -/
def Core.canFetch (c : Core) : Bool := c.bubble == 0 && !c.imemBad.contains c.pc

/-! ## Budget (R222) -/

/-- Ops of SC that may hold their bundle. -/
def scHolds : Instr → Bool
  | .halt | .katc _ | .seqopen _ | .seqend _ | .tinv _ | .diapack => true
  | _ => false

/-- Whether nothing can hold the core's next bundle, which is legal: it waits for nothing, and none of its ops holds. -/
def Core.wouldIssue (c : Core) : Bool :=
  c.canFetch && !c.holding && !c.rplHold && c.fencing.isNone && c.stopReq.isNone && !c.coupled &&
  match c.fetched with
  | .error _ => false
  | .ok b => b.ops.all fun o => (o.slot == .sc || o.slot == .va || o.slot == .vb) && !scHolds o.op && decide (o.ws.wthr = 0)

/-- A bundle that would issue at T with BUDGET = 0 does not (R222). Where something may hold the bundle or come before (Table 14-2), its
core's turn comes next, and the attempt of the bundle decides. -/
def execBudgetExhausted (core : Nat) (s : State) : Result :=
  let c := s.core core
  if c.run = .running ∧ !c.atH ∧ c.cr 1 = 0 then
    (if c.wouldIssue && !(s.world c.vf).rejoin then .next (s.freezeCore core 9 0 false)
     else .next { s with agenda := .issue core :: s.agenda })
  else .next s

/-! ## The freeze (R252, R254) -/

/-- A core stops at a bundle boundary for an event of the arbiter (R252, R259, R262). The end of a task that its bundle has begun, and
holds in, is begun anew when the core goes on. -/
def State.stopCore (s : State) (c : Nat) (r : StopReq) (lost : Bool) : State :=
  (s.dropWait c).modCore c fun k =>
    { k with run := .stopping, stopReq := none, wres := [], closing := none
             freeze := some ⟨r.cause, 0, r.seq, lost, false, false, r.kill, false, decide (r.cause = 11)⟩ }

/-- A quiet boundary (R253): the core runs at T, or no result and no load of its handler is under way. -/
def Core.quietNow (c : Core) : Bool := !c.atH || (c.hpend.isEmpty && c.hloads.isEmpty)

/-- Whether everything that a latch waits for has completed (R252). A value-returning atomic on its way stands at the port; an entry of
kind 5 that has not performed and stands there no more is a replay that is sent again (R64, R257). -/
def Core.settled (c : Core) : Bool :=
  (List.range 8).all (fun h => (c.chan h).cmds.isEmpty) && c.ssb.all (fun e => !e.closed) && c.port.isEmpty &&
  (c.loads ++ c.hloads).all (fun x => !x.valid || x.kind != 5 || x.arrived || x.gone || !x.performed) && c.outputsWritten &&
  c.relSigs.isEmpty && c.semOps.all fun o => farBehind ≤ o.1

/-- Word 0 of a freeze report (Table 14-3). -/
def Freeze.word0 (f : Freeze) : Word :=
  BitVec.ofNat 64 (f.cause % 256 + f.hf.toNat * 256 + f.latched.toNat * 512 + f.lost.toNat * 1024 + f.seq % 2 ^ 32 * 2 ^ 32)

/-- The latched tables of a core whose freeze is complete: what has not arrived is asked for again at the restore. Outstanding fetches
stand as recorded (R252), and the routine's step with its planes (R138). -/
def Core.freezeTables (c : Core) : Core :=
  let f (x : Load) : Load := if x.arrived then x else { x with performed := false, gone := false }
  let c := { c with loads := c.loads.map f, hloads := c.hloads.map f, routine := c.routine.map fun r => r.record c }
  if c.atH then c else c.latch

/-- Requests of a core's loads and fetches are given up. -/
def State.dropReads (s : State) (c : Nat) : State :=
  s.abandon (dieOf c) fun r => match r.for_ with
    | .load k _ => k == c
    | .fetch k _ => k == c
    | _ => false

/-- No save area holds what core `c` holds from now on. -/
def State.unsave (s : State) (c : Nat) : State :=
  { s with saves := s.saves.map fun x => if x.src = some c then { x with src := none } else x }

/-- A task is killed: its unit ends frozen, its buffered stores are dropped, its ream is aborted (R220, R262). -/
def State.killUnit (s : State) (lead : Nat) : State :=
  match (s.core lead).task with
  | none => s
  | some t =>
    let s := (s.unitOf lead).foldl (fun s c => s.modCore c fun k => { k with ssb := [], semOps := [] }) s
    let vf := (s.core lead).vf
    let s := match t.crec with
      | none => s
      | some a => (s.setStat vf a 4).modReam t.rid fun r => { r with recs := r.recs.erase a }
    (((s.unitOf lead).foldl State.unsave s).abortReam t.rid).endUnit lead false

/-- The rank-0 core of a unit. -/
def State.leadOf (s : State) (c : Nat) : Nat := (s.unitOf c).headD c

/-- Whether a core's freeze is complete. -/
def Core.frozenNow (c : Core) : Bool := c.run == .frozen

/-- A kill takes effect once every rank of the unit is frozen. -/
def State.tryKill (s : State) (c : Nat) : State :=
  if (s.unitOf c).all fun k => (s.core k).frozenNow && (match (s.core k).freeze with | some f => f.kill | none => false)
  then s.killUnit (s.leadOf c) else s

/-- Whether a core has operations that wait for a commit point of its quad (R242). -/
def Core.spanHeld (c : Core) : Bool :=
  c.port.any (fun p => p.span != 0) || c.semOps.any (fun o => decide (farBehind ≤ o.1)) ||
  (List.range 8).any fun h => (c.chan h).cmds.any fun m => decide (farBehind ≤ m.behind)

/-- A rank that stops, with no rank of its quad left that issues, does not wait for a commit point that cannot come: its stores commit
from now on, and what it has issued follows them (R252; log 113). -/
def State.stopSpan (s : State) (c : Nat) : State :=
  let on (k : Nat) : Bool := let r := (s.core k).run; r == .running || r == .rewinding || r == .ending
  if !(s.core c).spanHeld || (quadCores c).any on then s
  else s.modCore c fun k =>
    ({ k with ssb := k.ssb.map fun e => { e with closed := true }, charge := 0 } : Core).freeSpan k.ssbNext

/-- The latch of a freeze (R252): the snapshot is fixed and the report delivered; a synchronous cause takes its sequence
number as its report reaches the arbiter (R264, R265). -/
def execFreezeLatch (core : Nat) (s : State) : Result :=
  let c := s.core core
  match c.freeze with
  | none => .next s
  | some f =>
    if c.run ≠ .stopping ∨ !c.settled then .next (if c.run = .stopping ∧ c.coupled then s.stopSpan core else s)
    else
      let r := if f.seq = 0 then (s.raise "freeze" core, { f with seq := s.seqNo, latched := true }) else (s, { f with latched := true })
      let s := (r.1.dropReads core).modCore core fun k => { k.freezeTables with run := .frozen, freeze := some r.2 }
      .next ((s.report c.pid ⟨"freeze", core, r.2.word0, f.info⟩).tryKill core)

/-- No quiet boundary has come within 1,024 bundles at H (R253). -/
def execHandlerQuietTimeout (core : Nat) (s : State) : Result :=
  let c := s.core core
  match c.stopReq with
  | none => .next s
  | some r =>
    if c.run = .running ∧ c.atH ∧ 1024 ≤ c.hCount then
      .next (((s.dropLoads core c.hloads).modCore core fun k =>
        { k with hpend := [], hloads := [], owed := k.owed.filter (!·.1) }).stopCore core r true)
    else .next s

/-! ## Pre-emption and kill (R259, R262, R265) -/

/-- Two stops asked of one core (Table 14-2, R265): DIAP takes over, and a kill stays whatever comes with it. -/
def StopReq.join (o r : StopReq) : StopReq :=
  if r.cause = 11 ∧ o.cause ≠ 11 then ⟨11, o.kill || r.kill, r.seq⟩ else { o with kill := o.kill || r.kill }

/-- A request of the arbiter reaches a core: one that runs, or whose task is ending, stops at a boundary; one that a PREEMPT has stopped
is taken over by DIAP (R265), and a kill marks one that stops or stands. -/
def Core.asked (x : Core) (r : StopReq) : Core :=
  match x.run, x.freeze with
  | .running, _ | .rewinding, _ | .ending, _ =>
    { x with stopReq := some (match x.stopReq with | some o => o.join r | none => r), hCount := if x.stopReq.isNone then 0 else x.hCount }
  | .stopping, some f | .frozen, some f =>
    let f := if r.cause = 11 ∧ f.cause = 10 then { f with cause := 11, seq := r.seq } else f
    { x with freeze := some { f with kill := f.kill || r.kill, diap := f.diap || decide (r.cause = 11) } }
  | _, _ => x

/-- A request of the arbiter is laid on every core of a unit. A freeze that has latched reports again when DIAP takes it over. -/
def State.request (s : State) (c : Nat) (r : StopReq) : State :=
  (s.unitOf c).foldl (fun s k =>
    let x := s.core k
    let s := s.modCore k fun x => x.asked r
    match x.run, x.freeze, (s.core k).freeze with
    | .frozen, some f, some g => if f.cause = g.cause then s else s.report x.pid ⟨"freeze", k, g.word0, g.info⟩
    | _, _, _ => s) s

/-- Whether DIAP has reached a unit. -/
def State.diapOn (s : State) (c : Nat) : Bool :=
  (s.unitOf c).any fun k =>
    (match (s.core k).stopReq with | some r => r.cause == 11 | none => false) ||
    (s.core k).freeze.any (·.diap)

/-- PREEMPT (R259); after a DIAP it is discarded and the supervisor told (R265). -/
def execPreempt (core : Nat) (s : State) : Result :=
  if (s.core core).task.isNone then .next s
  else
    let n := s.seqNo
    let s := s.raise "preempt" core
    if s.diapOn core then .next (s.report (s.core core).pid ⟨"preempt discarded", core, 0, 0⟩)
    else .next (s.request core ⟨10, false, n⟩)

/-- A unit whose task has issued its last bundle goes on to its end; a kill that has come meanwhile ends the task instead. -/
def State.endStep (s : State) (lead : Nat) : State :=
  let cs := s.unitOf lead
  let killed := cs.any fun c => (s.core c).stopReq.any (·.kill)
  if killed && cs.all (fun c => (s.core c).closing.isSome) && (s.closeWait cs).isNone then s.killUnit lead else s.closeStep lead

/-- A task is killed by an event of a given sequence number (R220, R262): cores that run are stopped first; a unit between two indices
has nothing to stop. The freeze of a kill is reported with CAUSE 0x0A (DESIGN CHOICE, log 118). -/
def State.orderKill (s : State) (n core : Nat) : State :=
  if (s.core core).task.isNone then s
  else
    let s := s.request core ⟨10, true, n⟩
    if (s.core core).run = .ending ∧ (s.core core).closing.isNone then s.killUnit (s.leadOf core) else s.tryKill core

/-- The supervisor kills a task (R220, R262). -/
def execSupervisorKill (core : Nat) (s : State) : Result :=
  if (s.core core).task.isNone then .next s else .next ((s.raise "kill" core).orderKill s.seqNo core)

/-! ## Rewind (R290 to R294, Table 17-2) -/

/-- A stream after a rewind: popped entries return to the head, pushed entries go, the cursor is the checkpoint's. -/
def Stream.rewound (q : Stream) (cur : Nat × Vec × Nat) : Stream :=
  if (SDesc.ofBits q.desc).out then
    { q with dq := q.dq.take (q.dq.length - q.pushed), cur := cur.1, build := cur.2.1, made := cur.2.2, pushed := 0 }
  else
    { q with dq := q.popped ++ q.dq, head := (q.head + 16 - q.popped.length % 16) % 16, popped := [] }

/-- A semaphore after a rewind. -/
def Core.semRewound (c : Core) (n : Nat) : Core :=
  let plus := ((c.seg.waited.filter fun x => x.1 == n).map (·.2)).sum
  let minus := ((c.seg.signals.filter fun x => x.1 == n).map (·.2)).sum
  c.modSema n fun x => { x with count := Nat.min 65535 (x.count + plus - minus) }

/-- The state of Table 17-2. -/
def Core.rewound (c : Core) (k : Checkpoint) : Core :=
  let num := c.seg.num
  let c := ((c.seg.waited.map (·.1) ++ c.seg.signals.map (·.1)).eraseDups).foldl Core.semRewound c
  let c := (k.cursors.zipIdx).foldl (fun c x => c.modStream x.2 fun q => q.rewound x.1) c
  let c := match c.routine with
    | some r => if r.seg = num then { c.setAccWm r.target 128 with routine := none } else c
    | none => c
  let left (i : Incoming) : Option Incoming := (k.coming.find? fun x => x.1 == i.q.num).map fun x => { i with left := x.2 }
  { c with
    pc := k.pc, pend := k.pend, loads := k.loads, charge := k.charge, qNew := c.qNew.filterMap left
    relSigs := c.relSigs.filter fun g => g.sig.seg != num
    ssb := c.ssb.filter fun e => e.closed || e.atH || e.seg != num
    owed := c.owed.filter fun g => g.2.2.seg != num
    seg := { c.seg with opened := false, waited := [], signals := [] }
    needSeg := false, fencing := none, holding := false, bubble := 7, early := false, bus := none, again := true
    run := match c.freeze with | some f => if f.retire then .stopping else .running | none => .running }

/-- A rewind acts when every engine command of the segment has ended (R291). -/
def execRewind (core : Nat) (s : State) : Result :=
  let c := s.core core
  match c.seg.check with
  | none => .next s
  | some k =>
    let busy := (List.range 8).any fun h => (c.chan h).cmds.any fun m => m.seg == c.seg.num
    if c.run ≠ .rewinding ∨ busy then .next s
    else
      let keep := k.loads.map (·.seq)
      let s := s.abandon (dieOf core) fun r => match r.for_ with
        | .load j n => j == core && !keep.contains n
        | _ => false
      .next (s.modCore core fun c => c.rewound k)

/-! ## Saves (R260) -/

/-- A write of the hardware into the flat space under a key handle (R260). -/
def State.hwStoreUnder (s : State) (vf a : Nat) (h : Handle) (bs : List Byte) : State :=
  match s.flatWalk vf a with
  | .error _ => s
  | .ok e =>
    let x : XEntry := ⟨s.me, fieldOf e 16 36, h, 1, true, true⟩
    (s.writeUnit (frameDie x.frame) vf 0 (a / 65536) x (a % 65536) bs).1

/-- Lines of words `8·i` on, for `n` lines of the snapshot space. -/
def State.saveLines (s : State) (c vf addr : Nat) (k : Core) : Nat → Nat → State
  | 0, _ => s
  | n + 1, i =>
    let bs := ((List.range 8).map fun j => leBytes 8 (s.snapWord c k (8 * i + j)).toNat).flatten
    State.saveLines (s.hwStore vf (addr + 64 * i) bs) c vf addr k n (i + 1)

/-- The supervisor writes the save area of a frozen core (R260): the snapshot space, zeros, and the READY slots. -/
def execSaveAreaWrite (core addr : Nat) (s : State) : Result :=
  let c := s.core core
  if !c.frozenNow || addr % 65536 ≠ 0 || 2 ^ 48 < addr + 0x450000 then .next s
  else
    let vf := c.vf
    let s := State.saveLines s core vf addr c 0x1280 0
    let s := (List.range 0x180).foldl (fun s i => s.hwStore vf (addr + 0x4A000 + 64 * i) (List.replicate 64 0)) s
    let s := (List.range 64).foldl (fun s n =>
      if (c.slot n).state = .ready then
        s.hwStoreUnder vf (addr + 0x50000 + 65536 * n) (c.slot n).handle (c.scr.bytes (65536 * n) 65536)
      else s) s
    .next { s with saves := s.saves.filter (fun x => !(x.vf == vf && x.addr == addr)) ++ [⟨vf, addr, some core, c⟩] }

/-! ## Restores (R255, R260, R261) -/

/-- A word of the image at a flat address; the words of the snapshot space end at 0x9400 (Table 2-10). -/
def State.imageWord (s : State) (vf addr i : Nat) : Nat := if i < 0x9400 then (s.flatWord vf (addr + 8 * i)).getD 0 else 0

/-- Whether every word of an image can be read; no restore starts from one that cannot (log 27). -/
def State.imageRead (s : State) (vf addr : Nat) : Bool := (List.range 0x9400).all fun i => (s.flatWord vf (addr + 8 * i)).isSome

/-- Whether a page of an area has its home in reset, so that the restore waits (R331). -/
def State.areaWaits (s : State) (vf addr : Nat) : Bool := (List.range 0x45).any fun i => s.flatWaits vf (addr + 65536 * i)

/-- The reads of an image: a line that fails the ECC is told of (R295). -/
def State.sawImage (s : State) (vf addr : Nat) : State := (List.range 0x1280).foldl (fun s i => s.seen vf (addr + 64 * i) 64) s

/-- One saved slot is read back under the handle of its slot-table word. A page that does not translate or cannot be read leaves it
EMPTY with SL = 1, as a destroyed key does (DESIGN CHOICE, log 119). -/
def State.loadSlot (s : State) (c vf addr n : Nat) : State :=
  let k := s.core c
  let e := k.slot n
  if e.state ≠ .ready then s
  else
    let sealed (s : State) : State := s.modCore c fun k => k.modSlot n fun e => { e with state := .empty, sealed := true }
    match s.flatWalk vf (addr + 0x50000 + 65536 * n) with
    | .error _ => sealed s
    | .ok x =>
      let a := addr + 0x50000 + 65536 * n
      if !s.handleLive vf e.handle then sealed s
      else match s.readUnit (dieOf c) false vf 0 (a / 65536) ⟨s.me, fieldOf x 16 36, e.handle, 1, true, true⟩ 0 65536 with
        | none => sealed s
        | some (s, g) =>
          if g.cause = 5 then sealed s
          else s.modCore c fun k => { k with
            scr := k.scr.write (65536 * n) g.bytes
            scrBad := if g.cause = 0 then k.scrBad else k.scrBad ++ (List.range 8192).map (8192 * n + ·) }

/-- What the words of an image do not hold (log 15): the core as it was saved there, or a core of the ream whose descriptor
the image names. -/
def State.savedCore (s : State) (vf addr : Nat) : Core :=
  match s.saves.find? fun x => x.vf == vf && x.addr == addr with
  | some x => x.core
  | none =>
    let rda := s.imageWord vf addr 0x65
    { Core.drained with
      task := (s.reams.find? fun r => r.vf == vf && r.rda == rda).map fun r => ⟨r.rid, none, [], false⟩ }

/-- A core takes an accepted image up (R65). -/
def State.restoreCore (s : State) (c vf addr : Nat) : State :=
  let k := s.imageCore c (s.imageWord vf addr) (s.savedCore vf addr)
  let k := if k.atH then k
    else
      let k := k.unlatch
      let l := k.loads.map fun x => { x with replay := x.valid && x.rem == 0 }
      { k with loads := l, rplHold := l.any (·.replay) }
  let s := (s.unsave c).setCore c k
  let s := (List.range 64).foldl (fun s n => s.loadSlot c vf addr n) s
  s.sendReplays c

/-- A core or quad whose task has gone elsewhere is free. -/
def State.vacate (s : State) (lead : Nat) : State :=
  (s.unitOf lead).foldl (fun s c => ((s.unsave c).freeCore c).modCore c fun k => { k with ssb := [], semOps := [], port := [] }) s

/-- The areas of a restore: one core, or the four ranks of a quad (R255, R260). A rank that froze alone, for a cause of its own (R224),
is restored alone. -/
def State.restoreSet (s : State) (c addr : Nat) : List (Nat × Nat) :=
  let own (f : Freeze) : Bool := f.cause != 10 && f.cause != 11 && f.cause != 7
  let alone := (s.core c).frozenNow && ((s.core c).freeze.any own || (s.unitOf c).any fun k => !(s.core k).frozenNow)
  if alone then [(c, addr)] else ((s.unitOf c).zipIdx).map fun x => (x.1, addr + 0x450000 * x.2)

/-- Whether the cores of a restore can take it: free (R208), or frozen with the task that the area holds, and in service (R297). -/
def State.canTake (s : State) (l : List (Nat × Nat)) : Bool :=
  l.all fun x =>
    let k := s.core x.1
    !s.quarantine.contains x.1 && !(k.freeze.any (·.retire)) &&
    ((k.run == .free && k.task.isNone && !(s.world k.vf).draining) ||
      (k.frozenNow && (s.saves.any fun y => y.vf == k.vf && y.addr == x.2 && y.src == some x.1)))

/-- Cores are restored from their areas as a whole, or not at all; the cores that were saved there are vacated. -/
def State.restoreAll (s : State) (vf : Nat) (l : List (Nat × Nat)) : Option State :=
  if !s.canTake l || !(l.all fun x => s.imageRead vf x.2 && s.restoreOk x.1 (s.imageWord vf x.2)) then none
  else
    let srcs := (s.saves.filter fun y => y.vf == vf && l.any fun x => x.2 == y.addr).filterMap (·.src)
    let s' := l.foldl (fun s x => s.restoreCore x.1 vf x.2) s
    let gone := srcs.filter fun c => !(l.map (·.1)).contains c && (s.core c).frozenNow
    let s' := gone.foldl State.vacate s'
    -- what the key engine or a shootdown owes a core follows its task
    let dest (c : Nat) : Nat :=
      match s.saves.find? fun y => y.vf == vf && y.src == some c && l.any fun x => x.2 == y.addr with
      | some y => ((l.find? fun x => x.2 == y.addr).map (·.1)).getD c
      | none => c
    let key (o : KeyOp) : KeyOp := { o with core := dest o.core }
    let shoot (o : Shootdown) : Shootdown := { o with core := o.core.map dest }
    let s' := { s' with keyOps := s'.keyOps.map key, shoots := s'.shoots.map shoot }
    some { s' with saves := s'.saves.filter fun y => !(y.vf == vf && l.any fun x => x.2 == y.addr) }

/-- The image of a core is placed in its instruction memory before it goes on (R225). -/
def State.placeImage (s : State) (c : Nat) : State :=
  match (s.core c).task.bind fun t => s.ream t.rid with
  | none => s
  | some r => match s.image r.vf r.prog with
    | none => s
    | some i => s.modCore c fun k => k.place i (s.world r.vf).handler

/-- The supervisor restores a core, or a quad, from a snapshot image (R255); a refusal is reported. In a diapause or a brown-out that
has reached the partition nothing goes on (R361, R365, R366). -/
def execSnapshotRestore (core addr : Nat) (s : State) : Result :=
  let vf := (s.core core).vf
  let l := s.restoreSet core addr
  if addr % 65536 = 0 ∧ l.any (fun x => s.areaWaits vf x.2) then .next s
  else
  let read := if addr % 65536 = 0 then l.foldl (fun s x => s.sawImage vf x.2) s else s
  match (if addr % 65536 ≠ 0 ∨ s.halted (s.core core).pid then none else read.restoreAll vf l) with
  | none => .next (read.report (s.core core).pid ⟨"restore refused", core, 0, BitVec.ofNat 64 addr⟩)
  | some t => .next (l.foldl (fun t x => if (s.core x.1).run = .free then t.placeImage x.1 else t) t)

/-- The supervisor refills the budget of a core frozen for it and restores it (R222, R262): it then issues that bundle, with no
checkpoint until its next SEG bundle (R292). While a DIAP stands, or its partition does, the core stays frozen (R265, R361). -/
def execBudgetRefill (core : Nat) (budget : BitVec 64) (s : State) : Result :=
  let c := s.core core
  match c.freeze with
  | some f =>
    if c.frozenNow ∧ f.cause = 9 ∧ !f.diap ∧ !s.halted c.pid then
      .next ((((s.raise "refill" core).modCore core fun k =>
        { (if k.atH then k else k.unlatch).resumed.setCr 1 budget with
          run := .running, freeze := none, seg := k.seg.unchecked }).unsave core).pushLoads core)
    else .next s
  | none => .next s

/-- The supervisor disposes of a saved task by a continuation record (R261): the record joins the ready list, held indices go
back, and the unit is free, or out of service (R294). -/
def execContinuationRecordWrite (core addr : Nat) (s : State) : Result :=
  let lead := s.leadOf core
  let c := s.core lead
  match c.task, s.saves.reverse.find? fun y => y.src == some lead && y.vf == c.vf with
  | some t, some y =>
    match s.ream t.rid with
    | none => .next s
    | some r =>
      if !(s.unitOf lead).all (fun k => (s.core k).frozenNow) || addr % 64 ≠ 0 || s.flatWaits c.vf (t.crec.getD addr) then .next s
      else if t.abort then .next (s.killUnit lead)
      else
        let a := t.crec.getD addr
        let w0 := c.pc % 8192 + 2 * 2 ^ 13 + r.pri * 2 ^ 22 + r.rda / 256 * 2 ^ 24
        let words := [w0, c.index + y.addr / 65536 * 2 ^ 32, (c.cr 2).toNat % 2 ^ 13, 0, 0, 0, 0, 0]
        let s := (s.writeRec c.vf a words).modReam t.rid fun r => { r with recs := if r.recs.contains a then r.recs else r.recs ++ [a] }
        let s := (s.giveBack t.rid t.held).vacate lead
        .next ((s.makeReady c.vf a (dieOf lead) t.rid c.coupled s.us s.tick).orAborted t.rid)
  | _, _ => .next s

/-! ## The choice (R213, R261) -/

/-- A unit takes a ready record whose save area it restores (R261): a refused restore aborts the task. The acquire at `.pkg` comes
before its first bundle (Table 13-4). -/
def State.takeSaved (s : State) (lead d : Nat) (x : ReadyRec) (area : Nat) : State :=
  let l := s.restoreSet lead area
  if l.any fun y => s.areaWaits x.vf y.2 then s else
  let s := (l.foldl (fun s y => s.sawImage x.vf y.2) s).modDie d fun y => { y with ready := y.ready.erase x }
  match s.ream x.rid with
  | none => s
  | some r =>
    match s.restoreAll x.vf l with
    | none => s.refuseRecord x
    | some t =>
      let t := ((t.recField x.vf (x.addr + 8) 32 32 0).recField x.vf x.addr 22 2 r.pri).setStat x.vf x.addr 3
      ((t.unitOf lead).foldl (fun t k =>
        (t.modCore k fun c => { c with task := some ⟨r.rid, some x.addr, [], false⟩ }).placeImage k) t).acquire (dieOf lead) .pkg

/-- A free unit chooses on one die after another (R213). -/
def State.chooseOn (s : State) (lead : Nat) : List Nat → State
  | [] => s
  | d :: ds =>
    match s.choice lead d with
    | none => s.chooseOn lead ds
    | some (.inl x) =>
      match s.recWords x.vf x.addr with
      | some ws =>
        let area := fieldOf (ws.getD 1 0) 32 32 * 65536
        if area ≠ 0 ∧ recOk ws ∧ fieldOf (ws.getD 2 0) 0 13 = ((s.core lead).cr 2).toNat % 2 ^ 13
        then s.takeSaved lead d x area else s.takeRecord lead d x
      | none => s.takeRecord lead d x
    | some (.inr r) =>
      let q := r.take d
      let s := s.modReam r.rid fun _ => { q.2 with since := s.us }
      (s.unitOf lead).foldl (fun s c => s.modCore c fun k =>
        { k with run := .ending, closing := none, task := some ⟨r.rid, none, q.1, false⟩ }) s

/-- A free unit chooses its next work (R213). -/
def execUnitChoice (core : Nat) (s : State) : Result :=
  let lead := s.leadOf core
  if !s.unitFree lead then .next s
  else
    let mine := s.partDies (s.core lead).pid
    let o := dieOf lead
    .next (s.chooseOn lead ([o, (o + 1) % 3, (o + 2) % 3].filter mine.contains))

/-! ## Registers that only the supervisor sets (R47, R263) -/

/-- The supervisor writes a control register that has no row of its own, through the snapshot and control interface: those of
Table 2-3 that a load or the supervisor sets, and the handler's registers of a core that does not run. -/
def execControlInterfaceWrite (core : Nat) (creg : BitVec 12) (value : BitVec 64) (s : State) : Result :=
  let c := s.core core
  let a := creg.toNat
  let still := c.run == .free || c.run == .draining || c.run == .frozen
  let world (f : World → World) : State := s.modWorld c.vf f
  if a = 2 then
    let vf := value.toNat % 256
    let w := s.world vf
    if c.run = .draining ∧ w.exists_ ∧ w.pid = value.toNat / 256 % 32 ∧ value.toNat / 8192 = 0 ∧
      (s.bulk (bulkOf core)).pid = some w.pid
    then .next (s.modCore core fun k => { k.setCr 2 value with run := .free }) else .next s
  -- the mismatch count (R294; log 98)
  else if a = 0x20 then .next (s.modCore core fun k => { k with mism := 0 })
  else if a = 0xD then .next (world fun w => { w with quota := value.toNat / 65536 % 8192 })
  else if a = 0x10 then .next (if value.toNat % 32 = 0 ∧ value.toNat < 2 ^ 48 then world fun w => { w with ttb := value } else s)
  else if a = 0x11 then .next (if value.toNat % 16384 = 0 then world fun w => { w with ptb := value } else s)
  else if still ∧ (a = 7 ∨ a = 8 ∨ a = 9 ∨ a = 0xA ∨ a = 0xB ∨ (0x12 ≤ a ∧ a ≤ 0x15)) then
    .next (s.modCore core fun k => k.setCr a value)
  else .next s

/-- An event reaches the package arbiter and takes its sequence number (R264). -/
def execArbiterEvent (x : ArbEvent) (s : State) : Result :=
  let name := match x.source with
    | .shelf => "shelf" | .input => "input" | .bulkheads => "bulkheads" | .pcie => "pcie" | .sideBand => "side band"
    | .supervisors => "supervisors" | .keyEngine => "key engine" | .pyrty => "pyrty" | .memory => "memory" | .cores => "cores"
  .next (s.raise name x.number)

end Sys2Proof.Machine
end

