-- ==== Sys2Proof/Machine/Bulkheads.lean ====
section
/-! DEFINITION. Partitions, bulkheads and worlds (spec/21_bulkheads_worlds_and_keys.md, R278, R225), the measured loader and the
monitor's registers (R336 to R340), and faults and failing frames (spec/17_error_containment.md R289, R295 to R299). -/

namespace Sys2Proof.Machine

/-! ## The monitor's registers and counters (R336, R338) -/

/-- Measurement register MM`i`. -/
def State.mm (s : State) (i : Nat) : BitVec 512 := Tab.get 0 s.mon.mm i

/-- MM`i` extended with an item of a given digest. -/
def State.extendMM (s : State) (i : Nat) (d : BitVec 512) : State :=
  s.modMon fun m => { m with mm := Tab.set 0 m.mm i (extend (s.mm i) d) }

/-- Anti-rollback counter `i`: 64 fuses at most (R338). -/
def State.ac (s : State) (i : Nat) : Nat := Tab.get 0 s.mon.ac i

/-- A counter raised to an accepted version, its mirror first. -/
def State.raiseAC (s : State) (i v : Nat) : State :=
  let v := Nat.min 64 v
  if s.ac i < v then s.modMon fun m => { m with mirror := Tab.set 0 m.mirror i v, ac := Tab.set 0 m.ac i v } else s

/-- The attestation key: derived from the fused seed and MM1, and certified with the identity key (R337). -/
def State.deriveKey (s : State) : State :=
  let key := Config.hash (leBytes 32 Config.seed.toNat ++ leBytes 64 (s.mm 1).toNat)
  s.modMon fun m => { m with attKey := key, attCert := Config.sign m.identity (Config.hash (leBytes 64 key.toNat)) }

/-- Whether boot has come through without a failed step (R382). -/
def State.booted (s : State) : Bool := s.mon.phase != .off && s.mon.phase != .boot && !s.mon.stopped

/-! ## Cores of a bulkhead -/

/-- The cores of a bulkhead. -/
def bulkCores (b : Nat) : List Nat := (List.range 16).map (16 * b + ·)

/-- Every task that runs on cores that a test picks is killed. -/
def State.killAll (s : State) (n : Nat) (p : Nat → Bool) : State :=
  (s.coreList.filter fun c => p c && s.leadOf c == c).foldl (fun s c => s.orderKill n c) s

/-! ## Ends of worlds (R330, R345, R347) -/

/-- Whether a core runs nothing: drained, or quarantined, which leaves it nothing to drain (R294; log 126). -/
def Core.rests (c : Core) : Bool := c.run == .draining || c.run == .quarantined

/-- Whether no core belongs to a world any more. -/
def State.worldDrained (s : State) (vf : Nat) : Bool :=
  s.coreList.all fun c => (s.core c).rests || (s.core c).vf != vf

/-- The keys of a world end (R347 step 4): those it opened, and all of them when the world is deleted. A `seqend` in flight destroys its
key all the same; an opening that has not completed fails (R196). -/
def State.endKeys (s : State) (vf : Nat) (all : Bool) : State :=
  let ops := s.keyOps.filter fun o => o.vf == vf
  let s := { s with keyOps := s.keyOps.filter fun o => o.vf != vf }
  let s := ops.foldl (fun s o =>
    if o.opening then s.destroyKey o.slot
    else if (s.key o.slot).live && (s.key o.slot).gen == o.gen then (s.sealKey ⟨o.slot, o.gen⟩).emit (.note "key ended" o.slot)
    else s) s
  (s.keys.filter fun k => k.2.live && k.2.vf == vf && (k.2.mine || all)).foldl (fun s k =>
    (s.sealKey ⟨k.1, k.2.gen⟩).emit (.note "key ended" k.1)) s

/-- The windows of a world are revoked (R334). -/
def State.revokeWindows (s : State) (vf : Nat) : State :=
  (s.windows.filter fun w => w.gvf == vf || w.rvf == vf).foldl (fun s w => s.shoot w.rvf (2 ^ 24) none none (.window w)) s

/-- A partition that is to be deleted goes once it has no world left; its measurement register stands until it is created anew (R329,
R330, R336). -/
def State.dropPart (s : State) (pid : Nat) : State :=
  let p := s.part pid
  if !p.deleting || s.worlds.any (fun w => w.2.exists_ && w.2.pid == pid) then s
  else
    let s := p.bulkheads.foldl (fun s b => s.modBulk b fun _ => Bulkhead.off) s
    { s with parts := Tab.set default s.parts pid { (default : Part) with pm := p.pm } }

/-- A world whose entries are completed and whose cores are drained: barriers that stand on the peers alone are poisoned, its keys and
windows end, its queue slots are free (R347), and it is deleted where that was asked (R330), its second-stage record with it (log 100);
its measurement register stands until the VF has a world again (R336). -/
def State.finishWorld (s : State) (vf : Nat) : State :=
  let w := s.world vf
  if !w.draining || !s.worldDrained vf || s.owesEntries vf then s
  else
    let s := ((s.poisonPeers vf w.spoilt).endKeys vf w.deleteAfter).revokeWindows vf
    let s := { s with queues := s.queues.map fun (q : Nat × Queue) => if q.2.vf = vf then (q.1, { q.2 with slot := none }) else q }
    if w.deleteAfter then
      State.dropPart { s with
        worlds := Tab.set default s.worlds vf { (default : World) with wm := w.wm }
        tlb := s.tlb.filter fun e => e.vf != vf
        dtlb := s.dtlb.filter fun e => e.vf != vf
        saves := s.saves.filter fun x => x.vf != vf
        queues := s.queues.filter fun q => q.2.vf != vf } w.pid
    else s.modWorld vf fun w => { w with draining := false, spoilt := [] }

/-- Every world that can end does. -/
def State.finishWorlds (s : State) : State := (s.worlds.filter fun w => w.2.draining).foldl (fun s w => s.finishWorld w.1) s

/-- What acts on a world at a VF reset, a transition to ERROR or its deletion (R347): queues and reams, then tasks; the rest follows once
its cores are drained. Pod barriers of its reams are poisoned with them. -/
def State.endWorld (s : State) (n vf : Nat) (del : Bool) : State :=
  if !(s.world vf).exists_ then s
  else
    let here := s.podIds vf
    let s := (s.queues.filter fun q => q.2.vf == vf).foldl (fun s q => s.tearQueue q.1) s
    let s := (s.reams.filter fun r => r.vf == vf).foldl (fun s r => s.abortReam r.rid) s
    let s := s.modWorld vf fun w => { w with draining := true, deleteAfter := del || w.deleteAfter, spoilt := w.spoilt ++ here }
    (s.killAll n fun c => (s.core c).vf == vf && (s.core c).run != .draining).finishWorld vf

/-- A bulkhead whose gate is shut enters its reset once its cores are drained (R331). -/
def State.drainBulk (s : State) (b : Nat) : State :=
  if (s.bulk b).gateShut && !(s.bulk b).absent && (bulkCores b).all fun k => (s.core k).rests
  then s.modBulk b fun x => { x with inReset := true } else s

/-- A core without a task whose engines are idle is drained (R225). The mismatch count stands (R294). What waited for the last core of a
world, or for its entries, goes on. -/
def execWorldDrain (core : Nat) (s : State) : Result :=
  let c := s.core core
  if c.rests then .next (s.drainBulk (bulkOf core)).finishWorlds
  else if c.run ≠ .free ∨ c.task.isSome ∨ c.routine.isSome ∨ !c.settled then .next s
  else
    let s := s.setCore core { Core.drained with mism := c.mism, nextCmd := c.nextCmd, loadSeq := c.loadSeq, portNext := c.portNext }
    let b := bulkOf core
    let s := match (s.bulk b).pid with
      | some p => s.modPart p fun p => { p with coupled := p.coupled.erase (core / 4) }
      | none => s
    .next (s.drainBulk b).finishWorlds

/-! ## Partitions (R329) -/

/-- The bulkheads of a request in order, where their shape is one of Table 21-1. -/
def shapeOf (bs : List Nat) : Option (List Nat) :=
  let l := (List.range 24).filter bs.contains
  let b := l.headD 0
  let run (n align : Nat) : Bool := l == (List.range n).map (b + ·) && b % align == 0
  if l.length ≠ bs.length then none
  else if run 1 1 || run 2 2 || run 4 4 || run 8 8 ||
    ((l.length == 16 || l.length == 24) && l.all fun x => (List.range 8).all fun i => l.contains (x / 8 * 8 + i))
  then some l else none

/-- The monitor creates a partition: a shape outside Table 21-1, a bulkhead that is held, or supervisor firmware older than
AC1 is refused (R329, R338). -/
def execPartitionCreate (x : PartitionRequest) (s : State) : Result :=
  match shapeOf x.bulkheads with
  | none => .next (s.emit (.note "partition refused" 0))
  | some l =>
    let pid := l.headD 0
    if !s.booted || l.any (fun b => (s.bulk b).pid.isSome) || decide (x.version < s.ac 1) then
      .next (s.emit (.note "partition refused" pid))
    else
      let s := s.raiseAC 1 x.version
      let s := l.foldl (fun s b => s.modBulk b fun _ => { Bulkhead.off with pid := some pid, inReset := false, retention := false }) s
      let s := (l.flatMap bulkCores).foldl (fun s c => s.setCore c { Core.drained with mism := (s.core c).mism }) s
      .next (s.modPart pid fun _ =>
        { Part.fresh with
          exists_ := true, bulkheads := l, running := true, fwDigest := x.firmware, pm := extend 0 x.firmware })

/-- The monitor deletes a partition: its worlds are drained and deleted first, and it goes with the last (R329, R330; log 20). -/
def execPartitionDelete (pid : Nat) (s : State) : Result :=
  let p := s.part pid
  if !p.exists_ || p.deleting then .next s
  else
    let vs := (s.worlds.filter fun w => w.2.exists_ && w.2.pid == pid).map (·.1)
    let t := (s.raise "partition deleted" pid).modPart pid fun p => { p with deleting := true }
    .next ((vs.foldl (fun t vf => t.endWorld s.seqNo vf true) t).dropPart pid)

/-! ## Bulkhead resets (R331) -/

/-- Whether a bulkhead can be reset: a partition holds it, and no reset of it is under way. -/
def Bulkhead.canReset (b : Bulkhead) : Bool := b.pid.isSome && (!b.gateShut || b.absent)

/-- A bulkhead's reset begins, by an event of a given sequence number: its gate closes and its tasks are killed; its cores are
to be drained. -/
def State.resetBulkhead (s : State) (n bulkhead : Nat) : State :=
  let all := (bulkCores bulkhead).all fun k => (s.core k).rests
  let own := (s.bulk bulkhead).pid == some bulkhead
  let s := s.modBulk bulkhead fun x => { x with gateShut := true, inReset := all }
  let s := if own then s.modPart bulkhead fun p => { p with running := false } else s
  s.killAll n fun c => bulkOf c == bulkhead

/-- The supervisor or the monitor resets a bulkhead. -/
def execBulkheadReset (bulkhead : Nat) (s : State) : Result :=
  if (s.bulk bulkhead).canReset then .next ((s.raise "bulkhead reset" bulkhead).resetBulkhead s.seqNo bulkhead) else .next s

/-- After the reset line the controller restarts, with the supervisor firmware measured again where it runs there, and the
gate reopens. -/
def execBulkheadResetRelease (bulkhead : Nat) (s : State) : Result :=
  let b := s.bulk bulkhead
  match b.pid with
  | none => .next s
  | some pid =>
    if !b.gateShut || !b.inReset then .next s
    else
      let s := s.modBulk bulkhead fun x => { x with gateShut := false, inReset := false, absent := false }
      let s := if pid = bulkhead then s.modPart pid fun p => { p with running := true, pm := extend p.pm p.fwDigest } else s
      .next s.afterReset.retryHeld.pumpAll.finishWorlds

/-! ## Faults (R298, Table 17-4) -/

/-- A partition that a fault reaches stops: its cores, reams and queues are lost, its supervisor does not run (log 21). -/
def State.losePart (s : State) (pid : Nat) : State :=
  let p := s.part pid
  let mine (vf : Nat) : Bool := (s.world vf).pid == pid && (s.world vf).exists_
  let s := (List.range 3).foldl (fun s d => (s.abandon d fun r => mine r.vf).modDie d fun y =>
    { y with
      ready := y.ready.filter fun r => !mine r.vf
      walkQ := y.walkQ.filter fun w => !mine w.vf
      walking := y.walking.filter fun w => !mine w.vf
      groups := y.groups.filter fun g => g.pid != pid
      staged := y.staged.filter fun g => g.pid != pid }) s
  let s := (p.bulkheads.flatMap bulkCores).foldl (fun s c => s.setCore c { Core.drained with mism := (s.core c).mism }) s
  { s with
    reams := s.reams.filter fun r => r.pid != pid
    bars := s.bars.filter fun b => b.pid != pid
    watches := s.watches.filter fun w => !mine w.word.1
    dirty := s.dirty.filter fun x => !mine x.who.word.1
    shoots := s.shoots.filter fun x => !mine x.vf || x.after != ShootEnd.nothing
    saves := s.saves.map fun (x : Save) => if mine x.vf then { x with src := none } else x
    queues := s.queues.map fun (q : Nat × Queue) => if q.2.pid = pid then (q.1, { q.2 with slot := none, torn := true }) else q
    moves := s.moves.filter fun m => !mine m.vf
    arrivals := s.arrivals.filter fun a => !mine a.vf
    keyOps := s.keyOps.filter fun o => !mine o.vf
    dtlb := s.dtlb.filter fun e => !mine e.vf
    tlb := s.tlb.filter fun e => !mine e.vf }.modPart pid fun p => { p with running := false }

/-- A fault takes down the partitions that a test picks, whose queues are torn down (R221), and leaves bulkheads absent. -/
def State.fault (s : State) (hit : Part → Bool) (gone : List Nat) : State :=
  let s := (s.parts.filter fun p => p.2.exists_ && hit p.2).foldl (fun s p =>
    ((s.queues.filter fun q => q.2.pid == p.1).foldl (fun s q => s.tearQueue q.1) s).losePart p.1) s
  gone.foldl (fun s b => s.modBulk b fun x => { x with absent := true, gateShut := true }) s

/-- A rail, clock or reset fault of a bulkhead. -/
def execBulkheadFault (bulkhead : Nat) (s : State) : Result :=
  .next ((s.raise "bulkheads" bulkhead).fault (fun p => p.bulkheads.contains bulkhead) [bulkhead])

/-- A fault of the bridge between dies `bridge` and the next: the partitions that span both. -/
def execBridgeFault (bridge : Nat) (s : State) : Result :=
  let has (p : Part) (d : Nat) : Bool := p.bulkheads.any fun b => b / 8 == d
  .next (s.fault (fun p => has p bridge && has p ((bridge + 1) % 3)) [])

/-- A fault of HBM stack 4·d + n. -/
def execHbmStackFault (stack : Nat) (s : State) : Result :=
  let b := 8 * (stack / 4) + 2 * (stack % 4)
  .next ((s.raise "memory" stack).fault (fun p => p.bulkheads.contains b || p.bulkheads.contains (b + 1)) [b, b + 1])

/-- A fault of a part that a die shares. -/
def execDieSharedPartFault (die : Nat) (s : State) : Result :=
  .next ((s.modDie die fun d => { d with failed := true }).fault (fun p => p.bulkheads.any fun b => b / 8 == die)
    ((List.range 8).map (8 * die + ·)))

/-! ## Second-stage records and windows (R278, R332 to R334) -/

/-- The supervisor sets a VF's second-stage record: a refused one leaves the previous; a good one takes effect once the VF's
translations are shot down (R278). -/
def execSecondStageWrite (vf : Nat) (record : BitVec 128) (s : State) : Result :=
  if !(s.world vf).exists_ || !s.recordOk vf record.toNat then .next (s.emit (.note "record refused" vf))
  else .next (s.shoot vf (2 ^ 24) none none (.record record))

/-- A window record that R332 accepts. -/
def State.windowOf (s : State) (r : Nat) : Option Window :=
  let w : Window := ⟨fieldOf r 96 8, fieldOf r 88 8, fieldOf r 64 24, fieldOf r 62 2 == 2, fieldOf r 24 24, fieldOf r 0 24⟩
  let g := s.world w.gvf
  let v := s.world w.rvf
  if fieldOf r 104 24 = 0 ∧ fieldOf r 48 14 = 0 ∧ w.gvf ≠ w.rvf ∧ 1 ≤ w.wlen ∧ (fieldOf r 62 2 = 1 ∨ fieldOf r 62 2 = 2) ∧
    g.exists_ ∧ v.exists_ ∧ v.slen ≤ w.rbase ∧ w.gbase + w.wlen ≤ g.slen ∧
    (s.windows.filter fun x => x.gvf == w.gvf).length < 16 ∧ (s.windows.filter fun x => x.rvf == w.rvf).length < 16
  then some w else none

/-- A supervisor submits a window record (R334): the second of two equal records installs it; unequal ones are both
discarded and both supervisors told. -/
def execWindowRequest (pid : Nat) (record : BitVec 128) (s : State) : Result :=
  let r := record.toNat
  let g := (s.world (fieldOf r 96 8)).pid
  let v := (s.world (fieldOf r 88 8)).pid
  if pid ≠ g ∧ pid ≠ v then .next (s.report pid ⟨"window refused", 0, 0, 0⟩)
  else
    let other := if pid = g then v else g
    match s.winReqs.find? fun q => q.pid == other && fieldOf q.record.toNat 88 16 == fieldOf r 88 16 && decide (s.us < q.since + 1000000) with
    | none => .next { s with winReqs := s.winReqs ++ [⟨pid, record, s.us⟩] }
    | some q =>
      let s := { s with winReqs := s.winReqs.erase q }
      match s.windowOf r with
      | some w =>
        if q.record = record then
          .next ((State.extendWM { s with windows := s.windows ++ [w] } w.gvf (leBytes 16 w.word)).extendWM w.rvf (leBytes 16 w.word))
        else .next ((s.report pid ⟨"window refused", 0, 0, 0⟩).report other ⟨"window refused", 0, 0, 0⟩)
      | none => .next ((s.report pid ⟨"window refused", 0, 0, 0⟩).report other ⟨"window refused", 0, 0, 0⟩)

/-- A request without its pair within 1 s is discarded and reported (R334). -/
def execWindowRequestTimeout (idx : Nat) (s : State) : Result :=
  match s.winReqs[idx]? with
  | none => .next s
  | some q =>
    if s.us < q.since + 1000000 then .next s
    else
      let r := q.record.toNat
      let s := { s with winReqs := s.winReqs.erase q }
      .next ((s.report (s.world (fieldOf r 96 8)).pid ⟨"window refused", 0, 0, 0⟩).report (s.world (fieldOf r 88 8)).pid
        ⟨"window refused", 0, 0, 0⟩)

/-- A window is revoked: the receiver's translations are shot down, then the record goes (R334). -/
def execWindowRevoke (idx : Nat) (s : State) : Result :=
  match s.windows[idx]? with
  | none => .next s
  | some w => .next (s.shoot w.rvf (2 ^ 24) none none (.window w))

/-! ## Firmware and images (R37, R133, R338 to R340) -/

/-- Service firmware: refused by its signature or its version, else measured, with a new attestation key (R337, R339). -/
def execFirmwareUpdate (x : Firmware) (s : State) : Result :=
  if !x.signed || decide (x.version < s.ac 0) then .next (s.emit (.note "firmware refused" x.version))
  else .next (((s.raiseAC 0 x.version).extendMM 1 x.digest).modMon fun m => { m with fwDigest := x.digest }).deriveKey

/-- Bytes written by the hardware from a flat address on, page by page; `n` bounds the pages. -/
def State.hwStoreAll (s : State) (vf : Nat) : Nat → Nat → List Byte → State
  | 0, _, _ => s
  | n + 1, a, bs =>
    let room := 65536 - a % 65536
    if bs = [] then s else State.hwStoreAll (s.hwStore vf a (bs.take room)) vf n (a + room) (bs.drop room)

/-- Whether an image keeps the limits of R35 and R37. -/
def imageOk (x : ImageFile) (w : World) : Bool :=
  let h := match w.handler with | some i => i.bundles.length | none => 0
  let n := x.bundles.length
  decide (1 ≤ n) &&
  match x.kind with
  | .handler => decide (n ≤ 8192) && x.consts.isEmpty && x.data.isEmpty && x.streams.isEmpty &&
      w.images.all fun i => decide (i.bundles.length + n ≤ 8192)
  | _ => decide (n + h ≤ 8192) && decide (x.consts.length ≤ 65536) && decide (x.occ.streams ≤ 16) && decide (x.occ.channels ≤ 8) &&
      decide (x.occ.ssb ≤ 32768) && decide (x.occ.semLo ≤ x.occ.semHi) && decide (x.occ.semHi ≤ 255) && decide (x.occ.bcast ≤ 32) &&
      x.streams.all fun q => decide (q.1 < 16) && decide (q.2 + 32 ≤ x.consts.length)

/-- Handles of a world that are in use. -/
def World.handles (w : World) : List Nat := w.images.map (·.handle) ++ (match w.handler with | some i => [i.handle] | none => [])

/-- Whether a secure session of the mailbox carries the TDISP messages of a VF (R337, R340): the session that carried its first, while
that stands (log 128). -/
def State.owns (s : State) (vf n : Nat) : Bool :=
  s.host.doe.sessions.contains n && (match (s.world vf).session with | some m => m == n | none => true)

/-- The measured loader places an image (R340), a task image in the place of one it replaces where it names one: the world's owner has
signed it and sends it over the interface's session. What stands in device memory is `Image.cipher` and `Image.constCipher` of it
(R341). -/
def execImageLoad (vf : Nat) (x : ImageFile) (s : State) : Result :=
  let w := s.world vf
  let again := x.kind != .handler && match x.replaces with
    | some h => w.images.any fun i => i.handle == h
    | none => false
  let w' : World := if again then { w with images := w.images.filter fun i => some i.handle != x.replaces } else w
  if !w.exists_ || !(w.ifs == .locked || w.ifs == .run) || !s.owns vf x.session || x.signer != some w.owner || !imageOk x w' || 65535 ≤ w'.handles.length then .next (s.emit (.note "image refused" vf))
  else
    let handle := if again then x.replaces.getD 0
      else (((List.range 65535).map (· + 1)).find? fun h => !w.handles.contains h).getD 0
    let o : Occ := ⟨x.occ.streams, x.occ.channels, x.occ.ssb, x.occ.semLo, x.occ.semHi, x.occ.bcast⟩
    let i : Image := ⟨handle, x.kind == .quad, x.bundles, x.consts, x.streams, o⟩
    let s := s.modWorld vf fun w =>
      { w with
        session := some x.session
        wm := extend w.wm x.digest
        handler := if x.kind = .handler then some i else w.handler
        images := if x.kind = .handler then w.images else w'.images ++ [i] }
    .next ((s.hwStoreAll vf (x.data.length / 65536 + 2) x.dataBase x.data).emit (.note "program handle" handle))

/-! ## Failing frames (R289, R295 to R297) -/

/-- The scrubber reads every line of a frame by its ECC (R289); lines that eclosion poisoned fail it. -/
def execPatrolScrub (frame : Nat) (s : State) : Result :=
  let bad := if s.lostFrame frame then (List.range 1024).map (1024 * frame + ·)
    else (s.lines.filter fun l => l.1 / 1024 == frame && l.2.ecc != 0).map (·.1)
  .next ((bad.filter fun l => (s.lineState l).ecc != 0).foldl (fun s l => s.afterRead l 6) s)

/-- The entries of a page table that are not zero: their structure addresses and values. -/
def State.tableEntries (s : State) (vf sa n : Nat) : List (Nat × Nat) :=
  match s.stage vf (sa / 65536) false with
  | none => []
  | some r =>
    let pa := r.frame * 65536 + sa % 65536
    (((s.mem.filter fun c => decide (pa ≤ c.1) && decide (c.1 < pa + 8 * n)).map fun c => (c.1 - pa) / 8).eraseDups).map fun i =>
      (sa + 8 * i, s.mem.val (pa + 8 * i) 8)

/-- The entries of a world's page tables by level, those of level 3 with the unit that they map. -/
def State.pageEntries (s : State) (vf : Nat) : List (Nat × Nat) × List (Nat × Nat × Nat) :=
  let root := (s.world vf).ptb.toNat
  let l1 := s.tableEntries vf root 2048
  let l2 := l1.flatMap fun e => (s.tableEntries vf (fieldOf e.2 14 38 * 2 ^ 14) 2048).map fun f => ((e.1 - root) / 8, e.2, f)
  let l3 := l2.flatMap fun e =>
    let base := fieldOf e.2.1 14 38 * 2 ^ 14
    (s.tableEntries vf (fieldOf e.2.2.2 14 38 * 2 ^ 14) 1024).map fun f =>
      (f.1, f.2, e.1 * 2 ^ 21 + (e.2.2.1 - base) / 8 * 2 ^ 10 + (f.1 - fieldOf e.2.2.2 14 38 * 2 ^ 14) / 8)
  (l1 ++ l2.map (·.2.2), l3)

/-- Tensors of a world whose descriptors are not zero, by the units of the flat space that hold them. -/
def State.tensors (s : State) (vf : Nat) (units : List (Nat × Nat)) : List Nat :=
  let ttb := (s.world vf).ttb.toNat
  (units.flatMap fun u =>
    match s.stage vf u.2 false with
    | none => []
    | some r => (s.mem.filter fun c => c.1 / 65536 == r.frame).filterMap fun c =>
        let f := u.1 * 65536 + c.1 % 65536
        if ttb ≤ f ∧ f < ttb + 2 ^ 29 then some ((f - ttb) / 32) else none).eraseDups

/-- The tiles of a world whose entries name an input frame of this module. -/
def State.tilesOn (s : State) (vf f : Nat) : List (Nat × Nat) :=
  let units := (s.pageEntries vf).2.map fun e => (e.2.2, fieldOf e.2.1 16 36)
  (s.tensors vf units).flatMap fun tid =>
    match s.tdesc vf tid with
    | .error _ => []
    | .ok d => ((List.range d.ntile).filter fun t =>
        match s.tileEntry vf d t with
        | .ok e => fieldOf e 0 2 != 0 && fieldOf e 0 2 != 3 && fieldOf e 4 6 == s.me && fieldOf e 64 36 == f
        | .error _ => false).map fun t => (tid, t)

/-- The supervisor's write to a page table. -/
def State.structWrite (s : State) (vf sa : Nat) (v : Nat) : State :=
  match s.stage vf (sa / 65536) false with
  | none => s
  | some r => { s with mem := s.mem.setVal (r.frame * 65536 + sa % 65536) 8 v }

/-- Runs of numbers (first, end) without those of one more run. -/
def cutRun (l : List (Nat × Nat)) (r : Nat × Nat) : List (Nat × Nat) :=
  (l.flatMap fun x => [(x.1, Nat.min x.2 r.1), (Nat.max x.1 r.2, x.2)]).filter fun x => decide (x.1 < x.2)

/-- The lines of a frame move to another as they stand, a line that fails the ECC as a poisoned line. -/
def State.moveFrame (s : State) (a b : Nat) : State :=
  let gone := s.lostFrame a
  let cells := s.mem.filter fun c => c.1 / 65536 == a
  let mem := cells.foldl (fun (m : Memory) c => m.setByte (b * 65536 + c.1 % 65536) c.2) (s.mem.zero (b * 65536) 65536)
  let states := s.lines.filter fun l => l.1 / 1024 == a
  let lines := states.foldl (fun t l =>
      Tab.set ⟨none, 0⟩ t (b * 1024 + l.1 % 1024) { l.2 with ecc := if l.2.ecc = 0 then 0 else 2 })
    (s.lines.filter fun l => l.1 / 1024 != b)
  let rest := cutRun s.lost (b, b + 1)
  { s with
    mem := mem, lines := lines
    lost := if gone then rest ++ [(b, b + 1)] else rest
    kept := if gone then cutRun s.kept (b, b + 1) else s.kept }

/-- The translations of a world that yield an input frame. -/
def State.frameSet (s : State) (vf f : Nat) : ShootSet :=
  let units := ((s.pageEntries vf).2.filter fun e => fieldOf e.2.1 16 36 == f).map (·.2.2)
  let tiles := s.tilesOn vf f
  fun v t u => v == vf && ((t == 0 && units.contains u) || tiles.contains (t, u) ||
    s.tlb.any fun e => e.vf == v && e.tid == t && e.unit == u && e.xl.frame == f)

/-- The STATE of a tile after its frame has moved: a tile that a `migrate` is moving stays MIGRATING (R349). -/
def State.tileState (s : State) (vf : Nat) (t : Nat × Nat) : Nat :=
  if s.moves.any fun m => m.vf == vf && (m.tid, m.tile) == t && decide (2 ≤ m.step) then 2 else 1

/-- A frame of a world is replaced by another of its carve-out: its lines move, entries that name it are rewritten, and its
translations are dropped (R295 steps 3 and 4). -/
def State.replaceFrame (s : State) (vf f g : Nat) : State :=
  let w := s.world vf
  let p := s.pageEntries vf
  let tiles := s.tilesOn vf f
  let gone := s.frameSet vf f
  let re (v : Nat) : Nat := if fieldOf v 16 36 = f then setField v 16 36 g else v
  let s := tiles.foldl (fun s t => s.setTile vf t.1 t.2 fun e => setField (setField e 64 36 g) 0 2 (s.tileState vf t)) s
  let s := (p.1 ++ p.2.map fun e => (e.1, e.2.1)).foldl (fun s e => if re e.2 = e.2 then s else s.structWrite vf e.1 (re e.2)) s
  let s := s.modWorld vf fun w => { w with ptb := BitVec.ofNat 64 (re w.ptb.toNat) }
  let s := s.moveFrame (w.sbase + f) (w.sbase + g)
  let s := { s with arrivals := s.arrivals.map fun (a : Arrival) => if a.vf = vf ∧ a.frame = f then { a with frame := g } else a }
  s.shootDrop gone

/-- The world whose carve-out holds a physical frame. -/
def State.worldOf (s : State) (frame : Nat) : Option (Nat × World) :=
  s.worlds.find? fun w => w.2.exists_ && decide (w.2.sbase ≤ frame) && decide (frame < w.2.sbase + w.2.slen)

/-- A frame is appended to the bad-frame list, or reported where the list is full (R297). -/
def State.listFrame (s : State) (pid frame seq : Nat) : State :=
  if s.badFrames.contains frame then s
  else if s.badFrames.length < 32768 then
    State.writeLists { s with badFrames := s.badFrames ++ [frame], badSeq := s.badSeq ++ [seq] }
  else s.report pid ⟨"unlisted frame", 0, BitVec.ofNat 64 frame, 0⟩

/-- A retirement (R295). Its first step takes a spare of the same VF and marks the tiles MIGRATING, or reports that there is no spare;
its last, once no access under the old translations is under way (R286, R296), moves the frame and lists it (R297). -/
def execFrameRetirement (frame : Nat) (s : State) : Result :=
  let drop (s : State) : State := { s with
    retiring := s.retiring.filter (·.1 != frame), taken := s.taken.filter (·.1 != frame) }
  match s.retiring.find? (·.1 == frame), s.worldOf frame with
  | none, _ => .next s
  | some _, none => .next (drop s)
  | some x, some (vf, w) =>
    let mine (g : Nat) : Bool := decide (w.sbase ≤ g) && decide (g < w.sbase + w.slen) && g != frame
    match s.taken.find? (·.1 == frame) with
    | some y =>
      if !mine y.2 then .next (drop s)
      else if s.shootReady (s.frameSet vf (frame - w.sbase)) true then
        .next (((drop s).replaceFrame vf (frame - w.sbase) (y.2 - w.sbase)).listFrame w.pid frame x.2)
      else .next s
    | none =>
      match (s.part w.pid).spare.find? mine with
      | none => .next ((drop s).report w.pid ⟨"no spare", 0, BitVec.ofNat 64 frame, 0⟩)
      | some g =>
        let s := { s.modPart w.pid fun p => { p with spare := p.spare.erase g } with taken := s.taken ++ [(frame, g)] }
        .next ((s.tilesOn vf (frame - w.sbase)).foldl (fun s t => s.setTile vf t.1 t.2 fun e => setField e 0 2 2) s)

/-! ## Interfaces (R345 to R347) -/

/-- LOCK_INTERFACE creates the VF's world, with keys from the generator; the interface's IDE stream stands from then on, as
no event sets it up by itself (R330, R345, R372). A VF with a world, a partition that
does not exist or is to go, an FWID in use, or a session that does not stand is refused. -/
def execLockInterface (vf : Nat) (x : WorldGrant) (s : State) : Result :=
  let w := s.world vf
  if w.exists_ || w.ifs != .unlocked || !(s.part x.pid).exists_ || (s.part x.pid).deleting || !s.host.doe.sessions.contains x.session ||
    s.worlds.any (fun y => y.2.exists_ && y.2.fwid == x.fwid) then .next (s.emit (.note "lock refused" vf))
  else
    let key (i : Nat) : BitVec 512 := Config.draw (s.tick * 512 + 400 + i) ++ Config.draw (s.tick * 512 + 401 + i)
    let s := { s with host := { s.host with ide := if s.host.ide.contains vf then s.host.ide else s.host.ide ++ [vf] } }
    .next (State.modWorld { s with keysMade := s.keysMade + 1 } vf fun _ =>
      { (default : World) with
        exists_ := true, ifs := .locked, pid := x.pid, fwid := x.fwid, owner := x.owner, session := some x.session
        dataKey := key 0, keyNo := s.keysMade + 1, codeKey := key 2 })

/-- A locked interface runs (R345). -/
def execStartInterface (vf : Nat) (s : State) : Result :=
  if (s.world vf).ifs = .locked then .next (s.modWorld vf fun w => { w with ifs := .run }) else .next s

/-- STOP_INTERFACE drains the world, destroys its keys and deletes it (R345). -/
def execStopInterface (vf : Nat) (s : State) : Result :=
  let n := s.seqNo
  let s := { s with host := { s.host with ide := s.host.ide.erase vf } }
  .next ((s.raise "pcie" vf).endWorld n vf true)

/-- A VF reset acts on the VF's world (R347). -/
def execVfReset (vf : Nat) (s : State) : Result :=
  let n := s.seqNo
  .next ((s.raise "pcie" vf).endWorld n vf false)

end Sys2Proof.Machine
end

