-- ==== Sys2Proof/Machine/HostLink.lean ====
section
/-! DEFINITION. The host link and the side band (spec/25_host_power_and_management.md R372 to R376; R337, R345, R346): host
writes, ATS invalidations, resets of the link, SPDM requests and management requests. -/

namespace Sys2Proof.Machine

/-- Change the host link. -/
def State.modHost (s : State) (f : HostLink → HostLink) : State := { s with host := f s.host }

/-! ## Memory over PCIe (R216, R373) -/

/-- A host write into the flat space, page by page; pages that refuse it take nothing. `n` bounds the pages. -/
def State.hostStore (s : State) (vf : Nat) : Nat → Nat → List Byte → State
  | 0, _, _ => s
  | n + 1, a, bs =>
    let room := 65536 - a % 65536
    if bs = [] then s
    else State.hostStore (s.flatStore 0 vf a (bs.take room)).1 vf n (a + room) (bs.drop room)

/-- A host write: to the flat space of a world, or to host memory that the module reads (R374). -/
def execHostWrite (x : HostStore) (s : State) : Result :=
  match x with
  | .host a data => .next { s with hostMem := s.hostMem.write a data }
  | .flat vf la data =>
    let pages := data.length / 65536 + 2
    if !s.host.up || !(s.world vf).exists_ ||
      (List.range pages).any fun i => decide (65536 * i < data.length + la % 65536) && s.flatWaits vf (la + 65536 * i)
    then .next s
    else .next (s.hostStore vf pages la data)

/-- An ATS invalidation request arrives: translations of its range serve no DMA that begins from now on (R373). -/
def execAtsInvalidation (vf base len : Nat) (s : State) : Result :=
  let hit (x : Nat × Nat × Nat) : Bool := x.1 == vf && decide (base < 4096 * x.2.1 + 4096) && decide (4096 * x.2.1 < base + len)
  if !s.host.up then .next s
  else .next ((s.raise "pcie" vf).modHost fun h => { h with ats := h.ats ++ [(vf, base, len)], xl := h.xl.filter fun x => !hit x })

/-- The oldest invalidation of a VF completes, on the IDE stream of its interface: every DMA of the model is over when its event is. -/
def execAtsInvalidationComplete (vf : Nat) (s : State) : Result :=
  match s.host.ats.find? fun x => x.1 == vf with
  | none => .next s
  | some x =>
    if !s.host.ide.contains vf then .next s
    else .next ((s.modHost fun h => { h with ats := h.ats.erase x }).emit (.note "invalidation complete" vf))

/-! ## The link (R346) -/

/-- SPDM sessions of the mailbox end: interfaces that they carried are carried by none (R346). -/
def State.endSessions (s : State) (p : Nat → Bool) : State :=
  { s with worlds := s.worlds.map fun (w : Nat × World) => if w.2.session.any p then (w.1, { w.2 with session := none }) else w }

/-- A hot reset or a link down, numbered `n`: interfaces that were locked or ran go to ERROR, unless they are spared, their queues torn
down first (R221), and IDE streams and SPDM sessions end. -/
def State.dropLink (s : State) (n : Nat) (spared : Bool := false) : State :=
  let vfs := if spared then [] else (s.worlds.filter fun w => w.2.ifs == .locked || w.2.ifs == .run).map (·.1)
  let s := (s.queues.filter fun q => vfs.contains q.2.vf).foldl (fun s q => s.tearQueue q.1) s
  let s := (s.endSessions fun _ => true).modHost fun h => { h with up := false, doe := ⟨[], []⟩, ide := [], ats := [], xl := [] }
  vfs.foldl (fun s vf => (s.modWorld vf fun w => { w with ifs := .error }).endWorld n vf false) s

/-- A hot reset. -/
def execHotReset (s : State) : Result := .next ((s.raise "pcie" 0).dropLink s.seqNo)

/-- Whether a diapause of the whole module has been triggered and power has not come back: interfaces stand through the link down of the
power loss (R370). -/
def State.losesPower (s : State) : Bool :=
  s.mon.full && (s.mon.phase == .freezing || s.mon.phase == .drained || s.mon.phase == .asleep)

/-- The link goes down. -/
def execLinkDown (s : State) : Result := .next ((s.raise "pcie" 0).dropLink s.seqNo s.losesPower)

/-- The link is up again. -/
def execPcieLinkTrained (s : State) : Result :=
  if s.mon.phase = .off then .next s else .next (s.modHost fun h => { h with up := true })

/-! ## SPDM (R337, R372, R376) -/

/-- Whether requests of a port reach the monitor: the island runs, and for the mailbox the link is up. -/
def State.portOpen (s : State) (p : SpdmPort) : Bool := s.mon.phase != .off && (p == .sideBand || s.host.up)

/-- The SPDM sessions of a port. -/
def State.spdm (s : State) (p : SpdmPort) : Spdm := match p with | .doe => s.host.doe | .sideBand => s.host.side

/-- Change the sessions of a port. -/
def State.modSpdm (s : State) (p : SpdmPort) (f : Spdm → Spdm) : State :=
  s.modHost fun h => match p with | .doe => { h with doe := f h.doe } | .sideBand => { h with side := f h.side }

/-- Whether a request comes within no session, or within one that stands. -/
def State.inSession (s : State) (x : SpdmRequest) : Bool :=
  match x.session with
  | none => true
  | some n => (s.spdm x.port).sessions.contains n

/-- An answer of the monitor. -/
def State.respond (s : State) (x : SpdmRequest) (body : List Byte) : State := s.emit (.spdm (x.port == .sideBand) x.code body)

/-- An SPDM error. -/
def State.spdmError (s : State) (x : SpdmRequest) (what : String) : State := s.emit (.error (x.port == .sideBand) what)

/-- A request whose answer the spec does not give beyond that it is answered (log 8). -/
def State.plainAnswer (s : State) (x : SpdmRequest) : Result :=
  if !s.portOpen x.port then .next s
  else if !s.inSession x then .next (s.spdmError x "InvalidSession")
  else .next (s.respond x (Config.spdmData x.code s.tick))

/-- GET_VERSION. -/
def execGetVersion (x : SpdmRequest) (s : State) : Result := s.plainAnswer x

/-- GET_CAPABILITIES. -/
def execGetCapabilities (x : SpdmRequest) (s : State) : Result := s.plainAnswer x

/-- NEGOTIATE_ALGORITHMS: ML-DSA-87 and SHA3-512 alone are offered (R337). -/
def execNegotiateAlgorithms (x : SpdmRequest) (s : State) : Result :=
  if !s.portOpen x.port then .next s
  else if !s.inSession x then .next (s.spdmError x "InvalidSession")
  else .next ((s.respond x (Config.spdmData x.code s.tick)).emit (.note "algorithms: ML-DSA-87, SHA3-512" x.code))

/-- GET_DIGESTS. -/
def execGetDigests (x : SpdmRequest) (s : State) : Result := s.plainAnswer x

/-- GET_CERTIFICATE: with the identity key's signature of the attestation key (R337). -/
def execGetCertificate (x : SpdmRequest) (s : State) : Result :=
  if !s.portOpen x.port then .next s
  else if !s.inSession x then .next (s.spdmError x "InvalidSession")
  else .next (s.respond x (Config.spdmData x.code s.tick ++ s.mon.attCert))

/-- CHALLENGE: signed with the attestation key. -/
def execChallenge (x : SpdmRequest) (s : State) : Result :=
  if !s.portOpen x.port then .next s
  else if !s.inSession x then .next (s.spdmError x "InvalidSession")
  else
    let body := Config.spdmData x.code s.tick
    .next (s.respond x (body ++ Config.sign s.mon.attKey (Config.hash body)))

/-- A 512-bit register as bytes. -/
def regBytes (m : BitVec 512) : List Byte := leBytes 64 m.toNat

/-- The bytes of a measurement block, none where it is not present (R337). -/
def State.block (s : State) (i : Nat) : Option (List Byte) :=
  if 1 ≤ i ∧ i ≤ 5 then some (regBytes (s.mm (i - 1)))
  else if 16 ≤ i ∧ i ≤ 39 then some (regBytes (s.part (i - 16)).pm)
  else if i = 64 then some (regBytes (Config.hash (((List.range 256).map fun v => regBytes (s.world v).wm).flatten)))
  else none

/-- GET_MEASUREMENTS (R337): the block of an index, every present block for index 0xFF; signed with the attestation key. -/
def execGetMeasurements (x : SpdmRequest) (index : Nat) (s : State) : Result :=
  if !s.portOpen x.port then .next s
  else if !s.inSession x then .next (s.spdmError x "InvalidSession")
  else
    let is := if index = 0xFF then (List.range 256).filter fun i => (s.block i).isSome else [index]
    let body := (is.map fun i => match s.block i with
      | some b => BitVec.ofNat 8 i :: b
      | none => []).flatten
    if body = [] then .next (s.spdmError x "InvalidRequest")
    else .next (s.respond x (body ++ Config.sign s.mon.attKey (Config.hash body)))

/-- KEY_EXCHANGE: a session of the lowest number that the port does not use awaits its FINISH. -/
def execKeyExchange (x : SpdmRequest) (s : State) : Result :=
  if !s.portOpen x.port then .next s
  else
    let p := s.spdm x.port
    match ((List.range 256).map (· + 1)).find? fun n => !p.sessions.contains n && !p.pending.contains n with
    | none => .next (s.spdmError x "SessionLimitExceeded")
    | some n =>
      .next ((s.modSpdm x.port fun p => { p with pending := p.pending ++ [n] }).respond x
        (leBytes 2 n ++ Config.spdmData x.code s.tick))

/-- FINISH: the session stands. -/
def execFinish (x : SpdmRequest) (s : State) : Result :=
  if !s.portOpen x.port then .next s
  else match x.session with
    | some n =>
      if (s.spdm x.port).pending.contains n then
        .next ((s.modSpdm x.port fun p => { p with pending := p.pending.erase n, sessions := p.sessions ++ [n] }).respond x
          (Config.spdmData x.code s.tick))
      else .next (s.spdmError x "InvalidSession")
    | none => .next (s.spdmError x "InvalidRequest")

/-- A request that only a session carries. -/
def State.sessionAnswer (s : State) (x : SpdmRequest) (f : Nat → State → State) : Result :=
  if !s.portOpen x.port then .next s
  else match x.session with
    | some n =>
      if (s.spdm x.port).sessions.contains n then .next (f n (s.respond x (Config.spdmData x.code s.tick)))
      else .next (s.spdmError x "InvalidSession")
    | none => .next (s.spdmError x "InvalidRequest")

/-- KEY_UPDATE. -/
def execKeyUpdate (x : SpdmRequest) (s : State) : Result := s.sessionAnswer x fun _ s => s

/-- HEARTBEAT. -/
def execHeartbeat (x : SpdmRequest) (s : State) : Result := s.sessionAnswer x fun _ s => s

/-- END_SESSION. -/
def execEndSession (x : SpdmRequest) (s : State) : Result :=
  s.sessionAnswer x fun n s =>
    (if x.port = .doe then s.endSessions (· == n) else s).modSpdm x.port fun p => { p with sessions := p.sessions.erase n }

/-- Any other request (R372). -/
def execSpdmUnsupportedRequest (x : SpdmRequest) (s : State) : Result :=
  if !s.portOpen x.port then .next s else .next (s.spdmError x "UnsupportedRequest")

/-- GET_DEVICE_INTERFACE_REPORT: WMv, within the secure session that carries the interface's TDISP messages (R337; log 128). -/
def execGetDeviceInterfaceReport (x : ReportRequest) (s : State) : Result :=
  if !s.portOpen .doe then .next s
  else if (s.world x.vf).exists_ ∧ s.owns x.vf x.session then
    .next ((s.modWorld x.vf fun w => { w with session := some x.session }).emit (.spdm false x.vf (regBytes (s.world x.vf).wm)))
  else .next (s.emit (.error false "InvalidRequest"))

/-! ## Management requests (R376) -/

/-- Telemetry by its place (R376, R377): sensors 0 to 63 of a die, then the power of its eight bulkheads, then the module's input power,
both in units of 0.1 W; the spec gives the places of the powers no number (DESIGN CHOICE, log 125). -/
def State.telemetry (s : State) (die n : Nat) : BitVec 16 :=
  if n < 64 then Tab.get 0 (s.die die).sensors n
  else if n < 72 then BitVec.ofNat 16 (s.host.power.getD (8 * die + n - 64) 0)
  else BitVec.ofNat 16 s.host.input

/-- Telemetry is read over the side band: a request of source 4 (R264, R377). -/
def execTelemetryRead (die sensor : Nat) (s : State) : Result :=
  if s.mon.phase = .off then .next s
  else .next ((s.raise "side band" die).emit (.telemetry die sensor (s.telemetry die sensor)))

/-- A reset is requested over the side band: an event of source 4; one that the monitor refuses is answered with an error. -/
def execSidebandResetRequest (t : ResetTarget) (s : State) : Result :=
  if s.mon.phase = .off then .next s
  else
    let n := s.seqNo
    match t with
    | .bulkhead b =>
      if (s.bulk b).pid.isNone then .next ((s.raise "side band" b).emit (.error true "refused"))
      else if (s.bulk b).canReset then .next ((s.raise "side band" b).resetBulkhead n b)
      else .next (s.raise "side band" b)
    | .vf v =>
      if !(s.world v).exists_ then .next ((s.raise "side band" v).emit (.error true "refused"))
      else .next ((s.raise "side band" v).endWorld n v false)
    | .hostLink => .next ((s.raise "side band" 0).dropLink n)

/-- The module's power cap, in units of 0.1 W. -/
def execPowerCapSet (cap10 : Nat) (s : State) : Result :=
  if s.mon.phase = .off then .next s
  else if 10000 ≤ cap10 ∧ cap10 ≤ 36000 then .next ((s.raise "side band" 0).modHost fun h => { h with cap := cap10 })
  else .next ((s.raise "side band" 0).emit (.error true "refused"))

end Sys2Proof.Machine
end

