-- ==== Sys2Proof/Machine/Power.lean ====
section
/-! DEFINITION. Sensors, clocks and the emergency flag of a bulkhead (spec/25_host_power_and_management.md R377 to R380) and
plane skipping (R83). Clocks count steps of 12.5 MHz: 14 is 175 MHz, 28 is 350 MHz, 56 is 700 MHz. -/

namespace Sys2Proof.Machine

/-- The bulkhead that a sensor of a die lies in: eight sensors for each (log 22). -/
def sensorBulk (die sensor : Nat) : Nat := 8 * die + sensor / 8

/-- The readings of a bulkhead's sensors, in 1/64 °C. -/
def State.readings (s : State) (b : Nat) : List Int :=
  (List.range 8).map fun i => (Tab.get 0 (s.die (b / 8)).sensors (8 * (b % 8) + i)).toInt

/-- The clock that a bulkhead runs at: the lower of old and new while a change is under way (R378). -/
def Bulkhead.running (b : Bulkhead) : Nat := match b.target with | some t => Nat.min b.clock t | none => b.clock

/-- EMG is set: the clock halves (R380). -/
def Bulkhead.emergency (b : Bulkhead) : Bulkhead :=
  if b.emg then b
  else
    let c := Nat.max 14 (b.running / 2)
    { b with emg := true, clock := c, ceiling := c, target := none }

/-- A sensor is sampled (R377). The sample of the first sensor begins a period of 10 us (log 4), which
ages ready records (R214). 110 °C sets EMG; the times
since when the bulkhead has been cool or too hot are kept. -/
def execSensorSample (die sensor : Nat) (reading : BitVec 16) (s : State) : Result :=
  let s := if die = 0 ∧ sensor = 0 then State.ageRecords { s with us := s.us + 10 } else s
  let s := s.modDie die fun d => { d with sensors := Tab.set 0 d.sensors sensor reading }
  let b := sensorBulk die sensor
  let l := s.readings b
  let cool := l.all fun r => decide (r ≤ 105 * 64)
  let hot := l.any fun r => decide (125 * 64 ≤ r)
  .next (s.modBulk b fun x =>
    let x := if l.any fun r => decide (110 * 64 ≤ r) then x.emergency else x
    { x with
      cool := if cool then (if x.cool = 0 then s.us + 1 else x.cool) else 0
      hot := if hot then (if x.hot = 0 then s.us + 1 else x.hot) else 0 })

/-- The rail current has exceeded its limit for 100 us: EMG is set. -/
def execRailOvercurrent (bulkhead : Nat) (s : State) : Result := .next (s.modBulk bulkhead Bulkhead.emergency)

/-- DEGRADE[2:0] of a core. -/
def Core.setPlanes (c : Core) (n : Nat) : Core := c.setCr 0xF (BitVec.ofNat 64 (setField (c.cr 0xF).toNat 0 3 n))

/-- After 10 ms at 105 °C or less EMG clears: the clock comes back to 350 MHz and no core skips planes (R380). -/
def execEmgClear (bulkhead : Nat) (s : State) : Result :=
  let b := s.bulk bulkhead
  if !b.emg || b.cool = 0 || decide (s.us < b.cool - 1 + 10000) then .next s
  else
    let s := s.modBulk bulkhead fun x =>
      { x with emg := false, clock := Nat.max 28 x.running, target := none, ceiling := 56, planes := 0 }
    .next ((s.coreList.filter fun c => bulkOf c == bulkhead).foldl (fun s c => s.modCore c fun k => k.setPlanes 0) s)

/-- 125 °C for 10 us is a clock fault of the bulkhead (R380, R298). -/
def execOvertempFault (bulkhead : Nat) (s : State) : Result :=
  let b := s.bulk bulkhead
  if b.hot = 0 ∨ s.us < b.hot - 1 + 10 then .next s else execBulkheadFault bulkhead s

/-- A sag of the rail stretches the clock while it lasts (R379). -/
def execDroopStretch (bulkhead : Nat) (on : Bool) (s : State) : Result := .next (s.modBulk bulkhead fun x => { x with stretch := on })

/-- The supervisor asks for a clock: refused outside its bounds or where the table does not admit it (R378, R380). -/
def execClockChangeRequest (bulkhead steps : Nat) (s : State) : Result :=
  let b := s.bulk bulkhead
  let hottest := (s.readings bulkhead).foldl (fun m r => if m < r then r else m) (-32768)
  let lo := if b.emg then 14 else 28
  let hi := if b.emg then b.ceiling else 56
  if b.pid.isSome ∧ lo ≤ steps ∧ steps ≤ hi ∧ Config.vft (BitVec.ofInt 16 hottest) steps then
    .next (s.modBulk bulkhead fun x => { x with clock := x.running, target := some steps })
  else .next (s.emit (.note "clock refused" bulkhead))

/-- A change of the clock is complete. -/
def execClockChangeComplete (bulkhead : Nat) (s : State) : Result :=
  .next (s.modBulk bulkhead fun x => match x.target with
    | some t => { x with clock := t, target := none }
    | none => x)

/-- Power is reported every 1 ms, in units of 0.1 W (R377). -/
def execPowerReport (watts10 : List Nat) (input10 : Nat) (s : State) : Result :=
  .next (s.modHost fun h => { h with power := watts10, input := input10 })

/-- The supervisor has a core skip planes, at most its ream's MAXS (R83, R380). The number is also the one that the core's bulkhead gives
tasks which start later (R41); other cores that run keep theirs (DESIGN CHOICE, log 102). -/
def execDegradeSet (core : Nat) (planes : BitVec 3) (s : State) : Result :=
  let b := bulkOf core
  if planes ≠ 0 ∧ !(s.bulk b).emg then .next (s.emit (.note "planes refused" core))
  else
    .next ((s.modBulk b fun x => { x with planes := planes.toNat }).modCore core fun k =>
      k.setPlanes (Nat.min planes.toNat (fieldOf (k.cr 0xF).toNat 4 3)))

end Sys2Proof.Machine
end

