-- ==== Sys2Proof/Machine/Diapause.lean ====
section
/-! DEFINITION. Diapause, brown-out and eclosion (spec/24_diapause_and_brownout.md), and the boot that precedes them (R382). What
the sections of a manifest hold is kept as the state that they restore (log 24), its keys wrapped, beside what the header and the
region list say of it. -/

namespace Sys2Proof.Machine

/-! ## Priority lists (R362) -/

/-- Entries of a priority list at a physical address of HBM (log 23). -/
def State.listAt (s : State) (a n : Nat) : List (BitVec 128) := (List.range n).map fun i => BitVec.ofNat 128 (s.mem.val (a + 16 * i) 16)

/-- Whether an entry of Table 24-2 is accepted for a partition. -/
def State.entryOk (s : State) (pid : Nat) (e : BitVec 128) : Bool :=
  let n := e.toNat
  let w := s.world (fieldOf n 72 8)
  fieldOf n 80 48 == 0 && fieldOf n 24 24 == 0 && decide (1 ≤ fieldOf n 48 24) && w.exists_ && w.pid == pid &&
    decide (fieldOf n 0 24 + fieldOf n 48 24 ≤ w.slen)

/-- The supervisor sets its partition's priority and list; a list that fails its check is refused whole. -/
def execPriorityListSet (x : PriorityList) (s : State) : Result :=
  let l := s.listAt x.plb x.pln
  if !(s.part x.pid).exists_ || decide (3 < x.dpri) || x.plb % 16 != 0 || decide (4096 < x.pln) || !l.all (s.entryOk x.pid) then
    .next (s.emit (.note "list refused" x.pid))
  else .next (s.modPart x.pid fun p => { p with dpri := x.dpri, plb := x.plb, pln := x.pln, prio := l })

/-! ## What is drained (R363) -/

/-- Partitions in drain order: decreasing DPRI, then increasing PID. -/
def State.drainOrder (s : State) (pids : List Nat) : List Nat :=
  [3, 2, 1, 0].flatMap fun d => (List.range 24).filter fun p => pids.contains p && (s.part p).dpri % 4 == d

/-- From a frame on, how far `b` frames that earlier regions do not cover reach, and what is left of `b`; `n` bounds the
steps. -/
def reachFrames (covered : List (Nat × Nat)) (stop : Nat) : Nat → Nat → Nat → Nat × Nat
  | 0, p, b => (p, b)
  | n + 1, p, b =>
    if stop ≤ p ∨ b = 0 then (Nat.min p stop, b)
    else match covered.find? fun x => decide (x.1 ≤ p) && decide (p < x.2) with
      | some x => reachFrames covered stop n x.2 b
      | none =>
        let q := covered.foldl (fun m x => if p < x.1 then Nat.min m x.1 else m) stop
        if b ≤ q - p then (p + b, 0) else reachFrames covered stop n q (b - (q - p))

/-- Regions of the lists of partitions in order, until `b` frames are drained; and how many are left. -/
def cutRegions : List (BitVec 128) → List Region → Nat → List Region × Nat
  | [], done, b => (done, b)
  | e :: es, done, b =>
    if b = 0 then (done, 0)
    else
      let n := e.toNat
      let vf := fieldOf n 72 8
      let first := fieldOf n 0 24
      let count := fieldOf n 48 24
      let covered := (done.filter fun r => r.vf == vf).map fun r => (r.first, r.first + r.cut)
      let r := reachFrames covered (first + count) (2 * covered.length + 2) first b
      cutRegions es (done ++ [⟨vf, first, count, r.1 - first, b - r.2, 0, [], true⟩]) r.2

/-- The usable energy of a reserve: 3.0 kJ at most (R1). -/
def usable (joules : Nat) : Nat := Nat.min joules 3000

/-- B of R363: the frames that a reserve of `h` joules covers, with a body of the given length. -/
def drainFrames (h body : Nat) : Nat :=
  (h * 512000000000 - 1375 * (691200000 + (body - 2 ^ 26))) / (1375 * 65536)

/-- The length of a body (R363): 96 bytes for an entry of the region list, 0x45_0000 for a save area, 64 for a record, 65,536 for a
frame that is copied whole, and the rest. -/
def State.bodyOf (s : State) (entries areas records structs : Nat) : Nat :=
  96 * entries + 0x450000 * areas + 64 * records + 65536 * structs + (Config.bodyRest s.tick).length

/-! ## Starting (R360, R361) -/

/-- Cores of partitions. -/
def State.coresOf (s : State) (pids : List Nat) : List Nat :=
  s.coreList.filter fun c => match (s.bulk (bulkOf c)).pid with
    | some p => pids.contains p
    | none => false

/-- Every core of some partitions is to freeze with cause DIAP; a unit between two tasks gives its indices back. -/
def State.freezeAll (s : State) (n : Nat) (pids : List Nat) : State :=
  (s.coresOf pids).foldl (fun s c =>
    let k := s.core c
    if k.task.isNone then s
    else if k.run = .ending ∧ k.closing.isNone then s.endUnit (s.leadOf c) true
    else s.request c ⟨11, false, n⟩) s

/-- Every partition. -/
def State.allParts (s : State) : List Nat := (s.parts.filter fun p => p.2.exists_).map (·.1)

/-- The manifest of the brown-outs before, while it can still be resumed from: the one with the highest MSEQ of its kind (R364,
R365). -/
def Monitor.shedManifest (m : Monitor) : Option Manifest :=
  let take (x : Manifest) : Option Manifest := if x.valid && x.shedOnly then some x else none
  let x := match take m.manA, take m.manB with
    | some a, some b => some (if b.mseq ≤ a.mseq then a else b)
    | some a, none => some a
    | none, y => y
  x.filter fun x => !x.consumed

/-- Whether a shed partition stands in storage-class memory alone (R365). -/
def State.shelved (s : State) (p : Nat) : Bool :=
  (s.part p).shed && match s.mon.shedManifest with
    | some x => x.pids.contains p
    | none => false

/-- A diapause trigger (R360): the first starts the diapause; during an eclosion whose manifest is not consumed, or in a boot, the
module powers off without another manifest (R370); later ones have no effect. -/
def State.trigger (s : State) (n reserve : Nat) : State :=
  let m := s.mon
  if m.full then
    if m.phase = .eclosing ∨ m.phase = .restored then s.modMon fun m => { m with phase := .asleep } else s
  else if m.phase = .off ∨ m.phase = .boot then s.modMon fun m => { m with phase := .off }
  else
    let s := s.modMon fun m => { m with full := true, trig := n, hreserve := usable reserve, phase := .freezing, brown := 0, resume := none }
    s.freezeAll n (s.allParts.filter fun p => !s.shelved p)

/-- The shelf's power-fail warning. -/
def execPowerFailWarning (reserve : Nat) (s : State) : Result :=
  let n := s.seqNo
  .next ((s.raise "shelf" 0).trigger n reserve)

/-- The input below 44 V, or the reserve alone. -/
def execInputUndervoltage (reserve : Nat) (s : State) : Result :=
  let n := s.seqNo
  .next ((s.raise "input" 0).trigger n reserve)

/-- DIAP goes on every lit lane to the members of worlds (R316; log 25). -/
def State.sendDiap (s : State) (vfs : List Nat) (st : Nat) : State :=
  vfs.foldl (fun s vf =>
    ((List.range 64).filter fun m => (s.world vf).members.getLsbD m && m != s.me && !(s.litTo m).isEmpty).foldl (fun s m =>
      (List.range (s.litTo m).length).foldl (fun s h => s.transmit h
        { op := 0xF, src := s.me, dst := m, plane := 0, vl := 24, orig := s.me, gen := 0, tag := 0, fwid := (s.world vf).fwid
          scope := .pod, rel := false, acq := false, addr := 0, caddr := st, data := [] }) s) s) s

/-- Writes to watched words that are still to be looked at are (R216). -/
def State.lookAll (s : State) : State := s.dirty.foldl State.lookWrite { s with dirty := [] }

/-! ## Drain and seal (R361, R363, R364) -/

/-- A `seqend` that has reached a seal point somewhere counts as finished (R361); other key operations come to nothing, and
their bundles begin them again. `mine` picks the worlds that the drain covers. -/
def State.settleEnds (s : State) (mine : Nat → Bool) : State :=
  let s' := (s.keyOps.filter fun o => mine o.vf).foldl (fun s o =>
    let begun := !o.opening && (List.range 64).any fun m => (s.key o.slot).reach.getLsbD m && !o.await.contains m
    if o.opening then (s.destroyKey o.slot).modCore o.core fun c => { c with keyHold := none }
    else if begun || !(s.key o.slot).live then
      let s := if (s.key o.slot).live && (s.key o.slot).gen == o.gen then s.sealKey ⟨o.slot, o.gen⟩ else s
      s.modCore o.core fun c => { c with keyHold := c.keyHold.map fun h => { h with done := true } }
    else s.modCore o.core fun c => { c with keyHold := none }) s
  { s' with keyOps := s'.keyOps.filter fun o => !mine o.vf }

/-- The other manifest slot than that of the last accepted manifest (R364). -/
def Monitor.nextSlot (m : Monitor) : Nat := if m.lastSlot = 1 then 2 else 1

/-- A manifest slot. -/
def Monitor.slot (m : Monitor) (n : Nat) : Manifest := if n = 2 then m.manB else m.manA

/-- Change a manifest slot. -/
def Monitor.setSlot (m : Monitor) (n : Nat) (x : Manifest) : Monitor := if n = 2 then { m with manB := x } else { m with manA := x }

/-- BAR and BPOI packets of a world that no peer has acknowledged: they go again after a restore (R324, R358; log 111). -/
def State.unackedBars (s : State) (fwid : BitVec 12) : List Sent :=
  ((s.lanes.flatMap fun l => l.2.replay) ++ s.resend ++ s.held).filter fun x => (x.op == 0xD || x.op == 0xE) && x.fwid == fwid

/-- Frames that hold page tables, descriptors and tile maps of a world, copied whole (section 5). -/
def State.structFrames (s : State) (vf : Nat) : List Nat :=
  let w := s.world vf
  let p := s.pageEntries vf
  let phys (f : Nat) : List Nat := match s.stage vf f false with
    | some r => [r.frame]
    | none => []
  let tables := w.ptb.toNat / 65536 :: p.1.map fun e => fieldOf e.2 16 36
  let units := p.2.map fun e => (e.2.2, fieldOf e.2.1 16 36)
  let tids := s.tensors vf units
  let maps := tids.flatMap fun tid =>
    (w.ttb.toNat + 32 * tid) / 65536 :: match s.tdesc vf tid with
      | .ok d => (List.range ((16 * d.ntile + 65535) / 65536 + 1)).map fun i => d.mapb / 65536 + i
      | .error _ => []
  let flats := (units.filter fun u => maps.contains u.1).map (·.2)
  ((tables ++ flats).flatMap phys).eraseDups

/-- Records of a world's pool that wait, are ready or run (section 3). -/
def State.poolRecords (s : State) (vf : Nat) : List (Nat × Nat × List Nat) :=
  let w := s.world vf
  (List.range w.crpn).filterMap fun i =>
    match s.recWords vf (w.crpb + 64 * i) with
    | some ws => if [1, 2, 3].contains (fieldOf (ws.getD 0 0) 13 3) then some (vf, w.crpb + 64 * i, ws) else none
    | none => none

/-- Physical frames that regions drain. -/
def State.regionFrames (s : State) (rs : List Region) : List (Nat × Nat) :=
  rs.map fun r => ((s.world r.vf).sbase + r.first, (s.world r.vf).sbase + r.first + r.cut)

/-- The frames that a region drains, physical: those of its extent that no earlier region covers (R363). -/
def State.drains (s : State) (earlier : List Region) (r : Region) : List Nat :=
  (((List.range r.cut).map (r.first + ·)).filter fun f =>
    !earlier.any fun q => q.vf == r.vf && decide (q.first ≤ f) && decide (f < q.first + q.cut)).map ((s.world r.vf).sbase + ·)

/-- The MAC that stands with a line of a world's frame, zero where nothing has written it (R342; log 24). -/
def State.storedMac (s : State) (vf l : Nat) : Nat :=
  match (s.lineState l).tag with
  | some t => s.lineMac vf t.tid t.unit t.line t.handle (s.sealLine vf t.tid t.unit t.line t.handle (s.mem.bytes (lineAddr l) 64))
  | none => 0

/-- A level of a Merkle tree: pairs are hashed, a node without a sibling is carried up (R364). -/
def pairUp : List (List Byte) → List (List Byte)
  | a :: b :: t => leBytes 64 (Config.hash (a ++ b)).toNat :: pairUp t
  | l => l

/-- The root over some nodes; `n` bounds the levels. -/
def merkle : Nat → List (List Byte) → List Byte
  | 0, l => l.headD []
  | n + 1, l => if l.length ≤ 1 then l.headD [] else merkle n (pairUp l)

/-- Regions with the Merkle roots of their line MACs, 1,024 for a frame, in frame order. -/
def State.rooted (s : State) : List Region → List Region → List Region
  | _, [] => []
  | done, r :: rs =>
    { r with root := merkle 64 ((s.drains done r).flatMap fun f =>
        (List.range 1024).map fun i => leBytes 8 (s.storedMac r.vf (1024 * f + i))) } :: State.rooted s (done ++ [r]) rs

/-- Regions with the offsets of their lines in a slot, which the drained lines fill from its start (R364). -/
def placed : Nat → List Region → List Region
  | _, [] => []
  | off, r :: rs => { r with off := off } :: placed (off + 65536 * r.drained) rs

/-- The save area of a core as the diapause writes it (R260, R361). -/
def State.saveArea (s : State) (c : Nat) : List Byte :=
  let k := s.core c
  ((List.range 0x9400).flatMap fun i => leBytes 8 (s.snapWord c k i).toNat) ++ List.replicate 0x6000 0 ++
    (List.range 64).flatMap fun n => if (k.slot n).state = .ready then k.scr.bytes (65536 * n) 65536 else List.replicate 65536 0

/-- Places at which keys are wrapped: a sequence key by its slot, the data key and the code key of a world by its VF. -/
def dataPlace (vf : Nat) : Nat := 4096 + 2 * vf
def codePlace (vf : Nat) : Nat := 4097 + 2 * vf

/-- Section 6: the keys of worlds and the live sequence keys, wrapped under the sealing key (R364). -/
def State.wrapKeys (s : State) (worlds : List (Nat × World)) : List (Nat × BitVec 512) :=
  let w (place : Nat) (k : BitVec 512) : Nat × BitVec 512 := (place, wrapKey s.mon.sealKey place k)
  (worlds.flatMap fun x => [w (dataPlace x.1) x.2.dataKey, w (codePlace x.1) x.2.codeKey]) ++
    (s.keys.filter fun k => k.2.live).map fun k => w k.1 (k.2.key.setWidth 512)

/-- A wrapped key taken out of a manifest. -/
def Manifest.unwrap (x : Manifest) (sealing : BitVec 512) (place : Nat) : BitVec 512 :=
  match x.wrapped.find? fun y => y.1 == place with
  | some y => unwrapKey sealing place y.2
  | none => 0

/-- A world and a key slot without their keys. -/
def World.bare (w : World) : World := { w with dataKey := 0, codeKey := 0 }
def KeySlot.bare (k : KeySlot) : KeySlot := { k with key := 0 }

/-- The bytes of a body (Table 24-4): the region list, save areas, records, whole frames, and the sections whose formats the spec does
not give. -/
def Manifest.body (x : Manifest) (rest : List Byte) : List Byte :=
  (x.regions.flatMap fun r => leBytes 16 (r.first + r.count * 2 ^ 48 + r.vf * 2 ^ 72) ++ leBytes 8 r.drained ++ leBytes 8 r.off ++ r.root) ++
    (x.areas.flatMap (·.2)) ++ (x.records.flatMap fun r => r.2.2.flatMap (leBytes 8)) ++
    (x.structs.flatMap fun f => x.bytes.bytes (65536 * f) 65536) ++ rest

/-- The header of a manifest (Table 24-3). -/
def Manifest.header (x : Manifest) : List Byte :=
  leBytes 8 x.mseq ++ leBytes 8 x.svn ++ leBytes 8 x.trig ++ leBytes 8 x.shedOnly.toNat ++ leBytes 8 x.blen ++ leBytes 8 x.nsec ++
    leBytes 16 0 ++ leBytes 64 x.digest.toNat ++ leBytes 120 0 ++ leBytes 8 x.consumed.toNat

/-- A slot's first byte in storage-class memory (R364). -/
def slotBase (k : Nat) : Nat := if k = 2 then 768 * 2 ^ 30 else 0

/-- The manifest of partitions, with what an earlier one of the same brown-out holds (R365, R367). -/
def State.manifestOf (s : State) (pids : List Nat) (b : Nat) (old : Option Manifest) : Manifest :=
  let order := s.drainOrder pids
  let rs := s.rooted [] (cutRegions (order.flatMap fun p => (s.part p).prio) [] b).1
  let vfs := (s.worlds.filter fun w => w.2.exists_ && pids.contains w.2.pid).map (·.1)
  let structs := (vfs.flatMap s.structFrames).eraseDups
  let runs := s.regionFrames rs ++ structs.map fun f => (f, f + 1)
  let within (f : Nat) : Bool := runs.any fun x => decide (x.1 ≤ f) && decide (f < x.2)
  let o := old.getD default
  let worlds := (s.worlds.filter fun w => vfs.contains w.1)
  let regions := placed 0 (o.regions ++ rs)
  let wrapped := o.wrapped.filter fun y => decide (4096 ≤ y.1)
  { (default : Manifest) with
    frames := (regions.map (·.drained)).sum
    pids := o.pids ++ order, order := o.order ++ order, regions := regions
    bytes := (s.mem.filter fun c => within (c.1 / 65536)).foldl (fun m c => m.setByte c.1 c.2) o.bytes
    states := (s.lines.filter fun l => within (l.1 / 1024)).foldl (fun t l => Tab.set ⟨none, 0⟩ t l.1 l.2) o.states
    structs := o.structs ++ structs
    records := o.records ++ vfs.flatMap s.poolRecords
    cores := o.cores ++ ((s.coresOf pids).filter fun c => (s.core c).task.isSome).map fun c => (c, s.core c)
    areas := o.areas ++ ((s.coresOf pids).filter fun c => (s.core c).task.isSome).map fun c => (c, s.saveArea c)
    wrapped := wrapped ++ s.wrapKeys worlds
    reams := o.reams ++ s.reams.filter fun r => pids.contains r.pid
    barriers := o.barriers ++ s.bars.filter fun x => pids.contains x.pid
    watches := o.watches ++ s.watches.filter fun w => vfs.contains w.word.1
    readies := o.readies ++ (List.range 3).flatMap fun d => ((s.die d).ready.filter fun r => vfs.contains r.vf).map fun r => (d, r)
    queues := o.queues ++ s.queues.filter fun q => pids.contains q.2.pid
    worlds := o.worlds ++ worlds.map fun w => (w.1, { w.2.bare with toSend := w.2.toSend ++ s.unackedBars w.2.fwid })
    parts := o.parts ++ s.parts.filter fun p => pids.contains p.1
    saves := o.saves ++ s.saves.filter fun x => vfs.contains x.vf
    moves := o.moves ++ s.moves.filter fun m => vfs.contains m.vf
    arrivals := o.arrivals ++ s.arrivals.filter fun a => vfs.contains a.vf
    keys := s.keys.map fun (k : Nat × KeySlot) => (k.1, k.2.bare)
    keyOrder := s.keyOrder, mig := s.mig, windows := s.windows, us := s.us, seqNo := s.seqNo, valid := false }

/-- Partitions that a drain covers: those that do not stand in storage-class memory yet; in a brown-out the shed ones
alone. -/
def State.drainParts (s : State) : List Nat :=
  s.allParts.filter fun p => !s.shelved p && (s.mon.full || (s.part p).shed)

/-- The drain (R361, R363): once every core with a task is frozen, its state is saved, the peers are told, and the listed
regions move, a partial diapause's whole. -/
def execDiapauseDrain (s : State) : Result :=
  let pids := s.drainParts
  let cs := (s.coresOf pids).filter fun c => (s.core c).task.isSome
  if s.mon.phase ≠ .freezing ∨ cs.any fun c => !(s.core c).frozenNow then .next s
  else
    let s := (s.settleEnds fun vf => pids.contains (s.world vf).pid).lookAll
    let vfs := s.fabricWorlds.filter fun vf => s.mon.full || pids.contains (s.world vf).pid
    let s := pids.foldl (fun s p => s.modPart p fun x => { x with away := true }) (s.sendDiap vfs 1)
    let s := if s.mon.full then { s with selfState := 1 } else s
    let old := s.mon.shedManifest.filter fun x => x.pids.any s.shelved
    let whole := s.manifestOf pids (2 ^ 24) old
    let body := s.bodyOf whole.regions.length whole.areas.length whole.records.length whole.structs.length
    let x := if s.mon.full then s.manifestOf pids (drainFrames s.mon.hreserve body) old else whole
    .next (s.modMon fun m => { m with pending := some x, phase := .drained })

/-- HBM of a die loses its contents. -/
def State.dropHbm (s : State) (d : Nat) : State :=
  { s with mem := s.mem.filter fun c => frameDie (c.1 / 65536) != d, lines := s.lines.filter fun l => frameDie (l.1 / 1024) != d }

/-- A core goes on from a freeze without entering a handler (R65, R367), with no checkpoint until its next SEG bundle (R292); a barrier
at which it holds is tested anew (R255). A kill that has come meanwhile stands. -/
def State.thaw (s : State) (c : Nat) : State :=
  let k := s.core c
  let mine : Bool := match k.freeze with | some f => f.cause == 11 && !f.kill | none => false
  if k.run = .frozen ∧ mine then
    ((s.unsave c).modCore c fun k => { (if k.atH then k else k.unlatch).resumed with
      run := .running, freeze := none, stopReq := none, seg := k.seg.unchecked }).pushLoads c
  else if k.run = .stopping ∧ mine then s.modCore c fun k =>
    { k with run := .running, freeze := none, stopReq := none, barHold := barTested k.barHold, seg := k.seg.unchecked }
  else s.modCore c fun k =>
    { k with stopReq := k.stopReq.filter fun r => r.kill || r.cause != 11
             freeze := k.freeze.map fun f => { f with diap := f.diap && f.cause == 11 } }

/-- RESUME goes to every member of worlds, and each is to answer (R371). -/
def State.resumeAll (s : State) (vfs : List Nat) : State :=
  vfs.foldl (fun s vf =>
    let ms := (List.range 64).filter fun m => (s.world vf).members.getLsbD m && m != s.me
    ms.foldl (fun s m => s.sendResume vf m) (s.modWorld vf fun w => { w with unanswered := ms })) s

/-- Whether a core stands at its `diapack`. -/
def Core.atDiapack (c : Core) : Bool := c.run == .running && c.atH && c.holding && c.holdCond == 5 && (c.cr 9).toNat % 256 == 0xB

/-- Whether a restored core has come to its `diapack`: it stands there, or, where RJT has passed or it was saved at H, its handler has
ended. -/
def State.reachedDiapack (s : State) (c : Nat) : Bool :=
  let k := s.core c
  k.task.isNone || k.atDiapack || !k.atH || !(s.world k.vf).rejoin

/-- RESUME after a brown-out: once every core of the shed partitions has come to its `diapack` (R367). -/
def State.resumeShed (s : State) : State :=
  let pids := s.allParts.filter fun p => (s.part p).shed
  if (s.selfState = 2 ∨ pids ≠ []) ∧ s.mon.brown = 0 ∧ s.mon.phase = .up ∧ (s.coresOf pids).all s.reachedDiapack then
    let s := { s with selfState := 0 }
    let s := pids.foldl (fun s p => s.modPart p fun x => { x with shed := false, away := false }) s
    s.takeWaiting.resumeAll s.fabricWorlds
  else s

/-- What follows a brown-out that is over once no shed is under way: the shed dies are powered, and the partitions in storage-class
memory are to eclose (R367). -/
def State.leaveBrownout (s : State) : State :=
  if s.mon.brown ≠ 0 ∨ s.mon.phase ≠ .up ∨ s.mon.full then s
  else
    let s := s.mon.sheds.foldl (fun s d => s.modDie d fun y => { y with gated := false }) s
    let some_ := s.allParts.any s.shelved
    let s := s.modMon fun m => { m with sheds := [], phase := if some_ then .asleep else .up }
    if some_ then s else s.resumeShed

/-- A manifest as it is sealed into slot `k` (R364): its number, version, lengths, digest and signature, the clock of that moment, and
after the last drained line its place. -/
def State.sealed (s : State) (k : Nat) (x : Manifest) : Manifest :=
  let x := { x with
    valid := true, mseq := s.mon.mseq + 1, svn := s.ac 3, trig := s.mon.trig, shedOnly := !s.mon.full, consumed := false
    mm0 := s.mm 0, base := slotBase k, at_ := slotBase k + 65536 * x.frames, nsec := 9, us := s.us, seqNo := s.seqNo
    blen := s.bodyOf x.regions.length x.areas.length x.records.length x.structs.length
    digest := Config.hash (x.body (Config.bodyRest s.tick)) }
  { x with sig := Config.sign s.mon.identity (Config.hash (x.header.take 0xF8)) }

/-- The manifest is sealed (R364). A full diapause ends asleep; a shed die is gated, and stays so while the brown-out lasts. -/
def execManifestSeal (s : State) : Result :=
  if s.mon.phase ≠ .drained then .next s
  else
    let k := s.mon.nextSlot
    let x := s.sealed k (s.mon.pending.getD default)
    let s := s.modMon fun m => { m.setSlot k x with mseq := m.mseq + 1, pending := none, phase := if m.full then .asleep else .up }
    if s.mon.full then .next s
    else
      let s := (x.pids.filter fun p => (s.part p).shed).foldl (fun s p => s.losePart p) s
      .next (s.mon.sheds.foldl (fun s d => (s.modDie d fun y => { y with gated := true }).dropHbm d) s).leaveBrownout

/-! ## Brown-out (R365 to R367) -/

/-- The highest DPRI of the partitions with a bulkhead on a die, above 0; 0 where there is none. -/
def State.topPri (s : State) (d : Nat) : Nat :=
  (s.parts.filter fun p => p.2.exists_ && p.2.bulkheads.any fun b => b / 8 == d).foldl (fun m p => Nat.max m (p.2.dpri + 1)) 0

/-- A die is shed: its partitions go into a diapause of their own. -/
def State.shedDie (s : State) (n d : Nat) : State :=
  let pids := (s.parts.filter fun p => p.2.exists_ && !s.shelved p.1 && p.2.bulkheads.any fun b => b / 8 == d).map (·.1)
  let s := pids.foldl (fun s p => s.modPart p fun x => { x with shed := true, retained := false }) s
  (s.modMon fun m => { m with phase := .freezing, sheds := m.sheds ++ [d], trig := n }).freezeAll n pids

/-- Whether the module runs but for partitions that eclose alone after a brown-out (R367). -/
def Monitor.awake (m : Monitor) : Bool :=
  !m.full && (m.phase == .up || m.phase == .asleep || m.phase == .eclosing || m.phase == .restored)

/-- A brown-out begins: die 1 or 2 is shed, the one whose highest DPRI is lower, die 2 at a tie. Partitions that stood before an
eclosion from storage-class memory stay there. After a diapause trigger it has no effect (R360). -/
def execBrownoutEntry (s : State) : Result :=
  let n := s.seqNo
  let s := s.raise "input" 0
  if !s.mon.awake ∨ s.mon.brown ≠ 0 then .next s
  else .next ((s.modMon fun m => { m with brown := s.us + 1, sheds := [], resume := none }).shedDie n
    (if s.topPri 1 < s.topPri 2 then 1 else 2))

/-- 100 ms after a shed the other die is shed as well. -/
def execBrownoutSecondShed (s : State) : Result :=
  match s.mon.sheds with
  | [d] =>
    if s.mon.brown = 0 ∨ s.mon.phase ≠ .up ∨ s.mon.full ∨ s.us < s.mon.brown - 1 + 100000 then .next s
    else .next (s.shedDie s.mon.trig (3 - d))
  | _ => .next s

/-- A partition goes to retention voltage, or comes back from it. -/
def State.retain (s : State) (pid : Nat) (on : Bool) : State :=
  (s.part pid).bulkheads.foldl (fun s b => s.modBulk b fun x => { x with retention := on })
    (s.modPart pid fun x => { x with retained := on })

/-- Once the first shed is sealed, every other partition is frozen and held in retention, the peers are told, and planes 6 to
15 leave every lit set. -/
def execBrownoutRetention (s : State) : Result :=
  let pids := s.allParts.filter fun p => !s.shelved p
  if s.mon.brown = 0 ∨ s.mon.phase ≠ .up ∨ s.mon.full ∨ s.mon.sheds = [] ∨
    (s.selfState = 2 ∧ pids.all fun p => (s.part p).retained) then .next s
  else
    let s := pids.foldl (fun s p => s.retain p true) s
    let s := s.freezeAll s.mon.trig pids
    let s := { s.sendDiap s.fabricWorlds 2 with selfState := 2 }
    .next ((List.range 10).foldl (fun s p => (List.range 64).foldl (fun s m => s.leaveLane (6 + p) m) s) s)

/-- A brown-out ends: frozen partitions go on, shed dies are powered, and shed partitions eclose (R367), once a shed that is under
way is sealed. -/
def execBrownoutExit (s : State) : Result :=
  let s := s.raise "input" 0
  if s.mon.brown = 0 ∨ s.mon.full then .next s
  else
    let pids := s.allParts.filter fun p => (s.part p).retained
    let s := (s.coresOf pids).foldl State.thaw s
    let s := pids.foldl (fun s p => s.retain p false) s
    .next (s.modMon fun m => { m with brown := 0 }).leaveBrownout

/-! ## Boot (R382) -/

/-- What is left of the module without memory: its number, the monitor, the lists in storage-class memory and the outside. -/
def State.wipe (s : State) : State :=
  { State.reset with
    me := s.me, badFrames := s.badFrames, badSeq := s.badSeq, quarantine := s.quarantine, quarSeq := s.quarSeq
    hostMem := s.hostMem, out := s.out, seqNo := s.seqNo, keysMade := s.keysMade
    us := s.us, tick := s.tick, agenda := s.agenda, mon := s.mon, host := s.host, lanes := s.lanes, lit := s.lit }

/-- Power good: everything but storage-class memory, fuses and the outside starts anew. The arbiter's number at which a diapause powered
off is kept for the eclosion (R264; log 123). -/
def State.powerOn (s : State) : State :=
  let m := s.mon
  { s.wipe with
    us := 0, seqNo := 1, lanes := [], lit := [], host := State.reset.host
    mon := { (default : Monitor) with
      ac := m.ac, mirror := m.mirror, mseq := m.mseq, lastSlot := m.lastSlot, manA := m.manA, manB := m.manB
      svn := m.svn, waits := m.waits, seqOff := if m.phase = .asleep ∧ m.full then s.seqNo else m.seqOff, phase := .boot } }

/-- The bad-frame and quarantine lists as they are handed out (R297, Table 21-3). -/
def State.listBytes (s : State) : List Byte :=
  ((s.badFrames ++ s.badSeq ++ s.quarantine ++ s.quarSeq).map (leBytes 8)).flatten

/-- A step of boot fails. -/
def State.bootStop (s : State) : State := s.modMon fun m => { m with stopped := true }

/-- A step of boot is done. -/
def State.bootNext (s : State) : State := s.modMon fun m => { m with step := m.step + 1 }

/-- The steps of Table 25-3, one for each event; the first comes with power good. -/
def execPowerGoodBoot (x : BootInputs) (s : State) : Result :=
  if s.mon.phase = .off ∨ (s.mon.phase = .asleep ∧ s.mon.full) then
    let s := s.powerOn
    .next (if x.ok then s.bootNext else s.bootStop)
  else if s.mon.phase ≠ .boot ∨ s.mon.stopped then .next s
  else match s.mon.step with
  | 1 =>
    if !x.ok then .next s.bootStop
    else .next ((s.extendMM 0 x.digest).modMon fun m => { m with
      identity := Config.hash (leBytes 32 Config.seed.toNat)
      sealKey := BitVec.ofNat 512 (Config.kmac (leBytes 32 Config.seed.toNat) (leBytes 1 2) 512) }).bootNext
  | 2 =>
    if !x.ok then .next s.bootStop
    else
      let top (i : Nat) : Nat := Nat.max (s.ac i) (Tab.get 0 s.mon.mirror i)
      .next ((List.range 4).foldl (fun s i => s.modMon fun m =>
        { m with ac := Tab.set 0 m.ac i (top i), mirror := Tab.set 0 m.mirror i (top i) }) s).bootNext
  | 3 =>
    if x.ok ∧ s.ac 0 ≤ x.version then
      .next (((s.raiseAC 0 x.version).extendMM 1 x.digest).modMon fun m => { m with fwDigest := x.digest }).deriveKey.bootNext
    else if !s.mon.older then .next (s.modMon fun m => { m with older := true })
    else .next s.bootStop
  | 4 =>
    if x.ok ∧ s.ac 2 ≤ x.version then .next ((s.raiseAC 2 x.version).extendMM 2 x.digest).bootNext else .next s.bootStop
  | 5 =>
    if !x.ok then .next s.bootStop else .next (s.extendMM 3 (Config.hash s.listBytes)).bootNext
  | 6 =>
    if !x.ok then .next s.bootStop else .next (s.modHost fun h => { h with up := true }).bootNext
  | _ => .next s

/-! ## Eclosion (R368 to R371) -/

/-- Whether a manifest can be resumed from; `sig` is what the check of its stored signature gives (log 24). -/
def State.manifestOk (s : State) (x : Manifest) (sig : Bool) : Bool :=
  x.valid && sig && decide (s.ac 3 ≤ x.svn) && !x.consumed && x.mm0 == s.mm 0

/-- The slot with the highest MSEQ that can be resumed from. -/
def State.chooseSlot (s : State) (x : EclosionInputs) : Option Nat :=
  let a := s.manifestOk s.mon.manA x.sigA
  let b := s.manifestOk s.mon.manB x.sigB
  if a && (!b || decide (s.mon.manB.mseq ≤ s.mon.manA.mseq)) then some 1 else if b then some 2 else none

/-- A partition that is not resumed: its worlds and keys are gone, its frames are zeroed, and its supervisor begins anew (R368). -/
def State.forget (s : State) (pid : Nat) : State :=
  let ws := s.worlds.filter fun w => w.2.exists_ && w.2.pid == pid
  let carve := ws.map fun w => (w.2.sbase, w.2.sbase + w.2.slen)
  let inCarve (f : Nat) : Bool := carve.any fun c => decide (c.1 ≤ f) && decide (f < c.2)
  let s := ws.foldl (fun s w => s.endKeys w.1 true) s
  let s := { s with
    worlds := s.worlds.filter fun (w : Nat × World) => !ws.any fun v => v.1 == w.1
    mem := s.mem.filter fun (c : Host.Cell) => !inCarve (c.1 / 65536)
    lines := s.lines.filter fun (l : Nat × LineState) => !inCarve (l.1 / 1024)
    lost := carve.foldl cutRun s.lost }
  s.modPart pid fun p => { p with shed := false, away := false, running := true }

/-- The monitor chooses the manifest to resume from, or the module cold-boots (R368). -/
def execEclosion (x : EclosionInputs) (s : State) : Result :=
  let m := s.mon
  if m.stopped || !(m.phase == .asleep || (m.phase == .boot && m.step == 7)) then .next s
  else
    let part := m.phase == .asleep && !m.full
    match s.chooseSlot x with
    | none =>
      -- the arbiter's numbers start anew at a cold boot without a power cycle, too (R264)
      let s := if part then (s.allParts.filter s.shelved).foldl State.forget s
        else { s.wipe with seqNo := if m.phase = .asleep then 1 else s.seqNo }
      .next ((s.modMon fun m => { m with phase := .up, full := false, resume := none, waits := [] }).resumeShed)
    | some k =>
      let man := m.slot k
      let man := { man with
        pids := man.pids.filter fun p => !x.changed.contains p && (!part || s.shelved p)
        regions := (man.regions.zipIdx).map fun r => { r.1 with rootOk := !x.badRoots.contains r.2 } }
      let s := if part then (s.allParts.filter fun p => s.shelved p && !man.pids.contains p).foldl State.forget s
        else { s.wipe with selfState := 1, seqNo := Nat.max s.seqNo (Nat.max man.seqNo s.mon.seqOff) }
      let s := { (s.extendMM 4 (Config.hash (leBytes 64 man.digest.toNat))).extendMM 3 (Config.hash s.listBytes) with corrected := [] }
      .next (s.modMon fun m => { m with man := man, phase := .eclosing, full := !part, resume := some k, lastSlot := k })

/-- A world as a manifest restores it: an interface that ran is locked (R370), and members without a lit lane are
unreachable. -/
def State.revive (s : State) (w : World) : World :=
  { w with
    ifs := if w.ifs = .run then .locked else w.ifs
    peers := (List.range 64).foldl (fun t m =>
      let p := Tab.get (0, 0, 0) w.peers m
      let st := if !w.members.getLsbD m then 3 else if m = s.me then 0 else if (s.litTo m).isEmpty then 3 else p.2.2
      Tab.set (0, 0, 0) t m (st, p.2.1, p.2.2)) [] }

/-- A world with the keys that a manifest holds for it. -/
def Manifest.keyed (x : Manifest) (sealing : BitVec 512) (w : Nat × World) : World :=
  { w.2 with dataKey := x.unwrap sealing (dataPlace w.1), codeKey := x.unwrap sealing (codePlace w.1) }

/-- Migration-table entries of worlds that eclose: a round that ran starts again and keeps its LEARN bits, and the `gap` that was spent
in storage-class memory does not count (R369). -/
def restartRounds (now gap : Nat) (mine : MigEntry → Bool) (mig : Tab MigEntry) : Tab MigEntry :=
  mig.map fun y => if !mine y.2 then y
    else (y.1, { y.2 with
      last := y.2.last + gap
      asked := if y.2.rnd = 1 then [] else y.2.asked
      began := if y.2.rnd = 1 then now else y.2.began })

/-- Memory is restored and the sections are installed again (R369). -/
def execMemoryRestore (s : State) : Result :=
  match s.mon.resume with
  | none => .next s
  | some _ =>
    if s.mon.phase ≠ .eclosing then .next s
    else
      let x := s.mon.man
      let ws := x.worlds.filter fun w => x.pids.contains w.2.pid
      let mine (vf : Nat) : Bool := ws.any fun w => w.1 == vf
      let sb (vf : Nat) : Nat := (Tab.get default x.worlds vf).sbase
      let carve := ws.map fun w => (w.2.sbase, w.2.sbase + w.2.slen)
      let inCarve (f : Nat) : Bool := carve.any fun c => decide (c.1 ≤ f) && decide (f < c.2)
      let good := (x.regions.filter fun r => r.rootOk && mine r.vf).map fun r => (sb r.vf + r.first, sb r.vf + r.first + r.cut)
      let kept := good ++ (x.structs.filter inCarve).map fun f => (f, f + 1)
      let back (f : Nat) : Bool := kept.any fun c => decide (c.1 ≤ f) && decide (f < c.2)
      let s := { s with
        mem := (x.bytes.filter fun (c : Host.Cell) => back (c.1 / 65536)).foldl (fun (m : Memory) (c : Host.Cell) => m.setByte c.1 c.2)
          (s.mem.filter fun c => !inCarve (c.1 / 65536))
        lines := (x.states.filter fun (l : Nat × LineState) => back (l.1 / 1024)).foldl (fun (t : Tab LineState) (l : Nat × LineState) => Tab.set ⟨none, 0⟩ t l.1 l.2)
          (s.lines.filter fun l => !inCarve (l.1 / 1024))
        lost := s.lost ++ carve, kept := carve.foldl cutRun s.kept ++ kept }
      let s := (x.parts.filter fun p => x.pids.contains p.1).foldl (fun s p =>
        let s := p.2.bulkheads.foldl (fun s b => s.modBulk b fun y => { y with pid := some p.1, inReset := false, gateShut := false, absent := false }) s
        s.modPart p.1 fun _ => { p.2 with running := true, shed := p.2.shed && !s.mon.full, away := p.2.shed && !s.mon.full, retained := false }) s
      let s := { s with worlds := ws.foldl (fun (t : Tab World) (w : Nat × World) => Tab.set default t w.1 (s.revive (x.keyed s.mon.sealKey w))) s.worlds }
      let s := { s with
        reams := s.reams ++ x.reams.filter fun (r : Ream) => x.pids.contains r.pid
        nextRid := x.reams.foldl (fun (n : Nat) (r : Ream) => Nat.max n r.rid) s.nextRid
        bars := s.bars ++ x.barriers.filter fun (b : Barrier) => x.pids.contains b.pid
        watches := s.watches ++ x.watches.filter fun (w : Watch) => mine w.word.1
        saves := s.saves ++ x.saves.filter fun (y : Save) => mine y.vf
        queues := (x.queues.filter fun (q : Nat × Queue) => mine q.2.vf).foldl (fun (t : Tab Queue) (q : Nat × Queue) => Tab.set default t q.1 q.2) s.queues }
      let s := (x.readies.filter fun r => mine r.2.vf).foldl (fun s r => s.modDie r.1 fun d => { d with ready := d.ready ++ [r.2] }) s
      let s := if s.mon.full then
          let gone := x.keys.filter fun (y : Nat × KeySlot) => y.2.live && !mine y.2.vf
          let keys := x.keys.map fun (y : Nat × KeySlot) =>
            (y.1, { y.2 with key := if y.2.live then (x.unwrap s.mon.sealKey y.1).setWidth 256 else 0 })
          { gone.foldl (fun (s : State) (y : Nat × KeySlot) => s.destroyKey y.1) { s with keys := keys, keyOrder := x.keyOrder } with
            moves := x.moves.filter fun (m : Move) => mine m.vf
            arrivals := x.arrivals.filter fun (a : Arrival) => mine a.vf
            mig := restartRounds x.us 0 (fun _ => true) x.mig
            windows := x.windows.filter fun (w : Window) => mine w.gvf && mine w.rvf
            us := x.us }
        else { s with
          moves := s.moves ++ x.moves.filter fun (m : Move) => mine m.vf
          arrivals := s.arrivals ++ x.arrivals.filter fun (a : Arrival) => mine a.vf
          mig := restartRounds s.us (s.us - x.us) (fun e => ws.any fun w => w.2.fwid == e.fwid) s.mig }
      let s := (x.records.filter fun r => mine r.1).foldl (fun s r => s.writeRec r.1 r.2.1 r.2.2) s
      -- a drained frame that is listed goes to a spare, or is dropped (R369, R297)
      let listed := (x.regions.filter fun r => mine r.vf).flatMap fun r =>
        (s.badFrames.filter fun f => decide (sb r.vf + r.first ≤ f) && decide (f < sb r.vf + r.first + r.cut)).map fun f => (r.vf, f)
      let s := listed.eraseDups.foldl (fun s y =>
        let w := s.world y.1
        match (s.part w.pid).spare.find? fun g => decide (w.sbase ≤ g) && decide (g < w.sbase + w.slen) with
        | none => s
        | some g => State.replaceFrame (s.modPart w.pid fun p => { p with spare := p.spare.erase g }) y.1 (y.2 - w.sbase) (g - w.sbase)) s
      .next (s.modMon fun m => { m with phase := .restored })

/-- A core as it enters its handler after eclosion (R203): the tables stand as they were latched. A restored core holds no checkpoint
and no retry record (R292). One that was to be quarantined stays frozen until its task has gone elsewhere (R294). -/
def Core.eclosed (c : Core) (mseq : Nat) : Core :=
  if c.freeze.any (·.retire) then { c with stopReq := none, freeze := c.freeze.map fun f => { f with diap := false } }
  else
  let c := { c.resumed with
    run := .running, freeze := none, stopReq := none, early := false
    seg := c.seg.unchecked }
  if c.atH then c
  else
    let t := c.pc
    { (((c.setCr 9 0xB).setCr 0xB (BitVec.ofNat 64 (mseq % 2 ^ 32))).setCr 0xA (BitVec.ofNat 64 t)).setPL true with
      pc := (c.cr 7).toNat % 8192, holding := false, hpend := [], hloads := [], hCount := 0 }

/-- Scratchpad slots whose key is gone come back EMPTY and sealed (R260). -/
def State.reseal (s : State) (c : Nat) : State :=
  (List.range 64).foldl (fun s n =>
    let e := (s.core c).slot n
    if e.state = .ready && !s.handleLive (s.core c).vf e.handle then s.modCore c fun k => k.emptySlot n true else s) s

/-- Cores are restored once the reserve covers another drain (R370): CONSUMED is written first; each core enters its handler
with DIAP, or goes on in it; the worlds rejoin, and RESUME is sent. -/
def execCoreRestore (reserve : Nat) (s : State) : Result :=
  match s.mon.resume with
  | none => .next s
  | some k =>
    let x := s.mon.man
    let cs := x.cores.filter fun c => match (s.bulk (bulkOf c.1)).pid with
      | some p => x.pids.contains p
      | none => false
    if s.mon.phase ≠ .restored ∨ drainFrames (usable reserve) x.blen < x.frames then .next s
    else
      let full := s.mon.full
      let s := s.modMon fun m => { m.setSlot k { m.slot k with consumed := true } with phase := .up, full := false, resume := none }
      let listed := s.quarantine
      let s := (cs.filter fun c => !listed.contains c.1).foldl (fun s c =>
        ((s.setCore c.1 (c.2.eclosed x.mseq)).reseal c.1).pushLoads c.1) s
      -- a listed core is given no task (R297): the task is lost, and its ream is aborted (log 109)
      let s := (cs.filter fun c => listed.contains c.1).foldl (fun s c => match c.2.task with
        | some t => s.abortReam t.rid
        | none => s) s
      let vfs := (s.worlds.filter fun w => w.2.exists_ && x.pids.contains w.2.pid).map (·.1)
      let s := vfs.foldl (fun s vf => s.modWorld vf fun w => { w with rejoin := true, rejoinAt := s.us }) s
      .next (if full then State.resumeAll (State.takeWaiting { s with selfState := 0 }) (s.fabricWorlds.filter vfs.contains)
        else s.resumeShed)

/-- A world's rejoin is complete when every member stands at STATE 0, this module too, which has sent RESUME, and every member has
answered (R371). -/
def execRejoinComplete (vf : Nat) (s : State) : Result :=
  let s := s.resumeShed
  let w := s.world vf
  if w.rejoin ∧ !(s.part w.pid).shed ∧
    (!w.fabric || w.unanswered.isEmpty && (List.range 64).all fun m => !w.members.getLsbD m || m == s.me || (Tab.get (0, 0, 0) w.peers m).1 == 0)
  then .next (s.modWorld vf fun w => { w with rejoin := false }) else .next s

/-- RJT has passed since the restore: `diapack` goes on without the members that cannot be reached (R371). -/
def execRjtExpiry (pid : Nat) (s : State) : Result :=
  let s := s.resumeShed
  .next (((s.worlds.filter fun w => w.2.exists_ && w.2.pid == pid).map (·.1)).foldl (fun s vf =>
    let w := s.world vf
    if w.rejoin ∧ w.rejoinAt + (s.part pid).rjt ≤ s.us then s.modWorld vf fun w => { w with rejoin := false } else s) s)

end Sys2Proof.Machine
end

