-- ==== Sys2Proof/Machine/Dispatch.lean ====
section
/-! DEFINITION. The dispatch of an instruction to its meaning: one arm for each row of spec/opcode_table.json. -/

namespace Sys2Proof.Machine

/-- The effect of one instruction on the machine. -/
def exec (i : Instr) (s : State) : Host.Outcome State Fault Refusal :=
  match i with
  | .nop => Sys2Proof.Machine.execNop s
  | .treeBranch x => Sys2Proof.Machine.execTreeBranch x s
  | .add x => Sys2Proof.Machine.execAdd x s
  | .sub x => Sys2Proof.Machine.execSub x s
  | .mul x => Sys2Proof.Machine.execMul x s
  | .mulh x => Sys2Proof.Machine.execMulh x s
  | .mulhn x => Sys2Proof.Machine.execMulhn x s
  | .div x => Sys2Proof.Machine.execDiv x s
  | .divn x => Sys2Proof.Machine.execDivn x s
  | .rem x => Sys2Proof.Machine.execRem x s
  | .remn x => Sys2Proof.Machine.execRemn x s
  | .and x => Sys2Proof.Machine.execAnd x s
  | .or x => Sys2Proof.Machine.execOr x s
  | .xor x => Sys2Proof.Machine.execXor x s
  | .shl x => Sys2Proof.Machine.execShl x s
  | .shr x => Sys2Proof.Machine.execShr x s
  | .sra x => Sys2Proof.Machine.execSra x s
  | .addi x => Sys2Proof.Machine.execAddi x s
  | .andi x => Sys2Proof.Machine.execAndi x s
  | .ori x => Sys2Proof.Machine.execOri x s
  | .xori x => Sys2Proof.Machine.execXori x s
  | .shli x => Sys2Proof.Machine.execShli x s
  | .shri x => Sys2Proof.Machine.execShri x s
  | .srai x => Sys2Proof.Machine.execSrai x s
  | .muli x => Sys2Proof.Machine.execMuli x s
  | .lui x => Sys2Proof.Machine.execLui x s
  | .lpc x => Sys2Proof.Machine.execLpc x s
  | .movl x => Sys2Proof.Machine.execMovl x s
  | .addl x => Sys2Proof.Machine.execAddl x s
  | .andl x => Sys2Proof.Machine.execAndl x s
  | .lea x => Sys2Proof.Machine.execLea x s
  | .madd x => Sys2Proof.Machine.execMadd x s
  | .min x => Sys2Proof.Machine.execMin x s
  | .minn x => Sys2Proof.Machine.execMinn x s
  | .max x => Sys2Proof.Machine.execMax x s
  | .maxn x => Sys2Proof.Machine.execMaxn x s
  | .abs x => Sys2Proof.Machine.execAbs x s
  | .sel x => Sys2Proof.Machine.execSel x s
  | .bext x => Sys2Proof.Machine.execBext x s
  | .bextn x => Sys2Proof.Machine.execBextn x s
  | .bins x => Sys2Proof.Machine.execBins x s
  | .clz x => Sys2Proof.Machine.execClz x s
  | .ctz x => Sys2Proof.Machine.execCtz x s
  | .popc x => Sys2Proof.Machine.execPopc x s
  | .bswap x => Sys2Proof.Machine.execBswap x s
  | .brev x => Sys2Proof.Machine.execBrev x s
  | .ceq x => Sys2Proof.Machine.execCeq x s
  | .cne x => Sys2Proof.Machine.execCne x s
  | .clt x => Sys2Proof.Machine.execClt x s
  | .cltn x => Sys2Proof.Machine.execCltn x s
  | .cle x => Sys2Proof.Machine.execCle x s
  | .clen x => Sys2Proof.Machine.execClen x s
  | .ctst x => Sys2Proof.Machine.execCtst x s
  | .ceqi x => Sys2Proof.Machine.execCeqi x s
  | .cnei x => Sys2Proof.Machine.execCnei x s
  | .clti x => Sys2Proof.Machine.execClti x s
  | .cltni x => Sys2Proof.Machine.execCltni x s
  | .clei x => Sys2Proof.Machine.execClei x s
  | .cleni x => Sys2Proof.Machine.execCleni x s
  | .pand x => Sys2Proof.Machine.execPand x s
  | .por x => Sys2Proof.Machine.execPor x s
  | .pxor x => Sys2Proof.Machine.execPxor x s
  | .pnot x => Sys2Proof.Machine.execPnot x s
  | .pmov x => Sys2Proof.Machine.execPmov x s
  | .movp x => Sys2Proof.Machine.execMovp x s
  | .pmovs x => Sys2Proof.Machine.execPmovs x s
  | .movk x => Sys2Proof.Machine.execMovk x s
  | .kmov x => Sys2Proof.Machine.execKmov x s
  | .jmp x => Sys2Proof.Machine.execJmp x s
  | .call x => Sys2Proof.Machine.execCall x s
  | .jr x => Sys2Proof.Machine.execJr x s
  | .jalr x => Sys2Proof.Machine.execJalr x s
  | .crr x => Sys2Proof.Machine.execCrr x s
  | .crw x => Sys2Proof.Machine.execCrw x s
  | .snrd x => Sys2Proof.Machine.execSnrd x s
  | .snwr x => Sys2Proof.Machine.execSnwr x s
  | .eret => Sys2Proof.Machine.execEret s
  | .halt => Sys2Proof.Machine.execHalt s
  | .seqopen x => Sys2Proof.Machine.execSeqopen x s
  | .seqend x => Sys2Proof.Machine.execSeqend x s
  | .seqbind x => Sys2Proof.Machine.execSeqbind x s
  | .tinv x => Sys2Proof.Machine.execTinv x s
  | .ifence => Sys2Proof.Machine.execIfence s
  | .katc x => Sys2Proof.Machine.execKatc x s
  | .diapack => Sys2Proof.Machine.execDiapack s
  | .vadd x => Sys2Proof.Machine.execVadd x s
  | .vsub x => Sys2Proof.Machine.execVsub x s
  | .vmul x => Sys2Proof.Machine.execVmul x s
  | .vfma x => Sys2Proof.Machine.execVfma x s
  | .vfms x => Sys2Proof.Machine.execVfms x s
  | .vfnma x => Sys2Proof.Machine.execVfnma x s
  | .vmin x => Sys2Proof.Machine.execVmin x s
  | .vmax x => Sys2Proof.Machine.execVmax x s
  | .vabs x => Sys2Proof.Machine.execVabs x s
  | .vneg x => Sys2Proof.Machine.execVneg x s
  | .vand x => Sys2Proof.Machine.execVand x s
  | .vor x => Sys2Proof.Machine.execVor x s
  | .vxor x => Sys2Proof.Machine.execVxor x s
  | .vshl x => Sys2Proof.Machine.execVshl x s
  | .vshr x => Sys2Proof.Machine.execVshr x s
  | .vqadd x => Sys2Proof.Machine.execVqadd x s
  | .vqsub x => Sys2Proof.Machine.execVqsub x s
  | .vmulh x => Sys2Proof.Machine.execVmulh x s
  | .vavg x => Sys2Proof.Machine.execVavg x s
  | .vclz x => Sys2Proof.Machine.execVclz x s
  | .vpopc x => Sys2Proof.Machine.execVpopc x s
  | .vaddsc x => Sys2Proof.Machine.execVaddsc x s
  | .vsubsc x => Sys2Proof.Machine.execVsubsc x s
  | .vmulsc x => Sys2Proof.Machine.execVmulsc x s
  | .vminsc x => Sys2Proof.Machine.execVminsc x s
  | .vmaxsc x => Sys2Proof.Machine.execVmaxsc x s
  | .vbcast x => Sys2Proof.Machine.execVbcast x s
  | .vceq x => Sys2Proof.Machine.execVceq x s
  | .vcne x => Sys2Proof.Machine.execVcne x s
  | .vclt x => Sys2Proof.Machine.execVclt x s
  | .vcle x => Sys2Proof.Machine.execVcle x s
  | .vcgt x => Sys2Proof.Machine.execVcgt x s
  | .vcge x => Sys2Proof.Machine.execVcge x s
  | .vsel x => Sys2Proof.Machine.execVsel x s
  | .kand x => Sys2Proof.Machine.execKand x s
  | .kor x => Sys2Proof.Machine.execKor x s
  | .kxor x => Sys2Proof.Machine.execKxor x s
  | .knot x => Sys2Proof.Machine.execKnot x s
  | .vperm x => Sys2Proof.Machine.execVperm x s
  | .vrot x => Sys2Proof.Machine.execVrot x s
  | .vzip x => Sys2Proof.Machine.execVzip x s
  | .vunzip x => Sys2Proof.Machine.execVunzip x s
  | .vslide x => Sys2Proof.Machine.execVslide x s
  | .vbrd x => Sys2Proof.Machine.execVbrd x s
  | .vcomp x => Sys2Proof.Machine.execVcomp x s
  | .vmov x => Sys2Proof.Machine.execVmov x s
  | .vmovs x => Sys2Proof.Machine.execVmovs x s
  | .vins x => Sys2Proof.Machine.execVins x s
  | .vrsum x => Sys2Proof.Machine.execVrsum x s
  | .vrmin x => Sys2Proof.Machine.execVrmin x s
  | .vrmax x => Sys2Proof.Machine.execVrmax x s
  | .vcvt x => Sys2Proof.Machine.execVcvt x s
  | .vbfpe x => Sys2Proof.Machine.execVbfpe x s
  | .vbfpd x => Sys2Proof.Machine.execVbfpd x s
  | .vrcp x => Sys2Proof.Machine.execVrcp x s
  | .vrsqrt x => Sys2Proof.Machine.execVrsqrt x s
  | .vexp2 x => Sys2Proof.Machine.execVexp2 x s
  | .vlog2 x => Sys2Proof.Machine.execVlog2 x s
  | .vrng x => Sys2Proof.Machine.execVrng x s
  | .mpw x => Sys2Proof.Machine.execMpw x s
  | .mpr x => Sys2Proof.Machine.execMpr x s
  | .mclr x => Sys2Proof.Machine.execMclr x s
  | .mrow x => Sys2Proof.Machine.execMrow x s
  | .mwm x => Sys2Proof.Machine.execMwm x s
  | .mflg x => Sys2Proof.Machine.execMflg x s
  | .mgix x => Sys2Proof.Machine.execMgix x s
  | .mwait x => Sys2Proof.Machine.execMwait x s
  | .mstop x => Sys2Proof.Machine.execMstop x s
  | .mcallBmm x => Sys2Proof.Machine.execMcallBmm x s
  | .mcallBmmz x => Sys2Proof.Machine.execMcallBmmz x s
  | .mcallBmmg x => Sys2Proof.Machine.execMcallBmmg x s
  | .mcallBmmgz x => Sys2Proof.Machine.execMcallBmmgz x s
  | .mcallHmm x => Sys2Proof.Machine.execMcallHmm x s
  | .mcallHmmz x => Sys2Proof.Machine.execMcallHmmz x s
  | .mcallFmm x => Sys2Proof.Machine.execMcallFmm x s
  | .mcallFmmz x => Sys2Proof.Machine.execMcallFmmz x s
  | .mcallImm x => Sys2Proof.Machine.execMcallImm x s
  | .mcallImmz x => Sys2Proof.Machine.execMcallImmz x s
  | .mcallGrouped x => Sys2Proof.Machine.execMcallGrouped x s
  | .mcallGroupedh x => Sys2Proof.Machine.execMcallGroupedh x s
  | .mcallEbias x => Sys2Proof.Machine.execMcallEbias x s
  | .mcallEscale x => Sys2Proof.Machine.execMcallEscale x s
  | .mcallErelu x => Sys2Proof.Machine.execMcallErelu x s
  | .mcallEadd x => Sys2Proof.Machine.execMcallEadd x s
  | .mcallEload x => Sys2Proof.Machine.execMcallEload x s
  | .mcallEcvt x => Sys2Proof.Machine.execMcallEcvt x s
  | .mcallEbfp x => Sys2Proof.Machine.execMcallEbfp x s
  | .mcallErowmax x => Sys2Proof.Machine.execMcallErowmax x s
  | .ld x => Sys2Proof.Machine.execLd x s
  | .ldv x => Sys2Proof.Machine.execLdv x s
  | .ldt x => Sys2Proof.Machine.execLdt x s
  | .ldts x => Sys2Proof.Machine.execLdts x s
  | .ldq x => Sys2Proof.Machine.execLdq x s
  | .ldqs x => Sys2Proof.Machine.execLdqs x s
  | .gath x => Sys2Proof.Machine.execGath x s
  | .qalign => Sys2Proof.Machine.execQalign s
  | .st x => Sys2Proof.Machine.execSt x s
  | .stv x => Sys2Proof.Machine.execStv x s
  | .stt x => Sys2Proof.Machine.execStt x s
  | .stts x => Sys2Proof.Machine.execStts x s
  | .stq x => Sys2Proof.Machine.execStq x s
  | .stqs x => Sys2Proof.Machine.execStqs x s
  | .scat x => Sys2Proof.Machine.execScat x s
  | .aadd x => Sys2Proof.Machine.execAadd x s
  | .amin x => Sys2Proof.Machine.execAmin x s
  | .aminn x => Sys2Proof.Machine.execAminn x s
  | .amax x => Sys2Proof.Machine.execAmax x s
  | .amaxn x => Sys2Proof.Machine.execAmaxn x s
  | .aand x => Sys2Proof.Machine.execAand x s
  | .aor x => Sys2Proof.Machine.execAor x s
  | .axor x => Sys2Proof.Machine.execAxor x s
  | .axch x => Sys2Proof.Machine.execAxch x s
  | .acas x => Sys2Proof.Machine.execAcas x s
  | .abinc x => Sys2Proof.Machine.execAbinc x s
  | .rld x => Sys2Proof.Machine.execRld x s
  | .rldv x => Sys2Proof.Machine.execRldv x s
  | .rst x => Sys2Proof.Machine.execRst x s
  | .rstv x => Sys2Proof.Machine.execRstv x s
  | .raadd x => Sys2Proof.Machine.execRaadd x s
  | .ramin x => Sys2Proof.Machine.execRamin x s
  | .raminn x => Sys2Proof.Machine.execRaminn x s
  | .ramax x => Sys2Proof.Machine.execRamax x s
  | .ramaxn x => Sys2Proof.Machine.execRamaxn x s
  | .raand x => Sys2Proof.Machine.execRaand x s
  | .raor x => Sys2Proof.Machine.execRaor x s
  | .raxor x => Sys2Proof.Machine.execRaxor x s
  | .raxch x => Sys2Proof.Machine.execRaxch x s
  | .racas x => Sys2Proof.Machine.execRacas x s
  | .rabinc x => Sys2Proof.Machine.execRabinc x s
  | .tcopy x => Sys2Proof.Machine.execTcopy x s
  | .xcopy x => Sys2Proof.Machine.execXcopy x s
  | .ccopy x => Sys2Proof.Machine.execCcopy x s
  | .rcp x => Sys2Proof.Machine.execRcp x s
  | .rcpo x => Sys2Proof.Machine.execRcpo x s
  | .tfill x => Sys2Proof.Machine.execTfill x s
  | .tdrain x => Sys2Proof.Machine.execTdrain x s
  | .tfree x => Sys2Proof.Machine.execTfree x s
  | .tstat x => Sys2Proof.Machine.execTstat x s
  | .chq x => Sys2Proof.Machine.execChq x s
  | .chset x => Sys2Proof.Machine.execChset x s
  | .cpfence x => Sys2Proof.Machine.execCpfence x s
  | .migrate x => Sys2Proof.Machine.execMigrate x s
  | .ssig x => Sys2Proof.Machine.execSsig x s
  | .swait x => Sys2Proof.Machine.execSwait x s
  | .sset x => Sys2Proof.Machine.execSset x s
  | .srd x => Sys2Proof.Machine.execSrd x s
  | .spoi x => Sys2Proof.Machine.execSpoi x s
  | .sunp x => Sys2Proof.Machine.execSunp x s
  | .bar x => Sys2Proof.Machine.execBar x s
  | .bcx x => Sys2Proof.Machine.execBcx x s
  | .bcl x => Sys2Proof.Machine.execBcl x s
  | .fenceFull x => Sys2Proof.Machine.execFenceFull x s
  | .fenceAcq x => Sys2Proof.Machine.execFenceAcq x s
  | .fenceRel x => Sys2Proof.Machine.execFenceRel x s
  | .waitc x => Sys2Proof.Machine.execWaitc x s
  | .suspend x => Sys2Proof.Machine.execSuspend x s
  | .yield => Sys2Proof.Machine.execYield s
  | .launch x => Sys2Proof.Machine.execLaunch x s
  | .trap x => Sys2Proof.Machine.execTrap x s
  | .resultLanding core => Sys2Proof.Machine.execResultLanding core s
  | .loadOutcome core => Sys2Proof.Machine.execLoadOutcome core s
  | .budgetExhausted core => Sys2Proof.Machine.execBudgetExhausted core s
  | .segmentCommit core => Sys2Proof.Machine.execSegmentCommit core s
  | .rendezvousCommit quad => Sys2Proof.Machine.execRendezvousCommit quad s
  | .atomicPerform core => Sys2Proof.Machine.execAtomicPerform core s
  | .copyLine core ch => Sys2Proof.Machine.execCopyLine core ch s
  | .ccopyRecord core ch => Sys2Proof.Machine.execCcopyRecord core ch s
  | .slotZeroed core slot => Sys2Proof.Machine.execSlotZeroed core slot s
  | .routineStep core => Sys2Proof.Machine.execRoutineStep core s
  | .streamAddressPlace core q => Sys2Proof.Machine.execStreamAddressPlace core q s
  | .streamFetchSend core q => Sys2Proof.Machine.execStreamFetchSend core q s
  | .streamFetchLand core q => Sys2Proof.Machine.execStreamFetchLand core q s
  | .streamOutputWrite core q => Sys2Proof.Machine.execStreamOutputWrite core q s
  | .instructionRefetch core => Sys2Proof.Machine.execInstructionRefetch core s
  | .walkStart die => Sys2Proof.Machine.execWalkStart die s
  | .translationWalk die => Sys2Proof.Machine.execTranslationWalk die s
  | .shootdownComplete idx => Sys2Proof.Machine.execShootdownComplete idx s
  | .watchedWordReread phys => Sys2Proof.Machine.execWatchedWordReread phys s
  | .unitChoice core => Sys2Proof.Machine.execUnitChoice core s
  | .taskStart core => Sys2Proof.Machine.execTaskStart core s
  | .priorityAging t => Sys2Proof.Machine.execPriorityAging t s
  | .queueDispatch queue => Sys2Proof.Machine.execQueueDispatch queue s
  | .queueEntryComplete rid => Sys2Proof.Machine.execQueueEntryComplete rid s
  | .reamAbort rid => Sys2Proof.Machine.execReamAbort rid s
  | .barrierComplete idx => Sys2Proof.Machine.execBarrierComplete idx s
  | .worldDrain core => Sys2Proof.Machine.execWorldDrain core s
  | .rewind core => Sys2Proof.Machine.execRewind core s
  | .freezeLatch core => Sys2Proof.Machine.execFreezeLatch core s
  | .handlerQuietTimeout core => Sys2Proof.Machine.execHandlerQuietTimeout core s
  | .preempt core => Sys2Proof.Machine.execPreempt core s
  | .supervisorKill core => Sys2Proof.Machine.execSupervisorKill core s
  | .budgetRefill core budget => Sys2Proof.Machine.execBudgetRefill core budget s
  | .snapshotRestore core addr => Sys2Proof.Machine.execSnapshotRestore core addr s
  | .saveAreaWrite core addr => Sys2Proof.Machine.execSaveAreaWrite core addr s
  | .continuationRecordWrite core addr => Sys2Proof.Machine.execContinuationRecordWrite core addr s
  | .schedulingSettingWrite pid x value => Sys2Proof.Machine.execSchedulingSettingWrite pid x value s
  | .quadCouplingChange quad => Sys2Proof.Machine.execQuadCouplingChange quad s
  | .degradeSet core planes => Sys2Proof.Machine.execDegradeSet core planes s
  | .secondStageWrite vf record => Sys2Proof.Machine.execSecondStageWrite vf record s
  | .priorityListSet x => Sys2Proof.Machine.execPriorityListSet x s
  | .queueMap queue x => Sys2Proof.Machine.execQueueMap queue x s
  | .controlInterfaceWrite core creg value => Sys2Proof.Machine.execControlInterfaceWrite core creg value s
  | .sealPoint handle => Sys2Proof.Machine.execSealPoint handle s
  | .keyInstall x => Sys2Proof.Machine.execKeyInstall x s
  | .frameRetirement frame => Sys2Proof.Machine.execFrameRetirement frame s
  | .patrolScrub frame => Sys2Proof.Machine.execPatrolScrub frame s
  | .bulkheadFault bulkhead => Sys2Proof.Machine.execBulkheadFault bulkhead s
  | .bulkheadReset bulkhead => Sys2Proof.Machine.execBulkheadReset bulkhead s
  | .bulkheadResetRelease bulkhead => Sys2Proof.Machine.execBulkheadResetRelease bulkhead s
  | .partitionCreate x => Sys2Proof.Machine.execPartitionCreate x s
  | .partitionDelete pid => Sys2Proof.Machine.execPartitionDelete pid s
  | .windowRequest pid record => Sys2Proof.Machine.execWindowRequest pid record s
  | .windowRequestTimeout idx => Sys2Proof.Machine.execWindowRequestTimeout idx s
  | .windowRevoke idx => Sys2Proof.Machine.execWindowRevoke idx s
  | .firmwareUpdate x => Sys2Proof.Machine.execFirmwareUpdate x s
  | .imageLoad vf x => Sys2Proof.Machine.execImageLoad vf x s
  | .fabricWorldInstall x => Sys2Proof.Machine.execFabricWorldInstall x s
  | .laneTraining plane peer ok => Sys2Proof.Machine.execLaneTraining plane peer ok s
  | .laneRekey plane peer => Sys2Proof.Machine.execLaneRekey plane peer s
  | .linkAck plane peer count => Sys2Proof.Machine.execLinkAck plane peer count s
  | .replayRequest plane peer count => Sys2Proof.Machine.execReplayRequest plane peer count s
  | .creditReturn plane peer vl flits => Sys2Proof.Machine.execCreditReturn plane peer vl flits s
  | .laneDark plane peer => Sys2Proof.Machine.execLaneDark plane peer s
  | .litSetChange peer => Sys2Proof.Machine.execLitSetChange peer s
  | .rd8 x => Sys2Proof.Machine.execRd8 x s
  | .rd256 x => Sys2Proof.Machine.execRd256 x s
  | .wr8 x => Sys2Proof.Machine.execWr8 x s
  | .wr256 x => Sys2Proof.Machine.execWr256 x s
  | .atom x => Sys2Proof.Machine.execAtom x s
  | .trd x => Sys2Proof.Machine.execTrd x s
  | .twr x => Sys2Proof.Machine.execTwr x s
  | .relay x => Sys2Proof.Machine.execRelay x s
  | .cpw x => Sys2Proof.Machine.execCpw x s
  | .rcpPacket x => Sys2Proof.Machine.execRcpPacket x s
  | .rcpoPacket x => Sys2Proof.Machine.execRcpoPacket x s
  | .migAlloc x => Sys2Proof.Machine.execMigAlloc x s
  | .migLine x => Sys2Proof.Machine.execMigLine x s
  | .migCommit x => Sys2Proof.Machine.execMigCommit x s
  | .migQuery x => Sys2Proof.Machine.execMigQuery x s
  | .migRelease x => Sys2Proof.Machine.execMigRelease x s
  | .barPacket x => Sys2Proof.Machine.execBarPacket x s
  | .bpoi x => Sys2Proof.Machine.execBpoi x s
  | .diapPacket x => Sys2Proof.Machine.execDiapPacket x s
  | .resumePacket x => Sys2Proof.Machine.execResumePacket x s
  | .mon x => Sys2Proof.Machine.execMon x s
  | .data x => Sys2Proof.Machine.execData x s
  | .ack x => Sys2Proof.Machine.execAck x s
  | .nack x => Sys2Proof.Machine.execNack x s
  | .redirect x => Sys2Proof.Machine.execRedirect x s
  | .ownerCacheRelease die idx => Sys2Proof.Machine.execOwnerCacheRelease die idx s
  | .tagTimeout die tag => Sys2Proof.Machine.execTagTimeout die tag s
  | .tagQuarantineExpiry die tag => Sys2Proof.Machine.execTagQuarantineExpiry die tag s
  | .busyResend die tag => Sys2Proof.Machine.execBusyResend die tag s
  | .rcpoGroupAbandon die idx => Sys2Proof.Machine.execRcpoGroupAbandon die idx s
  | .stubRoundStart idx => Sys2Proof.Machine.execStubRoundStart idx s
  | .stubRoundTimeout idx => Sys2Proof.Machine.execStubRoundTimeout idx s
  | .arbiterEvent x => Sys2Proof.Machine.execArbiterEvent x s
  | .powerFailWarning reserve => Sys2Proof.Machine.execPowerFailWarning reserve s
  | .inputUndervoltage reserve => Sys2Proof.Machine.execInputUndervoltage reserve s
  | .diapauseDrain => Sys2Proof.Machine.execDiapauseDrain s
  | .manifestSeal => Sys2Proof.Machine.execManifestSeal s
  | .brownoutEntry => Sys2Proof.Machine.execBrownoutEntry s
  | .brownoutSecondShed => Sys2Proof.Machine.execBrownoutSecondShed s
  | .brownoutRetention => Sys2Proof.Machine.execBrownoutRetention s
  | .brownoutExit => Sys2Proof.Machine.execBrownoutExit s
  | .powerGoodBoot x => Sys2Proof.Machine.execPowerGoodBoot x s
  | .eclosion x => Sys2Proof.Machine.execEclosion x s
  | .memoryRestore => Sys2Proof.Machine.execMemoryRestore s
  | .coreRestore reserve => Sys2Proof.Machine.execCoreRestore reserve s
  | .rejoinComplete vf => Sys2Proof.Machine.execRejoinComplete vf s
  | .rjtExpiry pid => Sys2Proof.Machine.execRjtExpiry pid s
  | .sensorSample die sensor reading => Sys2Proof.Machine.execSensorSample die sensor reading s
  | .railOvercurrent bulkhead => Sys2Proof.Machine.execRailOvercurrent bulkhead s
  | .emgClear bulkhead => Sys2Proof.Machine.execEmgClear bulkhead s
  | .overtempFault bulkhead => Sys2Proof.Machine.execOvertempFault bulkhead s
  | .droopStretch bulkhead on => Sys2Proof.Machine.execDroopStretch bulkhead on s
  | .clockChangeRequest bulkhead steps => Sys2Proof.Machine.execClockChangeRequest bulkhead steps s
  | .clockChangeComplete bulkhead => Sys2Proof.Machine.execClockChangeComplete bulkhead s
  | .powerReport watts10 input10 => Sys2Proof.Machine.execPowerReport watts10 input10 s
  | .doorbellWrite vf queue tail => Sys2Proof.Machine.execDoorbellWrite vf queue tail s
  | .atsInvalidation vf base len => Sys2Proof.Machine.execAtsInvalidation vf base len s
  | .atsInvalidationComplete vf => Sys2Proof.Machine.execAtsInvalidationComplete vf s
  | .hotReset => Sys2Proof.Machine.execHotReset s
  | .linkDown => Sys2Proof.Machine.execLinkDown s
  | .vfReset vf => Sys2Proof.Machine.execVfReset vf s
  | .lockInterface vf x => Sys2Proof.Machine.execLockInterface vf x s
  | .stopInterface vf => Sys2Proof.Machine.execStopInterface vf s
  | .getDeviceInterfaceReport x => Sys2Proof.Machine.execGetDeviceInterfaceReport x s
  | .getVersion x => Sys2Proof.Machine.execGetVersion x s
  | .getCapabilities x => Sys2Proof.Machine.execGetCapabilities x s
  | .negotiateAlgorithms x => Sys2Proof.Machine.execNegotiateAlgorithms x s
  | .getDigests x => Sys2Proof.Machine.execGetDigests x s
  | .getCertificate x => Sys2Proof.Machine.execGetCertificate x s
  | .challenge x => Sys2Proof.Machine.execChallenge x s
  | .getMeasurements x index => Sys2Proof.Machine.execGetMeasurements x index s
  | .keyExchange x => Sys2Proof.Machine.execKeyExchange x s
  | .finish x => Sys2Proof.Machine.execFinish x s
  | .keyUpdate x => Sys2Proof.Machine.execKeyUpdate x s
  | .heartbeat x => Sys2Proof.Machine.execHeartbeat x s
  | .endSession x => Sys2Proof.Machine.execEndSession x s
  | .spdmUnsupportedRequest x => Sys2Proof.Machine.execSpdmUnsupportedRequest x s
  | .telemetryRead die sensor => Sys2Proof.Machine.execTelemetryRead die sensor s
  | .sidebandResetRequest t => Sys2Proof.Machine.execSidebandResetRequest t s
  | .powerCapSet cap10 => Sys2Proof.Machine.execPowerCapSet cap10 s
  | .loadReplyArrival core idx => Sys2Proof.Machine.execLoadReplyArrival core idx s
  | .eviction x => Sys2Proof.Machine.execEviction x s
  | .softError x => Sys2Proof.Machine.execSoftError x s
  | .hostWrite x => Sys2Proof.Machine.execHostWrite x s
  | .startInterface vf => Sys2Proof.Machine.execStartInterface vf s
  | .pcieLinkTrained => Sys2Proof.Machine.execPcieLinkTrained s
  | .crcOrMacFailure plane peer x => Sys2Proof.Machine.execCrcOrMacFailure plane peer x s
  | .stubRoundRequest idx => Sys2Proof.Machine.execStubRoundRequest idx s
  | .bridgeFault bridge => Sys2Proof.Machine.execBridgeFault bridge s
  | .hbmStackFault stack => Sys2Proof.Machine.execHbmStackFault stack s
  | .dieSharedPartFault die => Sys2Proof.Machine.execDieSharedPartFault die s

end Sys2Proof.Machine
end

