-- ==== Sys2Proof/Machine/Issue.lean ====
section
/-! DEFINITION. The issue of bundles (log 1): what stands at a core's bundle boundary, the checks at decode (R16, R24, R29), the
holds, the causes in the order of Table 14-2, the effects of a bundle that issues, segments and their checkpoints (R223, R241,
R242, R292), and the four ranks of a coupled quad, in step or away (R224, R293). -/

namespace Sys2Proof.Machine

/-- One result after another; a fault or a refusal ends the chain. -/
def andThen (r : Result) (f : State → Result) : Result :=
  match r with
  | .next s => f s
  | .fault x => .fault x
  | .refused x => .refused x

/-! ## Classes of ops -/

/-- The non-idempotent ops (R158, R184, R204). -/
def nonIdempotent : Instr → Bool
  | .aadd _ | .amin _ | .aminn _ | .amax _ | .amaxn _ | .aand _ | .aor _ | .axor _ | .axch _ | .acas _ | .abinc _ => true
  | .raadd _ | .ramin _ | .raminn _ | .ramax _ | .ramaxn _ | .raand _ | .raor _ | .raxor _ | .raxch _ | .racas _ => true
  | .rabinc _ | .rst _ | .rstv _ | .rcp _ | .rcpo _ | .migrate _ | .ssig _ | .sset _ | .spoi _ | .sunp _ | .bar _ => true
  | .fenceFull _ | .fenceRel _ | .suspend _ | .yield | .launch _ | .seqopen _ | .seqend _ => true
  | _ => false

/-- The ops of a meeting bundle besides RDV (R224). -/
def meets : Instr → Bool
  | .bcx _ | .bcl _ | .bar _ => true
  | _ => false

/-- The ops that take effect after the others of their bundle: those that leave the task or the handler. -/
def comesLast : Instr → Bool
  | .eret | .diapack | .halt | .trap _ => true
  | _ => false

/-- The return ops. -/
def returns : Instr → Bool
  | .eret | .diapack => true
  | _ => false

/-- The ops that hold for a release (R177, R181, R182). -/
def releasing : Instr → Bool
  | .bar _ | .suspend _ | .yield | .launch _ => true
  | _ => false

/-- The stores that enter the store buffer (R149). -/
def buffered : Instr → Bool
  | .st _ | .stv _ | .scat _ => true
  | _ => false

/-- The load from the broadcast bus, which comes after every rank's transmission (R178). -/
def isBcl : Instr → Bool
  | .bcl _ => true
  | _ => false

/-- Whether RDV acts on the core: in a coupled quad at T (R8, R385). -/
def Core.rdv (c : Core) (b : Bundle) : Bool := b.rdv && c.coupled && !c.atH

/-- Whether a core stands at a bundle that carries SEG, at T. -/
def Core.atSeg (c : Core) : Bool :=
  c.run == .running && !c.atH && c.canFetch &&
  match c.fetched with
  | .ok b => b.seg
  | .error _ => false

/-- Whether a core stands at a meeting bundle at T (R224, R293); the one that a rewind begins again is none (log 110). -/
def Core.atMeeting (c : Core) : Bool :=
  c.run == .running && !c.atH && c.canFetch && !c.again &&
  match c.fetched with
  | .ok b => c.rdv b || b.ops.any fun o => meets o.op
  | .error _ => false

/-! ## A rank and its bundle -/

/-- A core that attempts its bundle: the bundle, the ops of it that run, its waits, the slots whose command a poisoned semaphore
drops, and the semaphores and slots as they stood before the bundle, which its ops read (R6). -/
structure Rank where
  core   : Nat
  pc     : Nat
  bundle : Bundle
  ops    : List SlotOp
  waits  : List Wait
  skip   : List Slot
  sem    : Tab Sema
  slots  : Tab SlotEntry
  deriving DecidableEq, Repr

/-- The ops of a bundle that run: the branch of a tree, and the ops whose tag lies on the path (R14). -/
def Core.pathOps (c : Core) (b : Bundle) : List SlotOp :=
  match b.tree with
  | none => b.ops
  | some t => ⟨.sc, .treeBranch t, 0, ⟨0, 0, 0, 0⟩⟩ :: b.ops.filter fun o => tagRuns t.shape.toNat (leafOf t c) o.tag.toNat

/-- A core with the bundle in hand. A command that waits on a poisoned semaphore does not execute (R18). -/
def Core.toRank (c : Core) (n : Nat) (b : Bundle) : Rank :=
  let ops := c.pathOps b
  let waits := waitsOf ops
  let skip := c.skipped waits
  ⟨n, c.pc, b, ops.filter fun o => !skip.contains o.slot, waits, skip, c.sem, c.slots⟩

/-- Whether some op of the rank's bundle has a property. -/
def Rank.has (r : Rank) (p : Instr → Bool) : Bool := r.ops.any fun o => p o.op

/-- One op of a rank is evaluated. -/
def runOp (r : Rank) (m : Mode) (o : SlotOp) (s : State) : Result :=
  exec o.op { s with ctx := { s.ctx with
    core := r.core, pc := r.pc, slot := o.slot, ws := o.ws, mode := m, sem := r.sem, slots := r.slots } }

/-- Ops of a rank are evaluated one after another; they all read the registers as they stood before the bundle. -/
def runOps (r : Rank) (m : Mode) : List SlotOp → State → Result
  | [], s => .next s
  | o :: t, s => andThen (runOp r m o s) (runOps r m t)

/-- The same for every rank, of the ops that `p` picks. -/
def runRanks (m : Mode) (p : Rank → SlotOp → Bool) : List Rank → State → Result
  | [], s => .next s
  | r :: t, s => andThen (runOps r m (r.ops.filter (p r)) s) (runRanks m p t)

/-- The state with a rank's bundle in hand. -/
def State.inHand (s : State) (r : Rank) : State :=
  { s with ctx := { s.ctx with core := r.core, pc := r.pc, slot := .sc, mode := .probe, stops := [] } }

/-! ## What stops a bundle besides its ops -/

/-- A fence whose effect is not had (log 14), replies of replay entries that have not come (R257), a rejoin (R203), the waits (R18),
and for an op that releases the loads before it (Table 13-2), which go on while it holds. -/
def State.rankHolds (s : State) (r : Rank) : List Stop :=
  let k := s.core r.core
  (if k.fencing.isSome then [⟨0, 0, 0, .hold 5⟩] else []) ++
  (if !k.atH && k.rplHold && k.loads.any fun x => x.valid && x.replay && !x.arrived && !x.gone then [⟨0, 0, 0, .hold 6⟩]
    else []) ++
  (if !k.atH && (s.world k.vf).rejoin then [⟨0, 0, 0, .hold 5⟩] else []) ++
  (if k.waitsHold r.waits then [⟨0, 0, 0, .hold 2⟩] else []) ++
  (if r.has releasing && !k.loadsPast k.loadSeq then [⟨12, 0, 0, .hold 5⟩] else [])

/-- A budget that is used up (R222), a flag that is missing after a non-idempotent op (R158), `halt` in some ranks only (R190),
and a stream of the image that was refused (Table 2-2; the trap names no field, and is taken once: log 104). `with_` are the ranks that attempt together. -/
def State.rankCauses (s : State) (with_ : List Rank) (r : Rank) : List Stop :=
  let k := s.core r.core
  let illb (bit : Nat) : Stop := ⟨4, 0, 0, .trap 1 (illbInfo bit)⟩
  let isHalt (i : Instr) : Bool := i == .halt
  (if k.atH then []
    else (if k.cr 1 = 0 then [⟨3, 0, 0, .freeze 9 0⟩] else []) ++
      (if !k.needSeg then [] else if !r.bundle.seg then [illb 2] else if k.coupled && !r.bundle.rdv then [illb 3] else []) ++
      (match k.badStream with | some b => [⟨7, 0, 0, .trap 14 (BitVec.ofNat 64 b)⟩] | none => [])) ++
  (if k.coupled && r.has isHalt && (with_.length < 4 || with_.any fun x => !x.has isHalt) then [illb 64] else [])

/-- A core as the ops of a bundle find its counts: a SEG bundle begins a segment, to which its stores, pops and pushes belong
(R241, R292); in a coupled quad the charge runs on to the commit point (R242). -/
def Core.counted (c : Core) (r : Rank) : Core :=
  if r.bundle.seg && !c.atH then
    { c with
      charge := if c.coupled && !c.rdv r.bundle then c.charge else 0
      q := c.q.map fun (x : Nat × Stream) => (x.1, { x.2 with popped := [], pushed := 0 }) }
  else c

/-- The stops of a rank's bundle, in the context of the state that results. The holds are those of the state before the
outcomes of loads; a store that is already in the buffer is not tried again. -/
def probe (s0 : State) (with_ : List Rank) (r : Rank) (s : State) : Result :=
  let s := s.inHand r
  let s := { s with ctx := { s.ctx with stops := s0.rankHolds r ++ s0.rankCauses with_ r } }
  let ops := if (s.core r.core).early then r.ops.filter fun o => !buffered o.op else r.ops
  andThen (runOps r .probe ops (s.modCore r.core fun c => c.counted r)) fun t => .next { t with cores := s.cores }

/-- Each rank is probed; `k` goes on with the stop that each would take. -/
def withProbes (s0 : State) (all : List Rank) :
    List Rank → State → List (Rank × Option Stop) → (State → List (Rank × Option Stop) → Result) → Result
  | [], s, acc, k => k s acc
  | r :: t, s, acc, k => andThen (probe s0 all r s) fun s => withProbes s0 all t s (acc ++ [(r, pickStop s.ctx.stops)]) k

/-! ## Bundles that do not issue -/

/-- Ranks hold: each under its own condition, also that of an op which holds for what it has begun, the others for their partners. -/
def holdRanks (l : List (Rank × Option Stop)) (s : State) : State :=
  l.foldl (fun s x =>
    match x.2 with
    | some ⟨0, _, _, k⟩ | some ⟨12, _, _, k⟩ => (s.inHand x.1).takeStop k
    | _ => (s.inHand x.1).takeStop (.hold 5)) s

/-- The loads whose outcome a trap consumes: those of the register that its TINFO names (R256). -/
def consumedBy (x : Stop) (l : Load) : Bool :=
  let info : Word := match x.kind with | .trap _ i => i | .consume _ i => i | _ => 0
  x.row == 6 && l.due && l.reg == info.toNat % 64 && l.vec == info.getLsbD 6

/-- Some outcomes that are due are fixed, though the bundle does not issue (R145, Table 14-5). -/
def Core.fixSome (c : Core) (p : Load → Bool) : Core :=
  if c.atH then c
  else (c.loads.filter p).foldl (fun c x => (c.outcome x).signal x.sig) { c with loads := c.loads.filter fun x => !p x }

/-- Ranks that have met a cause take it; the others stay at their bundles. -/
def trapRanks (l : List (Rank × Option Stop)) (s : State) : State :=
  l.foldl (fun s x =>
    match x.2 with
    | some y =>
      if y.row = 0 ∨ y.row = 12 then s
      else
        let s := s.modCore x.1.core fun c =>
          { c.fixSome (consumedBy y) with early := false, badStream := if y.row = 7 then none else c.badStream }
        (s.inHand x.1).takeStop y.kind
    | none => s) s

/-! ## Commit points (R242) -/

/-- Whether everything that a rendezvous waits for has been done on a core. -/
def Core.spanDone (c : Core) : Bool :=
  c.ssb.isEmpty && c.port.all (·.sent) && c.semOps.isEmpty &&
  (List.range 8).all fun h => (c.chan h).cmds.all fun m => decide (m.behind < farBehind)

/-! ## A bundle that issues -/

/-- The checkpoint of a SEG bundle (R292). -/
def Core.checkpoint (c : Core) (pc : Nat) : Checkpoint :=
  ⟨pc, c.pend, c.loads, (List.range 16).map fun q => ((c.stream q).cur, (c.stream q).build, (c.stream q).made), c.charge,
    c.qNew.map fun i => (i.q.num, i.left)⟩

/-- A segment opens (R223): the one before it closes, but for the first SEG bundle after a rewind, which keeps the retry record
(R290, R291). In a coupled quad its stores stay in the buffer until the commit point (R242). -/
def Core.openSeg (c : Core) (pc : Nat) : Core :=
  let c := if c.coupled then c else { c with ssb := c.ssb.map fun e => { e with closed := true }, charge := 0 }
  { c with
    q := c.q.map fun (x : Nat × Stream) => (x.1, { x.2 with popped := [], pushed := 0 })
    needSeg := false
    seg :=
      { num := c.seg.num + 1, opened := true, check := some (c.checkpoint pc)
        retry := if c.seg.opened then [] else c.seg.retry, waited := [], signals := [] } }

/-- A rank's bundle begins to take effect: its segment, and its waits, which come before the signals of its cycle (R175). -/
def Core.beginBundle (c : Core) (r : Rank) : Core :=
  let c := { c with
    holding := false, early := false, pc := (r.pc + 1) % 8192, rplHold := c.rplHold && c.atH, again := c.again && c.atH }
  let c := if r.bundle.seg && !c.atH then c.openSeg r.pc else c
  let c := c.subtract r.waits
  if r.skip = [] then c else c.push .p15 15 1 1 none

/-- A non-idempotent op of a rank has taken effect at T: its segment closes and the next bundle carries SEG (R158, R241). The
operations that the bundle put at the port, from `n` on, come after its stores. In a coupled quad the stores wait for the
commit point. -/
def Core.closeBundle (c : Core) (n : Nat) : Core :=
  if c.atH then c
  else
    let old := c
    let c := c.closeSeg
    let c := if c.coupled then { c with ssb := old.ssb, charge := old.charge } else c
    { c with needSeg := true, port := c.port.map fun p => if n ≤ p.id then { p with behind := c.ssbNext } else p }

/-- Every rank's segment closes that must; ranks in step pass a commit point (R242). -/
def closeRanks (rs : List Rank) (s0 s : State) : State :=
  let closing := rs.filter (·.has nonIdempotent)
  let s := closing.foldl (fun s r => s.modCore r.core fun c => c.closeBundle (s0.core r.core).portNext) s
  if closing.any fun r => !(s0.core r.core).away && (s0.core r.core).coupled && !(s0.core r.core).atH
  then s.closeStores (rs.map (·.core)) else s

/-- A rank's bundle ends: `halt`, then the counts, or the trap that makes them itself, then the return. -/
def endRank (r : Rank) (s : State) : Result :=
  let last (p : Instr → Bool) : List SlotOp := r.ops.filter fun o => p o.op
  andThen (runOps r .effect (last fun i => i == .halt) s) fun s =>
    match last fun i => comesLast i && !returns i && i != .halt with
    | [] => andThen (.next (s.modCore r.core Core.endBundle)) (runOps r .effect (last returns))
    | l => runOps r .effect l s

/-- Every rank's bundle ends. -/
def endRanks : List Rank → State → Result
  | [], s => .next s
  | r :: t, s => andThen (endRank r s) (endRanks t)

/-- The ops that take effect in the first round: all but those that come last, those of the bus that receive, and stores that
are in the buffer already. -/
def firstRound (s0 : State) (r : Rank) (o : SlotOp) : Bool :=
  !comesLast o.op && !isBcl o.op && !(buffered o.op && (s0.core r.core).early)

/-- The bundles of ranks issue in one cycle. -/
def issueRanks (rs : List Rank) (s : State) : Result :=
  let s0 := s
  let s := rs.foldl (fun s r => s.modCore r.core fun c => c.beginBundle r) s
  andThen (runRanks .effect (firstRound s0) rs s) fun s =>
  andThen (runRanks .effect (fun _ o => isBcl o.op) rs s) fun s =>
  let s := rs.foldl (fun s r => s.modCore r.core fun c => { c with bus := none }) s
  endRanks rs (closeRanks rs s0 s)

/-! ## The attempt -/

/-- What follows when every rank has been probed (Table 14-2). `s0` is the state before the outcomes of loads were looked at,
which a bundle that does not issue leaves as they were; `late` goes on where only late holds stand. -/
def settleRanks (rs : List Rank) (s0 s : State) (l : List (Rank × Option Stop)) (late : State → Result) : Result :=
  let row (p : Nat → Bool) (x : Rank × Option Stop) : Bool := match x.2 with | some y => p y.row | none => false
  let back (s : State) : State := { s with cores := s0.cores }
  let rdv (r : Rank) : Bool := (s0.core r.core).rdv r.bundle
  let cause : Nat → Bool := fun n => n != 0 && n != 12
  if l.any (row (· == 0)) then .next (holdRanks l (back s))
  -- a rendezvous holds for the commit before it (R242), ahead of every cause
  else if 1 < rs.length && rs.all rdv && !(rs.all fun r => (s0.core r.core).spanDone) then
    .next (holdRanks (rs.map fun r => (r, none)) ((back s).closeStores (rs.map (·.core))))
  else if l.any fun x => row cause x && (rdv x.1 || !(rs.any rdv) || rs.all rdv) then .next (trapRanks l (back s))
  else if rs.any rdv && !rs.all rdv && 1 < rs.length then
    .next (trapRanks (l.map fun x => if rdv x.1 then (x.1, some ⟨4, 0, 0, .trap 1 (illbInfo 3)⟩) else x) (back s))
  else if l.any (row cause) then .next (trapRanks l (back s))
  else if l.any (row (· == 12)) then late s
  else issueRanks rs s

/-- What a core's ops have begun stands, and the outcomes of its loads are open again: its bundle has not issued (R145). -/
def Core.unfixed (old c : Core) : Core :=
  { c with
    s := old.s, sPoi := old.sPoi, v := old.v, vPoi := old.vPoi, bad := old.bad, late := old.late, zstat := old.zstat
    sem := old.sem, wres := old.wres, loads := old.loads, hloads := old.hloads
    owed := old.owed ++ c.owed.drop old.fixLoads.owed.length
    seg := if c.seg.check.isNone then c.seg else old.seg }

/-- An op holds for what it has itself begun (R177, R181, R182, R190, R196, R197, R201): the stores of the bundle enter the buffer,
and the op goes on, with the loads of `s0` as they stand; the bundle issues if that was all. -/
def lateRanks (rs : List Rank) (s0 s : State) : Result :=
  let early (r : Rank) : Bool := (s0.core r.core).early
  andThen (runRanks .effect (fun r o => buffered o.op && !early r) rs s) fun s =>
  let s := rs.foldl (fun s r =>
    let old := s0.core r.core
    s.modCore r.core fun c => { c with early := true, loads := old.loads, hloads := old.hloads }) s
  let inStep := rs.any fun r => (s.core r.core).coupled && !(s.core r.core).away && r.has nonIdempotent
  let s := if inStep then s.closeStores (rs.map (·.core)) else s
  andThen (runRanks .late (fun _ o => o.slot == .sc || o.slot == .sy) rs s) fun s =>
  let s := rs.foldl (fun s r => s.modCore r.core fun c => (s0.core r.core).unfixed c) s
  let t := rs.foldl (fun s r => s.modCore r.core Core.fixLoads) s
  withProbes s rs rs t [] fun t l =>
    settleRanks rs s t l fun t => .next (holdRanks l { t with cores := s.cores })

/-- Ranks attempt their bundles. -/
def attempt (rs : List Rank) (s : State) : Result :=
  let s := rs.foldl (fun s r =>
    match (s.core r.core).fencing with
    | some f => if s.fenceReady r.core f then s.fenceDone r.core f else s
    | none => s) s
  let t := rs.foldl (fun s r => s.modCore r.core Core.fixLoads) s
  withProbes s rs rs t [] fun t l => settleRanks rs s t l (lateRanks rs s)

/-- A stop of the arbiter at a bundle boundary (Table 14-2, R252, R253, R259): every running rank of the unit stops together once
each is at a quiet boundary; `none` where the core issues on. -/
def State.arbiterStop (s : State) (c : Nat) : Option Result :=
  let us := s.unitOf c
  let k := s.core c
  if k.stopReq.isNone then none
  else if us.all fun u => (s.core u).run != .rewinding && ((s.core u).run != .running || (s.core u).quietNow) then
    some (.next (us.foldl (fun s u =>
      match (s.core u).run, (s.core u).stopReq with
      | .running, some r => s.stopCore u r false
      | _, _ => s) s))
  else if k.quietNow then some (.next s)
  else if 1024 ≤ k.hCount then some (execHandlerQuietTimeout c s)
  else none

/-- A bubble passes (R202). -/
def State.passBubble (s : State) (cs : List Nat) : State :=
  cs.foldl (fun s c => s.modCore c fun k => { k with bubble := k.bubble - 1 }) s

/-- The illegal bundles of ranks, with the bits that offend. -/
def State.illegal (s : State) (cs : List Nat) : List (Nat × Nat) :=
  cs.filterMap fun c => match (s.core c).fetched with
    | .error n => some (c, n)
    | .ok _ => none

/-- An illegal bundle is taken before any hold (R29). -/
def State.takeIllegal (s : State) (l : List (Nat × Nat)) : State :=
  l.foldl (fun s x =>
    let s := s.modCore x.1 fun k => { k with early := false }
    State.takeStop { s with ctx := { s.ctx with core := x.1, pc := (s.core x.1).pc } } (.trap 1 (illbInfo x.2))) s

/-- The ranks of cores whose bundles are legal. -/
def State.ranks (s : State) (cs : List Nat) : List Rank :=
  cs.filterMap fun c => match (s.core c).fetched with
    | .ok b => some ((s.core c).toRank c b)
    | .error _ => none

/-- A unit of an aborted ream at a SEG bundle ends once the stores of its segment have committed, with the release at `.pkg` that
comes before the counter's or (R220). A rank that is away from its quad waits there for the others, which wait at meeting bundles (log 110). -/
def State.abortStep (s : State) (cs : List Nat) (lead : Nat) : State :=
  let us := s.unitOf lead
  let s := s.closeStores cs
  if (cs == us || us.all fun c => (s.core c).atSeg || (s.core c).atMeeting) && us.all fun c => s.released c .pkg
  then s.endAborted lead
  else cs.foldl (fun s c => s.modCore c fun k => { k with holding := true, holdCond := 5 }) s

/-- Cores stand at a bundle boundary: one core, or the four of a coupled quad in step. -/
def boundary (cs : List Nat) (s : State) : Result :=
  let ready := cs.all fun c => (s.core c).canFetch
  let bad := if ready then s.illegal cs else []
  if bad ≠ [] then .next (s.takeIllegal bad)
  else match cs.findSome? s.arbiterStop with
  | some r => r
  | none =>
    if !ready then .next (s.passBubble cs)
    else
      let rs := s.ranks cs
      let lead := s.leadOf (cs.headD 0)
      let aborted := match (s.core lead).task with | some t => t.abort | none => false
      if aborted && rs.any fun r => r.bundle.seg && !(s.core r.core).atH then .next (s.abortStep cs lead)
      else attempt rs s

/-- A core's turn (log 2): it goes on with whatever it is at. A rank that is away from its quad issues alone up to a meeting
bundle, and the quad is in step again when all four stand at one (R224, R293). -/
def turn (c : Nat) (s : State) : Result :=
  let k := s.core c
  match k.run with
  | .rewinding => execRewind c s
  | .stopping => execFreezeLatch c s
  | .free => execUnitChoice c s
  | .ending => if k.closing.isSome then .next (s.endStep (s.leadOf c)) else execTaskStart c s
  | .frozen | .draining | .quarantined => .next s
  | .running =>
    if !k.coupled then boundary [c] s
    else if !k.away then boundary (quadCores c) s
    else if (quadCores c).all fun r => (s.core r).atMeeting then
      boundary (quadCores c)
        ((quadCores c).foldl (fun s r => s.modCore r fun x => { x with away := false }) (s.passSpan (quadLead c)))
    else if k.atMeeting && k.stopReq.isNone then
      .next ((s.passSpan (quadLead c)).modCore c fun x => { x with holding := true, holdCond := 5 })
    else andThen (boundary [c] s) fun s => .next (s.passSpan (quadLead c))

end Sys2Proof.Machine
end

