-- ==== Sys2Proof/Machine/Step.lean ====
section
/-! DEFINITION. One step of the module (log 2): the turn that the agenda names, or, when it names none, one of what the module
can do of its own accord. -/

namespace Sys2Proof.Machine

/-- Entry `n` of a list, counted round; `d` when it is empty. -/
def pickOf (d : α) (l : List α) (n : Nat) : α := l.getD (n % l.length) d

/-- What the module may do of its own accord, by a number (R383: the spec fixes no times): a core's turn, a step of an engine, a
commit, the arrival of a reply, a walk, a scheduling step, a step of the fabric or of the management island, a reading of a
sensor, a line or entry that is discarded. Each has no effect where it cannot take place. -/
def State.ownStep (s : State) (n : Nat) : Result :=
  let a := n / 64
  let c := a % 384
  let x := a / 384
  let drains := s.coreList.filter fun c => (s.world (s.core c).vf).draining || (s.bulk (bulkOf c)).gateShut
  match n % 64 with
  | 0 => execSegmentCommit c s
  | 1 => execRendezvousCommit (a % 96) s
  | 2 => execAtomicPerform c s
  | 3 => execLoadReplyArrival c (x % 128) s
  | 4 => execCopyLine c (x % 8) s
  | 5 => execCcopyRecord c (x % 8) s
  | 6 => execSlotZeroed c (x % 64) s
  | 7 => execRoutineStep c s
  | 8 => execStreamAddressPlace c (x % 16) s
  | 9 => execStreamFetchSend c (x % 16) s
  | 10 => execStreamFetchLand c (x % 16) s
  | 11 => execStreamOutputWrite c (x % 16) s
  | 12 => execInstructionRefetch c s
  | 13 => execWalkStart (a % 3) s
  | 14 => execTranslationWalk (a % 3) s
  | 15 => execShootdownComplete (pickOf 0 (List.range s.shoots.length) a) s
  | 16 => execWatchedWordReread (pickOf default s.dirty a).phys s
  | 17 => execPriorityAging (.record (a % 3) (x % 65536)) s
  | 18 => execPriorityAging (.ream (pickOf 0 (s.reams.map (·.rid)) a)) s
  | 19 => execQueueDispatch (pickOf 0 (s.queues.map (·.1)) a) s
  | 20 => execQueueEntryComplete (pickOf 0 (s.reams.map (·.rid)) a) s
  | 21 => execBarrierComplete (pickOf 0 (List.range s.bars.length) a) s
  | 22 => execWorldDrain (pickOf 0 drains a) s
  | 23 => execSealPoint (pickOf 0 (s.keyOps.map fun o => o.slot + 4096 * o.gen) a) s
  | 24 => execFrameRetirement (pickOf 0 (s.retiring.map (·.1)) a) s
  | 25 => execPatrolScrub (pickOf 0 (s.lines.map fun l => l.1 / 1024) a) s
  | 26 => execWindowRequestTimeout (pickOf 0 (List.range s.winReqs.length) a) s
  | 27 => execLitSetChange (a % 64) s
  | 28 => execOwnerCacheRelease (a % 3) (x % 512) s
  | 29 => execTagTimeout (a % 3) (x % 4096) s
  | 30 => execTagQuarantineExpiry (a % 3) (x % 4096) s
  | 31 => execBusyResend (a % 3) (x % 4096) s
  | 32 => execRcpoGroupAbandon (a % 3) (x % 4096) s
  | 33 => execStubRoundStart (pickOf 0 (s.mig.map (·.1)) a) s
  | 34 => execStubRoundTimeout (pickOf 0 (s.mig.map (·.1)) a) s
  | 35 => execDiapauseDrain s
  | 36 => execManifestSeal s
  | 37 => execBrownoutSecondShed s
  | 38 => execBrownoutRetention s
  | 39 => execMemoryRestore s
  | 40 => execRejoinComplete (pickOf 0 (s.worlds.map (·.1)) a) s
  | 41 => execRjtExpiry (pickOf 0 (s.parts.map (·.1)) a) s
  | 42 => execEmgClear (a % 24) s
  | 43 => execOvertempFault (a % 24) s
  | 44 => execClockChangeComplete (a % 24) s
  | 45 => execAtsInvalidationComplete (pickOf 0 (s.host.ats.map (·.1)) a) s
  | 46 => execSensorSample (a % 3) (x % 8) ((Config.freeWord s.tick).setWidth 16) s
  | 47 => execEviction (.line (a % 3) (x % 65536)) s
  | 48 => execEviction (.remoteGranule (a % 3) (x % 65536)) s
  | 49 => execEviction (.translation (pickOf 0 (List.range s.tlb.length) a)) s
  | 50 => execEviction (.owner (a % 3) (x % 512)) s
  | 51 => execHandlerQuietTimeout c s
  | 52 => execEviction (.descriptor (pickOf 0 (List.range s.dtlb.length) a)) s
  | _ => turn c s

/-- What is evaluated stands for itself: it is in no bundle. -/
def State.alone (s : State) : State := { s with ctx := { s.ctx with mode := .alone, stops := [] } }

/-- A turn is taken. -/
def State.take (s : State) (t : Turn) : Result :=
  match t with
  | .issue c => turn c s
  | .event i => exec i s.alone

/-- One step. -/
def step (s : State) : Host.Outcome State Fault Refusal :=
  match s.agenda with
  | t :: rest => State.take { s with agenda := rest, tick := s.tick + 1 } t
  | [] => State.ownStep (State.alone { s with tick := s.tick + 1 }) (Config.choice s.tick)

/-- The state in which core 0 is about to issue the bundle whose low `nbits` bits are those of `w`: the measured loader has
placed an image that holds it at the core's pc, a task runs with its budget, and the next turn is the core's (log 26). -/
def State.withFetchWord (s : State) (nbits w : Nat) : State :=
  let s := s.modCore 0 fun c =>
    let c := if c.cr 1 = 0 then c.setCr 1 1 else c
    { c with
      imem := Tab.set 0 c.imem c.pc (BitVec.ofNat 512 (w % 2 ^ nbits)), imemBad := []
      imgLen := 8192, store := List.range 20, occ := ⟨16, 8, 32768, 0, 255, 32⟩, run := .running, bubble := 0 }
  { s with agenda := [.issue 0] }

end Sys2Proof.Machine
end

