-- ==== Sys2Proof/Safety.lean ====
section
/-! DEFINITION. What counts as a safe run, in the terms that claims use: a run that no fault or refusal ends, states whose
tables and memories are in their canonical form, and cores whose fields stay within the ranges the spec gives them. -/

namespace Sys2Proof.Machine

/-- An outcome is a next state. -/
def goesOn : Result → Prop
  | .next _ => True
  | .fault _ => False
  | .refused _ => False

/-- A state that `n` steps reach. -/
def reaches : Nat → State → State → Prop
  | 0, s, t => s = t
  | n + 1, s, t => ∃ u, step s = .next u ∧ reaches n u t

/-- A run is safe when no fault and no refusal ends it: each of its states has a next one. -/
def safeFrom (s : State) : Prop := ∀ n t, reaches n s t → goesOn (step t)

/-- The memories are in their canonical form. -/
def State.memoriesWf (s : State) : Bool :=
  s.mem.wf && s.hostMem.wf && s.cores.all fun c => c.2.scr.wf && c.2.cmem.wf

/-- The register tables of a core are in their canonical form, the hard-wired registers are not listed (R38, R40), and
no register beyond those of the spec is listed. -/
def Core.filesWf (c : Core) : Bool :=
  Tab.wf 0 c.s && Tab.wf none c.sPoi && Tab.wf 0 c.v && Tab.wf none c.vPoi && Tab.wf 0 c.k && Tab.wf 0 c.creg &&
  c.s.all (fun x => 0 < x.1 && x.1 < 64) && c.v.all (fun x => x.1 < 32) && c.k.all (fun x => 0 < x.1 && x.1 < 8) &&
  c.p.getLsbD 0

/-- The reserved bits of a core's control registers read as zero (R5). -/
def Core.reservedZero (c : Core) : Bool := c.creg.all fun x => x.2 &&& ~~~(cregMask x.1) == 0

/-- A core within the ranges the spec gives: its bundle index (R16), its semaphores' counts (R43), the charge of its
segment (R149). -/
def Core.inRange (c : Core) : Bool :=
  c.pc < 8192 && c.sem.all (fun x => x.1 < 256 && x.2.count ≤ 65535) && c.charge ≤ c.occ.ssb

/-! ## Terms of the claims -/

/-- The op in hand takes effect where nothing stops it: it stands alone in its bundle, or its bundle issues (log 1). -/
def State.acts (s : State) : Prop := s.ctx.mode = .alone ∨ s.ctx.mode = .effect

/-- The source scalar register can be read: not poisoned, no parity error (R39, R288). -/
def State.sOk (s : State) (r : BitVec 6) : Prop :=
  (r.toNat ≠ 0 → BadReg.s r.toNat ∉ s.cur.bad) ∧ s.cur.spoi r.toNat = none

/-- The source vector register can be read. -/
def State.vOk (s : State) (r : BitVec 5) : Prop := BadReg.v r.toNat ∉ s.cur.bad ∧ s.cur.vpoi r.toNat = none

/-- The source mask can be read: masks have no poison. -/
def State.kOk (s : State) (r : BitVec 3) : Prop := r.toNat ≠ 0 → BadReg.k r.toNat ∉ s.cur.bad

/-- The predicates can be read. -/
def State.pOk (s : State) : Prop := BadReg.p ∉ s.cur.bad

/-- The `mp` register can be read. -/
def State.mpOk (s : State) (n : Nat) : Prop := BadReg.mp n ∉ s.cur.bad

/-- The accumulator can be read. -/
def State.accOk (s : State) (n : Nat) : Prop := BadReg.acc n ∉ s.cur.bad

/-- What `.rsr` draws from can be read (R77). -/
def State.drawOk (s : State) (rm : Rm) : Prop := rm = .rsr → s.mpOk 6 ∧ s.mpOk 7

/-- An op of class VR that reads its first `n` vector fields can read them, its governing mask, and under a mask its
destination (R104). -/
def State.vrOk (s : State) (n : Nat) (x : ClsVR) : Prop :=
  (1 ≤ n → s.vOk x.va) ∧ (2 ≤ n → s.vOk x.vb) ∧ (3 ≤ n → s.vOk x.vc) ∧ (x.k ≠ 0 → s.vOk x.vd) ∧ s.kOk x.k ∧
  s.drawOk x.rm

/-- The same of an op of class VS. -/
def State.vsOk (s : State) (readVa : Bool) (x : ClsVS) : Prop :=
  (readVa = true → s.vOk x.va) ∧ s.sOk x.s ∧ (x.k ≠ 0 → s.vOk x.vd) ∧ s.kOk x.k ∧ s.drawOk x.rm

/-- An address register can be used: readable, its value aligned and within its space (R144, reasons 1 and 2). -/
def State.addrOk (s : State) (a : BitVec 6) (align bits : Nat) : Prop :=
  s.sOk a ∧ (s.sv a).toNat % align = 0 ∧ (s.sv a).toNat < 2 ^ bits

/-- The outstanding-load table of the privilege has room (R147). -/
def State.loadRoom (s : State) : Prop := (if s.cur.atH then s.cur.hloads else s.cur.loads).length < 64

/-- No copy channel's range above its watermark holds a flat access (R44). -/
def State.flatFree (s : State) (a : BitVec 6) (n : Nat) : Prop := s.cur.aboveMark false (s.sv a).toNat n = false

/-- Neither a slot nor a channel holds a scratchpad access (R49, R50, R44). -/
def State.slotOpen (s : State) (a : BitVec 6) (n : Nat) (wr : Bool) : Prop :=
  s.cur.scratchHold (s.sv a).toNat n wr = none

/-- The translation of a flat store or atomic stands in the core's cache and admits a write (R276, R283). -/
def State.writable (s : State) (a : BitVec 6) (x : XEntry) : Prop :=
  s.look s.ctx.core .issue 0 ((s.sv a).toNat / 65536) true false = .hit x

/-- A store of `n` charged bytes stays within the declared `ssb` (R149); the handler's stores are not charged. -/
def State.chargeRoom (s : State) (n : Nat) : Prop := s.cur.atH = false → s.cur.charge + n ≤ s.cur.occ.ssb

/-- A remote address of this module, or of a member of the world (R161, R314). -/
def State.memberOk (s : State) (a : BitVec 6) : Prop :=
  (s.sv a).toNat / 2 ^ 48 = s.me ∨ s.member s.cur.vf ((s.sv a).toNat / 2 ^ 48) = true

/-- A semaphore within the declared range (R176). -/
def State.semIn (s : State) (n : BitVec 8) : Prop := s.cur.occ.semLo ≤ n.toNat ∧ n.toNat ≤ s.cur.occ.semHi

/-- A declared channel that is not full (R165, R167). -/
def State.chanOpen (s : State) (ch : BitVec 3) : Prop :=
  ch.toNat < s.cur.occ.channels ∧ (s.cur.chan ch.toNat).cmds.length < 16

/-- A place register that can be used for `n` bytes: readable, aligned, within its space, of a kind that the command takes,
and on a member of the pod (R164, R167). -/
def State.placeOk (s : State) (r : BitVec 6) (n align : Nat) (kinds : List Nat) : Prop :=
  s.sOk r ∧ placeFaults s.me (s.sv r).toNat n align kinds = [] ∧
    ∀ m a, s.placeOf (s.sv r).toNat = .remote m a → s.member s.cur.vf m = true

/-- The probe finds each unit of a place translated (R285). -/
def State.translated (s : State) (p : Place) (n : Nat) (wr : Bool) : Prop :=
  ∀ u ∈ p.units n, ∃ e, s.look s.ctx.core .issue u.1 u.2 wr true = .hit e

/-- The value `v` holds `f e`, as an element of type `t`, at each active element, and what the destination held at each
other (R104). -/
def State.elementwise (s : State) (vd : BitVec 5) (k : BitVec 3) (t : Ty) (v : Vec) (f : Nat → Nat) : Prop :=
  ∀ e < 2048 / t.width, Vec.elem t.width v e =
    if k = 0 ∨ active (s.cur.kreg k.toNat) e t.width = true then f e % 2 ^ t.width
    else Vec.elem t.width (s.cur.vreg vd.toNat) e

end Sys2Proof.Machine
end

