-- ==== Sys2Proof/Certificates/Slice0/Obligations.lean ====
section
/-! DEFINITION. The statements for the provers: what the rules of spec/ say that an instruction or the machine does. An op is
spoken of in a state in which it `acts`: it stands alone in its bundle, or its bundle issues. -/

section
open Sys2Proof Sys2Proof.Machine

/-! ## Scalar, address and control ops (spec/04_scalar_and_control.md) -/

/-- Table 4-1 and R87: register arithmetic, its formulas as the spec writes them and its latencies. -/
def Obligations.ScalarArithmeticResults : Prop :=
  ∀ (x : ClsSR) (s : State), s.acts → s.sOk x.a → s.sOk x.b →
    let A := s.sv x.a
    let B := s.sv x.b
    let d := x.d.toNat
    exec (.add x) s = .next (s.putS d 1 (wrap (A.toInt + B.toInt))) ∧
    exec (.sub x) s = .next (s.putS d 1 (wrap (A.toInt - B.toInt))) ∧
    exec (.mul x) s = .next (s.putS d 3 (wrap (A.toInt * B.toInt))) ∧
    exec (.mulh x) s = .next (s.putS d 3 (wrap (A.toInt * B.toInt / 2 ^ 64))) ∧
    exec (.mulhn x) s = .next (s.putS d 3 (wrap ((A.toNat : Int) * B.toNat / 2 ^ 64))) ∧
    exec (.and x) s = .next (s.putS d 1 (A &&& B)) ∧
    exec (.or x) s = .next (s.putS d 1 (A ||| B)) ∧
    exec (.xor x) s = .next (s.putS d 1 (A ^^^ B)) ∧
    exec (.shl x) s = .next (s.putS d 1 (if B.toNat ≤ 63 then wrap ((A.toNat : Int) * 2 ^ B.toNat) else 0)) ∧
    exec (.shr x) s = .next (s.putS d 1 (if B.toNat ≤ 63 then wrap ((A.toNat : Int) / 2 ^ B.toNat) else 0)) ∧
    exec (.sra x) s = .next (s.putS d 1 (if B.toNat ≤ 63 then wrap (A.toInt / 2 ^ B.toNat) else if A.toInt < 0 then wrap (-1) else 0))

/-- R87: `madd` forms the sum from the exact product and reduces it once. R88: the four divisions, with no trap and no flag. -/
def Obligations.MultiplyAndDivideResults : Prop :=
  (∀ (x : ClsS4) (s : State), s.acts → s.sOk x.a → s.sOk x.b → s.sOk x.c →
     exec (.madd x) s =
       .next (s.putS x.d.toNat 3 (wrap ((s.sv x.a).toInt * (s.sv x.b).toInt + (s.sv x.c).toInt)))) ∧
  (∀ (x : ClsSR) (s : State), s.acts → s.sOk x.a → s.sOk x.b →
     let A := s.sv x.a
     let B := s.sv x.b
     let d := x.d.toNat
     exec (.div x) s = .next (s.putS d 18 (
       if B.toNat = 0 then 0xFFFFFFFFFFFFFFFF
       else if A.toInt = -2 ^ 63 ∧ B.toInt = -1 then A
       else wrap (A.toInt.tdiv B.toInt))) ∧
     exec (.rem x) s = .next (s.putS d 18 (
       if B.toNat = 0 then A
       else if A.toInt = -2 ^ 63 ∧ B.toInt = -1 then 0
       else wrap (A.toInt - B.toInt * A.toInt.tdiv B.toInt))) ∧
     exec (.divn x) s = .next (s.putS d 18 (if B.toNat = 0 then 0xFFFFFFFFFFFFFFFF else wrap ((A.toNat / B.toNat : Nat)))) ∧
     exec (.remn x) s = .next (s.putS d 18 (if B.toNat = 0 then A else wrap ((A.toNat % B.toNat : Nat)))))

/-- Tables 4-3 and 4-4: the immediate ops. A shift holds its amount, 0 to 63, in the immediate (what WellFormed asks). -/
def Obligations.ImmediateResults : Prop :=
  (∀ (x : ClsSI) (s : State), s.acts → s.sOk x.a →
    let A := s.sv x.a
    let I := x.imm.toInt
    let d := x.d.toNat
    exec (.addi x) s = .next (s.putS d 1 (wrap (A.toInt + I))) ∧
    exec (.andi x) s = .next (s.putS d 1 (A &&& wrap I)) ∧
    exec (.ori x) s = .next (s.putS d 1 (A ||| wrap I)) ∧
    exec (.xori x) s = .next (s.putS d 1 (A ^^^ wrap I)) ∧
    exec (.muli x) s = .next (s.putS d 3 (wrap (A.toInt * I))) ∧
    (x.imm.toNat ≤ 63 →
      exec (.shli x) s = .next (s.putS d 1 (wrap ((A.toNat : Int) * 2 ^ x.imm.toNat))) ∧
      exec (.shri x) s = .next (s.putS d 1 (wrap ((A.toNat : Int) / 2 ^ x.imm.toNat))) ∧
      exec (.srai x) s = .next (s.putS d 1 (wrap (A.toInt / 2 ^ x.imm.toNat))))) ∧
  (∀ (x : ClsSI) (s : State), s.acts →
    exec (.lui x) s = .next (s.putS x.d.toNat 1 (wrap (x.imm.toInt * 2 ^ 12))) ∧
    exec (.lpc x) s = .next (s.putS x.d.toNat 1 (wrap (s.ctx.pc + x.imm.toInt)))) ∧
  (∀ (x : ClsSL) (s : State), s.acts →
    exec (.movl x) s = .next (s.putS x.d.toNat 1 x.imm) ∧
    (s.sOk x.a →
      exec (.addl x) s = .next (s.putS x.d.toNat 1 (wrap ((s.sv x.a).toInt + x.imm.toInt))) ∧
      exec (.andl x) s = .next (s.putS x.d.toNat 1 (s.sv x.a &&& x.imm))))

/-- R91 and Table 4-6: address arithmetic, extrema and selection. -/
def Obligations.AddressAndExtremaResults : Prop :=
  (∀ (x : ClsSA) (s : State), s.acts → s.sOk x.a → s.sOk x.b →
    exec (.lea x) s = .next (s.putS x.d.toNat 1 (wrap ((s.sv x.a).toInt + (s.sv x.b).toInt * 2 ^ x.sh.toNat)))) ∧
  (∀ (x : ClsSR) (s : State), s.acts → s.sOk x.a → s.sOk x.b →
    let A := s.sv x.a
    let B := s.sv x.b
    let d := x.d.toNat
    exec (.min x) s = .next (s.putS d 1 (if A.toInt ≤ B.toInt then A else B)) ∧
    exec (.minn x) s = .next (s.putS d 1 (if A.toNat ≤ B.toNat then A else B)) ∧
    exec (.max x) s = .next (s.putS d 1 (if A.toInt ≥ B.toInt then A else B)) ∧
    exec (.maxn x) s = .next (s.putS d 1 (if A.toNat ≥ B.toNat then A else B))) ∧
  (∀ (x : ClsSR) (s : State), s.acts → s.sOk x.a →
    exec (.abs x) s = .next (s.putS x.d.toNat 1 (wrap (s.sv x.a).toInt.natAbs))) ∧
  (∀ (x : ClsSS) (s : State), s.acts → s.sOk x.a → s.sOk x.b → s.pOk →
    exec (.sel x) s = .next (s.putS x.d.toNat 1 (if s.cur.preg x.p.toNat then s.sv x.a else s.sv x.b)))

/-- R93: the field ops, bit by bit. `bins` reads its destination. Table 4-7: counts and reversals. -/
def Obligations.BitFieldAndCountResults : Prop :=
  (∀ (x : ClsSB) (s : State), s.acts → s.sOk x.a →
     let len := x.len1.toNat + 1
     let pos := x.pos.toNat
     pos + len ≤ 64 →
     (∃ v, exec (.bext x) s = .next (s.putS x.d.toNat 1 v) ∧
       ∀ i < 64, v.getLsbD i = (s.sv x.a).getLsbD (pos + Nat.min i (len - 1))) ∧
     (∃ v, exec (.bextn x) s = .next (s.putS x.d.toNat 1 v) ∧
       ∀ i < 64, v.getLsbD i = (decide (i < len) && (s.sv x.a).getLsbD (pos + i))) ∧
     (s.sOk x.d → ∃ v, exec (.bins x) s = .next (s.putS x.d.toNat 1 v) ∧
       ∀ i < 64, v.getLsbD i =
         if pos ≤ i ∧ i < pos + len then (s.sv x.a).getLsbD (i - pos) else (s.sv x.d).getLsbD i)) ∧
  (∀ (x : ClsSR) (s : State), s.acts → s.sOk x.a →
     let A := s.sv x.a
     let d := x.d.toNat
     (∃ v, exec (.brev x) s = .next (s.putS d 1 v) ∧ ∀ i < 64, v.getLsbD i = A.getLsbD (63 - i)) ∧
     (∃ v, exec (.bswap x) s = .next (s.putS d 1 v) ∧
       ∀ i < 8, ∀ j < 8, v.getLsbD (8 * i + j) = A.getLsbD (8 * (7 - i) + j)) ∧
     exec (.popc x) s = .next (s.putS d 1 (wrap ((List.range 64).filter fun i => A.getLsbD i).length)) ∧
     (∃ n : Nat, exec (.ctz x) s = .next (s.putS d 1 (wrap n)) ∧ n ≤ 64 ∧
       (∀ i < n, A.getLsbD i = false) ∧ (n < 64 → A.getLsbD n = true)) ∧
     (∃ n : Nat, exec (.clz x) s = .next (s.putS d 1 (wrap n)) ∧ n ≤ 64 ∧
       (∀ i < n, A.getLsbD (63 - i) = false) ∧ (n < 64 → A.getLsbD (63 - n) = true)))

/-- R95: the compares, signed and natural, of registers and immediates. R96 and R97: predicate logic and the moves between
files. -/
def Obligations.CompareAndPredicateResults : Prop :=
  ((∀ (x : ClsSP) (s : State), s.acts → s.sOk x.a → s.sOk x.b →
     let A := s.sv x.a
     let B := s.sv x.b
     let pd := x.pd.toNat
     exec (.ceq x) s = .next (s.putP pd (decide (A = B))) ∧
     exec (.cne x) s = .next (s.putP pd (decide (A ≠ B))) ∧
     exec (.clt x) s = .next (s.putP pd (decide (A.toInt < B.toInt))) ∧
     exec (.cltn x) s = .next (s.putP pd (decide (A.toNat < B.toNat))) ∧
     exec (.cle x) s = .next (s.putP pd (decide (A.toInt ≤ B.toInt))) ∧
     exec (.clen x) s = .next (s.putP pd (decide (A.toNat ≤ B.toNat))) ∧
     exec (.ctst x) s = .next (s.putP pd (decide (A &&& B ≠ 0)))) ∧
   (∀ (x : ClsSPI) (s : State), s.acts → s.sOk x.a →
     let A := s.sv x.a
     let J : Word := wrap x.imm.toInt
     let pd := x.pd.toNat
     exec (.ceqi x) s = .next (s.putP pd (decide (A = J))) ∧
     exec (.cnei x) s = .next (s.putP pd (decide (A ≠ J))) ∧
     exec (.clti x) s = .next (s.putP pd (decide (A.toInt < J.toInt))) ∧
     exec (.cltni x) s = .next (s.putP pd (decide (A.toNat < J.toNat))) ∧
     exec (.clei x) s = .next (s.putP pd (decide (A.toInt ≤ J.toInt))) ∧
     exec (.cleni x) s = .next (s.putP pd (decide (A.toNat ≤ J.toNat))))) ∧
  ((∀ (x : ClsPL) (s : State), s.acts → s.pOk →
     let X := xor (s.cur.preg x.pa.toNat) x.na
     let Y := xor (s.cur.preg x.pb.toNat) x.nb
     let pd := x.pd.toNat
     exec (.pand x) s = .next (s.putP pd (X && Y)) ∧
     exec (.por x) s = .next (s.putP pd (X || Y)) ∧
     exec (.pxor x) s = .next (s.putP pd (xor X Y)) ∧
     exec (.pnot x) s = .next (s.putP pd (!X)) ∧
     exec (.pmov x) s = .next (s.putP pd X)) ∧
   (∀ (x : ClsSR) (s : State), s.acts → s.pOk →
     ∃ v, exec (.movp x) s = .next (s.putS x.d.toNat 1 v) ∧
       (∀ i < 16, v.getLsbD i = s.cur.preg i) ∧ (∀ i, 16 ≤ i → v.getLsbD i = false)) ∧
   (∀ (x : ClsSR) (s : State), s.acts → s.sOk x.a → s.sOk x.b →
     exec (.pmovs x) s = .next
       (((List.range 16).filter fun i => decide (1 ≤ i) && (s.sv x.b).getLsbD i).foldl
         (fun t i => t.putP i ((s.sv x.a).getLsbD i)) s)) ∧
   (∀ (x : ClsSK) (s : State), s.acts →
     (s.sOk x.s → exec (.movk x) s = .next (s.putK x.k.toNat 1 (s.sv x.s))) ∧
     (s.kOk x.k → exec (.kmov x) s = .next (s.putS x.s.toNat 1 (s.cur.kreg x.k.toNat)))))

/-- R98, R99, R14 and R22: transfers of control change only the next pc, and write the link; `nop` changes nothing. A direct
target in reach (R16) is what WellFormed bundles hold. -/
def Obligations.ControlTransferResults : Prop :=
  (∀ (x : ClsSO) (s : State), s.acts →
    0 ≤ (s.ctx.pc : Int) + x.off.toInt → (s.ctx.pc : Int) + x.off.toInt < 8192 →
    let t := ((s.ctx.pc : Int) + x.off.toInt).toNat
    exec (.jmp x) s = .next (s.modCur fun c => { c with pc := t }) ∧
    exec (.call x) s =
      .next ((s.putS x.d.toNat 1 (wrap (s.ctx.pc + 1))).modCur fun c => { c with pc := t })) ∧
  (∀ (x : ClsSJ) (s : State), s.acts → s.sOk x.a → s.cur.reaches ((s.sv x.a).toNat : Int) = true →
    exec (.jr x) s = .next (s.modCur fun c => { c with pc := (s.sv x.a).toNat }) ∧
    exec (.jalr x) s =
      .next ((s.putS x.d.toNat 1 (wrap (s.ctx.pc + 1))).modCur fun c => { c with pc := (s.sv x.a).toNat })) ∧
  (∀ (x : Tree) (s : State) (off : Int), s.acts → s.pOk →
    (leafOf x s.cur = 4 → off = x.g0.toInt) → (leafOf x s.cur = 5 → off = x.g1.toInt) →
    (leafOf x s.cur = 6 → off = x.g2.toInt) → (leafOf x s.cur = 7 → off = x.g3.toInt) →
    (leafOf x s.cur = 8 → off = 1) → 0 ≤ (s.ctx.pc : Int) + off → (s.ctx.pc : Int) + off < 8192 →
    exec (.treeBranch x) s = .next (s.modCur fun c => { c with pc := ((s.ctx.pc : Int) + off).toNat })) ∧
  (∀ s : State, s.acts → exec .nop s = .next s)

/-- R99: a register jump to a bundle that the core may not reach is an ILLB, with TINFO naming bit 78 (R100), at whatever
privilege: at T it traps, at H it is a handler fault. R39: a consumer of a poisoned scalar register traps with its cause;
TINFO names the register and the slot (Table 14-1). The op has no effect. R128: `mrow` of a row above 127 traps MXBOUND,
with source 8 and bit 7 in TINFO. R149: a store that would raise the charge above the declared `ssb` traps OCC. R144, Table
7-2: a misaligned flat address traps ALIGN with reason 1, the field code of the slot and the lowest offending bit; an
address with bits 63:48 set, reason 2. -/
def Obligations.OperandTraps : Prop :=
  (∀ (x : ClsSJ) (s : State), s.ctx.mode = .alone → s.sOk x.a → s.cur.reaches ((s.sv x.a).toNat : Int) = false →
     exec (.jr x) s = .next (s.takeStop (.trap 1 (illbInfo 78))) ∧
     exec (.jalr x) s = .next (s.takeStop (.trap 1 (illbInfo 78)))) ∧
  (∀ (x : ClsSR) (s : State) (p : Poison), s.ctx.mode = .alone → s.cur.spoi x.a.toNat = some p →
     BadReg.s x.a.toNat ∉ s.cur.bad → (p.cause = 3 ∨ p.cause = 5 ∨ p.cause = 8) → (x.b = x.a ∨ s.sOk x.b) →
     exec (.add x) s = .next (s.takeStop (.trap p.cause.toNat (consumerInfo s.ctx.slot x.a.toNat false))) ∧
     exec (.div x) s = .next (s.takeStop (.trap p.cause.toNat (consumerInfo s.ctx.slot x.a.toNat false)))) ∧
  (∀ (x : ClsMA) (s : State), s.ctx.mode = .alone → s.sOk x.s → s.accOk x.acc.toNat → 127 < (s.sv x.s).toNat →
     exec (.mrow x) s = .next (s.takeStop (.trap 12 (BitVec.ofNat 64 (8 + 7 * 16))))) ∧
  (∀ (x : ClsFS) (s : State) (e : XEntry), s.ctx.mode = .alone → s.ctx.slot = .st → s.cur.atH = false → s.sOk x.s →
     s.addrOk x.a (x.ty.width / 8) 48 → s.flatFree x.a (x.ty.width / 8) → s.writable x.a e →
     s.cur.occ.ssb < s.cur.charge + 32 →
     exec (.st x) s = .next ((s.modCur fun c => c.dropRes .issue).trapEntry s.ctx.core 13 (fieldInfo .st 0) s.ctx.pc)) ∧
  (∀ (x : ClsLL) (s : State), s.ctx.mode = .alone → s.cur.atH = false → s.ctx.slot = .ld → s.sOk x.a → s.loadRoom →
     let a := (s.sv x.a).toNat
     (x.ty.width = 64 → ∀ b, b < 3 → (s.sv x.a).getLsbD b = true → (∀ i < b, (s.sv x.a).getLsbD i = false) →
       exec (.ld x) s = .next ((s.modCur fun c => c.dropRes .issue).trapEntry s.ctx.core 14 (BitVec.ofNat 64 (1 * 8192 + 5 * 512 + b)) s.ctx.pc)) ∧
     (a % 8 = 0 → ∀ b, 48 ≤ b → b < 64 → (s.sv x.a).getLsbD b = true → (∀ i, 48 ≤ i → i < b → (s.sv x.a).getLsbD i = false) →
       exec (.ld x) s = .next ((s.modCur fun c => c.dropRes .issue).trapEntry s.ctx.core 14 (BitVec.ofNat 64 (2 * 8192 + 5 * 512 + b)) s.ctx.pc)))

/-! ## Vector ops (spec/05_vector.md) -/

/-- R107, integer types: the element ops of Table 5-3, each element from the elements at its place, reduced mod 2^w. -/
def Obligations.VectorIntegerResults : Prop :=
  ∀ (x : ClsVR) (s : State), s.acts → x.ty.isInt = true →
    let w := x.ty.width
    let a : Nat → Nat := Vec.elem w (s.cur.vreg x.va.toNat)
    let b : Nat → Nat := Vec.elem w (s.cur.vreg x.vb.toNat)
    let A : Nat → Int := fun e => Ty.val x.ty (a e)
    let B : Nat → Int := fun e => Ty.val x.ty (b e)
    let gives (i : Instr) (f : Nat → Nat) : Prop :=
      ∃ v, exec i s = .next (s.putV x.vd.toNat 2 v) ∧ s.elementwise x.vd x.k x.ty v f
    (s.vrOk 2 x →
      gives (.vadd x) (fun e => ofInt w (A e + B e)) ∧
      gives (.vsub x) (fun e => ofInt w (A e - B e)) ∧
      gives (.vmul x) (fun e => ofInt w (A e * B e)) ∧
      gives (.vmin x) (fun e => if A e ≤ B e then a e else b e) ∧
      gives (.vmax x) (fun e => if B e ≤ A e then a e else b e) ∧
      gives (.vand x) (fun e => a e &&& b e) ∧
      gives (.vor x) (fun e => a e ||| b e) ∧
      gives (.vxor x) (fun e => a e ^^^ b e) ∧
      gives (.vshl x) (fun e => if w ≤ b e then 0 else a e * 2 ^ b e) ∧
      gives (.vshr x) (fun e => if w ≤ b e then (if A e < 0 then 2 ^ w - 1 else 0) else ofInt w (A e / 2 ^ b e)) ∧
      gives (.vqadd x) (fun e => ofInt w (clampInt (Ty.lo x.ty) (Ty.hi x.ty) (A e + B e))) ∧
      gives (.vqsub x) (fun e => ofInt w (clampInt (Ty.lo x.ty) (Ty.hi x.ty) (A e - B e))) ∧
      gives (.vmulh x) (fun e => ofInt w (A e * B e / 2 ^ w)) ∧
      gives (.vavg x) (fun e => ofInt w ((A e + B e + 1) / 2))) ∧
    (s.vrOk 1 x →
      gives (.vabs x) (fun e => ofInt w (A e).natAbs) ∧
      gives (.vneg x) (fun e => ofInt w (-A e)) ∧
      gives (.vclz x) (fun e => ((List.range w).takeWhile fun i => !(a e).testBit (w - 1 - i)).length) ∧
      gives (.vpopc x) (fun e => ((List.range w).filter fun i => (a e).testBit i).length) ∧
      gives (.vmov x) a)

/-- R107 and R108, the types `.f32`, `.f16` and `.bf16`: one rounding of the exact result, by the op's mode and the element's
draw (R76, R77). R109: a NaN gives the canonical NaN, −0 orders below +0, and the result is otherwise an operand unchanged,
at most (at least) each of the two. -/
def Obligations.VectorFloatResults : Prop :=
  (∀ (x : ClsVR) (s : State) (F : Fmt), s.acts → Ty.fmt x.ty = some F →
     let w := x.ty.width
     let a : Nat → Nat := Vec.elem w (s.cur.vreg x.va.toNat)
     let b : Nat → Nat := Vec.elem w (s.cur.vreg x.vb.toNat)
     let c : Nat → Nat := Vec.elem w (s.cur.vreg x.vc.toNat)
     let A : Nat → FVal := fun e => F.decode (a e)
     let B : Nat → FVal := fun e => F.decode (b e)
     let C : Nat → FVal := fun e => F.decode (c e)
     let R (e : Nat) (y : FVal) : Nat := F.roundVal x.rm (s.cur.drawFor x.rm e) y
     let gives (i : Instr) (lat : Nat) (f : Nat → Nat) : Prop :=
       ∃ v, exec i s = .next (s.putV x.vd.toNat lat v) ∧ s.elementwise x.vd x.k x.ty v f
     (s.vrOk 2 x →
       gives (.vadd x) 4 (fun e => R e (FVal.add x.rm (A e) (B e))) ∧
       gives (.vsub x) 4 (fun e => R e (FVal.add x.rm (A e) (B e).neg)) ∧
       gives (.vmul x) 4 (fun e => R e (FVal.mul (A e) (B e))) ∧
       gives (.vmin x) 4 (fun e => F.minMax false (a e) (b e)) ∧
       gives (.vmax x) 4 (fun e => F.minMax true (a e) (b e))) ∧
     (s.vrOk 3 x →
       gives (.vfma x) 4 (fun e => R e (FVal.add x.rm (FVal.mul (A e) (B e)) (C e))) ∧
       gives (.vfms x) 4 (fun e => R e (FVal.add x.rm (FVal.mul (A e) (B e)) (C e).neg)) ∧
       gives (.vfnma x) 4 (fun e => R e (FVal.add x.rm (FVal.mul (A e) (B e)).neg (C e)))) ∧
     (s.vrOk 1 x →
       gives (.vabs x) 2 (fun e => if F.isNan (a e) then F.nan else a e % 2 ^ (F.width - 1)) ∧
       gives (.vneg x) 2 (fun e => if F.isNan (a e) then F.nan else a e ^^^ 2 ^ (F.width - 1)) ∧
       gives (.vmov x) 2 a)) ∧
  (∀ (F : Fmt) (isMax : Bool) (a b : Nat), F ∈ [fmt32, fmt16, fmtB16] → a < 2 ^ F.width → b < 2 ^ F.width →
     F.minMax isMax 0 (2 ^ (F.width - 1)) = (if isMax then 0 else 2 ^ (F.width - 1)) ∧
     F.minMax isMax (2 ^ (F.width - 1)) 0 = (if isMax then 0 else 2 ^ (F.width - 1)) ∧
     (F.isNan a = true ∨ F.isNan b = true → F.minMax isMax a b = F.nan) ∧
     (F.isNan a = false → F.isNan b = false →
       (F.minMax isMax a b = a ∨ F.minMax isMax a b = b) ∧
       (isMax = false → (F.decode (F.minMax isMax a b)).cmp (F.decode a) ≤ 0 ∧ (F.decode (F.minMax isMax a b)).cmp (F.decode b) ≤ 0) ∧
       (isMax = true → 0 ≤ (F.decode (F.minMax isMax a b)).cmp (F.decode a) ∧ 0 ≤ (F.decode (F.minMax isMax a b)).cmp (F.decode b))))

/-- R110: the ops with the scalar operand X = s[w-1:0] in place of B. -/
def Obligations.VectorScalarOperandResults : Prop :=
  (∀ (x : ClsVS) (s : State), s.acts → s.vsOk true x →
    let w := x.ty.width
    let a : Nat → Nat := Vec.elem w (s.cur.vreg x.va.toNat)
    let X : Nat := (s.sv x.s).toNat % 2 ^ w
    let gives (i : Instr) (lat : Nat) (f : Nat → Nat) : Prop :=
      ∃ v, exec i s = .next (s.putV x.vd.toNat lat v) ∧ s.elementwise x.vd x.k x.ty v f
    (x.ty.isInt = true →
      gives (.vaddsc x) 2 (fun e => ofInt w (Ty.val x.ty (a e) + Ty.val x.ty X)) ∧
      gives (.vsubsc x) 2 (fun e => ofInt w (Ty.val x.ty (a e) - Ty.val x.ty X)) ∧
      gives (.vmulsc x) 2 (fun e => ofInt w (Ty.val x.ty (a e) * Ty.val x.ty X)) ∧
      gives (.vminsc x) 2 (fun e => if Ty.val x.ty (a e) ≤ Ty.val x.ty X then a e else X) ∧
      gives (.vmaxsc x) 2 (fun e => if Ty.val x.ty X ≤ Ty.val x.ty (a e) then a e else X)) ∧
    (∀ F, Ty.fmt x.ty = some F →
      let R (e : Nat) (y : FVal) : Nat := F.roundVal x.rm (s.cur.drawFor x.rm e) y
      gives (.vaddsc x) 4 (fun e => R e (FVal.add x.rm (F.decode (a e)) (F.decode X))) ∧
      gives (.vsubsc x) 4 (fun e => R e (FVal.add x.rm (F.decode (a e)) (F.decode X).neg)) ∧
      gives (.vmulsc x) 4 (fun e => R e (FVal.mul (F.decode (a e)) (F.decode X))) ∧
      gives (.vminsc x) 4 (fun e => F.minMax false (a e) X) ∧
      gives (.vmaxsc x) 4 (fun e => F.minMax true (a e) X))) ∧
  (∀ (x : ClsVS) (s : State), s.acts → s.vsOk false x →
    ∃ v, exec (.vbcast x) s = .next (s.putV x.vd.toNat 2 v) ∧
      s.elementwise x.vd x.k x.ty v (fun _ => (s.sv x.s).toNat % 2 ^ x.ty.width))

/-- R111: the bit of each element's lane holds the relation where the element is active, 0 elsewhere; for 64-bit elements the
odd bit repeats it. Any NaN makes every relation false but `vcne`. -/
def Obligations.VectorCompareResults : Prop :=
  ∀ (x : ClsVR) (s : State), s.acts → s.vOk x.va → s.vOk x.vb → s.kOk x.k → x.ty.width = 32 ∨ x.ty.width = 64 →
    let w := x.ty.width
    let a : Nat → Nat := Vec.elem w (s.cur.vreg x.va.toNat)
    let b : Nat → Nat := Vec.elem w (s.cur.vreg x.vb.toNat)
    let gives (i : Instr) (r : Nat → Bool) : Prop :=
      ∃ v, exec i s = .next (s.putK (x.vd.toNat % 8) 2 v) ∧ ∀ e < 2048 / w,
        v.getLsbD (laneOf e w) = (active (s.cur.kreg x.k.toNat) e w && r e) ∧
        (w = 64 → v.getLsbD (2 * e + 1) = (active (s.cur.kreg x.k.toNat) e w && r e))
    (x.ty.isInt = true →
      gives (.vceq x) (fun e => decide (Ty.val x.ty (a e) = Ty.val x.ty (b e))) ∧
      gives (.vcne x) (fun e => decide (Ty.val x.ty (a e) ≠ Ty.val x.ty (b e))) ∧
      gives (.vclt x) (fun e => decide (Ty.val x.ty (a e) < Ty.val x.ty (b e))) ∧
      gives (.vcle x) (fun e => decide (Ty.val x.ty (a e) ≤ Ty.val x.ty (b e))) ∧
      gives (.vcgt x) (fun e => decide (Ty.val x.ty (a e) > Ty.val x.ty (b e))) ∧
      gives (.vcge x) (fun e => decide (Ty.val x.ty (a e) ≥ Ty.val x.ty (b e)))) ∧
    (x.ty = .f32 →
      let nan (e : Nat) : Bool := fmt32.isNan (a e) || fmt32.isNan (b e)
      let c (e : Nat) : Int := (fmt32.decode (a e)).cmp (fmt32.decode (b e))
      gives (.vceq x) (fun e => !nan e && decide (c e = 0)) ∧
      gives (.vcne x) (fun e => nan e || decide (c e ≠ 0)) ∧
      gives (.vclt x) (fun e => !nan e && decide (c e < 0)) ∧
      gives (.vcle x) (fun e => !nan e && decide (c e ≤ 0)) ∧
      gives (.vcgt x) (fun e => !nan e && decide (c e > 0)) ∧
      gives (.vcge x) (fun e => !nan e && decide (c e ≥ 0)))

/-- R112 and R113: `vsel` selects by its mask and does not read its destination; the mask ops are bitwise. R115: `vmovs` takes
one element out, sign-extended for signed types; `vins` puts one in and keeps the others. -/
def Obligations.SelectMaskAndElementResults : Prop :=
  ((∀ (x : ClsVR) (s : State), s.acts → s.vOk x.va → s.vOk x.vb → s.kOk x.k →
     ∃ v, exec (.vsel x) s = .next (s.putV x.vd.toNat 2 v) ∧ ∀ e < 2048 / x.ty.width,
       Vec.elem x.ty.width v e =
         if active (s.cur.kreg x.k.toNat) e x.ty.width then Vec.elem x.ty.width (s.cur.vreg x.va.toNat) e
         else Vec.elem x.ty.width (s.cur.vreg x.vb.toNat) e) ∧
   (∀ (x : ClsVK) (s : State), s.acts → s.kOk x.ka →
     let A := s.cur.kreg x.ka.toNat
     let B := s.cur.kreg x.kb.toNat
     exec (.knot x) s = .next (s.putK x.kd.toNat 2 (~~~A)) ∧
     (s.kOk x.kb →
       exec (.kand x) s = .next (s.putK x.kd.toNat 2 (A &&& B)) ∧
       exec (.kor x) s = .next (s.putK x.kd.toNat 2 (A ||| B)) ∧
       exec (.kxor x) s = .next (s.putK x.kd.toNat 2 (A ^^^ B))))) ∧
  (∀ (x : ClsVL) (s : State), s.acts → s.vOk x.v → x.lane.toNat < 2048 / x.ty.width →
     exec (.vmovs x) s = .next (s.putS x.s.toNat 2
       (wrap (Ty.val x.ty (Vec.elem x.ty.width (s.cur.vreg x.v.toNat) x.lane.toNat)))) ∧
     (s.sOk x.s → ∃ v, exec (.vins x) s = .next (s.putV x.v.toNat 2 v) ∧ ∀ e < 2048 / x.ty.width,
       Vec.elem x.ty.width v e =
         if e = x.lane.toNat then (s.sv x.s).toNat % 2 ^ x.ty.width else Vec.elem x.ty.width (s.cur.vreg x.v.toNat) e))

/-- R114, Table 5-5: the permutes, element by element, and `vcomp`, which packs the active elements in order. -/
def Obligations.PermuteResults : Prop :=
  (∀ (x : ClsVR) (s : State), s.acts → s.vrOk 3 x →
    let w := x.ty.width
    let n := 2048 / w
    let a : Nat → Nat := Vec.elem w (s.cur.vreg x.va.toNat)
    let b : Nat → Nat := Vec.elem w (s.cur.vreg x.vb.toNat)
    let c : Nat → Nat := Vec.elem w (s.cur.vreg x.vc.toNat)
    let gives (i : Instr) (f : Nat → Nat) : Prop :=
      ∃ v, exec i s = .next (s.putV x.vd.toNat 2 v) ∧ s.elementwise x.vd x.k x.ty v f
    gives (.vperm x) (fun e => if b e < n then a (b e) else if b e < 2 * n then c (b e - n) else 0)) ∧
  (∀ (x : ClsVR) (s : State), s.acts → s.vrOk 2 x → x.vc.toNat ≤ 1 →
    let w := x.ty.width
    let n := 2048 / w
    let h := x.vc.toNat
    let a : Nat → Nat := Vec.elem w (s.cur.vreg x.va.toNat)
    let b : Nat → Nat := Vec.elem w (s.cur.vreg x.vb.toNat)
    let gives (i : Instr) (f : Nat → Nat) : Prop :=
      ∃ v, exec i s = .next (s.putV x.vd.toNat 2 v) ∧ s.elementwise x.vd x.k x.ty v f
    gives (.vzip x) (fun e => if e % 2 = 0 then a (e / 2 + h * n / 2) else b (e / 2 + h * n / 2)) ∧
    gives (.vunzip x) (fun e => if 2 * e + h < n then a (2 * e + h) else b (2 * e + h - n))) ∧
  (∀ (x : ClsVS) (s : State), s.acts → s.vsOk true x →
    let w := x.ty.width
    let n := 2048 / w
    let a : Nat → Nat := Vec.elem w (s.cur.vreg x.va.toNat)
    let gives (i : Instr) (f : Nat → Nat) : Prop :=
      ∃ v, exec i s = .next (s.putV x.vd.toNat 2 v) ∧ s.elementwise x.vd x.k x.ty v f
    gives (.vrot x) (fun e => a (((e : Int) - (s.sv x.s).toNat) % n).toNat) ∧
    gives (.vslide x) (fun e =>
      if 0 ≤ (e : Int) + (s.sv x.s).toInt ∧ (e : Int) + (s.sv x.s).toInt < n then a ((e : Int) + (s.sv x.s).toInt).toNat else 0)) ∧
  (∀ (x : ClsVX) (s : State), s.acts → s.vOk x.va → (x.k ≠ 0 → s.vOk x.vd) → s.kOk x.k →
    ∃ v, exec (.vbrd x) s = .next (s.putV x.vd.toNat 2 v) ∧
      s.elementwise x.vd x.k x.ty v (fun _ => Vec.elem x.ty.width (s.cur.vreg x.va.toNat) x.imm.toNat)) ∧
  (∀ (x : ClsVR) (s : State), s.acts → s.vOk x.va → s.kOk x.k →
    ∃ v, exec (.vcomp x) s = .next (s.putV x.vd.toNat 2 v) ∧ ∀ e < 2048 / x.ty.width,
      Vec.elem x.ty.width v e =
        (((List.range (2048 / x.ty.width)).filter fun i => active (s.cur.kreg x.k.toNat) i x.ty.width).map
          fun i => Vec.elem x.ty.width (s.cur.vreg x.va.toNat) i).getD e 0)

/-- R116: an integer sum is the exact sum of the active elements mod 2^64, a minimum the least of them; with no active element
a sum is 0, a minimum the largest and a maximum the smallest value of the type. Floats are reduced over the fixed tree; a NaN is
written as the canonical one (R73). -/
def Obligations.ReductionResults : Prop :=
  ∀ (x : ClsVS) (s : State), s.acts → s.vOk x.va → s.kOk x.k → s.drawOk x.rm →
    let w := x.ty.width
    let on (e : Nat) : Bool := active (s.cur.kreg x.k.toNat) e w
    let a : Nat → Nat := Vec.elem w (s.cur.vreg x.va.toNat)
    let act := (List.range (2048 / w)).filter on
    (x.ty.isInt = true →
      exec (.vrsum x) s = .next (s.putS x.s.toNat 6 (wrap ((act.map fun e => Ty.val x.ty (a e)).sum))) ∧
      (∃ r : Int, exec (.vrmin x) s = .next (s.putS x.s.toNat 6 (wrap r)) ∧
        (act = [] → r = Ty.hi x.ty) ∧ (act ≠ [] → ∃ e ∈ act, r = Ty.val x.ty (a e)) ∧ ∀ e ∈ act, r ≤ Ty.val x.ty (a e)) ∧
      (∃ r : Int, exec (.vrmax x) s = .next (s.putS x.s.toNat 6 (wrap r)) ∧
        (act = [] → r = Ty.lo x.ty) ∧ (act ≠ [] → ∃ e ∈ act, r = Ty.val x.ty (a e)) ∧ ∀ e ∈ act, Ty.val x.ty (a e) ≤ r)) ∧
    (∀ F, Ty.fmt x.ty = some F →
      let leaves := (List.range (2048 / w)).map fun e => if on e then some (a e) else none
      let L := Nat.log2 (2048 / w)
      let canon (n : Nat) : Nat := if F.isNan n then F.nan else n
      exec (.vrsum x) s = .next (s.putS x.s.toNat 12 (wrap (canon ((treeReduce (fun l j p q =>
        F.roundVal x.rm (s.cur.drawFor x.rm (64 * (l - 1) + j)) (FVal.add x.rm (F.decode p) (F.decode q))) L 1 leaves).getD 0)))) ∧
      exec (.vrmin x) s = .next (s.putS x.s.toNat 12 (wrap (canon ((treeReduce (fun _ _ p q => F.minMax false p q) L 1 leaves).getD
        (F.infC.getD F.maxC))))) ∧
      exec (.vrmax x) s = .next (s.putS x.s.toNat 12 (wrap (canon ((treeReduce (fun _ _ p q => F.minMax true p q) L 1 leaves).getD
        (F.sign true + F.infC.getD F.maxC))))))

/-- R117: element i below n = 2,048 / max(ws, wr) takes the conversion of source element i; the others become zero. R118 and
R119: record j of `vbfpe` encodes elements 32j to 32j+31, inactive ones as +0, into 4b + 1 bytes, zero after the last;
element 32j + i of `vbfpd` is mantissa i of record j, rounded once. -/
def Obligations.ConversionAndBlockFloatResults : Prop :=
  (∀ (x : ClsVT) (s : State), s.acts → s.vOk x.va → (x.k ≠ 0 → s.vOk x.vd) → s.kOk x.k → s.drawOk x.rm →
     let ws := x.src.width
     let wr := x.res.width
     let n := 2048 / Nat.max ws wr
     ∃ v, exec (.vcvt x) s = .next (s.putV x.vd.toNat 4 v) ∧
       (∀ e < n, Vec.elem wr v e =
         if active (s.cur.kreg x.k.toNat) e (Nat.max ws wr) then
           convert x.src x.res x.rm (s.cur.drawFor x.rm e) (Vec.elem ws (s.cur.vreg x.va.toNat) e) % 2 ^ wr
         else Vec.elem wr (s.cur.vreg x.vd.toNat) e) ∧
       (∀ e, n ≤ e → e < 2048 / wr → Vec.elem wr v e = 0)) ∧
  (∀ (x : ClsVF) (s : State) (F : Fmt), s.acts → s.vOk x.va → s.kOk x.k → s.drawOk x.rm → Ty.fmt x.ty = some F →
     x.ty ∈ [.f32, .f16, .bf16] → x.bm2.toNat ≤ 6 →
     let w := x.ty.width
     let n := 2048 / w
     let b := x.bm2.toNat + 2
     let u (e : Nat) : Nat := s.cur.drawFor x.rm e
     let X (e : Nat) : FVal :=
       if active (s.cur.kreg x.k.toNat) e w then F.decode (Vec.elem w (s.cur.vreg x.va.toNat) e) else .fin false 0 0
     (∃ v, exec (.vbfpe x) s = .next (s.putV x.vd.toNat 6 v) ∧
       (∀ j < n / 32, v.toNat / 2 ^ (8 * bfpBytes b * j) % 2 ^ (8 * bfpBytes b) =
         bfpEncode b x.rm ((List.range 32).map fun i => (X (32 * j + i), u (32 * j + i))) % 2 ^ (8 * bfpBytes b)) ∧
       v.toNat < 2 ^ (8 * bfpBytes b * (n / 32))) ∧
     (∃ v, exec (.vbfpd x) s = .next (s.putV x.vd.toNat 4 v) ∧ ∀ j < n / 32, ∀ i < 32,
       Vec.elem w v (32 * j + i) =
         F.roundVal x.rm (u (32 * j + i))
           (bfpValue b ((s.cur.vreg x.va.toNat).toNat / 2 ^ (8 * bfpBytes b * j) % 2 ^ (8 * bfpBytes b)) i) % 2 ^ w))

/-- R120 and R122: the special functions by element, with the inputs of Table 5-7, and the generator.
Arguments of `vexp2` and `vlog2` that Table 5-7 does not list are taken to the precision that log 9 names. -/
def Obligations.SpecialFunctionResults : Prop :=
  (∀ (x : ClsVR) (s : State), s.acts → s.vrOk 1 x → x.ty = .f32 →
    let a : Nat → Nat := Vec.elem 32 (s.cur.vreg x.va.toNat)
    let u (e : Nat) : Nat := s.cur.drawFor x.rm e
    let gives (i : Instr) (lat : Nat) (f : Nat → Nat) : Prop :=
      ∃ v, exec i s = .next (s.putV x.vd.toNat lat v) ∧ s.elementwise x.vd x.k x.ty v f
    gives (.vrcp x) 10 (fun e => rcp32 x.rm (u e) (a e)) ∧
    gives (.vrsqrt x) 10 (fun e => rsqrt32 x.rm (u e) (a e)) ∧
    gives (.vexp2 x) 12 (fun e => exp2_32 x.rm (u e) (a e)) ∧
    gives (.vlog2 x) 12 (fun e => log2_32 x.rm (u e) (a e))) ∧
  (∀ (rm : Rm) (u : Nat),
    -- Table 5-7: NaN, −∞, −0, +0, +∞
    [0x7FC00000, 0xFF800000, 0x80000000, 0x00000000, 0x7F800000].map (rcp32 rm u) =
      [0x7FC00000, 0x80000000, 0xFF800000, 0x7F800000, 0x00000000] ∧
    [0x7FC00000, 0xFF800000, 0x80000000, 0x00000000, 0x7F800000].map (rsqrt32 rm u) =
      [0x7FC00000, 0x7FC00000, 0xFF800000, 0x7F800000, 0x00000000] ∧
    [0x7FC00000, 0xFF800000, 0x80000000, 0x00000000, 0x7F800000].map (exp2_32 rm u) =
      [0x7FC00000, 0x00000000, 0x3F800000, 0x3F800000, 0x7F800000] ∧
    [0x7FC00000, 0xFF800000, 0x80000000, 0x00000000, 0x7F800000].map (log2_32 rm u) =
      [0x7FC00000, 0x7FC00000, 0xFF800000, 0xFF800000, 0x7F800000]) ∧
  (∀ (x : ClsVS) (s : State), s.acts → s.sOk x.s → s.sOk (x.s + 1) → x.s.toNat % 2 = 0 → (x.k ≠ 0 → s.vOk x.vd) → s.kOk x.k →
    x.ty = .n32 →
    ∃ v, exec (.vrng x) s = .next (s.putV x.vd.toNat 5 v) ∧
      s.elementwise x.vd x.k x.ty v fun e =>
        rngG (s.sv (x.s + 1)).toNat (((s.sv x.s).toNat + e) % 2 ^ 64))

/-! ## Matrix ops (spec/06_matrix.md) -/

/-- Table 6-1: the MX ops that complete at once. Each signals at the end of its latency. Table 6-1 and R129: `mclr`, and `mstop`
of an accumulator that no routine targets, leave it zero, its watermark at 128, its flags clear; the other accumulators
stay. A running EADD that reads the accumulator keeps both waiting. The routine that `mstop` ends makes its signal, at once
where its release has nothing to wait for, else when that is done (log 99). -/
def Obligations.MatrixRegisterResults : Prop :=
  ((∀ (x : ClsMP) (s : State), s.acts →
     (s.sOk x.s → exec (.mpw x) s =
       .next ((s.modCur fun c => c.push .mp x.mp.toNat 1 (Word.toVec (s.sv x.s)) none).owe 1)) ∧
     (s.mpOk x.mp.toNat → exec (.mpr x) s = .next ((s.putS x.s.toNat 1 (s.cur.mpreg x.mp.toNat)).owe 1))) ∧
   (∀ (x : ClsMA) (s : State), s.acts →
     let n := x.acc.toNat
     exec (.mwm x) s = .next ((s.putS x.s.toNat 1 (BitVec.ofNat 64 (s.cur.accWm n))).owe 1) ∧
     (s.sOk x.s → s.accOk n → (s.sv x.s).toNat < s.cur.accWm n → (s.sv x.s).toNat ≤ 127 →
       exec (.mrow x) s = .next ((s.putV x.v.toNat 4 (s.cur.accRow n (s.sv x.s).toNat)).owe 4)) ∧
     (s.vOk x.v → (∀ r, s.cur.routine = some r → r.idx ≠ 2 ∧ r.idx ≠ 3) →
       ∃ g : BitVec 1024, exec (.mgix x) s = .next ((s.modCur fun c => { c with gix := g, bad := c.bad.filter (· != .gix) }).owe 1) ∧
         ∀ i < 128, g.toNat / 2 ^ (8 * i) % 256 = (s.cur.vreg x.v.toNat).toNat / 2 ^ (8 * i) % 256) ∧
     (s.cur.accWm n = 128 →
       exec (.mwait x) s = .next (s.owe 1) ∧
       exec (.mflg x) s = .next ((s.putS x.s.toNat 1
         ((if Tab.get false s.cur.ovf n then 1 else 0) + (if Tab.get false s.cur.sat n then 2 else 0))).owe 1)))) ∧
  (∀ (x : ClsMA) (s : State), s.acts →
     let n := x.acc.toNat
     (s.cur.accWm n = 128 → s.cur.eaddReads n = false →
       exec (.mclr x) s = .next ((s.modCur fun c => c.clearAcc n).owe 1)) ∧
     ((∀ r, s.cur.routine = some r → r.target ≠ n) → s.cur.eaddReads n = false →
       exec (.mstop x) s = .next ((s.modCur fun c => c.clearAcc n).owe 1)) ∧
     (∀ r, s.cur.routine = some r → r.target = n →
       (r.rel = false ∨ s.engineReleased s.ctx.core r.before r.scope = true →
         exec (.mstop x) s =
           .next ((s.modCur fun c => (({ c with routine := none } : Core).signal r.sig).clearAcc n).owe 1)) ∧
       (r.rel = true → s.engineReleased s.ctx.core r.before r.scope = false →
         exec (.mstop x) s = .next ((s.modCur fun c => ({ c with
           routine := none, relSigs := c.relSigs ++ [⟨r.before, r.scope, r.sig⟩] } : Core).clearAcc n).owe 1))) ∧
     (∀ (c : Core) (m r : Nat), r < 128 →
       (c.clearAcc n).accRow m r = (if m = n then 0 else c.accRow m r)) ∧
     (∀ c : Core, (c.clearAcc n).accWm n = 128 ∧ (c.clearAcc n).accFlags n = 0))

/-- R126: an `mcall` whose routine is loaded, with no routine running, registers that can be read and parameters that pass R132, sets
ACCWn to 0 and starts the routine on the parameters as they stand. -/
def Obligations.RoutineStarts : Prop :=
  ∀ (x : ClsMC) (s : State), s.acts → s.cur.routine = none →
    let a : MArgs := ⟨(List.range 8).map s.cur.mpreg⟩
    let starts (i : Instr) (k : Nat) (counts : List Nat) : Prop :=
      ∃ r : Routine, exec i s = .next (s.modCur fun c => { (c.setAccWm x.acc.toNat 0) with routine := some r }) ∧
        r.idx = k ∧ r.target = x.acc.toNat ∧ r.mps = (List.range 8).map s.cur.mpreg ∧ r.gix = s.cur.gix ∧
        r.counts = counts ∧ r.wb = false ∧ r.acqd = false ∧ r.acq = x.acq ∧ r.rel = x.rel ∧ r.scope = x.scope ∧
        r.sig = s.cur.sigOf s.ctx.ws
    let ready (k : Nat) : Prop := k ∈ s.cur.store ∧ s.srcStops (a.sources k x.acc.toNat) = []
    let product (k : Nat) : Prop := ready k ∧ a.prodBad k s.cur.gix [] [] = []
    let epilogue (k : Nat) : Prop := ready k ∧ a.epiBad k = []
    let words := s.cur.groupTable a
    let counts := words.map (· % 256)
    let group (k : Nat) : Prop := ready k ∧ 1 ≤ a.g ∧ a.g ≤ 16 ∧ a.gAt 0 % 8 = 0 ∧ a.gAt a.g ≤ 2 ^ 22 ∧
      (∀ n ∈ [a.gAt 0 / 65536, (a.gAt a.g - 1) / 65536], (s.cur.slot n).state = .ready ∧ (s.cur.slot n).zeroing = false) ∧
      s.cur.scratchBad (a.gAt 0) (8 * a.g) = false ∧ (∀ w ∈ words, w < 2 ^ 30) ∧ passes128 counts 0 0 = none ∧
      a.prodBad k s.cur.gix counts (words.map fun w => w / 256 % 2 ^ 22) = []
    (product 0 → starts (.mcallBmm x) 0 []) ∧ (product 1 → starts (.mcallBmmz x) 1 []) ∧
    (product 2 → starts (.mcallBmmg x) 2 []) ∧ (product 3 → starts (.mcallBmmgz x) 3 []) ∧
    (product 4 → starts (.mcallHmm x) 4 []) ∧ (product 5 → starts (.mcallHmmz x) 5 []) ∧
    (product 6 → starts (.mcallFmm x) 6 []) ∧ (product 7 → starts (.mcallFmmz x) 7 []) ∧
    (product 8 → starts (.mcallImm x) 8 []) ∧ (product 9 → starts (.mcallImmz x) 9 []) ∧
    (group 10 → starts (.mcallGrouped x) 10 counts) ∧ (group 11 → starts (.mcallGroupedh x) 11 counts) ∧
    (epilogue 12 → starts (.mcallEbias x) 12 []) ∧ (epilogue 13 → starts (.mcallEscale x) 13 []) ∧
    (epilogue 14 → starts (.mcallErelu x) 14 []) ∧ (epilogue 15 → starts (.mcallEadd x) 15 []) ∧
    (epilogue 16 → starts (.mcallEload x) 16 []) ∧ (epilogue 17 → starts (.mcallEcvt x) 17 []) ∧
    (epilogue 18 → starts (.mcallEbfp x) 18 []) ∧ (epilogue 19 → starts (.mcallErowmax x) 19 [])

/-- R136, ERELU of `.s32`: a step of the routine makes the elements of its four rows at least 0, leaves every other row, and
raises the watermark by 4; with the last rows, once its release has nothing to wait for (R127), the routine ends, its watermark at
128. -/
def Obligations.ReluStepResult : Prop :=
  ∀ (core : Nat) (s : State) (r : Routine), (s.core core).routine = some r →
    (s.core core).run ∉ [.stopping, .frozen, .quarantined] → r.idx = 14 → (MArgs.mk r.mps).fld 4 56 1 = 1 → r.wb = true → r.row + 4 ≤ 128 →
    (r.row + 4 = 128 → r.rel = true → (s.payReleased core).engineReleased core r.before r.scope = true) →
    ∃ t, exec (.routineStep core) s = .next t ∧
      (∀ i < 128, ∀ j < 64, Vec.elem 32 ((t.core core).accRow r.target i) j =
        if r.row ≤ i ∧ i < r.row + 4 ∧ 2 ^ 31 ≤ Vec.elem 32 ((s.core core).accRow r.target i) j then 0
        else Vec.elem 32 ((s.core core).accRow r.target i) j) ∧
      (t.core core).accWm r.target = r.row + 4 ∧
      (r.row + 4 < 128 → (t.core core).routine = some { r with row := r.row + 4 }) ∧
      (r.row + 4 = 128 → (t.core core).routine = none) ∧
      (∀ d, d ≠ core → t.core d = s.core d) ∧ t.mem = s.mem

/-! ## Loads, stores, streams, atomics and remote ops (spec/07_memory_instructions.md) -/

/-- R145, R148: the flat loads, `gath` and the remote loads take an entry of the outstanding-load table, with their declared
latency, kind, type, destination and address. R64, R145: what an entry taken by a local load holds, and that nothing but the
table of its privilege and the count of loads changes. -/
def Obligations.LoadIssueResults : Prop :=
  ((∀ (x : ClsLL) (s : State), s.acts → s.loadRoom →
     (s.addrOk x.a (x.ty.width / 8) 48 → s.flatFree x.a (x.ty.width / 8) →
       exec (.ld x) s = .next (s.takeLoad (s.newLoad 0 false x.d.toNat x.D.toNat (Ty.code x.ty) (s.sv x.a)))) ∧
     (s.addrOk x.a 256 48 → s.flatFree x.a 256 →
       exec (.ldv x) s = .next (s.takeLoad (s.newLoad 1 true (x.d.toNat % 32) x.D.toNat 0 (s.sv x.a))))) ∧
   (∀ (x : ClsRL) (s : State), s.acts → s.loadRoom → s.memberOk x.a →
     (s.addrOk x.a 8 54 →
       exec (.rld x) s = .next (s.takeLoad (s.newLoad 3 false x.d.toNat x.D.toNat 0 (s.sv x.a)))) ∧
     (s.addrOk x.a 256 54 →
       exec (.rldv x) s = .next (s.takeLoad (s.newLoad 4 true (x.d.toNat % 32) x.D.toNat 0 (s.sv x.a))))) ∧
   (∀ (x : ClsLG) (s : State), s.acts → s.loadRoom → s.vOk x.vi → x.q.toNat < s.cur.occ.streams →
     (s.sq x.q).loaded = true → (SDesc.ofBits (s.sq x.q).desc).gathers = true →
     ∃ l : Load, exec (.gath x) s = .next (s.takeLoad l) ∧ l.kind = 2 ∧ l.vec = true ∧ l.reg = x.d.toNat % 32 ∧
       l.rem = x.D.toNat + 1 ∧ l.valid = true ∧ l.desc = (s.sq x.q).desc ∧ l.vi = s.cur.vreg x.vi.toNat)) ∧
  (∀ (s : State) (l : Load), l.kind ≤ 2 → (∀ y ∈ s.cur.loads ++ s.cur.hloads, y.kind ≠ 3 ∧ y.kind ≠ 4) →
     (s.takeLoad l) = s.modCur fun c =>
       if c.atH then { c with loadSeq := c.loadSeq + 1, hloads := c.hloads ++ [l] }
       else { c with loadSeq := c.loadSeq + 1, loads := c.loads ++ [l] })

/-- R145: an outcome that falls due. In time and good, the destination takes the value; in time with a cause, or late, it is
poisoned, LATE holding the replay word of Table 14-4. A destination of `s0` discards it. -/
def Obligations.LoadOutcomeRule : Prop :=
  ∀ (c : Core) (x : Load), x.dead = false → x.kind ≠ 5 → x.sig.inc = 0 → x.zero = false →
    (x.vec = false → x.reg ≠ 0 →
      (x.arrived = true → x.cause = 0 → (c.outcome x).sreg x.reg = Vec.word x.val ∧ (c.outcome x).spoi x.reg = none) ∧
      (x.arrived = true → x.cause ≠ 0 → x.cause < 16 →
        ((c.outcome x).spoi x.reg).map (·.cause.toNat) = some x.cause) ∧
      (x.arrived = false → (c.outcome x).sreg x.reg = x.replayWord ∧ ((c.outcome x).spoi x.reg).map (·.cause.toNat) = some 8)) ∧
    (x.vec = true →
      (x.arrived = true → x.cause = 0 → (c.outcome x).vreg x.reg = x.val ∧ (c.outcome x).vpoi x.reg = none) ∧
      (x.arrived = false → ((c.outcome x).vpoi x.reg).map (·.cause.toNat) = some 8)) ∧
    (∀ r, r ≠ x.reg ∨ x.vec = true → (c.outcome x).sreg r = c.sreg r ∧ (c.outcome x).spoi r = c.spoi r) ∧
    (∀ r, r ≠ x.reg ∨ x.vec = false → (c.outcome x).vreg r = c.vreg r) ∧
    (x.vec = false → x.reg = 0 → (c.outcome x).s = c.s)

/-- R148: the scratchpad loads read the bytes as they stand and deliver them 6 bundles later, poisoned SEALED out of a slot that
`seqend` emptied. R148: the scratchpad stores write at issue: exactly the bytes named, and an EMPTY slot becomes READY under
SEQB. -/
def Obligations.ScratchpadAccessResults : Prop :=
  (∀ (x : ClsLT) (s : State), s.acts →
     let a := (s.sv x.a).toNat
     (s.addrOk x.a 256 22 → s.slotOpen x.a 256 false → (s.cur.slotSealed a = true ∨ s.cur.scratchBad a 256 = false) →
       exec (.ldt x) s = .next ((s.putV (x.d.toNat % 32) 6 (BitVec.ofNat 2048 (leVal (s.cur.scratch a 256)))
         (if s.cur.slotSealed a then some ⟨5, .slot (a / 65536)⟩ else none)).owe 6)) ∧
     (s.addrOk x.a 8 22 → s.slotOpen x.a 8 false → (s.cur.slotSealed a = true ∨ s.cur.scratchBad a 8 = false) →
       (x.d = 0 → exec (.ldts x) s = .next (s.owe 6)) ∧
       (x.d ≠ 0 → exec (.ldts x) s = .next ((s.modCur fun c =>
         c.push .s x.d.toNat 6 (BitVec.ofNat 2048 (leVal (s.cur.scratch a 8)))
           (if s.cur.slotSealed a then some ⟨5, .slot (a / 65536)⟩ else none)).owe 6)))) ∧
  ((∀ (x : ClsFS) (s : State), s.acts →
     (s.vOk (x.s.setWidth 5) → s.addrOk x.a 256 22 → s.slotOpen x.a 256 true →
       exec (.stt x) s = .next ((s.modCur fun c =>
         c.scratchWrite (s.sv x.a).toNat (leBytes 256 (s.cur.vreg (x.s.toNat % 32)).toNat) c.seqb).owe 0)) ∧
     (s.sOk x.s → s.addrOk x.a (x.ty.width / 8) 22 → s.slotOpen x.a (x.ty.width / 8) true →
       exec (.stts x) s = .next ((s.modCur fun c =>
         c.scratchWrite (s.sv x.a).toNat (leBytes (x.ty.width / 8) (s.sv x.s).toNat) c.seqb).owe 0))) ∧
   (∀ (c : Core) (a : Nat) (bs : List Byte) (h : Handle),
     let t := c.scratchWrite a bs h
     (∀ b, t.scr.byte b = if a ≤ b ∧ b < a + bs.length then bs.getD (b - a) 0 else c.scr.byte b) ∧
     ((c.slot (a / 65536)).state = .empty →
       (t.slot (a / 65536)).state = .ready ∧ (t.slot (a / 65536)).handle = h ∧ (t.slot (a / 65536)).sealed = false) ∧
     ((c.slot (a / 65536)).state ≠ .empty → t.slots = c.slots) ∧ (c.scr.wf = true → t.scr.wf = true)))

/-- R148, R149: the flat stores place their bytes in the segment store buffer, one directory entry per 128 bytes, charge the
segment 32 bytes for every 32 or part of them, and write no memory. -/
def Obligations.FlatStoreResults : Prop :=
  ∀ (x : ClsFS) (s : State) (e : XEntry), s.acts → s.cur.atH = false → s.writable x.a e →
    let a := (s.sv x.a).toNat
    let n := x.ty.width / 8
    let p := s.cur.ssbNext
    let entry (pos k : Nat) (bs : List Byte) : SsbEntry :=
      { pos := pos, tid := 0, parts := [⟨a / 65536, a % 65536 + k, bs⟩], seg := s.cur.seg.num, closed := false, atH := false
        loads := s.cur.qaLoad, port := s.cur.acqEnd, bad := 0, sent := false
        store := p, told := false }
    (s.sOk x.s → s.addrOk x.a n 48 → s.flatFree x.a n → s.chargeRoom 32 →
      exec (.st x) s = .next (((s.modCur fun c => { c with
        ssb := c.ssb ++ [entry p 0 (leBytes n (s.sv x.s).toNat)], ssbNext := p + 1 }).modCur fun c =>
          { c with charge := c.charge + 32 }).owe 0)) ∧
    (s.vOk (x.s.setWidth 5) → s.addrOk x.a 256 48 → s.flatFree x.a 256 → s.chargeRoom 256 →
      ∃ t, exec (.stv x) s = .next t ∧ t.mem = s.mem ∧
        t.cur.ssb = s.cur.ssb ++
          [entry p 0 ((leBytes 256 (s.cur.vreg (x.s.toNat % 32)).toNat).take 128),
           entry (p + 1) 128 ((leBytes 256 (s.cur.vreg (x.s.toNat % 32)).toNat).drop 128)] ∧
        t.cur.charge = s.cur.charge + 256)

/-- R150 to R154: a pop takes the head entry and delivers it 3 bundles later; on an empty queue that is not exhausted it waits. -/
def Obligations.StreamPopResults : Prop :=
  ∀ (x : ClsQ) (s : State), x.q.toNat < s.cur.occ.streams →
    let q := s.cur.stream x.q.toNat
    q.loaded = true → (SDesc.ofBits q.desc).out = false → s.cur.atH = false → q.popped.length < 16 →
    (∀ e t, q.dq = e :: t → e.bad = false → e.coord = false → s.acts →
      exec (.ldq x) s = .next (((s.modCur fun c => c.modStream x.q.toNat fun q =>
          { q with dq := t, head := (q.head + 1) % 16, popped := q.popped ++ [e] }).modCur fun c =>
        c.push .v (x.r.toNat % 32) 3 (if e.poison.isSome then 0 else e.val) e.poison
          (if e.zero then some x.q.toNat else none)).owe 3)) ∧
    (q.dq = [] → ¬ (q.done = true ∧ q.aq = []) → s.ctx.mode = .alone →
      exec (.ldq x) s = .next (s.modCur fun c => { c with holding := true, holdCond := 1 })) ∧
    (q.dq = [] → q.done = true → q.aq = [] → s.ctx.mode = .alone → s.ctx.slot = .ld →
      exec (.ldq x) s = .next ((s.modCur fun c => c.dropRes .issue).trapEntry s.ctx.core 14 (BitVec.ofNat 64 (4 * 8192 + 5 * 512)) s.ctx.pc))

/-- R150, R153: pushes. `stq` appends an entry, below the cursor the elements already pushed; `stqs` places one element and
appends when the entry or the stream is complete. -/
def Obligations.StreamPushResults : Prop :=
  ∀ (x : ClsQ) (s : State), s.acts → x.q.toNat < s.cur.occ.streams →
    let q := s.cur.stream x.q.toNat
    let d := SDesc.ofBits q.desc
    q.loaded = true → d.out = true → q.made < d.total → q.dq.length < 16 → (s.cur.atH = false → q.pushed < 16) →
    (s.vOk (x.r.setWidth 5) → q.cur = 0 →
      ∃ t, exec (.stq x) s = .next t ∧
        (t.cur.stream x.q.toNat).dq = q.dq ++ [⟨s.cur.vreg (x.r.toNat % 32), none, false, false, false, s.cur.portNext⟩] ∧
        (t.cur.stream x.q.toNat).cur = 0 ∧ t.mem = s.mem ∧
        ∀ m, m ≠ x.q.toNat → t.cur.stream m = s.cur.stream m) ∧
    (s.sOk x.r → d.bfp = false →
      ∃ t, exec (.stqs x) s = .next t ∧ (t.cur.stream x.q.toNat).made = q.made + 1 ∧ t.mem = s.mem ∧
        (∀ m, m ≠ x.q.toNat → t.cur.stream m = s.cur.stream m) ∧
        let b := q.build ||| (BitVec.ofNat 2048 ((s.sv x.r).toNat % 2 ^ codeWidth d.ty) <<< (codeWidth d.ty * q.cur))
        (q.cur + 1 = d.perEntry ∨ q.made + 1 = d.total →
          (t.cur.stream x.q.toNat).dq = q.dq ++ [⟨b, none, false, false, false, s.cur.portNext⟩] ∧ (t.cur.stream x.q.toNat).cur = 0) ∧
        (q.cur + 1 ≠ d.perEntry → q.made + 1 ≠ d.total →
          (t.cur.stream x.q.toNat).dq = q.dq ∧ (t.cur.stream x.q.toNat).build = b ∧
          (t.cur.stream x.q.toNat).cur = q.cur + 1))

/-- R152: a good descriptor waits three bundles, in which ops act on the old stream, and then governs its register. R156: a
`scat` of which every row is skipped writes nothing; R157: `qalign` marks the stores and loads before it. -/
def Obligations.StreamLoadAndScatterResults : Prop :=
  (∀ (x : ClsQ) (s : State), s.acts → s.addrOk x.r 32 22 → x.q.toNat < s.cur.occ.streams → s.slotOpen x.r 32 false →
     let a := (s.sv x.r).toNat
     let d : BitVec 256 := BitVec.ofNat 256 (leVal (s.cur.scratch a 32))
     s.cur.slotSealed a = false → s.cur.scratchBad a 32 = false → SDesc.offence d = none →
     ((SDesc.ofBits (s.cur.stream x.q.toNat).desc).out = true → (s.cur.stream x.q.toNat).loaded = true →
       (s.cur.stream x.q.toNat).dq = []) →
     exec (.ldqs x) s = .next ((s.modCur fun c => { c with
       qNew := c.qNew ++ [⟨x.q.toNat, 3, c.atH, { Stream.ofDesc d with num := c.issued + 1 }⟩] }).owe 3) ∧
     (∀ (c : Core) (n : Nat) (q : Stream), c.qNew = [⟨n, 0, c.atH, q⟩] → c.loadStreams.stream n = q ∧ c.loadStreams.qNew = [] ∧
       ∀ m, m ≠ n → c.loadStreams.stream m = c.stream m)) ∧
  ((∀ (x : ClsSG) (s : State) (t : TDesc), s.acts → s.vOk (x.s.setWidth 5) → s.vOk x.vi → x.q.toNat < s.cur.occ.streams →
     let q := s.cur.stream x.q.toNat
     let d := SDesc.ofBits q.desc
     q.loaded = true → d.gathers = true → s.lookDesc s.ctx.core .issue d.id true = .hit t → d.fits t = true →
     let rows := scatItems d t (s.cur.vreg x.vi.toNat) (s.cur.vreg (x.s.toNat % 32))
     (∀ r ∈ rows, ∀ i ∈ r, i.1.out = false ∧ ∃ e, s.look s.ctx.core .issue d.id i.1.unit true false = .hit e) →
     s.chargeRoom ((rows.map fun r => chargeOf (r.map (·.2.length)).sum).sum) →
     ∃ u, exec (.scat x) s = .next u ∧
       (rows = [] → s.cur.atH = false → u.cur.ssb = s.cur.ssb ∧ u.mem = s.mem)) ∧
   (∀ s : State, s.acts → exec .qalign s = .next (s.modCur fun c =>
     { c with qaStore := c.ssbNext, qaLoad := c.loadSeq })))

/-- R158 to R160, R163: an atomic takes its place at the end of the core's port, with its function, address and operands, and
with Dx ≠ 0 an entry of the outstanding-load table; no memory changes at its issue. (At H it performs at once where it can,
R385.) R159, Table 7-5: the new word of each atomic function. -/
def Obligations.AtomicResults : Prop :=
  (∀ (x : ClsAT) (s : State), s.acts → s.cur.atH = false → s.sOk x.b →
     (x.dx ≠ 0 → s.loadRoom) →
     (∀ y ∈ s.cur.loads ++ s.cur.hloads, y.kind ≠ 3 ∧ y.kind ≠ 4) →
     let w := (s.sv x.a).toNat
     let queued (i : Instr) (f : Nat) (remote : Bool) : Prop :=
       ∃ t p, exec i s = .next t ∧ t.cur.port = s.cur.port ++ [p] ∧ t.mem = s.mem ∧
         p.func = f ∧ p.remote = remote ∧ p.addr = w % 2 ^ 48 ∧ p.b = s.sv x.b ∧ p.behind = s.cur.ssbNext ∧ p.store = false ∧
         (f = 9 → p.x = s.sv x.d) ∧ (remote = true → p.mod = w / 2 ^ 48 % 64) ∧
         (x.dx = 0 → t.cur.loads = s.cur.loads ∧ p.seq = none) ∧
         (x.dx ≠ 0 → p.seq = some s.cur.loadSeq ∧ ∃ l, t.cur.loads = s.cur.loads ++ [l] ∧ l.valid = true ∧ l.kind = 5 ∧ l.ty = f ∧
           l.reg = x.d.toNat ∧ l.rem = 8 * x.dx.toNat + 1 ∧ l.seq = s.cur.loadSeq)
     (s.addrOk x.a 8 48 → s.flatFree x.a 8 → (∃ e, s.writable x.a e) →
       queued (.aadd x) 0 false ∧ queued (.amin x) 1 false ∧ queued (.aminn x) 2 false ∧ queued (.amax x) 3 false ∧
       queued (.amaxn x) 4 false ∧ queued (.aand x) 5 false ∧ queued (.aor x) 6 false ∧ queued (.axor x) 7 false ∧
       queued (.axch x) 8 false ∧ (s.sOk x.d → queued (.acas x) 9 false) ∧ queued (.abinc x) 10 false) ∧
     (s.addrOk x.a 8 54 → s.memberOk x.a →
       queued (.raadd x) 0 true ∧ queued (.ramin x) 1 true ∧ queued (.raminn x) 2 true ∧ queued (.ramax x) 3 true ∧
       queued (.ramaxn x) 4 true ∧ queued (.raand x) 5 true ∧ queued (.raor x) 6 true ∧ queued (.raxor x) 7 true ∧
       queued (.raxch x) 8 true ∧ (s.sOk x.d → queued (.racas x) 9 true) ∧ queued (.rabinc x) 10 true)) ∧
  (∀ old b x : Word,
     atomNew 0 old b x = wrap (old.toInt + b.toInt) ∧
     atomNew 1 old b x = (if old.toInt ≤ b.toInt then old else b) ∧
     atomNew 2 old b x = (if old.toNat ≤ b.toNat then old else b) ∧
     atomNew 3 old b x = (if old.toInt ≥ b.toInt then old else b) ∧
     atomNew 4 old b x = (if old.toNat ≥ b.toNat then old else b) ∧
     atomNew 5 old b x = old &&& b ∧ atomNew 6 old b x = old ||| b ∧ atomNew 7 old b x = old ^^^ b ∧
     atomNew 8 old b x = b ∧ atomNew 9 old b x = (if old = x then b else old) ∧
     atomNew 10 old b x = (if old.toNat < b.toNat then wrap (old.toNat + 1) else old))

/-- R162: a remote store waits at the port with its bytes and its counter. -/
def Obligations.RemoteStoreResults : Prop :=
  ∀ (x : ClsRS) (s : State), s.acts → s.cur.atH = false → s.sOk x.c → s.memberOk x.a →
    (x.c ≠ 0 → s.addrOk x.c 8 48) →
    let queued (i : Instr) (data : List Byte) : Prop :=
      ∃ t p, exec i s = .next t ∧ t.cur.port = s.cur.port ++ [p] ∧ t.mem = s.mem ∧ p.remote = true ∧ p.store = true ∧
        p.data = data ∧ p.mod = (s.sv x.a).toNat / 2 ^ 48 % 64 ∧ p.addr = (s.sv x.a).toNat % 2 ^ 48 ∧
        p.ctr = (if x.c = 0 then none else some (s.sv x.c).toNat) ∧ p.behind = s.cur.ssbNext
    (s.sOk x.s → s.addrOk x.a 8 54 → queued (.rst x) (leBytes 8 (s.sv x.s).toNat)) ∧
    (s.vOk (x.s.setWidth 5) → s.addrOk x.a 256 54 → queued (.rstv x) (leBytes 256 (s.cur.vreg (x.s.toNat % 32)).toNat))

/-! ## Copy engine and synchronization ops (spec/08_copy_and_sync.md) -/

/-- R165 and Table 8-3: a command that passes its checks enters its channel behind the commands that wait there, with its
places, its byte count and its ordering; nothing moves at its issue. -/
def Obligations.CopyCommandResults : Prop :=
  let queued (s : State) (i : Instr) (ch : BitVec 3) (k : CmdKind) (dst src : Place) (n : Nat) (acq rel : Bool) (sc : Scope) :=
    ∃ t m, exec i s = .next t ∧ (t.cur.chan ch.toNat).cmds = (s.cur.chan ch.toNat).cmds ++ [m] ∧
      m.kind = k ∧ m.dst = dst ∧ m.src = src ∧ m.bytes = n ∧ m.next = 0 ∧ m.started = false ∧ m.acq = acq ∧ m.rel = rel ∧
      m.scope = sc ∧ m.sig = s.cur.sigOf s.ctx.ws ∧ m.seqb = s.cur.seqb ∧
      t.mem = s.mem ∧ t.cur.scr = s.cur.scr ∧ ∀ h, h ≠ ch.toNat → t.cur.chan h = s.cur.chan h
  (∀ (x : ClsCC) (s : State), s.acts → s.chanOpen x.ch → s.sOk x.c →
    let w := (s.sv x.c).toNat
    let dst := s.placeOf (s.sv x.a).toNat
    let src := s.placeOf (s.sv x.b).toNat
    let moves (dk sk : List Nat) (align n : Nat) : Prop :=
      s.placeOk x.a n align dk ∧ s.placeOk x.b n align sk ∧ s.translated src n false ∧ s.translated dst n true
    (1 ≤ w → w ≤ 4096 → moves [0, 1, 2] [0, 1, 2] 65536 (w * 65536) →
      queued s (.tcopy x) x.ch .copy dst src (w * 65536) x.acq x.rel x.scope) ∧
    (w % 64 = 0 → 64 ≤ w → w ≤ 2 ^ 24 → moves [0, 2, 3] [0, 2] 64 w →
      queued s (.xcopy x) x.ch .copy dst src w x.acq x.rel x.scope) ∧
    (w % 64 = 0 → 64 ≤ w → w ≤ 2 ^ 24 → moves [0, 2, 3] [0, 2] 64 w →
      queued s (.rcp x) x.ch (.reduce x.func.toNat) dst src w x.acq x.rel x.scope) ∧
    (∀ n rank last, w = n + rank * 2 ^ 32 + last * 2 ^ 40 → n % 64 = 0 → 64 ≤ n → n ≤ 2 ^ 24 → rank ≤ last → last < 64 →
      moves [0, 2, 3] [0, 2] 64 n →
      queued s (.rcpo x) x.ch (.reduceOrdered x.func.toNat rank last) dst src n x.acq x.rel x.scope)) ∧
  (∀ (x : ClsCC) (s : State), s.acts → s.chanOpen x.ch → s.addrOk x.a 32 48 →
    ∃ t m, exec (.ccopy x) s = .next t ∧ (t.cur.chan x.ch.toNat).cmds = (s.cur.chan x.ch.toNat).cmds ++ [m] ∧
      m.kind = .chain ∧ m.recAt = (s.sv x.a).toNat ∧ m.acq = x.acq ∧ m.rel = x.rel ∧ m.scope = x.scope ∧ t.mem = s.mem) ∧
  (∀ (x : ClsCM) (s : State), s.acts → s.chanOpen x.ch → s.placeOk x.a 0 1 [1] → s.sOk x.b → s.sOk x.m →
    let w := (s.sv x.a).toNat
    let n := (s.sv x.b).toNat
    let m := (s.sv x.m).toNat
    1 ≤ n → n ≤ 64 → m < 64 → m ≠ s.me → s.member s.cur.vf m = true →
    (∀ i < n, ∃ e, s.look s.ctx.core .issue (w / 2 ^ 24 % 2 ^ 24) (w % 2 ^ 24 + i) false true = .hit e ∧ e.state = 1 ∧ e.owner = s.me ∧
      s.migOf 2 (s.world s.cur.vf).fwid (w / 2 ^ 24 % 2 ^ 24) (w % 2 ^ 24 + i) = none) →
    queued s (.migrate x) x.ch (.migrate m) (.flat 0) (.tile (w / 2 ^ 24 % 2 ^ 24) (w % 2 ^ 24)) n false false .core)

/-- R172, Table 2-6 and R174: the slot commands, the queries and the channel words; a query finds the slots as they stood before its
bundle (R6). `tfill` makes its slot FILLING at issue and
`tdrain` a READY slot DRAINING; `tfree` empties a READY slot and does nothing to an EMPTY one. -/
def Obligations.SlotAndChannelResults : Prop :=
  (∀ (x : ClsCT) (s : State), s.acts → s.chanOpen x.ch → s.placeOk x.a 65536 65536 [0, 1] →
    let n := x.slot.toNat
    let e := s.cur.slot n
    let p := s.placeOf (s.sv x.a).toNat
    e.state = .empty ∨ e.state = .ready →
    (s.translated p 65536 false → ∃ t m, exec (.tfill x) s = .next t ∧ (t.cur.slot n).state = .filling ∧
      (t.cur.slot n).ch = x.ch.toNat ∧ (t.cur.slot n).sealed = false ∧ (t.cur.slot n).handle = s.placeHandle p ∧
      (t.cur.chan x.ch.toNat).cmds = (s.cur.chan x.ch.toNat).cmds ++ [m] ∧ m.kind = .fill n ∧ m.src = p ∧
      m.dst = .scratch (n * 65536) ∧ m.bytes = 65536 ∧ ∀ j, j ≠ n → t.cur.slot j = s.cur.slot j) ∧
    (s.translated p 65536 true → (s.slotSeen n).state = .ready → ∃ t m, exec (.tdrain x) s = .next t ∧ (t.cur.slot n).state = .draining ∧
      (t.cur.slot n).ch = x.ch.toNat ∧ (t.cur.chan x.ch.toNat).cmds = (s.cur.chan x.ch.toNat).cmds ++ [m] ∧
      m.kind = .drain n ∧ m.dst = p ∧ m.src = .scratch (n * 65536) ∧ m.bytes = 65536 ∧
      ∀ j, j ≠ n → t.cur.slot j = s.cur.slot j) ∧
    (s.translated p 65536 true → (s.slotSeen n).state = .empty → exec (.tdrain x) s = .next (s.owe 0))) ∧
  (∀ (x : ClsCT) (s : State), s.acts →
    let n := x.slot.toNat
    ((s.slotSeen n).state = .ready →
      ∃ t, exec (.tfree x) s = .next t ∧ (t.cur.slot n).state = .empty ∧ (t.cur.slot n).sealed = false ∧
        (t.cur.slot n).zeroing = true ∧
        ∀ a, t.cur.scr.byte a = if n * 65536 ≤ a ∧ a < n * 65536 + 65536 then 0 else s.cur.scr.byte a) ∧
    ((s.slotSeen n).state = .empty → exec (.tfree x) s = .next (s.owe 0))) ∧
  (∀ (x : ClsCQ) (s : State), s.acts →
    let h := s.cur.chan x.ch.toNat
    let e := if s.ctx.mode = .alone then s.cur.slot x.slot.toNat else Tab.get SlotEntry.drained s.ctx.slots x.slot.toNat
    exec (.tstat x) s = .next ((s.putS x.s.toNat 1 e.word).owe 0) ∧
    (x.ch.toNat < s.cur.occ.channels →
      exec (.chq x) s = .next ((s.putS x.s.toNat 1
        (match x.sel.toNat with | 0 => h.base | 1 => h.limit | 2 => h.wmark | _ => h.head)).owe 0) ∧
      (s.sOk x.s → h.cmds = [] → (∀ i, 48 ≤ i → i < 63 → (s.sv x.s).getLsbD i = false) →
        ∃ t, exec (.chset x) s = .next t ∧
          (x.sel = 0 → t.cur.chan x.ch.toNat = { h with base := s.sv x.s, wmark := s.sv x.s, wrote := [] }) ∧
          (x.sel ≠ 0 → t.cur.chan x.ch.toNat = { h with limit := s.sv x.s, wmark := h.base, wrote := [] }) ∧
          ∀ c, c ≠ x.ch.toNat → t.cur.chan c = s.cur.chan c))) ∧
  (∀ (x : ClsCF) (s : State), s.acts → (∀ i < 8, x.mask.getLsbD i = true → i < s.cur.occ.channels) →
    ∃ t, exec (.cpfence x) s = .next t ∧
      ∀ id, id ∈ t.cur.cpWait ↔ id ∈ s.cur.cpWait ∨
        ∃ i < 8, x.mask.getLsbD i = true ∧ ∃ m ∈ (s.cur.chan i).cmds, m.id = id)

/-- R175, Table 8-6 and R184: `srd` reads a semaphore as it stood before its bundle (R6); each other op puts its change behind
the stores of its segment, in the order of issue. `swait`, whose threshold its bundle subtracts (R18), subtracts it itself
when alone; a poisoned semaphore subtracts nothing and sets `p15`. Table 8-6 and R175: what a change does to its semaphore,
and that of the changes which take effect together those of the poison come first, then the sets, then the adds. An add
saturates at 65,535 and does nothing to a poisoned semaphore. -/
def Obligations.SemaphoreResults : Prop :=
  ((∀ (x : ClsYM) (s : State), s.acts → s.semIn x.sem →
     let m := s.cur.sema x.sem.toNat
     exec (.ssig x) s = .next (s.semLater (.add x.sem.toNat x.imm.toNat)) ∧
     (s.ctx.mode = .effect → exec (.swait x) s = .next s) ∧
     (s.ctx.mode = .alone → m.poison = false → x.imm.toNat ≤ m.count →
       ∃ t, exec (.swait x) s = .next t ∧ t.cur.sema x.sem.toNat = ⟨m.count - x.imm.toNat, false⟩ ∧
         ∀ n, n ≠ x.sem.toNat → t.cur.sema n = s.cur.sema n) ∧
     (s.ctx.mode = .alone → m.poison = false → m.count < x.imm.toNat →
       exec (.swait x) s = .next (s.takeStop (.hold 2))) ∧
     (s.ctx.mode = .alone → m.poison = true →
       ∃ t : State, exec (.swait x) s = .next t.setP15 ∧ ∀ n, t.cur.sema n = s.cur.sema n)) ∧
   (∀ (x : ClsYX) (s : State), s.acts → s.semIn x.sem →
     let m := if s.ctx.mode = .alone then s.cur.sema x.sem.toNat else Tab.get Sema.zero s.ctx.sem x.sem.toNat
     exec (.srd x) s = .next (s.putS x.s.toNat 1 (BitVec.ofNat 64 (m.count + (if m.poison then 65536 else 0)))) ∧
     (s.sOk x.s → exec (.sset x) s = .next (s.semLater (.set x.sem.toNat (s.sv x.s).toNat))) ∧
     exec (.spoi x) s = .next (s.semLater (.poison x.sem.toNat)) ∧
     exec (.sunp x) s = .next (s.semLater (.unpoison x.sem.toNat))) ∧
   (∀ (s : State) (o : SemOp), s.cur.atH = false → s.cur.coupled = false →
     s.semLater o = s.modCur fun c => { c with semOps := c.semOps ++ [(c.ssbNext, o)] })) ∧
  (∀ (c : Core) (a b n k j : Nat), c.storesPast a = true → c.storesPast b = true →
     let m := c.sema n
     let after (l : List (Nat × SemOp)) : Core := ({ c with semOps := l } : Core).settle
     (after [(a, .add n k)]).sema n = ⟨if m.poison then m.count else Nat.min 65535 (m.count + k), m.poison⟩ ∧
     (after [(a, .set n k)]).sema n = ⟨Nat.min k 65535, m.poison⟩ ∧
     (after [(a, .poison n)]).sema n = ⟨m.count, true⟩ ∧
     (after [(a, .unpoison n)]).sema n = ⟨m.count, false⟩ ∧
     (∀ l, l = [(a, .add n k), (b, .set n j)] ∨ l = [(b, .set n j), (a, .add n k)] →
       (after l).sema n = ⟨if m.poison then Nat.min j 65535 else Nat.min 65535 (Nat.min j 65535 + k), m.poison⟩) ∧
     (∀ l, l = [(a, .add n k), (b, .poison n)] ∨ l = [(b, .poison n), (a, .add n k)] → (after l).sema n = ⟨m.count, true⟩) ∧
     (∀ o i, o = .add n k ∨ o = .set n k ∨ o = .poison n ∨ o = .unpoison n → i ≠ n → (after [(a, o)]).sema i = c.sema i) ∧
     (∀ o p, c.storesPast p = false → (after [(p, o)]).sem = c.sem ∧ (after [(p, o)]).semOps = [(p, o)]))

/-- R177: a unit whose barrier instance has completed goes on, with the acquire of the scope, and `p15` where it was poisoned.
R178: `bcx` puts a vector on the bus, and `bcl` stores what the named rank transmits on the same broadcast slot, by the
rules of `stt`, or sets `p15`. R179: a fence lets no later bundle issue until its effect is had (the model's reading, log
14: the next bundle holds). R180: `waitc` reads its word at its home; it goes on, with an acquire, once the natural value is
at least b, now or as a write left it meanwhile (R216), and holds below. -/
def Obligations.BarrierFenceAndCounterResults : Prop :=
  ((∀ (x : ClsYB) (s : State), s.acts →
     let t := (s.modCur fun c => { c with barHold := none }).acquire (dieOf s.ctx.core) x.scope
     (s.cur.barHold = some 2 → exec (.bar x) s = .next t) ∧ (s.cur.barHold = some 3 → exec (.bar x) s = .next t.setP15)) ∧
   (∀ (x : ClsYC) (s : State), s.acts → s.cur.coupled = true → x.bslot.toNat < s.cur.occ.bcast →
     (s.vOk (x.x.setWidth 5) →
       exec (.bcx x) s = .next (s.modCur fun c => { c with bus := some (x.bslot.toNat, c.vreg (x.x.toNat % 32)) })) ∧
     (s.addrOk x.x 256 22 → s.slotOpen x.x 256 true →
       (∀ v, (s.core (s.ctx.core / 4 * 4 + x.rank.toNat)).bus = some (x.bslot.toNat, v) →
         exec (.bcl x) s = .next (s.modCur fun c => c.scratchWrite (s.sv x.x).toNat (leBytes 256 v.toNat) c.seqb)) ∧
       ((∀ v, (s.core (s.ctx.core / 4 * 4 + x.rank.toNat)).bus ≠ some (x.bslot.toNat, v)) →
         exec (.bcl x) s = .next s.setP15)))) ∧
  ((∀ (x : ClsYF) (s : State), s.acts →
     exec (.fenceFull x) s = .next (s.modCur fun c => { c with fencing := some (0, x.scope) }) ∧
     exec (.fenceAcq x) s = .next (s.modCur fun c => { c with fencing := some (1, x.scope) }) ∧
     exec (.fenceRel x) s = .next (s.modCur fun c => { c with fencing := some (2, x.scope) })) ∧
   (∀ (x : ClsYW) (s : State) (e : XEntry) (t : State) (g : Got), s.ctx.mode = .alone → s.addrOk x.a 8 48 → s.sOk x.b →
     s.look s.ctx.core .issue 0 ((s.sv x.a).toNat / 65536) false false = .hit e →
     let a := (s.sv x.a).toNat
     let b := (s.sv x.b).toNat
     s.readNow a 8 = some (t, g) → g.cause = 0 →
     let u := (t.freshen (dieOf s.ctx.core) s.cur.vf a).watchWord a b
     (b ≤ leVal g.bytes ∨ s.waitMet a b = true →
       exec (.waitc x) s = .next ((u.dropWait s.ctx.core).acquire (dieOf s.ctx.core) x.scope)) ∧
     (leVal g.bytes < b → s.waitMet a b = false → exec (.waitc x) s = .next (u.takeStop (.hold 5)))) ∧
   (∀ (x : ClsYW) (s : State), s.ctx.mode = .effect →
     exec (.waitc x) s = .next ((s.dropWait s.ctx.core).acquire (dieOf s.ctx.core) x.scope)))

/-- R181, R190, R60: `suspend` and `yield` end the task with a continuation record of the next bundle, the wait and `s1` to
`s4`; `halt` ends it with none. Each closes the segment. In a bundle that issues what they hold for is past (R181, R190);
alone it is asked for here. R182 and R210: once the stores before it have committed, `launch` creates the ream that the 128
bytes at its address describe, with a new number, live shares on the partition's dies and the descriptor's count. In a
coupled quad rank 0 does. -/
def Obligations.TaskEndAndLaunchResults : Prop :=
  ((∀ (x : ClsYU) (s : State) (k : Task), s.acts → s.addrOk x.a 8 48 → x.a.toNat % 2 = 0 → s.sOk (x.a + 1) →
     (s.ctx.mode = .alone → s.suspendHold = []) → ∀ a, s.cur.task = some k → k.crec = some a →
     ∃ t ws, exec (.suspend x) s = .next t ∧ t.cur.run = .ending ∧ t.cur.closing = some (.record a ws) ∧ t.mem = s.mem ∧
       ws.length = 8 ∧ fieldOf (ws.getD 0 0) 0 13 = (s.ctx.pc + 1) % 8192 ∧ fieldOf (ws.getD 0 0) 19 3 = 1 ∧
       fieldOf (ws.getD 2 0) 16 45 = (s.sv x.a).toNat / 8 ∧ ws.getD 3 0 = (s.sv (x.a + 1)).toNat ∧
       (∀ i < 4, ws.getD (4 + i) 0 = (s.cur.sreg (i + 1)).toNat)) ∧
   (∀ (s : State) (k : Task) (a : Nat), s.acts → (s.ctx.mode = .alone → s.suspendHold = []) → s.cur.task = some k → k.crec = some a →
     ∃ t ws, exec .yield s = .next t ∧ t.cur.run = .ending ∧ t.cur.closing = some (.record a ws) ∧ t.mem = s.mem ∧
       fieldOf (ws.getD 0 0) 0 13 = (s.ctx.pc + 1) % 8192 ∧ fieldOf (ws.getD 0 0) 19 3 = 0) ∧
   (∀ s : State, s.acts → s.cur.routine = none → (∀ h < 8, (s.cur.chan h).cmds = []) →
     (s.ctx.mode = .alone → s.allCommitted = true) →
     ∃ t, exec .halt s = .next t ∧ t.cur.run = .ending ∧ t.cur.closing = some .halt ∧ t.mem = s.mem ∧
       ∀ e ∈ t.cur.ssb, e.closed = true) ∧
   (∀ (s : State) (r : Routine), s.ctx.mode = .alone → s.cur.routine = some r →
     exec .halt s = .next (s.modCur fun c => { c with holding := true, holdCond := 4 }))) ∧
  (∀ (x : ClsYU) (s : State), s.ctx.mode = .effect → s.sOk x.a →
     (s.cur.coupled = true → s.cur.rank ≠ 0 → exec (.launch x) s = .next s) ∧
     (s.cur.coupled = false ∨ s.cur.rank = 0 → ∀ (u : State) (g : Got) (r : Ream) (im : Image),
       s.readNow (s.sv x.a).toNat 128 = some (u, g) → reamOf g.bytes = some r → u.image s.cur.vf r.prog = some im →
       r.waits = [] →
       ∃ t m, exec (.launch x) s = .next t ∧ t.reams = u.reams ++ [m] ∧ (∀ o ∈ u.reams, o.rid < m.rid) ∧ u.nextRid < m.rid ∧
         m.n = r.n ∧ m.prog = r.prog ∧ m.vf = s.cur.vf ∧ m.rda = (s.sv x.a).toNat ∧ m.shares = sharesOf (u.partDies m.pid) r.n))

/-! ## System ops, traps and the issue of bundles (spec/09, spec/11, spec/14) -/

/-- R46, R47, R191 to R193 and R199: control registers, the snapshot space of the core's own latched state, and the binding of
SEQB. A write lands one bundle later, reserved bits dropped (R5). -/
def Obligations.ControlRegisterResults : Prop :=
  (∀ (x : ClsSCR) (s : State), s.acts →
    (cregHidden x.creg.toNat = false ∨ s.cur.atH = true → BadReg.creg x.creg.toNat ∉ s.cur.bad →
      exec (.crr x) s = .next (s.putS x.s.toNat 1 (s.creg s.ctx.core x.creg.toNat))) ∧
    (s.cur.atH = true → s.sOk x.s → exec (.crw x) s = .next (s.putCr x.creg.toNat (s.sv x.s)))) ∧
  (∀ (x : ClsSR) (s : State), s.acts → s.sOk x.a →
    (s.cur.atH = true →
      exec (.snrd x) s = .next (s.putS x.d.toNat 1 (s.snapWord s.ctx.core s.cur (s.sv x.a).toNat))) ∧
    (s.cur.atH = true → s.sOk x.b →
      (snwrOk (s.sv x.a).toNat (s.sv x.b).toNat = true → exec (.snwr x) s =
        .next (s.modCur fun c => c.push .snap (s.sv x.a).toNat 1 (Word.toVec (s.sv x.b)) none)) ∧
      (snwrOk (s.sv x.a).toNat (s.sv x.b).toNat = false → exec (.snwr x) s = .next s.setP15)) ∧
    ((s.sv x.a).toNat < 2 ^ 20 →
      (s.handleLive s.cur.vf (handleOf (s.sv x.a).toNat) = true → exec (.seqbind x) s = .next (s.putCr 0xE (s.sv x.a))) ∧
      (s.handleLive s.cur.vf (handleOf (s.sv x.a).toNat) = false → exec (.seqbind x) s = .next s.setP15))) ∧
  (∀ (c : Core) (a : Nat) (v : Word) (b : Nat), (c.setCr a v).cr b = if b = a then v &&& cregMask a else c.cr b) ∧
  (∀ (s : State) (c : Nat), s.creg c 3 = BitVec.ofNat 64 (c + 512 * s.me))

/-- R196, R197, R201: an opening that every module has acknowledged raises SEQQ, and gives its handle; a refused one gives zero
and sets `p15`. An ending and a shootdown that are complete let their op go on. A `tinv` begins a shootdown of the tensor's
units and holds for it. R194 and R202: `katc` compares the signature of a complete row with its immediate: a match changes
nothing. `ifence` takes the image as it stands, with a bubble of six cycles. -/
def Obligations.KeyAndKnownAnswerResults : Prop :=
  ((∀ (x : ClsSR) (s : State) (n : Nat), s.acts → s.sOk x.a →
     let u := s.modCur fun c => { c with keyHold := none }
     (s.cur.keyHold = some ⟨n, true, true⟩ → exec (.seqopen x) s = .next (u.putS x.d.toNat 1
       (BitVec.ofNat 64 (n % 4096 + (s.key n).gen % 256 * 4096)))) ∧
     (s.cur.keyHold = some ⟨n, true, false⟩ → exec (.seqopen x) s = .next (u.putS x.d.toNat 1 0).setP15) ∧
     ((s.sv x.a).toNat < 2 ^ 20 →
       (s.cur.keyHold = some ⟨n, true, true⟩ → exec (.seqend x) s = .next u) ∧
       (s.cur.keyHold = some ⟨n, true, false⟩ → exec (.seqend x) s = .next u.setP15))) ∧
   (∀ (x : ClsSR) (s : State), s.cur.atH = true → s.sOk x.a → s.sOk x.b → tinvFaults (s.sv x.a).toNat (s.sv x.b).toNat = [] →
     (s.acts → s.cur.tinvHold = some 1 → exec (.tinv x) s = .next (s.modCur fun c => { c with tinvHold := none })) ∧
     (s.ctx.mode = .alone → s.cur.tinvHold = none →
       ∃ t h, exec (.tinv x) s = .next t ∧ t.shoots = s.shoots ++ [h] ∧ h.vf = s.cur.vf ∧ h.tid = (s.sv x.a).toNat ∧
         h.core = some s.ctx.core ∧
         (h.range = none ↔ (s.sv x.b).getLsbD 63 = true) ∧
         ((s.sv x.b).getLsbD 63 = false → h.range = some ((s.sv x.b).toNat % 2 ^ 32, (s.sv x.b).toNat / 2 ^ 32 % 2 ^ 16 + 1)) ∧
         t.cur.tinvHold = some 0 ∧ t.cur.holding = true)) ∧
   (∀ (s : State) (o : KeyOp), o.opening = true → o.ok = true → o.await = [] →
     ((s.settleKey o).world o.vf).held = (s.world o.vf).held + 1)) ∧
  ((∀ (x : ClsSL) (s : State), s.acts → s.sOk x.a →
     let w := (s.sv x.a).toNat
     let row := w % 128
     let n := w / 256 % 4
     w < 1024 → w / 128 % 2 = 0 → row < s.cur.accWm n → s.accOk n →
     (katSign (s.cur.accRow n row) = x.imm.toNat → exec (.katc x) s = .next s) ∧
     (katSign (s.cur.accRow n row) ≠ x.imm.toNat → s.ctx.mode = .alone → s.cur.atH = false → s.cur.mism = 0 →
       s.cur.seg.check = none → s.cur.coupled = false →
       ∃ t f, exec (.katc x) s = .next t ∧ t.cur.run = .stopping ∧ t.cur.mism = 1 ∧ t.cur.freeze = some f ∧ f.cause = 7)) ∧
   (∀ s : State, s.acts →
     ∃ t, exec .ifence s = .next t ∧ t.cur.bubble = 6 ∧ t.cur.s = s.cur.s ∧ t.mem = s.mem ∧
       (s.image s.cur.vf s.cur.imgProg = none → t.cur.imem = s.cur.imem) ∧
       (∀ i, s.image s.cur.vf s.cur.imgProg = some i → (s.world s.cur.vf).handler = none →
         ∀ b < i.bundles.length, Tab.get 0 t.cur.imem b = i.bundles.getD b 0)))

/-- R185: each op that needs H traps PRIV at T, TINFO naming bit 0 of its opcode (Table 14-1), and has no effect. R29, R16: a
bundle that does not decode, or whose target the core cannot reach, traps ILLB before any hold, TINFO naming the lowest
offending bit and its field. -/
def Obligations.IllegalAndPrivilegedTraps : Prop :=
  (∀ (i : Instr) (s : State), s.ctx.mode = .alone → s.cur.atH = false →
     (∃ x, i = .crw x) ∨ (∃ x, i = .crr x ∧ cregHidden x.creg.toNat = true) ∨ (∃ x, i = .snrd x) ∨ (∃ x, i = .snwr x) ∨
       (∃ x, i = .tinv x) ∨ i = .eret ∨ i = .diapack →
     exec i s = .next ((s.modCur fun c => c.dropRes .issue).trapEntry s.ctx.core 2
       (BitVec.ofNat 64 (s.ctx.slot.fieldCode * 512 + s.ctx.slot.base)) s.ctx.pc)) ∧
  (∀ (s : State) (c : Nat) (rest : List Turn) (n : Nat), s.agenda = .issue c :: rest →
     let k := s.core c
     k.run = .running → k.coupled = false → k.bubble = 0 → k.pc ∉ k.imemBad → k.atH = false → k.fetched = .error n → n < 512 →
     ∃ t, step s = .next t ∧ (t.core c).cr 9 = 1 ∧ (t.core c).cr 0xA = BitVec.ofNat 64 (k.pc % 8192) ∧ (t.core c).atH = true ∧
       (t.core c).cr 0xB = BitVec.ofNat 64 (n + (if n < 64 then 0 else if n < 384 then (n - 64) / 40 + 1 else (n - 384) / 32 + 9) * 512) ∧
       (t.core c).pc = (k.cr 7).toNat % 8192 ∧ (∀ r, (t.core c).sreg r = k.sreg r) ∧ t.mem = s.mem)

/-- R186: what an entry into the handler saves and sets: TCAUSE, TINFO, TPC and H; the next bundle is at RPLVEC for LATE, at
TVEC for every other cause; the results in flight are latched; every other register stays. STATUS shows the sticky bits of
what has landed (R154). R183, R187, R189: `trap` enters the handler after its bundle, TINFO holding its code, TPC the next
bundle. `eret` leaves it: privilege T, the next bundle at TPC, the registers as they stand, what the handler had in flight
gone, the task's results in flight again. -/
def Obligations.TrapEntryAndReturnResults : Prop :=
  (∀ (c : Core) (cause : Nat) (info : Word) (resume : Nat), cause < 256 → resume < 8192 →
     let t := c.enter cause info resume
     t.cr 9 = BitVec.ofNat 64 cause ∧ t.cr 0xB = info ∧ t.cr 0xA = BitVec.ofNat 64 resume ∧ t.atH = true ∧
     (∀ i, i ≠ 2 → (cregMask 0).getLsbD i = true → (t.cr 0).getLsbD i = (c.setZeros.cr 0).getLsbD i) ∧
     t.pc = (if cause = 8 then c.cr 8 else c.cr 7).toNat % 8192 ∧
     (∀ a, a ≠ 0 → a ≠ 9 → a ≠ 0xA → a ≠ 0xB → t.cr a = c.cr a) ∧
     (∀ r, t.sreg r = c.sreg r ∧ t.spoi r = c.spoi r) ∧ (∀ r, t.vreg r = c.vreg r ∧ t.vpoi r = c.vpoi r) ∧
     (∀ r, t.kreg r = c.kreg r) ∧ (∀ r, t.preg r = c.preg r) ∧ (∀ r, t.mpreg r = c.mpreg r) ∧
     (∀ n r, t.accRow n r = c.accRow n r) ∧ t.scr = c.scr ∧ t.cmem = c.cmem ∧ t.ssb = c.ssb ∧ t.sem = c.sem ∧
     t.pend.map (·.val) = c.pend.map (·.val) ∧ t.pend.map (·.rem) = c.pend.map (·.rem) ∧ t.hpend = [] ∧ t.hloads = []) ∧
  ((∀ (x : ClsYT) (s : State), s.acts → s.cur.atH = false →
     exec (.trap x) s = .next ((s.modCur Core.endBundle).trapEntry s.ctx.core 0 (BitVec.ofNat 64 (65536 + x.code.toNat)) (s.ctx.pc + 1))) ∧
   (∀ s : State, s.acts → s.cur.atH = true → (s.cur.cr 0xA).toNat % 8192 < s.cur.imgLen →
     exec .eret s = .next (s.leaveHandler s.ctx.core) ∧
     ((s.cur.cr 9).toNat % 256 ≠ 0xB ∨ (s.world s.cur.vf).rejoin = false →
       exec .diapack s = .next (s.leaveHandler s.ctx.core)) ∧
     (s.cur.loads = [] →
       let t := s.leaveHandler s.ctx.core
       t.cur.atH = false ∧ t.cur.pc = (s.cur.cr 0xA).toNat % 8192 ∧ t.cur.hpend = [] ∧ t.cur.hloads = [] ∧
       (∀ r, t.cur.sreg r = s.cur.sreg r) ∧ (∀ r, t.cur.vreg r = s.cur.vreg r) ∧ (∀ r, t.cur.preg r = s.cur.preg r) ∧
       t.cur.scr = s.cur.scr ∧ t.mem = s.mem ∧
       t.cur.pend.length = (s.cur.pend.filter (·.valid)).length)))

/-- R222: a bundle at T takes 1 from BUDGET, one at H nothing; a bundle that would issue at T with BUDGET 0 stops the core for
the supervisor with cause 9; where it may hold or trap instead, its attempt comes next. -/
def Obligations.BudgetRule : Prop :=
  (∀ c : Core, (∀ x ∈ c.pend ++ c.hpend, x.cls = .creg → x.reg ≠ 1) →
    (c.atH = false → (c.endBundle).cr 1 = c.cr 1 - 1) ∧ (c.atH = true → (c.endBundle).cr 1 = c.cr 1)) ∧
  (∀ (core : Nat) (s : State), (s.core core).run = .running → (s.core core).atH = false → (s.core core).cr 1 = 0 →
    ((s.core core).wouldIssue = false ∨ (s.world (s.core core).vf).rejoin = true →
      exec (.budgetExhausted core) s = .next { s with agenda := .issue core :: s.agenda }) ∧
    ((s.core core).wouldIssue = true → (s.world (s.core core).vf).rejoin = false → ∃ t f, exec (.budgetExhausted core) s = .next t ∧ (t.core core).run = .stopping ∧ (t.core core).freeze = some f ∧
      f.cause = 9 ∧ f.hf = false ∧ (t.core core).pc = (s.core core).pc ∧ t.mem = s.mem ∧ ∀ d, d ≠ core → t.core d = s.core d))

/-- A step runs what it decodes: a running core of its own, nothing standing before its bundle, takes the effects of the ops that
its bundle's 512 bits decode to, one by one by `exec`, its pc moved to the next bundle, and then counts the bundle. An op that leaves the
task takes effect after the count; `halt` before it, in a state in which its bundle stands after the stores of its segment (R190). -/
def Obligations.StepRunsDecodedBundle : Prop :=
  ∀ (s : State) (c : Nat) (rest : List Turn) (b : Bundle), s.agenda = .issue c :: rest →
    let k := s.core c
    let r := k.toRank c b
    let s1 : State := { s with agenda := rest, tick := s.tick + 1 }
    k.run = .running → k.coupled = false → k.stopReq = none → k.fencing = none → k.bubble = 0 → k.pc ∉ k.imemBad →
    k.fetched = .ok b → (∀ t, k.task = some t → t.abort = false) →
    ∀ p : State, probe s1 [r] r (s1.modCore c Core.fixLoads) = .next p → p.ctx.stops = [] →
    let begun := p.modCore c fun x => x.beginBundle r
    let ended (t : State) : State := closeRanks [r] p (t.modCore c fun x => { x with bus := none })
    ((∀ o ∈ r.ops, comesLast o.op = false ∧ isBcl o.op = false ∧ (buffered o.op = false ∨ (p.core c).early = false)) →
      step s = andThen (runOps r .effect r.ops begun) fun t => .next ((ended t).modCore c Core.endBundle)) ∧
    (∀ o, r.ops = [o] → ∀ t : State,
      let run (u : State) : Result :=
        exec o.op { u with ctx := { u.ctx with
          core := c, pc := k.pc, slot := o.slot, ws := o.ws, mode := .effect, sem := k.sem, slots := k.slots } }
      runOps r .effect [o] t = run t ∧
      (o.op = .halt → step s = andThen (run (ended begun)) fun t => .next (t.modCore c Core.endBundle)) ∧
      (o.op = .eret ∨ o.op = .diapack → step s = run ((ended begun).modCore c Core.endBundle)) ∧
      (∀ x, o.op = .trap x → step s = run (ended begun)))

/-- R8 to R12, Tables 1-1 to 1-4: words written out bit by bit from the encoding tables decode to what they stand for. -/
def Obligations.DecodesWrittenWords : Prop :=
  -- add s5, s6, s7: opcode 0x01 at bit 64, then d, a, b of six bits each
  decodeTableWord 512 ((0x01 + 5 * 2 ^ 8 + 6 * 2 ^ 14 + 7 * 2 ^ 20) * 2 ^ 64) = some (.add ⟨5, 6, 7⟩) ∧
  -- addi s1, s2, -3: opcode 0x10, d, a, and 20 bits of immediate
  decodeTableWord 512 ((0x10 + 1 * 2 ^ 8 + 2 * 2 ^ 14 + (2 ^ 20 - 3) * 2 ^ 20) * 2 ^ 64) = some (.addi ⟨1, 2, -3⟩) ∧
  -- movl s9, in the long form (header 2), its immediate in the VB field and in bits 367:344
  decodeTableWord 512 (2 + (0x1C + 9 * 2 ^ 8) * 2 ^ 64 + 0x55667788AA * 2 ^ 144 + 0x112233 * 2 ^ 344) =
    some (.movl ⟨9, 0, 0x11223355667788AA⟩) ∧
  -- codes that no map holds, and a reserved operand bit, are refused
  decodeTableWord 512 (0xFF * 2 ^ 64) = none ∧
  decodeTableWord 512 ((0x01 + 2 ^ 39) * 2 ^ 64) = none ∧
  decodeBundle ((0x01 + 2 ^ 39) * 2 ^ 64) = .error (.illb 103) ∧
  decodeBundle (2 ^ 6) = .error (.illb 6)

/-- Decode and encode agree: for every well-formed op, with every operand at every value that the encoding admits, the bundle
that `encode` makes of it decodes to it. -/
def Obligations.DecodeEncodeRoundTrip : Prop :=
  ∀ i : Instr, i.wf = true → (slotOf i).isSome = true ∨ (∃ t, i = .treeBranch t) → decodeTableWord 512 (encode i) = some i

/-- No step of the module ends in a fault or a refusal: every instruction, at every operand and in every state, goes on to a next
state, be it the handler's, the supervisor's or its own. -/
def Obligations.EveryStepGoesOn : Prop :=
  (∀ (i : Instr) (s : State), goesOn (exec i s)) ∧ (∀ s : State, goesOn (step s)) ∧ ∀ s : State, safeFrom s

/-- The registers that read as constants discard what is written to them (R38, R40): `s0`, `p0`, `k0`. R30 and R63: a scalar
result of latency L issued in one bundle is in its register for the bundle L later, and for none before; `s0` discards it
(R38). -/
def Obligations.RegisterRules : Prop :=
  (∀ (c : Core), c.sreg 0 = 0 ∧ c.preg 0 = true ∧ c.kreg 0 = BitVec.allOnes 64 ∧ c.spoi 0 = none ∧
     (∀ v p, c.setS 0 v p = c) ∧ (∀ b, c.setP 0 b = c) ∧ (∀ v, c.setK 0 v = c) ∧
     (∀ r v p, r ≠ 0 → (c.setS r v p).sreg r = v ∧ (c.setS r v p).spoi r = p ∧
       ∀ q, q ≠ r → (c.setS r v p).sreg q = c.sreg q ∧ (c.setS r v p).spoi q = c.spoi q) ∧
     (∀ r v p, (c.setV r v p).vreg r = v ∧ (c.setV r v p).vpoi r = p ∧
       ∀ q, q ≠ r → (c.setV r v p).vreg q = c.vreg q ∧ (c.setV r v p).vpoi q = c.vpoi q) ∧
     (∀ i b, i ≠ 0 → i < 16 → (c.setP i b).preg i = b ∧ ∀ j, j ≠ i → (c.setP i b).preg j = c.preg j) ∧
     (∀ i v, i ≠ 0 → (c.setK i v).kreg i = v ∧ ∀ j, j ≠ i → (c.setK i v).kreg j = c.kreg j)) ∧
  (∀ (c : Core) (r L k : Nat) (v : Word), c.atH = false → c.pend = [] → r ≠ 0 → 1 ≤ L →
     let t := Nat.repeat Core.endBundle k (c.push .s r L (Word.toVec v) none)
     (k < L → t.sreg r = c.sreg r) ∧ (k = L → t.sreg r = v ∧ t.spoi r = none) ∧
     (∀ q, q ≠ r → t.sreg q = c.sreg q) ∧ (∀ q, t.vreg q = c.vreg q) ∧ (∀ q, t.preg q = c.preg q) ∧
     ∀ s : State, s.putS 0 L v = s)

/-! ## Events of the cores, the engines and the translation (spec/02, 07, 08, 13, 14, 16) -/

/-- R30, R145, R148, R159, R241, R242, R244, R287, R288: what comes due lands; the oldest store of a closed segment goes to its home
under a translation taken now, and a store of the open segment stays; an atomic performs and leaves its port with the old value; a
load takes its value as its reply arrives; a bundle that failed its code is fetched again; ranks in step commit. -/
def Obligations.CommitAndLandingEvents : Prop :=
  ∀ (core : Nat) (s : State),
    let c := s.core core
    exec (.resultLanding core) s = .next (s.modCore core Core.landDue) ∧
    (∀ x : Pending, c.atH = false → c.pend = [x] → x.rem = 0 → x.valid = true → x.cls = .s → x.reg ≠ 0 →
      c.landDue.sreg x.reg = Vec.word x.val ∧ c.landDue.spoi x.reg = x.poison ∧ c.landDue.pend = []) ∧
    exec (.loadOutcome core) s = .next (s.modCore core Core.fixLoads) ∧
    (c.coupled = false →
      (∀ e l, c.ssb = e :: l → e.closed = false → exec (.segmentCommit core) s = .next s) ∧
      (∀ (e : SsbEntry) (l : List SsbEntry) (p : Piece) (ps : List Piece), c.ssb = e :: l → e.closed = true → e.sent = false →
        e.bad = 0 → e.parts = p :: ps → c.loadsPast e.loads = true → c.acquired e.port = true →
        (∀ y ∈ c.ssb, y.store = e.store → ∀ r ∈ y.parts, r.unit = p.unit) →
        let gone (t : State) : State := t.modCore core fun k => k.popPiece e.pos
        let refused (t : State) : State := (t.modCore core fun k => k.dropStore e.store).refuse c.vf
        (s.look core .store e.tid p.unit true false = .miss →
          exec (.segmentCommit core) s = .next ((s.want core .store e.tid p.unit true).pushLoads core)) ∧
        (∀ f, s.look core .store e.tid p.unit true false = .fault f →
          exec (.segmentCommit core) s = .next ((refused s).pushLoads core)) ∧
        (∀ x t w, s.look core .store e.tid p.unit true false = .hit x → x.owner = s.me →
          s.writeUnit (dieOf core) c.vf e.tid p.unit x p.off p.data (some (bulkOf core)) = (t, w) →
          (w = .done → exec (.segmentCommit core) s = .next ((gone t).pushLoads core)) ∧
          (w = .refused → exec (.segmentCommit core) s = .next ((refused t).pushLoads core)) ∧
          (w = .sealed → e.told = false → exec (.segmentCommit core) s =
            .next ((gone ((t.countSealed c.vf).modCore core fun k => k.tellStore e.store)).pushLoads core)) ∧
          (w = .wait → exec (.segmentCommit core) s = .next s)))) ∧
    (∀ (p : PortOp) (l : List PortOp) (x : XEntry) (t : State) (old : Word) (u : ErrUnit) (q : Nat), c.port = p :: l →
      p.sent = false → s.portReady core p = true → p.remote = false → p.store = false → p.ord = .rlx → p.seq = some q → p.xl = some x →
      (∀ o ∈ l, o.id ≠ p.id) → (∀ y ∈ c.loads ++ c.hloads, y.kind ≠ 3 ∧ y.kind ≠ 4) →
      s.atomic c.vf 0 (p.addr / 65536) x (p.addr % 65536) (fun o => atomNew p.func o p.b p.x) (some (bulkOf core)) =
        some (t, old, 0, u) →
      ∃ w, exec (.atomicPerform core) s = .next w ∧ (w.core core).port = l ∧ w.mem = t.mem ∧
        ∀ y ∈ (w.core core).loads, y.valid = true → y.seq = q → y.performed = true ∧ y.val = Word.toVec old ∧ y.cause = 0) ∧
    (∀ (x : Load) (e : XEntry) (t : State) (g : Got), c.loads = [x] → c.hloads = [] → c.latchedNow = false → x.valid = true →
      x.performed = false → x.gone = false → (c.atH = true → x.rem ≠ 0) → x.kind = 0 → x.vec = false → c.mayPerform x = true →
      s.look core (.load x.seq) 0 (x.addr.toNat % 2 ^ 48 / 65536) false false = .hit e →
      State.readOver core x.fwd (x.addr.toNat % 2 ^ 48 / 65536) e
        (linePieces (x.addr.toNat % 2 ^ 48 % 65536) (codeWidth x.ty / 8)) s = some (t, g) → g.cause = 0 →
      ∃ w y, exec (.loadReplyArrival core 0) s = .next w ∧ (w.core core).loads = [y] ∧ y.arrived = true ∧ y.cause = 0 ∧
        y.val = Word.toVec (extCode x.ty (leVal g.bytes)) ∧ y.reg = x.reg ∧ y.rem = x.rem) ∧
    exec (.instructionRefetch core) s =
      .next (s.modCore core fun c => { c with imemBad := c.imemBad.filter (· != c.pc) }) ∧
    (∀ quad, (s.core (4 * quad)).coupled = true → (s.core (4 * quad)).away = false →
      ((∃ r ∈ quadCores (4 * quad), (s.core r).readsDone = false) → exec (.rendezvousCommit quad) s = .next s) ∧
      ((∀ r ∈ quadCores (4 * quad), (s.core r).ssb = [] ∧ (s.core r).port = [] ∧ (s.core r).ch = [] ∧ (s.core r).loads = [] ∧
          (s.core r).hloads = [] ∧ (s.core r).q = []) →
        ∃ t, exec (.rendezvousCommit quad) s = .next t ∧ t.mem = s.mem ∧ ∀ r ∈ quadCores (4 * quad),
          (t.core r).semOps = [] ∧
          (t.core r).sem = (({ (s.core r) with semOps := (s.core r).semOps.map fun o => (0, o.2) } : Core).settle).sem))

/-- R49, R150, R153, R165, R167, R170, R268, R274: the copy engine moves a line, a command with a release waits for it, a chain's
records are walked and a slot is zeroed; a stream places an entry (one that does not govern its register yet does so too), sends its
fetch, takes what lands, and writes its elements. -/
def Obligations.EngineEvents : Prop :=
  (∀ (core ch : Nat) (s : State) (m : Cmd) (l : List Cmd),
    let c := s.core core
    (c.chan ch).cmds = m :: l → m.started = true → m.last = 0 → m.inRec = false →
    (∀ a b, m.kind = .copy → m.src = .scratch a → m.dst = .scratch b → m.bytes = 64 → m.next = 0 → m.acks = 0 →
      (s.reqFor (dieOf core) fun r => r.for_ == .line core ch m.id && r.op != 6) = none →
      c.slotWaits a = false → c.slotWaits b = false → c.slotSealed a = false → c.scratchBad a 64 = false →
      ∃ t, exec (.copyLine core ch) s = .next t ∧ t.mem = s.mem ∧
        (∀ i, (t.core core).scr.byte i = if b ≤ i ∧ i < b + 64 then (c.scratch a 64).getD (i - b) 0 else c.scr.byte i) ∧
        (m.rel = false → ∀ y ∈ ((t.core core).chan ch).cmds, y.id ≠ m.id) ∧
        (m.rel = true → s.engineReleased core m.before m.scope = false →
          (t.core core).sem = c.sem ∧ ∃ y ∈ ((t.core core).chan ch).cmds, y.id = m.id ∧ y.last = 1)) ∧
    (m.kind = .chain →
      let page := m.recAt / 65536
      let m' : Cmd := { m with started := true, acqd := true, used := if m.used.contains (0, page) then m.used else m.used ++ [(0, page)] }
      let u := s.setCmd core ch m'
      (m.recAt = 0 → exec (.ccopyRecord core ch) s = .next (s.completeCmd core ch { m with started := true, acqd := true })) ∧
      (∀ (x : XEntry) (t : State) (g : Got), m.recAt ≠ 0 → s.look core (.chan ch) 0 page false false = .hit x →
        u.readUnit (dieOf core) true (u.core core).vf 0 page x (m.recAt % 65536) 32 (some (bulkOf core)) = some (t, g) → g.cause = 0 →
        (recordOf t.me g.bytes = none → exec (.ccopyRecord core ch) s = .next (t.failCmd core ch m')) ∧
        (∀ nxt d r n, recordOf t.me g.bytes = some (nxt, d, r, n, false) →
          exec (.ccopyRecord core ch) s = .next (t.completeCmd core ch m')) ∧
        (∀ nxt d r n a b, recordOf t.me g.bytes = some (nxt, d, r, n, true) → t.placeOf d = .scratch a → t.placeOf r = .scratch b →
          exec (.ccopyRecord core ch) s = .next (t.setCmd core ch
            { m' with inRec := true, recNext := nxt, dst := .scratch a, src := .scratch b, bytes := n, next := 0, acks := 0
                      used := m'.used.eraseDups }))))) ∧
  (∀ (core n : Nat) (s : State), ∃ t, exec (.slotZeroed core n) s = .next t ∧
    (t.core core).slot n = { (s.core core).slot n with zeroing := false } ∧
    (∀ j, j ≠ n → (t.core core).slot j = (s.core core).slot j) ∧ (t.core core).scr = (s.core core).scr ∧ t.mem = s.mem) ∧
  (∀ (core q : Nat) (s : State),
    let c := s.core core
    let x := c.stream q
    let d := SDesc.ofBits x.desc
    (c.run = .running →
      (x.loaded = true → d.out = false → x.done = false → x.aq.length < 64 →
        ∃ t, exec (.streamAddressPlace core q) s = .next t ∧
          ((t.core core).stream q).aq = x.aq ++ [⟨x.made, false, [], false⟩] ∧
          ((t.core core).stream q).made = Nat.min d.total (x.made + d.perEntry) ∧
          (((t.core core).stream q).done = true ↔ d.total ≤ x.made + d.perEntry)) ∧
      (∀ i, c.qNew = [i] → i.reg = q → x.loaded = false → i.q.places = true →
        ∃ t y, exec (.streamAddressPlace core q) s = .next t ∧ (t.core core).stream q = x ∧
          (t.core core).qNew = [{ i with q := y }] ∧ y.aq = i.q.aq ++ [⟨i.q.made, false, [], false⟩])) ∧
    (∀ a refs, (x.aq.find? fun a => !a.sent) = some a → (x.aq.filter (·.sent)).length + x.dq.length < 16 → c.fetchesGo = true →
      s.entryLook core q x a.item = .hit refs → refs.any (·.out) = false →
      exec (.streamFetchSend core q) s = .next (refs.foldl (fun s r =>
        if r.tid = 0 then s else s.seek core (.stream q) r.tid r.unit false)
        (s.modCore core fun c => c.modStream q fun x => { x with aq := sendFirst refs x.aq }))) ∧
    (∀ a l gs, x.aq = a :: l → a.sent = true → a.bad = false → a.refs.any (·.out) = false → c.engineOn = true → d.kind = 1 →
      c.slotItems d.itemBytes a.refs = some gs →
      ∃ t, exec (.streamFetchLand core q) s = .next t ∧ t.mem = s.mem ∧
        (t.core core).stream q = { x with aq := l, dq := x.dq ++ [entryOf d a.refs gs] }) ∧
    (∀ e r p y t, x.dq = [e] → x.loaded = true → d.out = true → d.kind ≠ 1 → e.bad = false → c.engineOn = true → c.acquired e.port = true → x.pushed = 0 →
      x.wrote = 0 → x.part = 0 → d.total = 1 → s.entryLook core q x 0 = .hit [r] → r.out = false → d.pieces [r] e.val = [p] →
      s.look core (.stream q) d.id p.unit true false = .hit y → y.owner = s.me →
      s.writeUnit (dieOf core) c.vf d.id p.unit y p.off p.data (some (bulkOf core)) = (t, .done) →
      ∃ w, exec (.streamOutputWrite core q) s = .next w ∧ w.mem = t.mem ∧ w.lines = t.lines ∧
        ((w.core core).stream q).dq = [] ∧ ((w.core core).stream q).wrote = 1 ∧ ((w.core core).stream q).done = true))

/-- R236, R281, R282, R286, R264, R288, R289: a walk reads its structures as it leaves the queue and brings what it found to the
access that waits, with no fault cached; shootdowns, what a device discards, what an error spoils, and the number that an event takes
at the arbiter. A watched word is looked at as the oldest write not yet looked at left it (R216). -/
def Obligations.TranslationAndErrorEvents : Prop :=
  (∀ (die : Nat) (s : State) (w : Walk) (q : List Walk), (s.die die).walkQ = w :: q → (s.die die).walking.length < 128 →
    let runs (y : Walk) : State := s.modDie die fun x => { x with walkQ := q, walking := x.walking ++ [y] }
    (w.tid = 0 → w.unit ≠ descUnit →
      (∀ e, s.walk w.vf 0 w.unit = .ok e →
        exec (.walkStart die) s = .next (runs { w with entry := some e, desc := none })) ∧
      (∀ f, s.walk w.vf 0 w.unit = .error f → f.line = none →
        exec (.walkStart die) s =
          .next (runs { w with fault := some (xfault 0 w.unit f.level false w.wr f.reason), desc := none }))) ∧
    (w.unit = descUnit → ∀ b, s.descBits w.vf w.tid = .ok b →
      exec (.walkStart die) s = .next (runs { w with desc := some b }))) ∧
  (∀ (die c : Nat) (u : XUser) (s : State) (w : Walk) (q : List Walk), (s.die die).walking = w :: q → w.who = [(c, u)] →
    (s.core c).vf = w.vf → w.desc = none → s.heldReqs = [] →
    (∀ e, w.entry = some e → w.fault = none →
      ∃ t, exec (.translationWalk die) s = .next t ∧ (t.die die).walking = q ∧
        (∃ l, t.tlb = ⟨c, w.vf, w.tid, w.unit, e⟩ :: l) ∧
        ((s.core c).awaits u = true → ∀ wr prb, t.look c u w.tid w.unit wr prb =
          match t.permit w.vf w.tid w.unit e wr prb with
          | some f => .fault f
          | none => .hit e)) ∧
    (∀ f, w.entry = none → w.fault = some f →
      ∃ t, exec (.translationWalk die) s = .next t ∧ (t.die die).walking = q ∧ t.tlb = s.tlb ∧
        ((s.core c).awaits u = true → ∀ wr prb, t.look c u w.tid w.unit wr prb = .fault (f.seen prb wr)))) ∧
  (∀ (s : State) (x : Shootdown) (c : Nat), s.shoots = [x] → s.shootReady x.set true = true → x.after = .nothing → s.heldReqs = [] →
    x.core = some c → (s.core c).tinvHold = some 0 →
    ∃ t, exec (.shootdownComplete 0) s = .next t ∧ t.shoots = [] ∧ (t.core c).tinvHold = some 1 ∧ t.mem = s.mem) ∧
  (∀ (s : State) (d i : Nat),
    exec (.eviction (.line d i)) s = .next (s.modDie d fun y => { y with rdc := dropAt y.rdc i }) ∧
    exec (.eviction (.remoteGranule d i)) s = .next (s.modDie d fun y => { y with rdcRemote := dropAt y.rdcRemote i }) ∧
    exec (.eviction (.translation i)) s = .next { s with tlb := dropAt s.tlb i } ∧
    exec (.eviction (.descriptor i)) s = .next { s with dtlb := dropAt s.dtlb i }) ∧
  (∀ (s : State) (c r : Nat), r ≠ 0 →
    (∃ t, exec (.softError (.scalar c r)) s = .next t ∧ BadReg.s r ∈ (t.core c).bad) ∧
    (∃ t, exec (.softError (.mask c r)) s = .next t ∧ BadReg.k r ∈ (t.core c).bad) ∧
    (∃ t, exec (.softError (.vector c r)) s = .next t ∧ BadReg.v r ∈ (t.core c).bad) ∧
    (∃ t, exec (.softError (.matrixParameter c r)) s = .next t ∧ BadReg.mp r ∈ (t.core c).bad) ∧
    (∃ t, exec (.softError (.instructionMemory c r)) s = .next t ∧ r ∈ (t.core c).imemBad) ∧
    (∃ t, exec (.softError (.hbmLine r true)) s = .next t ∧ (t.lineState r).ecc = 2 ∧ t.mem = s.mem) ∧
    exec (.softError (.scalar c 0)) s = .next (s.modCore c id)) ∧
  (∀ (s : State) (x : ArbEvent), ∃ t name, exec (.arbiterEvent x) s = .next t ∧ t.seqNo = s.seqNo + 1 ∧
    t.out = s.out ++ [.note name x.number] ∧ t.mem = s.mem ∧ t.cores = s.cores) ∧
  (∀ (s : State) (phys : Nat), s.dirty = [] → exec (.watchedWordReread phys) s = .next s) ∧
  (∀ (s : State) (x : Dirty) (vf wadr a die rid : Nat) (quad : Bool) (ws : List Nat),
    s.dirty = [x] → x.who = .record vf wadr a die rid quad →
    let u : State := { s with dirty := [] }
    s.flatWaits vf a = false → u.recWords vf a = some ws →
    (x.val.toNat < ws.getD 3 0 → exec (.watchedWordReread x.phys) s = .next u) ∧
    (ws.getD 3 0 ≤ x.val.toNat → x.who ∈ s.watches →
      ∃ t, exec (.watchedWordReread x.phys) s = .next t ∧ t.watches = s.watches.erase x.who ∧
        ∃ y ∈ (t.die die).ready, y.vf = vf ∧ y.addr = a ∧ y.rid = rid ∧ y.since = x.us ∧ y.tick = x.tick))

/-! ## Scheduling, freezes and the supervisors (spec/11, spec/14, spec/21) -/

/-- R41, R209, R211 to R214, R219, R220, R226, R374, R375: a free unit takes indices of the ream that the choice names; a task starts
as R41 says; priorities age within their settings; a queue is mapped, its doorbell moves its tail, its entry becomes a ream
and completes; a full barrier lets its holders go; an aborted ream stays aborted; a setting takes a value of its range alone; a
quad couples when its cores are free. -/
def Obligations.SchedulingEvents : Prop :=
  (∀ (core : Nat) (s : State), (s.core core).coupled = false →
    let c := s.core core
    (s.unitFree core = false → exec (.unitChoice core) s = .next s) ∧
    (∀ r, s.unitFree core = true → (s.partDies c.pid).contains (dieOf core) = true → s.choice core (dieOf core) = some (.inr r) →
      ∃ t, exec (.unitChoice core) s = .next t ∧ (t.core core).run = .ending ∧
        (t.core core).task = some ⟨r.rid, none, (r.take (dieOf core)).1, false⟩ ∧
        t.ream r.rid = some { (r.take (dieOf core)).2 with since := s.us } ∧ t.mem = s.mem) ∧
    (∀ k i l r m, c.task = some k → c.run = .ending → c.closing = none → c.stopReq = none → k.held = i :: l → s.ream k.rid = some r →
      s.image r.vf r.prog = some m → s.flatWaits r.vf r.argb = false → s.argOk r.vf r.argb = true →
      ∃ t, exec (.taskStart core) s = .next t ∧ (t.core core).run = .running ∧ (t.core core).pc = 0 ∧
        (t.core core).sreg 1 = BitVec.ofNat 64 i ∧ (t.core core).sreg 2 = BitVec.ofNat 64 r.argb ∧
        (t.core core).sreg 3 = BitVec.ofNat 64 r.n ∧ (∀ n, 4 ≤ n → (t.core core).sreg n = 0) ∧ (∀ n, (t.core core).vreg n = 0) ∧
        (t.core core).cr 1 = BitVec.ofNat 64 r.budget ∧ (t.core core).index = i % 2 ^ 32 ∧ (t.core core).atH = false ∧
        (t.core core).task = some { k with held := l, crec := none } ∧ (t.core core).scr = c.scr ∧ t.mem = s.mem) ∧
    (∀ k i l r m, c.task = some k → c.run = .ending → c.closing = none → c.stopReq = none → k.held = i :: l → s.ream k.rid = some r →
      s.image r.vf r.prog = some m → s.flatWaits r.vf r.argb = false → s.argOk r.vf r.argb = false →
      exec (.taskStart core) s = .next (((s.seen r.vf r.argb 256).abortReam k.rid).endUnit core false))) ∧
  (∀ (s : State) (die i : Nat) (x : ReadyRec), (s.die die).ready[i]? = some x →
    let age := (s.part (s.world x.vf).pid).age
    let n := Nat.min (3 - x.pri) ((s.us - x.ageing) / age)
    (n = 0 → exec (.priorityAging (.record die i)) s = .next s) ∧
    (0 < n → ∃ t, exec (.priorityAging (.record die i)) s = .next t ∧
      { x with pri := x.pri + n, ageing := x.ageing + n * age } ∈ (t.die die).ready)) ∧
  (∀ (s : State) (rid : Nat) (r : Ream), s.ream rid = some r →
    s.reamPriority r = Nat.min 3 (r.pri + (s.us - r.since) / (s.part r.pid).age) ∧
    exec (.priorityAging (.ream rid)) s = .next s ∧
    (∃ t, exec (.reamAbort rid) s = .next t ∧ ∀ r', t.ream rid = some r' → r'.aborted = true) ∧
    (∀ q i, r.queue = some (q, i) → s.reamLive r = false →
      (s.entryWaits q i = true → exec (.queueEntryComplete rid) s = .next (s.hostAsk q)) ∧
      (s.entryWaits q i = false → exec (.queueEntryComplete rid) s =
        .next (((s.hostAsk q).modReam rid fun r => { r with queue := none }).completeEntry q i (!r.aborted)).sweep))) ∧
  (∀ (s : State) (vf queue tail : Nat), queue < 4096 → s.host.up = true →
    let id := 4096 * vf + queue
    let q := s.queueOf id
    q.known = true → q.torn = false →
    (∃ t, exec (.doorbellWrite vf queue tail) s = .next t ∧ t.queueOf id = { q with tail := tail % 2 ^ q.log } ∧
      t.seqNo = s.seqNo + 1 ∧ t.mem = s.mem) ∧
    (∃ t, exec (.queueMap id .unmap) s = .next t ∧ t.queueOf id = { q with slot := none }) ∧
    (∀ n, q.slot = none → n < 64 → (∀ y ∈ s.queues, ¬ (y.2.pid = q.pid ∧ y.2.slot = some n)) →
      ∃ t, exec (.queueMap id (.map n)) s = .next t ∧ t.queueOf id = { q with slot := some n }) ∧
    (∀ v bs, s.mayDispatch q = true → s.entryWaits id q.head = false →
      (s.hostAsk id).queueBytes q (q.entry q.head) 32 = (v, some bs) →
      let next (s : State) : State := s.modQueue id fun q => { q with head := (q.head + 1) % 2 ^ q.log }
      let rda := leVal (bs.take 8)
      (∀ u r, entryOk bs = true → v.flatWaits q.vf rda = false → v.readReam q.vf rda = some (u, 0, some r) →
        exec (.queueDispatch id) s = .next (next (u.createReam q.vf rda r (some (id, q.head))))) ∧
      (∀ u n, entryOk bs = true → v.flatWaits q.vf rda = false → v.readReam q.vf rda = some (u, n, none) →
        exec (.queueDispatch id) s = .next (next (u.completeEntry id q.head false))) ∧
      (entryOk bs = false → exec (.queueDispatch id) s = .next (next (v.completeEntry id q.head false))))) ∧
  (∀ (s : State) (n : Nat) (b : Barrier) (r : Ream), s.bars[n]? = some b → s.ream b.rid = some r → b.scope ≠ .pod → b.poisoned = false →
    (r.participants (s.partDies r.pid) b.scope b.place ≤ b.holders.length →
      exec (.barrierComplete n) s = .next (s.barDone b) ∧
      (∀ i c, b.holders = [i] → s.runners b.rid i = [c] → (s.core c).barHold.isSome = true → (s.core c).run = .running →
        ((s.barDone b).core c).barHold = some 2 ∧ (s.barDone b).bars = s.bars.erase b)) ∧
    (b.holders.length < r.participants (s.partDies r.pid) b.scope b.place → exec (.barrierComplete n) s = .next s)) ∧
  (∀ (s : State) (pid v : Nat), (s.part pid).exists_ = true →
    (10 ≤ v → v ≤ 10000 → exec (.schedulingSettingWrite pid .age v) s = .next (s.modPart pid fun p => { p with age := v })) ∧
    (v < 10 ∨ 10000 < v → exec (.schedulingSettingWrite pid .age v) s = .next s) ∧
    (20 ≤ v → v ≤ 1000 → exec (.schedulingSettingWrite pid .qmq v) s = .next (s.modPart pid fun p => { p with qmq := v })) ∧
    (v < 20 ∨ 1000 < v → exec (.schedulingSettingWrite pid .qmq v) s = .next s)) ∧
  (∀ (s : State) (quad pid : Nat), (s.bulk (bulkOf (4 * quad))).pid = some pid →
    let want := (s.part pid).cplm.contains quad &&
      (quadCores (4 * quad)).all fun c => !s.quarantine.contains c && (s.core c).run != .quarantined
    ((∃ c ∈ quadCores (4 * quad), s.coreIdle c = false) → exec (.quadCouplingChange quad) s = .next s) ∧
    ((∀ c ∈ quadCores (4 * quad), s.coreIdle c = true) →
    ∃ t, exec (.quadCouplingChange quad) s = .next t ∧
      (∀ c ∈ quadCores (4 * quad), (t.core c).coupled = want ∧ (t.core c).rank = if want then c % 4 else 0) ∧
      (want = true → quad ∈ (t.part pid).coupled)))

/-- R222, R252, R253, R255, R259 to R262, R264, R291: a request waits for its core's boundary; the latch of a freeze fixes the
core and reports it; the handler that finds no quiet boundary is stopped; a rewind restores the checkpoint; a refilled core goes
on; a save is held for its restore, and a restore that is refused is reported.
What a save keeps beside its words is the model's (log 15), and so are the refusal of an image that cannot be read (log 27) and that
the planes set for one core are given to tasks of its bulkhead that start later (log 102). -/
def Obligations.FreezeAndSaveEvents : Prop :=
  ∀ (core : Nat) (s : State), (s.core core).coupled = false →
    let c := s.core core
    (∀ k, c.task = some k → c.run = .running → c.stopReq = none → c.freeze = none →
      (∃ t, exec (.preempt core) s = .next t ∧ (t.core core).stopReq = some ⟨10, false, s.seqNo⟩ ∧ (t.core core).hCount = 0 ∧
        t.seqNo = s.seqNo + 1 ∧ t.mem = s.mem) ∧
      (∃ t, exec (.supervisorKill core) s = .next t ∧ (t.core core).stopReq = some ⟨10, true, s.seqNo⟩ ∧ t.seqNo = s.seqNo + 1 ∧
        t.mem = s.mem)) ∧
    (∀ f, c.freeze = some f → c.run = .stopping → c.settled = true → f.kill = false →
      ∃ t, exec (.freezeLatch core) s = .next t ∧ (t.core core).run = .frozen ∧ t.mem = s.mem ∧
        (t.core core).freeze = some { f with seq := if f.seq = 0 then s.seqNo else f.seq, latched := true } ∧
        ∃ x ∈ (t.part c.pid).reports, x.kind = "freeze" ∧ x.core = core ∧ x.w1 = f.info) ∧
    (∀ r, c.stopReq = some r → c.run = .running → c.atH = true → 1024 ≤ c.hCount →
      ∃ t, exec (.handlerQuietTimeout core) s = .next t ∧ (t.core core).run = .stopping ∧ (t.core core).hpend = [] ∧
        (t.core core).hloads = [] ∧ (t.core core).freeze = some ⟨r.cause, 0, r.seq, true, false, false, r.kill, false, decide (r.cause = 11)⟩) ∧
    (∀ k, c.seg.check = some k → c.run = .rewinding → c.freeze = none → (∀ h < 8, (c.chan h).cmds = []) →
      ∃ t, exec (.rewind core) s = .next t ∧ (t.core core).run = .running ∧ (t.core core).pc = k.pc ∧
        (t.core core).pend = k.pend ∧ (t.core core).charge = k.charge ∧ (t.core core).s = c.s ∧ t.mem = s.mem ∧
        ∀ e ∈ (t.core core).ssb, e.closed = true ∨ e.atH = true ∨ e.seg ≠ c.seg.num) ∧
    (∀ f b, c.freeze = some f → c.run = .frozen → f.cause = 9 → f.diap = false → s.halted c.pid = false →
      (∀ y ∈ c.loads ++ c.hloads, y.kind ≠ 3 ∧ y.kind ≠ 4) →
      ∃ t, exec (.budgetRefill core b) s = .next t ∧ (t.core core).run = .running ∧ (t.core core).freeze = none ∧
        (t.core core).cr 1 = b ∧ (t.core core).pc = c.pc ∧ (t.core core).seg.check = none ∧ t.mem = s.mem) ∧
    (∀ a, c.run = .frozen → a % 65536 = 0 → a + 0x450000 ≤ 2 ^ 48 →
      ∃ t y, exec (.saveAreaWrite core a) s = .next t ∧ y ∈ t.saves ∧ y.vf = c.vf ∧ y.addr = a ∧ y.src = some core ∧ y.core = c) ∧
    (∀ a, c.run ≠ .frozen → exec (.saveAreaWrite core a) s = .next s) ∧
    (∀ a,
      let areas := s.restoreSet core a
      let read := areas.foldl (fun s x => s.sawImage c.vf x.2) s
      let told : State → State := fun s => s.report c.pid ⟨"restore refused", core, 0, BitVec.ofNat 64 a⟩
      (a % 65536 ≠ 0 → exec (.snapshotRestore core a) s = .next (told s)) ∧
      (a % 65536 = 0 → (areas.any fun x => s.areaWaits c.vf x.2) = true → exec (.snapshotRestore core a) s = .next s) ∧
      (a % 65536 = 0 → (areas.any fun x => s.areaWaits c.vf x.2) = false →
        (s.halted c.pid = true ∨ read.restoreAll c.vf areas = none → exec (.snapshotRestore core a) s = .next (told read)) ∧
        (∀ t, s.halted c.pid = false → read.restoreAll c.vf areas = some t → exec (.snapshotRestore core a) s =
          .next (areas.foldl (fun t x => if (s.core x.1).run = .free then t.placeImage x.1 else t) t)))) ∧
    (∀ k y r f a, c.task = some k → (s.saves.reverse.find? fun y => y.src == some core && y.vf == c.vf) = some y → s.ream k.rid = some r →
      c.run = .frozen → c.freeze = some f → f.retire = false → a % 64 = 0 → s.flatWaits c.vf a = false → k.abort = false → k.crec = none →
      ∃ t, exec (.continuationRecordWrite core a) s = .next t ∧ (t.core core).run = .free ∧ (t.core core).task = none ∧
        ∃ z ∈ (t.die (dieOf core)).ready, z.addr = a ∧ z.rid = k.rid ∧ z.vf = c.vf) ∧
    (c.run = .free → ∀ v : Word,
      exec (.controlInterfaceWrite core 7 v) s = .next (s.modCore core fun k => k.setCr 7 v) ∧
      exec (.controlInterfaceWrite core 0xA v) s = .next (s.modCore core fun k => k.setCr 0xA v)) ∧
    (∀ n,
      (n ≠ 0 → (s.bulk (bulkOf core)).emg = false →
        exec (.degradeSet core n) s = .next (s.emit (.note "planes refused" core))) ∧
      (n = 0 ∨ (s.bulk (bulkOf core)).emg = true →
        ∃ t, exec (.degradeSet core n) s = .next t ∧ (t.bulk (bulkOf core)).planes = n.toNat ∧ t.mem = s.mem ∧
          (t.core core).cr 0xF = (c.setPlanes (Nat.min n.toNat (fieldOf (c.cr 0xF).toNat 4 3))).cr 0xF ∧
          (t.core core).s = c.s ∧ (t.core core).pc = c.pc))

/-! ## Partitions, worlds and keys (spec/17, spec/21) -/

/-- R197, R225, R278, R289, R295 to R299, R329 to R334, R338 to R340, R343, R345, R347, R362: what the monitor and the supervisors
accept they carry out; what they refuse leaves the machine as it was and is told. A fault stops the partitions that it reaches and no
other.
The notes that a refusal leaves in `out` are the model's (log 2), and so are the two steps in which a retirement is taken (log 101). -/
def Obligations.PartitionAndWorldEvents : Prop :=
  (∀ (s : State) (x : PartitionRequest),
    (∀ l, shapeOf x.bulkheads = some l → s.booted = true → (∀ b ∈ l, (s.bulk b).pid = none) → s.ac 1 ≤ x.version →
      ∃ t, exec (.partitionCreate x) s = .next t ∧ t.mem = s.mem ∧
        (∀ b, (t.bulk b).pid = if b ∈ l then some (l.headD 0) else (s.bulk b).pid) ∧
        (t.part (l.headD 0)).exists_ = true ∧ (t.part (l.headD 0)).bulkheads = l ∧
        (t.part (l.headD 0)).pm = extend 0 x.firmware ∧ t.ac 1 = Nat.max (s.ac 1) (Nat.min 64 x.version) ∧
        ∀ c, bulkOf c ∈ l → c < 384 → (t.core c).run = .draining ∧ (t.core c).mism = (s.core c).mism) ∧
    (shapeOf x.bulkheads = none → exec (.partitionCreate x) s = .next (s.emit (.note "partition refused" 0))) ∧
    (∀ l b, shapeOf x.bulkheads = some l → b ∈ l → (s.bulk b).pid ≠ none →
      exec (.partitionCreate x) s = .next (s.emit (.note "partition refused" (l.headD 0))))) ∧
  (∀ (s : State) (pid : Nat), (s.part pid).exists_ = true → (s.part pid).deleting = false →
    ((∀ w ∈ s.worlds, ¬ (w.2.exists_ = true ∧ w.2.pid = pid)) →
      ∃ t, exec (.partitionDelete pid) s = .next t ∧ t.part pid = { (default : Part) with pm := (s.part pid).pm } ∧ t.mem = s.mem ∧
        ∀ b ∈ (s.part pid).bulkheads, t.bulk b = Bulkhead.off) ∧
    exec (.partitionDelete pid) (s.modPart pid fun p => { p with deleting := true }) =
      .next (s.modPart pid fun p => { p with deleting := true })) ∧
  (∀ (s : State) (b pid : Nat), (s.bulk b).pid = some pid → s.cores = [] →
    ((s.bulk b).gateShut = false →
      ∃ t, exec (.bulkheadReset b) s = .next t ∧ (t.bulk b).gateShut = true ∧ (t.bulk b).inReset = true ∧ t.seqNo = s.seqNo + 1) ∧
    ((s.bulk b).gateShut = true → (s.bulk b).inReset = true → pid ≠ b → s.heldReqs = [] →
      s.heldFields = [] → s.reams = [] → (∀ w ∈ s.worlds, w.2.draining = false) → (∀ d < 3, (s.die d).reqs = []) →
      ∃ t, exec (.bulkheadResetRelease b) s = .next t ∧ (t.bulk b).gateShut = false ∧ (t.bulk b).inReset = false)) ∧
  (∀ (s : State) (b : Nat), (∀ p ∈ s.parts, ¬ (p.2.exists_ = true ∧ b ∈ p.2.bulkheads)) →
    ∃ t, exec (.bulkheadFault b) s = .next t ∧ t.parts = s.parts ∧ (t.bulk b).absent = true ∧ (t.bulk b).gateShut = true ∧
      ∀ j, j ≠ b → t.bulk j = s.bulk j) ∧
  (∀ (s : State) (n : Nat), s.parts = [] →
    exec (.bridgeFault n) s = .next s ∧
    (∃ t, exec (.hbmStackFault n) s = .next t ∧ (t.bulk (8 * (n / 4) + 2 * (n % 4))).absent = true ∧
      (t.bulk (8 * (n / 4) + 2 * (n % 4) + 1)).absent = true ∧ t.cores = s.cores) ∧
    (∃ t, exec (.dieSharedPartFault n) s = .next t ∧ (t.die n).failed = true ∧ (∀ i < 8, (t.bulk (8 * n + i)).absent = true) ∧
      t.cores = s.cores)) ∧
  (∀ (s : State) (pid : Nat) (p : Part), s.parts = [(pid, p)] → p.exists_ = true → s.worlds = [] → p.bulkheads = [0, 8] →
    ∃ t, exec (.bridgeFault 0) s = .next t ∧ (t.part pid).running = false) ∧
  (∀ (s : State) (vf : Nat) (r : BitVec 128),
    ((s.world vf).exists_ = true → s.recordOk vf r.toNat = true →
      exec (.secondStageWrite vf r) s = .next (s.shoot vf (2 ^ 24) none none (.record r))) ∧
    ((s.world vf).exists_ = false ∨ s.recordOk vf r.toNat = false →
      exec (.secondStageWrite vf r) s = .next (s.emit (.note "record refused" vf)))) ∧
  (∀ (s : State) (x : PriorityList), (s.part x.pid).exists_ = true → x.plb % 16 = 0 → x.pln ≤ 4096 →
    (x.dpri ≤ 3 → (∀ e ∈ s.listAt x.plb x.pln, s.entryOk x.pid e = true) → exec (.priorityListSet x) s =
      .next (s.modPart x.pid fun p => { p with dpri := x.dpri, plb := x.plb, pln := x.pln, prio := s.listAt x.plb x.pln })) ∧
    (3 < x.dpri → exec (.priorityListSet x) s = .next (s.emit (.note "list refused" x.pid)))) ∧
  (∀ (s : State) (h : Nat) (k : KeySlot), s.key (handleOf h).slot = k →
    ((handleOf h).slot = 0 ∨ k.live = false ∨ k.gen ≠ (handleOf h).gen → exec (.sealPoint h) s = .next s) ∧
    ((handleOf h).slot ≠ 0 → k.live = true → k.gen = (handleOf h).gen → s.keyOps = [] → s.others k.reach ≠ [] →
      exec (.sealPoint h) s = .next (s.sealKey (handleOf h)) ∧ ((s.sealKey (handleOf h)).key (handleOf h).slot).live = false)) ∧
  (∀ (s : State) (vf n gen : Nat) (reach : BitVec 64) (key : BitVec 256), (s.world vf).exists_ = true → (s.world vf).fabric = true →
    n ≠ 0 → (s.key n).live = false → (s.key n).gen = gen →
    ((s.world vf).atQuota = false → ∃ t, exec (.keyInstall (.peer vf n gen reach key)) s = .next t ∧
      t.key n = ⟨gen, true, vf, reach, key, s.keysMade + 1, false⟩ ∧ t.keysMade = s.keysMade + 1 ∧ t.mem = s.mem) ∧
    ((s.world vf).atQuota = true →
      exec (.keyInstall (.peer vf n gen reach key)) s = .next (s.emit (.note "key refused" n)))) ∧
  (∀ (s : State) (frame : Nat), (∀ x ∈ s.retiring, x.1 ≠ frame) → exec (.frameRetirement frame) s = .next s) ∧
  (∀ (s : State) (frame n vf : Nat) (w : World), s.retiring = [(frame, n)] → s.worlds = [(vf, w)] → w.exists_ = true →
    w.sbase ≤ frame → frame < w.sbase + w.slen →
    (s.taken = [] → (s.part w.pid).spare = [] →
      ∃ t, exec (.frameRetirement frame) s = .next t ∧ t.badFrames = s.badFrames ∧ t.mem = s.mem ∧ t.retiring = [] ∧
        (t.part w.pid).reports = (s.part w.pid).reports ++ [⟨"no spare", 0, BitVec.ofNat 64 frame, 0⟩]) ∧
    (∀ g, w.sbase ≤ g → g < w.sbase + w.slen → g ≠ frame →
      (s.taken = [] → (s.part w.pid).spare = [g] →
        ∃ t, exec (.frameRetirement frame) s = .next t ∧ t.taken = [(frame, g)] ∧ t.badFrames = s.badFrames ∧
          (t.part w.pid).spare = []) ∧
      (s.taken = [(frame, g)] →
        (s.shootReady (s.frameSet vf (frame - w.sbase)) true = false → exec (.frameRetirement frame) s = .next s) ∧
        (s.shootReady (s.frameSet vf (frame - w.sbase)) true = true → s.badFrames = [] →
          ∃ t, exec (.frameRetirement frame) s = .next t ∧ t.badFrames = [frame] ∧ t.taken = [])))) ∧
  (∀ (s : State) (frame : Nat), s.lostFrame frame = false → (∀ l ∈ s.lines, l.1 / 1024 = frame → l.2.ecc = 0) →
    exec (.patrolScrub frame) s = .next s) ∧
  (∀ (s : State) (l : Nat) (x : LineState), s.lines = [(l, x)] → s.lostFrame (l / 1024) = false → x.ecc = 1 →
    ∃ t, exec (.patrolScrub (l / 1024)) s = .next t ∧ (Tab.get ⟨none, 0⟩ t.lines l).ecc = 0 ∧
      t.out = s.out ++ [.note "retirement" (l / 1024)] ∧ ∃ n, (l / 1024, n) ∈ t.retiring) ∧
  (∀ (s : State) (x : Firmware),
    (x.signed = true → s.ac 0 ≤ x.version → exec (.firmwareUpdate x) s =
      .next (((s.raiseAC 0 x.version).extendMM 1 x.digest).modMon fun m => { m with fwDigest := x.digest }).deriveKey) ∧
    (x.signed = false ∨ x.version < s.ac 0 → exec (.firmwareUpdate x) s = .next (s.emit (.note "firmware refused" x.version)))) ∧
  (∀ (s : State) (vf : Nat) (x : ImageFile),
    ((s.world vf).exists_ = true → (s.world vf).ifs = .run → s.owns vf x.session = true →
      x.signer = some (s.world vf).owner → x.replaces = none → x.kind = .core →
      imageOk x (s.world vf) = true → (s.world vf).handles.length < 65535 → x.data = [] →
      ∃ t i, exec (.imageLoad vf x) s = .next t ∧ (t.world vf).images = (s.world vf).images ++ [i] ∧ i.bundles = x.bundles ∧
        i.consts = x.consts ∧ (t.world vf).wm = extend (s.world vf).wm x.digest ∧ t.mem = s.mem) ∧
    ((s.world vf).exists_ = false ∨ s.owns vf x.session = false ∨ x.signer ≠ some (s.world vf).owner →
      exec (.imageLoad vf x) s = .next (s.emit (.note "image refused" vf)))) ∧
  (∀ (s : State) (pid : Nat) (r : BitVec 128), s.winReqs = [] →
    let g := (s.world (fieldOf r.toNat 96 8)).pid
    let v := (s.world (fieldOf r.toNat 88 8)).pid
    (pid = g ∨ pid = v → exec (.windowRequest pid r) s = .next { s with winReqs := [⟨pid, r, s.us⟩] }) ∧
    (pid ≠ g → pid ≠ v → exec (.windowRequest pid r) s = .next (s.report pid ⟨"window refused", 0, 0, 0⟩))) ∧
  (∀ (s : State) (g v : Nat) (r : BitVec 128) (w : Window) (since : Nat), s.winReqs = [⟨g, r, since⟩] → s.us < since + 1000000 →
    g = (s.world (fieldOf r.toNat 96 8)).pid → v = (s.world (fieldOf r.toNat 88 8)).pid → g ≠ v → s.windowOf r.toNat = some w →
    ∃ t, exec (.windowRequest v r) s = .next t ∧ t.windows = s.windows ++ [w] ∧ t.winReqs = []) ∧
  (∀ (s : State) (n : Nat) (q : WindowReq), s.winReqs[n]? = some q →
    (s.us < q.since + 1000000 → exec (.windowRequestTimeout n) s = .next s) ∧
    (q.since + 1000000 ≤ s.us → ∃ t, exec (.windowRequestTimeout n) s = .next t ∧ t.winReqs = s.winReqs.erase q)) ∧
  (∀ (s : State) (n : Nat) (w : Window), s.windows[n]? = some w →
    exec (.windowRevoke n) s = .next (s.shoot w.rvf (2 ^ 24) none none (.window w))) ∧
  (∀ (s : State) (core : Nat), (s.core core).run = .free → (s.core core).task = none → (s.core core).routine = none →
    (s.core core).settled = true → (s.bulk (bulkOf core)).pid = none → (s.bulk (bulkOf core)).gateShut = false →
    (∀ w ∈ s.worlds, w.2.draining = false) →
    ∃ t, exec (.worldDrain core) s = .next t ∧ (t.core core).run = .draining ∧ (∀ r, (t.core core).sreg r = 0) ∧
      (∀ r, (t.core core).vreg r = 0) ∧ (t.core core).scr = [] ∧ (t.core core).mism = (s.core core).mism ∧ t.mem = s.mem)

/-! ## The fabric (spec/19, spec/22) -/

/-- R306, R311 to R313, R315: a lane trains with a new key, takes acknowledgments and credits, sends again what a peer asks for, and
goes dark on the eighth failure; the lit set follows the trained lanes once they are quiet; a world is installed across the pod. -/
def Obligations.LaneEvents : Prop :=
  (∀ (s : State) (p m : Nat),
    let l := s.lane p m
    (l.trained = false →
      (∃ t, exec (.laneTraining p m true) s = .next t ∧ (t.lane p m).trained = true ∧ (t.lane p m).key = l.key + 1 ∧
        (t.lane p m).replay = [] ∧ (t.lane p m).used = [] ∧ t.mem = s.mem) ∧
      exec (.laneTraining p m false) s = .next s ∧ exec (.laneRekey p m) s = .next s ∧ exec (.laneDark p m) s = .next s ∧
      (∀ n, exec (.replayRequest p m n) s = .next s) ∧ ∀ n mac, exec (.crcOrMacFailure p m ⟨n, mac⟩) s = .next s) ∧
    (l.trained = true → l.replay = [] → s.resend = [] →
      (∃ t, exec (.laneDark p m) s = .next t ∧ (t.lane p m).trained = false ∧ t.out = s.out ++ [.link p m "dark" 0]) ∧
      (∃ t, exec (.laneRekey p m) s = .next t ∧ (t.lane p m).trained = false) ∧
      (∀ n, l.again = (n, 7) → ∃ t, exec (.replayRequest p m n) s = .next t ∧ (t.lane p m).trained = false) ∧
      (∀ mac, l.fails = 7 → ∃ t, exec (.crcOrMacFailure p m ⟨l.expect, mac⟩) s = .next t ∧ (t.lane p m).trained = false)) ∧
    (l.trained = true →
      (∀ n, l.again.1 ≠ n → ∃ t, exec (.replayRequest p m n) s = .next t ∧ (t.lane p m).again = (n, 1) ∧
        t.out = s.out ++ l.replay.map Out.packet) ∧
      (l.fails < 7 → ∃ t, exec (.crcOrMacFailure p m ⟨l.expect, false⟩) s = .next t ∧ (t.lane p m).fails = l.fails + 1 ∧
        (t.lane p m).failing = true ∧ t.out = s.out ++ [.link p m "replay" l.expect]) ∧
      (∀ n mac, l.failing = true → n ≠ l.expect → exec (.crcOrMacFailure p m ⟨n, mac⟩) s = .next s)) ∧
    (∀ n, s.held = [] → s.resend = [] →
      (l.acked ≤ n → n < l.count → ∃ t, exec (.linkAck p m n) s = .next t ∧ (t.lane p m).acked = n + 1 ∧
        (t.lane p m).replay = l.replay.drop (n + 1 - l.acked) ∧ (t.lane p m).count = l.count) ∧
      (n < l.acked ∨ l.count ≤ n → exec (.linkAck p m n) s = .next s) ∧
      (∀ vl, ∃ t, exec (.creditReturn p m vl n) s = .next t ∧ Tab.get 0 (t.lane p m).used vl = Tab.get 0 l.used vl - n))) ∧
  (∀ (s : State) (m : Nat), s.held = [] → s.resend = [] → s.worlds = [] → (∀ d < 3, (s.die d).reqs = []) →
    (s.trainedTo m = s.litTo m → m ∉ s.changing → exec (.litSetChange m) s = .next s) ∧
    (s.trainedTo m ≠ s.litTo m ∨ m ∈ s.changing → (∀ p ∈ s.trainedTo m, (s.lane p m).replay = []) →
      ∃ t, exec (.litSetChange m) s = .next t ∧ t.litTo m = s.trainedTo m ∧ m ∉ t.changing)) ∧
  (∀ (s : State) (x : FabricWorld), (s.world x.vf).exists_ = true →
    ((∀ y ∈ s.worlds, y.1 ≠ x.vf → y.2.exists_ = true → y.2.fwid ≠ x.fwid) → (s.world x.vf).psta = 0 →
      ∃ t, exec (.fabricWorldInstall x) s = .next t ∧ (t.world x.vf).fabric = true ∧ (t.world x.vf).fwid = x.fwid ∧
        (t.world x.vf).members = x.members ∧ (t.world x.vf).dataKey = x.dataKey ∧ (t.world x.vf).codeKey = x.codeKey ∧ t.mem = s.mem ∧
        ∀ m < 64, (Tab.get (0, 0, 0) (t.world x.vf).peers m).1 =
          if x.members.getLsbD m = true ∧ (m = s.me ∨ s.litTo m ≠ []) then 0 else 3) ∧
    (∀ y ∈ s.worlds, y.1 ≠ x.vf → y.2.exists_ = true → y.2.fwid = x.fwid →
      exec (.fabricWorldInstall x) s = .next (s.emit (.note "fabric world refused" x.vf))))

/-- R307, R309, R312, R314, R316 to R318, R324, R349, R351, R354, R371: a packet of its form that comes once is taken in the world of
its FWID and served as its op says; one of another form or of no world is dropped and counted, and a request that reaches a module
asleep is answered NACK with cause 6. BAR and BPOI that come for a world in diapause are kept for its restore (the model's, log 111),
as is which packets are looked for as second copies (logs 34, 132). -/
def Obligations.PacketEvents : Prop :=
  let came (s : State) (x : Packet) : Prop := x.src ≠ s.me ∧ x.count = (s.lane x.plane x.src).expect
  let served (op : Nat) (x : Packet) (t : State) : State := if t.holds op x then t else t.creditFor op x
  (∀ (s : State) (x : Packet) (vf : Nat), s.vfOf x.fwid = some vf → s.asleepFor vf = false → came s x →
    let taken (i : Instr) (op : Nat) (f : State → State) : Prop :=
      badForm op x = false → s.secondCopy op x = false → exec i s = .next (served op x (f (s.acceptOn op x)))
    taken (.rd8 x) 1 (State.serveFlat 1 vf x) ∧ taken (.rd256 x) 2 (State.serveFlat 2 vf x) ∧
    taken (.wr8 x) 3 (State.serveFlat 3 vf x) ∧ taken (.wr256 x) 4 (State.serveFlat 4 vf x) ∧
    taken (.atom x) 5 (State.serveFlat 5 vf x) ∧ taken (.trd x) 6 (State.serveTrd vf x) ∧
    taken (.twr x) 7 (State.serveTwr false vf x) ∧ taken (.cpw x) 8 (State.serveFlat 8 vf x) ∧
    taken (.rcpPacket x) 9 (State.serveFlat 9 vf x) ∧ taken (.rcpoPacket x) 0xA (State.serveFlat 0xA vf x) ∧
    taken (.relay x) 0xB (State.serveTwr true vf x) ∧ taken (.migAlloc x) 0xC (State.serveAlloc vf x) ∧
    taken (.migLine x) 0xC (State.serveLine vf x) ∧ taken (.migCommit x) 0xC (State.serveCommit vf x) ∧
    taken (.migQuery x) 0xC (State.serveQuery vf x) ∧ taken (.migRelease x) 0xC (State.serveRelease x) ∧
    (s.sleepsFor x.fwid = false → taken (.diapPacket x) 0xF (fun t =>
      (if (Tab.get (0, 0, 0) (t.world vf).peers x.orig).2.2 = x.caddr.toNat % 4 then t else t.raise "peer diapause" x.orig).setPeer
        vf x.orig (x.caddr.toNat % 4) (x.caddr.toNat % 4))) ∧
    taken (.mon x) 0x11 (fun t => t.emit (.note "monitor message" x.src))) ∧
  (∀ (s : State) (x : Packet) (vf : Nat), s.vfOf x.fwid = some vf → came s x →
    let id := x.caddr.toNat % 16
    let n := leVal (x.data.take 8)
    (s.sleepsFor x.fwid = true →
      (badForm 0xD x = false → ∃ t, exec (.barPacket x) s = .next t ∧ t.worlds = s.worlds ∧ t.mem = s.mem ∧
        t.mon = { s.mon with waits := s.mon.waits ++ [(0xD, x)] }) ∧
      (badForm 0xE x = false → ∃ t, exec (.bpoi x) s = .next t ∧ t.worlds = s.worlds ∧ t.mem = s.mem ∧
        t.mon = { s.mon with waits := s.mon.waits ++ [(0xE, x)] })) ∧
    (s.sleepsFor x.fwid = false → badForm 0xD x = false → n = s.step_ vf id → (s.world vf).barIn.contains (id, n, x.orig) = false →
      ∃ t, exec (.barPacket x) s = .next t ∧ (t.world vf).barIn = (s.world vf).barIn ++ [(id, n, x.orig)] ∧ t.mem = s.mem) ∧
    (s.sleepsFor x.fwid = false → badForm 0xE x = false → (s.world vf).poisonIn.contains (id, n + 1) = false → n = s.step_ vf id →
      s.bars = [] →
      ∃ t, exec (.bpoi x) s = .next t ∧ (t.world vf).poisonIn = (s.world vf).poisonIn ++ [(id, n)] ∧
        t.step_ vf id = n + 1) ∧
    (s.sleepsFor x.fwid = false → badForm 0xE x = false → (s.world vf).poisonIn.contains (id, n) = false → n = s.step_ vf id + 1 →
      ∃ t, exec (.bpoi x) s = .next t ∧ (t.world vf).poisonIn = (s.world vf).poisonIn ++ [(id, n)] ∧
        t.step_ vf id = s.step_ vf id) ∧
    (s.sleepsFor x.fwid = false → badForm 0x10 x = false → x.data = [] → s.member vf x.orig = true → x.orig ≠ s.me → s.held = [] → s.resend = [] →
      (s.world vf).toSend = [] → (s.world vf).psta = 0 → (∀ d < 3, (s.die d).reqs = []) →
      ∃ t, exec (.resumePacket x) s = .next t ∧ (Tab.get (0, 0, 0) (t.world vf).peers x.orig).1 = 0 ∧ t.mem = s.mem)) ∧
  (∀ (s : State) (x : Packet), came s x → s.secondCopy 1 x = false → badForm 1 x = false →
    (s.vfOf x.fwid = none → ∃ t, exec (.rd8 x) s = .next t ∧ t.dropped = s.dropped + 1 ∧ t.mem = s.mem) ∧
    (∀ vf, s.vfOf x.fwid = some vf → s.asleepFor vf = true →
      exec (.rd8 x) s = .next (served 1 x ((s.acceptOn 1 x).acked x 6)))) ∧
  (∀ (s : State) (x : Packet) (vf : Nat), came s x → s.secondCopy 3 x = false → badForm 3 x = true → s.vfOf x.fwid = some vf →
    ∃ t, exec (.wr8 x) s = .next t ∧ t.dropped = s.dropped + 1 ∧ t.mem = s.mem) ∧
  (∀ (s : State) (p : Packet) (vf : Nat) (e : XEntry) (t : State) (g : Got), s.flatCause vf p.addr.toNat false = none →
    s.flatEntry vf p.addr.toNat false = some e →
    s.readUnit (frameDie e.frame) false vf 0 (p.addr.toNat / 65536) e (p.addr.toNat % 65536) 8 = some (t, g) → g.cause = 0 →
    s.heldReqs = [] → State.serveFlat 1 vf p s = t.answer p 0x20 0 g.bytes)

/-- R319, R322, R352, R354, R355: a reply ends the request whose tag and generation it carries; a tag times out after TTO and is free after
four times that; a line refused BUSY goes again; a REDIRECT teaches the owner; a group, a stub's round and an owner's entry come to
their end.
Groups stand for one line each (log 13); times are those of log 4. -/
def Obligations.ReplyAndTagEvents : Prop :=
  (∀ (s : State) (x : Packet) (vf d : Nat) (r : Req), s.vfOf x.fwid = some vf →
    let u (op : Nat) : State := s.acceptOn op x
    x.src ≠ s.me → x.count = (s.lane x.plane x.src).expect →
    let good (op : Nat) : Prop := badForm op x = false ∧ s.secondCopy op x = false ∧ (u op).requestFor x = some (d, r)
    (good 0x21 → exec (.ack x) s = .next ((u 0x21).endReq d r 0 [])) ∧
    (good 0x20 → r.op ≠ 1 → r.op ≠ 2 → exec (.data x) s = .next ((u 0x20).endReq d r 0 (x.data.take r.wants))) ∧
    (good 0x22 → x.caddr.toNat % 16 = 2 → exec (.nack x) s = .next ((u 0x22).endReq d r 2 [])) ∧
    (good 0x22 → x.caddr.toNat % 16 = 7 → exec (.nack x) s = .next (((u 0x22).modDie d fun y =>
      { y with
        reqs := y.reqs.map fun q => if q = r then { q with sent := false, busy := true, tagged := false, since := s.us } else q
        tagFreed := y.tagFreed ++ [r.tag] }).pump d)) ∧
    (good 0x23 → r.op = 7 → exec (.redirect x) s =
      .next ((((u 0x23).learnOwner d r (x.caddr.toNat % 64)).closeReq d r 0 []).afterReply d)) ∧
    (badForm 0x21 x = false → s.secondCopy 0x21 x = false → (u 0x21).requestFor x = none →
      exec (.ack x) s = .next ((u 0x21).lateReply x))) ∧
  (∀ (s : State) (die tag : Nat) (r : Req),
    (((s.die die).reqs.find? fun r => r.sent && !r.done && !r.quar && r.tag == tag) = some r →
      s.us < r.since + (s.part (s.world r.vf).pid).tto → exec (.tagTimeout die tag) s = .next s) ∧
    ((s.die die).reqs = [r] → r.sent = true → r.done = false → r.quar = false → r.tag = tag →
      r.since + (s.part (s.world r.vf).pid).tto ≤ s.us → r.for_ = .load 0 0 → r.op = 1 →
      ∃ t q, exec (.tagTimeout die tag) s = .next t ∧ (t.die die).reqs = [q] ∧ q.quar = true ∧ q.tag = tag ∧ q.since = s.us) ∧
    ((s.die die).reqs = [r] → r.quar = true → r.sent = false → r.tag = tag →
      (s.us < r.since + 4 * (s.part (s.world r.vf).pid).tto → exec (.tagQuarantineExpiry die tag) s = .next s) ∧
      (r.since + 4 * (s.part (s.world r.vf).pid).tto ≤ s.us →
        ∃ t, exec (.tagQuarantineExpiry die tag) s = .next t ∧ (t.die die).reqs = [] ∧ tag ∈ (t.die die).tagFreed)) ∧
    ((s.die die).reqs = [r] → r.busy = true → r.tag = tag →
      (s.us < r.since + 2 → exec (.busyResend die tag) s = .next s) ∧
      (r.since + 2 ≤ s.us → exec (.busyResend die tag) s = .next ((((s.modDie die fun y =>
        { y with reqs := [{ r with busy := false }] }).pump die).deliverDone die))))) ∧
  (∀ (s : State) (die n : Nat) (g : Group), (s.die die).groups[n]? = some g →
    (s.us < g.first + (s.part g.pid).rwt → exec (.rcpoGroupAbandon die n) s = .next s) ∧
    ((s.die die).groups = [g] → 0 < g.bytes → g.first + (s.part g.pid).rwt ≤ s.us → (s.die die).staged = [] →
      ∃ t, exec (.rcpoGroupAbandon die n) s = .next t ∧ (t.die die).groups = [] ∧ t.mem = s.mem ∧
        ∃ x ∈ (t.part g.pid).reports, x.kind = "fabric")) ∧
  (∀ (s : State) (die n : Nat) (o : OwnerEntry), (s.die die).owners[n]? = some o →
    (o.pend ≠ 0 → exec (.ownerCacheRelease die n) s = .next s) ∧
    (o.pend = 0 → (s.die die).reqs = [] → ∃ t, exec (.ownerCacheRelease die n) s = .next t ∧ (t.die die).reqs = [] ∧ t.mem = s.mem)) ∧
  (∀ (s : State) (n vf : Nat),
    let e : MigEntry := Tab.get default s.mig n
    s.vfOf e.fwid = some vf → e.kind = 1 →
    (e.rnd = 0 → e.dep = 1 → s.selfState = 0 → e.last + (s.part (s.world vf).pid).stq ≤ s.us → exec (.stubRoundStart n) s =
      .next (State.roundAsk { s with mig := Tab.set default s.mig n { e with rnd := 1, began := s.us, asked := [] } } n vf)) ∧
    (e.rnd = 0 → s.us < e.last + (s.part (s.world vf).pid).stq → exec (.stubRoundStart n) s = .next s) ∧
    (e.rnd = 1 → e.began + (s.part (s.world vf).pid).srt ≤ s.us →
      ∃ t, exec (.stubRoundTimeout n) s = .next t ∧ Tab.get default t.mig n = { e with rnd := 2, asked := [] } ∧
        ∃ x ∈ (t.part (s.world vf).pid).reports, x.kind = "fabric") ∧
    (e.rnd = 2 → e.dep = 1 → exec (.stubRoundRequest n) s =
      .next (State.roundAsk { s with mig := Tab.set default s.mig n { e with rnd := 1, began := s.us, asked := [] } } n vf)))

/-! ## Power, diapause, the host and the side band (spec/24, spec/25) -/

/-- R360 to R371, R382: the first trigger freezes the module; what is frozen is drained and sealed into a numbered manifest; a
brown-out sheds the die of the lower priority and ends; power good begins the boot, a failed step of which stops it; an eclosion takes
the manifest that stands or boots cold; cores come back when the reserve covers another drain.
What a manifest holds is the state it restores (log 24). -/
def Obligations.DiapauseEvents : Prop :=
  (∀ (s : State) (h : Nat), s.mon.full = false → s.mon.phase = .up →
    (∃ t, exec (.powerFailWarning h) s = .next t ∧ t.mon.full = true ∧ t.mon.phase = .freezing ∧ t.mon.hreserve = Nat.min h 3000 ∧
      t.mon.trig = s.seqNo) ∧
    (∃ t, exec (.inputUndervoltage h) s = .next t ∧ t.mon.full = true ∧ t.mon.phase = .freezing ∧ t.mon.hreserve = Nat.min h 3000)) ∧
  (∀ (s : State) (h : Nat), s.mon.full = true → s.mon.phase = .freezing →
    exec (.powerFailWarning h) s = .next (s.raise "shelf" 0) ∧ exec (.inputUndervoltage h) s = .next (s.raise "input" 0)) ∧
  (∀ s : State, s.mon.phase = .freezing → s.mon.full = true →
    (∀ c ∈ s.coresOf s.drainParts, (s.core c).task.isSome = true → (s.core c).run = .frozen) →
    ∃ t, exec .diapauseDrain s = .next t ∧ t.mon.phase = .drained ∧ t.selfState = 1 ∧ t.mon.mseq = s.mon.mseq) ∧
  (∀ s : State, s.mon.phase ≠ .freezing → exec .diapauseDrain s = .next s) ∧
  (∀ s : State, s.mon.phase = .drained → s.mon.full = true →
    ∃ t, exec .manifestSeal s = .next t ∧ t.mon.phase = .asleep ∧ t.mon.mseq = s.mon.mseq + 1 ∧ t.mem = s.mem ∧
      (t.mon.slot s.mon.nextSlot).valid = true ∧ (t.mon.slot s.mon.nextSlot).consumed = false ∧
      (t.mon.slot s.mon.nextSlot).mseq = s.mon.mseq + 1 ∧ (t.mon.slot s.mon.nextSlot).trig = s.mon.trig) ∧
  (∀ s : State, s.mon.phase = .up → s.mon.full = false → s.cores = [] →
    (s.mon.brown = 0 → ∃ t, exec .brownoutEntry s = .next t ∧ t.mon.phase = .freezing ∧ t.mon.brown = s.us + 1 ∧
      t.mon.sheds = [if s.topPri 1 < s.topPri 2 then 1 else 2]) ∧
    (∀ d, s.mon.brown ≠ 0 → s.mon.sheds = [d] →
      (s.us < s.mon.brown - 1 + 100000 → exec .brownoutSecondShed s = .next s) ∧
      (s.mon.brown - 1 + 100000 ≤ s.us → ∃ t, exec .brownoutSecondShed s = .next t ∧ t.mon.phase = .freezing ∧
        t.mon.sheds = [d, 3 - d])) ∧
    (s.mon.brown ≠ 0 → s.mon.sheds ≠ [] → s.selfState = 0 → s.worlds = [] → s.lanes = [] →
      ∃ t, exec .brownoutRetention s = .next t ∧ t.selfState = 2 ∧
        ∀ p ∈ s.allParts, (s.part p).shed = false → (t.part p).retained = true) ∧
    (s.mon.brown ≠ 0 → (∀ p ∈ s.parts, p.2.shed = false) → s.selfState = 0 →
      ∃ t, exec .brownoutExit s = .next t ∧ t.mon.brown = 0 ∧ t.mon.sheds = [] ∧ t.mon.phase = .up ∧
        ∀ p, (t.part p).retained = false ∨ p ∉ s.allParts)) ∧
  (∀ (s : State) (x : BootInputs),
    (s.mon.phase = .off → ∃ t, exec (.powerGoodBoot x) s = .next t ∧ t.mon.phase = .boot ∧ t.us = 0 ∧ t.seqNo = 1 ∧ t.mem = [] ∧
      t.cores = [] ∧ t.badFrames = s.badFrames ∧ (t.mon.stopped = true ↔ x.ok = false)) ∧
    (s.mon.phase = .boot → s.mon.stopped = false → s.mon.step = 4 →
      (x.ok = true → s.ac 2 ≤ x.version →
        exec (.powerGoodBoot x) s = .next ((s.raiseAC 2 x.version).extendMM 2 x.digest).bootNext) ∧
      (x.ok = false ∨ x.version < s.ac 2 → exec (.powerGoodBoot x) s = .next s.bootStop))) ∧
  (∀ (s : State) (x : EclosionInputs), s.mon.phase = .boot → s.mon.step = 7 → s.mon.stopped = false → s.mon.full = false →
    (s.chooseSlot x = none → ∃ t, exec (.eclosion x) s = .next t ∧ t.mon.phase = .up ∧ t.mon.resume = none ∧
      t.mem = [] ∧ t.cores = []) ∧
    (∀ k, s.chooseSlot x = some k → ∃ t, exec (.eclosion x) s = .next t ∧ t.mon.phase = .eclosing ∧ t.mon.resume = some k ∧
      t.mon.full = true ∧ t.selfState = 1 ∧ t.mm 4 = extend (s.mm 4) (Config.hash (leBytes 64 (s.mon.slot k).digest.toNat)))) ∧
  (∀ (s : State) (k : Nat), s.mon.resume = some k → s.mon.phase = .eclosing →
    ∃ t, exec .memoryRestore s = .next t ∧ t.mon.phase = .restored) ∧
  (∀ (s : State) (k h : Nat), s.mon.resume = some k → s.mon.phase = .restored →
    let x := s.mon.man
    (drainFrames (usable h) x.blen < x.frames → exec (.coreRestore h) s = .next s) ∧
    (x.frames ≤ drainFrames (usable h) x.blen → s.mon.full = true →
      ∃ t, exec (.coreRestore h) s = .next t ∧ t.mon.phase = .up ∧ t.mon.full = false ∧ t.mon.resume = none ∧ t.selfState = 0 ∧
        (t.mon.slot k).consumed = true)) ∧
  (∀ (s : State) (vf pid : Nat), s.selfState = 0 → (∀ p ∈ s.parts, p.2.shed = false) →
    ((s.world vf).rejoin = true → (s.world vf).fabric = false →
      ∃ t, exec (.rejoinComplete vf) s = .next t ∧ (t.world vf).rejoin = false ∧ t.mem = s.mem) ∧
    ((s.world vf).rejoin = false ∨ (s.world vf).fabric = true ∧ (s.world vf).unanswered ≠ [] → exec (.rejoinComplete vf) s = .next s) ∧
    (∀ w, s.worlds = [(vf, w)] → w.exists_ = true → w.pid = pid → w.rejoin = true →
      (w.rejoinAt + (s.part pid).rjt ≤ s.us → ∃ t, exec (.rjtExpiry pid) s = .next t ∧ (t.world vf).rejoin = false) ∧
      (s.us < w.rejoinAt + (s.part pid).rjt → exec (.rjtExpiry pid) s = .next s)))

/-- R377 to R380, R83: a sample of 110 °C or a rail over its limit sets EMG and halves the clock; EMG clears 10 ms after the
bulkhead is cool; 125 °C for 10 us is a fault; a clock changes within its bounds, at the lower of old and new until it is
complete. A sensor's bulkhead and the V-f-T table are log 22's, contents of responses log 8's, the clock of microseconds log
4's. R216, R334, R337, R345 to R347, R370, R372 to R376: host writes, invalidations and link resets; interfaces locked, run
and stopped; SPDM sessions and measurements; requests of the side band. Host translation is log 124's, the places of
telemetry log 125's, the session of an interface log 128's: the model's. -/
def Obligations.PowerAndHostEvents : Prop :=
  ((∀ (s : State) (d n : Nat) (r : BitVec 16), n < 64 → 110 * 64 ≤ r.toInt → (s.bulk (sensorBulk d n)).emg = false →
     (s.bulk (sensorBulk d n)).target = none →
     ∃ t, exec (.sensorSample d n r) s = .next t ∧ Tab.get 0 (t.die d).sensors n = r ∧ (t.bulk (sensorBulk d n)).emg = true ∧
       (t.bulk (sensorBulk d n)).clock = Nat.max 14 ((s.bulk (sensorBulk d n)).clock / 2) ∧ (d ≠ 0 ∨ n ≠ 0 → t.mem = s.mem)) ∧
   (∀ (s : State) (b : Nat),
     let x := s.bulk b
     (x.emg = false → x.target = none → ∃ t, exec (.railOvercurrent b) s = .next t ∧ (t.bulk b).emg = true ∧
       (t.bulk b).clock = Nat.max 14 (x.clock / 2) ∧ ∀ j, j ≠ b → t.bulk j = s.bulk j) ∧
     (x.emg = true → exec (.railOvercurrent b) s = .next (s.modBulk b id)) ∧
     (x.emg = true → x.cool ≠ 0 → x.cool - 1 + 10000 ≤ s.us → x.target = none →
       ∃ t, exec (.emgClear b) s = .next t ∧ (t.bulk b).emg = false ∧ (t.bulk b).clock = Nat.max 28 x.clock ∧
         (t.bulk b).planes = 0 ∧ t.mem = s.mem) ∧
     (x.emg = false ∨ x.cool = 0 ∨ s.us < x.cool - 1 + 10000 → exec (.emgClear b) s = .next s) ∧
     (x.hot ≠ 0 → x.hot - 1 + 10 ≤ s.us → ∃ t, exec (.overtempFault b) s = .next t ∧
       exec (.bulkheadFault b) s = .next t ∧ (t.bulk b).absent = true ∧ (t.bulk b).gateShut = true) ∧
     (x.hot = 0 ∨ s.us < x.hot - 1 + 10 → exec (.overtempFault b) s = .next s) ∧
     (∀ on, ∃ t, exec (.droopStretch b on) s = .next t ∧ t.bulk b = { x with stretch := on } ∧ t.cores = s.cores ∧ t.mem = s.mem) ∧
     (∀ n, x.pid = none ∨ n < 14 ∨ 56 < n →
       x.emg = false → exec (.clockChangeRequest b n) s = .next (s.emit (.note "clock refused" b))) ∧
     (∀ n, x.pid ≠ none → x.emg = false → x.target = none → 28 ≤ n → n ≤ 56 →
       let v := Config.vft (BitVec.ofInt 16 ((s.readings b).foldl (fun m r => if m < r then r else m) (-32768))) n
       ∃ t, exec (.clockChangeRequest b n) s = .next t ∧ t.bulk b = (if v = true then { x with target := some n } else x) ∧
         (v = true → (t.bulk b).running = Nat.min x.clock n)) ∧
     (∀ n, x.target = some n → ∃ t, exec (.clockChangeComplete b) s = .next t ∧ t.bulk b = { x with clock := n, target := none })) ∧
   (∀ (s : State) (w : List Nat) (n : Nat), ∃ t, exec (.powerReport w n) s = .next t ∧ t.host.power = w ∧ t.host.input = n ∧
     t.mem = s.mem ∧ t.cores = s.cores)) ∧
  ((∀ (s : State) (a : Nat) (bs : List Byte),
     ∃ t, exec (.hostWrite (.host a bs)) s = .next t ∧ t.mem = s.mem ∧ t.cores = s.cores ∧ ∀ i,
       t.hostMem.byte i = if a ≤ i ∧ i < a + bs.length then bs.getD (i - a) 0 else s.hostMem.byte i) ∧
   (∀ (s : State) (vf la : Nat) (bs : List Byte), s.host.up = true → (s.world vf).exists_ = true → la % 65536 + bs.length ≤ 65536 →
     1 ≤ bs.length → s.flatWaits vf la = false →
     exec (.hostWrite (.flat vf la bs)) s = .next (s.flatStore 0 vf la bs).1) ∧
   (∀ (s : State) (vf b n : Nat), s.host.up = true → s.host.ats = [] → vf ∈ s.host.ide →
     ∃ t u, exec (.atsInvalidation vf b n) s = .next t ∧ t.host.ats = [(vf, b, n)] ∧ t.seqNo = s.seqNo + 1 ∧
       (∀ x ∈ t.host.xl, x.1 = vf → 4096 * x.2.1 + 4096 ≤ b ∨ b + n ≤ 4096 * x.2.1) ∧
       exec (.atsInvalidationComplete vf) t = .next u ∧ u.host.ats = [] ∧ u.out = t.out ++ [.note "invalidation complete" vf]) ∧
   (∀ s : State, (∀ w ∈ s.worlds, w.2.ifs ≠ .locked ∧ w.2.ifs ≠ .run) →
     (∃ t, exec .hotReset s = .next t ∧ t.host.up = false ∧ t.host.ide = [] ∧ t.host.doe = ⟨[], []⟩ ∧ t.mem = s.mem ∧
       ∀ v, t.world v = { s.world v with session := none }) ∧
     exec .linkDown s = exec .hotReset s ∧
     (s.mon.phase ≠ .off → ∃ t, exec .pcieLinkTrained s = .next t ∧ t.host.up = true ∧ t.cores = s.cores)) ∧
   (∀ (s : State) (vf : Nat) (x : WorldGrant), (s.world vf).exists_ = false →
     ((s.world vf).ifs = .unlocked → (s.part x.pid).exists_ = true → (s.part x.pid).deleting = false → x.session ∈ s.host.doe.sessions →
       (∀ y ∈ s.worlds, y.2.exists_ = true → y.2.fwid ≠ x.fwid) →
       ∃ t, exec (.lockInterface vf x) s = .next t ∧ (t.world vf).exists_ = true ∧ (t.world vf).ifs = .locked ∧
         (t.world vf).pid = x.pid ∧ (t.world vf).fwid = x.fwid ∧ (t.world vf).owner = x.owner ∧ vf ∈ t.host.ide ∧ t.mem = s.mem ∧
         ∀ j, j ≠ vf → t.world j = s.world j) ∧
     ((s.world vf).ifs ≠ .unlocked ∨ (s.part x.pid).exists_ = false ∨ (s.part x.pid).deleting = true ∨ x.session ∉ s.host.doe.sessions →
       exec (.lockInterface vf x) s = .next (s.emit (.note "lock refused" vf))) ∧
     (∃ t, exec (.stopInterface vf) s = .next t ∧ t.host.ide = s.host.ide.erase vf ∧ t.worlds = s.worlds) ∧
     exec (.vfReset vf) s = .next (s.raise "pcie" vf)) ∧
   (∀ (s : State) (vf : Nat),
     ((s.world vf).ifs = .locked → ∃ t, exec (.startInterface vf) s = .next t ∧ t.world vf = { s.world vf with ifs := .run }) ∧
     ((s.world vf).ifs ≠ .locked → exec (.startInterface vf) s = .next s) ∧
     ((s.world vf).exists_ = true → s.queues = [] → s.reams = [] → s.cores = [] → s.keyOps = [] → s.keys = [] → s.windows = [] →
       (s.world vf).fabric = false →
       (∃ t, exec (.stopInterface vf) s = .next t ∧ (t.world vf).exists_ = false ∧ (t.world vf).ifs = .unlocked) ∧
       ((s.world vf).deleteAfter = false →
         ∃ t, exec (.vfReset vf) s = .next t ∧ (t.world vf).ifs = (s.world vf).ifs ∧ (t.world vf).exists_ = true))) ∧
   (∀ (s : State) (x : SpdmRequest), s.portOpen x.port = true →
     let b := Config.spdmData x.code s.tick
     let plain (i : Instr) : Prop :=
       (s.inSession x = true → exec i s = .next (s.respond x b)) ∧
       (s.inSession x = false → exec i s = .next (s.spdmError x "InvalidSession"))
     plain (.getVersion x) ∧ plain (.getCapabilities x) ∧ plain (.getDigests x) ∧
     (s.inSession x = true →
       exec (.negotiateAlgorithms x) s = .next ((s.respond x b).emit (.note "algorithms: ML-DSA-87, SHA3-512" x.code)) ∧
       exec (.getCertificate x) s = .next (s.respond x (b ++ s.mon.attCert))) ∧
     (s.inSession x = true →
       exec (.challenge x) s = .next (s.respond x (b ++ Config.sign s.mon.attKey (Config.hash b))) ∧
       (∀ n, 1 ≤ n → n ≤ 5 →
         let m := BitVec.ofNat 8 n :: regBytes (s.mm (n - 1))
         exec (.getMeasurements x n) s = .next (s.respond x (m ++ Config.sign s.mon.attKey (Config.hash m))))) ∧
     (s.spdm x.port = ⟨[], []⟩ → ∃ t, exec (.keyExchange x) s = .next t ∧ (t.spdm x.port).pending = [1] ∧ t.mem = s.mem) ∧
     (∀ n, x.session = some n →
       (n ∈ (s.spdm x.port).pending → ∃ t, exec (.finish x) s = .next t ∧
         (t.spdm x.port).sessions = (s.spdm x.port).sessions ++ [n] ∧ (t.spdm x.port).pending = (s.spdm x.port).pending.erase n) ∧
       (n ∈ (s.spdm x.port).sessions →
         exec (.keyUpdate x) s = .next (s.respond x b) ∧ exec (.heartbeat x) s = .next (s.respond x b) ∧
         ∃ t, exec (.endSession x) s = .next t ∧ (t.spdm x.port).sessions = (s.spdm x.port).sessions.erase n)) ∧
     exec (.spdmUnsupportedRequest x) s = .next (s.spdmError x "UnsupportedRequest")) ∧
   (∀ (s : State) (vf n : Nat), s.portOpen .doe = true →
     ((s.world vf).exists_ = true → s.owns vf n = true → exec (.getDeviceInterfaceReport ⟨vf, n⟩) s =
       .next ((s.modWorld vf fun w => { w with session := some n }).emit (.spdm false vf (regBytes (s.world vf).wm)))) ∧
     ((s.world vf).exists_ = false ∨ s.owns vf n = false →
       exec (.getDeviceInterfaceReport ⟨vf, n⟩) s = .next (s.emit (.error false "InvalidRequest")))) ∧
   (∀ (s : State) (d n b cap : Nat), s.mon.phase ≠ .off →
     exec (.telemetryRead d n) s = .next ((s.raise "side band" d).emit (.telemetry d n (s.telemetry d n))) ∧
     (10000 ≤ cap → cap ≤ 36000 → ∃ t, exec (.powerCapSet cap) s = .next t ∧ t.host.cap = cap ∧ t.seqNo = s.seqNo + 1) ∧
     (cap < 10000 ∨ 36000 < cap → exec (.powerCapSet cap) s =
       .next ((s.raise "side band" 0).emit (.error true "refused"))) ∧
     ((s.bulk b).pid = none → exec (.sidebandResetRequest (.bulkhead b)) s =
       .next ((s.raise "side band" b).emit (.error true "refused"))) ∧
     ((s.bulk b).pid ≠ none → ∃ t, exec (.sidebandResetRequest (.bulkhead b)) s = .next t ∧
       t = (if (s.bulk b).canReset = true then (s.raise "side band" b).resetBulkhead s.seqNo b else s.raise "side band" b) ∧
       (s.cores = [] → (t.bulk b).gateShut = true ∧ t.seqNo = s.seqNo + 1)) ∧
     (∀ v, exec (.sidebandResetRequest (.vf v)) s = .next (if (s.world v).exists_ = true
       then (s.raise "side band" v).endWorld s.seqNo v false else (s.raise "side band" v).emit (.error true "refused"))) ∧
     exec (.sidebandResetRequest .hostLink) s = .next ((s.raise "side band" 0).dropLink s.seqNo)))

/-! ## The whole machine -/

/-- Reset: the values that Table 2-1, R5, R38, R40, R195, R264, R329 and R382 give; a memory that nothing has written reads 0 and the other
values are the model's choice (log 5). The memories and the register files are in their canonical form. -/
def Obligations.ResetState : Prop :=
  let s := State.reset
  s.memoriesWf = true ∧ (∀ a, s.mem.byte a = 0) ∧ s.mon.phase = .off ∧ s.seqNo = 1 ∧
  (∀ c : Nat, (s.core c).run = .draining ∧ (s.core c).filesWf = true ∧ (s.core c).reservedZero = true ∧
    (s.core c).inRange = true ∧ (s.core c).atH = false ∧ (s.core c).coupled = false ∧ (s.core c).task = none ∧
    (∀ r, (s.core c).sreg r = 0 ∧ (s.core c).vreg r = 0 ∧ (s.core c).spoi r = none ∧ (s.core c).vpoi r = none) ∧
    (∀ r, r ≠ 0 → r < 16 → (s.core c).preg r = false) ∧ (∀ r, r ≠ 0 → (s.core c).kreg r = 0) ∧ (s.core c).preg 0 = true ∧
    (∀ n, (s.core c).sema n = ⟨0, false⟩) ∧ (∀ n, (s.core c).accWm n = 128) ∧ (∀ n r, (s.core c).accRow n r = 0)) ∧
  (∀ n, (s.key n).gen = 1 ∧ (s.key n).live = false) ∧
  (∀ b, (s.bulk b).pid = none ∧ (s.bulk b).inReset = true) ∧
  (∀ p, (s.part p).exists_ = false) ∧ (∀ v, (s.world v).exists_ = false)

/-- R63: an op of the vector slots, and one of the scalar slot that neither jumps nor works on keys or translations, changes nothing as
its bundle issues but the results in flight of its core at its privilege: every register, flag, accumulator, special register and
byte of memory stays. -/
def Obligations.RegisterOpFrame : Prop :=
  ∀ (i : Instr) (s t : State), s.ctx.mode = .effect → slotOf i = some .va ∨ slotOf i = some .sc →
    (∀ x, i ≠ .jmp x ∧ i ≠ .call x) → (∀ x, i ≠ .jr x ∧ i ≠ .jalr x) → (∀ x, i ≠ .seqopen x ∧ i ≠ .seqend x ∧ i ≠ .tinv x) →
    (∀ x, i ≠ .katc x) → exec i s = .next t →
    t = s ∨ ∃ l : List Pending, t = s.modCur fun c =>
      if c.atH then { c with hpend := c.hpend ++ l } else { c with pend := c.pend ++ l }

/-- R148, R158, R165, R241: no op of a bundle writes memory as it issues at T: a store waits for its segment, an atomic and a remote op
at its port, a command in its channel. (`launch`, whose own stores have committed, may abort the ream that it creates, whose counter is
then written.) -/
def Obligations.MemoryWaitsForCommit : Prop :=
  ∀ (i : Instr) (s t : State), s.ctx.mode = .effect → s.cur.atH = false → (slotOf i).isSome = true ∨ (∃ x, i = .treeBranch x) →
    (∀ x, i ≠ .launch x) → exec i s = .next t →
    t.mem = s.mem ∧ t.lines = s.lines ∧ t.hostMem = s.hostMem

/-- R235, R342, R384: what is written within a line of a unit is what a later read at its home finds, and no other byte of memory
changes; a partial write of a line whose old contents do not open under its tag is lost. -/
def Obligations.LineWrittenIsRead : Prop :=
  ∀ (s t : State) (d vf tid unit off : Nat) (x : XEntry) (bs : List Byte) (r : Resolved), bs ≠ [] → off < 65536 →
    off % 64 + bs.length ≤ 64 → s.stage vf x.frame true = some r → s.writeUnit d vf tid unit x off bs = (t, .done) →
    let st := s.lineState (r.frame * 1024 + off / 64)
    let opens := st.ecc = 0 ∧ (st.tag = none ∨ st.tag = some (s.tagOf r.vf tid unit (off / 64) x.handle))
    let base := r.frame * 65536 + off
    (opens ∨ (off % 64 = 0 ∧ bs.length = 64) →
      (∀ a, t.mem.byte a = if base ≤ a ∧ a < base + bs.length then bs.getD (a - base) 0 else s.mem.byte a) ∧
      ∃ u, t.readUnit (frameDie r.frame) false vf tid unit x off bs.length = some (u, ⟨bs, 0, .frame r.frame⟩)) ∧
    (¬ opens → ¬ (off % 64 = 0 ∧ bs.length = 64) → t.mem = s.mem ∧ t.lines = s.lines) ∧
    (s.mem.wf = true → t.mem.wf = true)

/-- The canonical form is an invariant of every step, be it a bundle's or an event's: the memory of the module and that of the host stay
strictly rising, with no byte listed that an unlisted address reads as. -/
def Obligations.EveryStepKeepsMemories : Prop :=
  ∀ s t : State, s.mem.wf = true → s.hostMem.wf = true → step s = .next t → t.mem.wf = true ∧ t.hostMem.wf = true

end
end

