-- ==== Sys2Proof/Laws/Tab.lean ====
section
/-! SUPPORT. The laws of tables and memories: a read after a write, that a write leaves every other place alone, that
every operation keeps the canonical form, and that tables in that form which read alike are equal. -/

namespace Sys2Proof.Machine

/-! ## Reads -/

@[simp] theorem Tab.get_nil (d : α) (k : Nat) : Tab.get d [] k = d := rfl

theorem Tab.get_cons (d : α) (x : Nat × α) (t : Tab α) (k : Nat) :
    Tab.get d (x :: t) k = if x.1 = k then x.2 else Tab.get d t k := rfl

theorem Tab.get_erase_same (d : α) (t : Tab α) (k : Nat) : Tab.get d (t.erase k) k = d := by
  induction t with
  | nil => rfl
  | cons x t ih =>
    by_cases h : x.1 = k
    · simp [Tab.erase, h, ih]
    · simp [Tab.erase, h, ih, Tab.get_cons]

theorem Tab.get_erase_ne (d : α) (t : Tab α) {k j : Nat} (hj : j ≠ k) : Tab.get d (t.erase k) j = Tab.get d t j := by
  induction t with
  | nil => rfl
  | cons x t ih =>
    by_cases h : x.1 = k
    · simp [Tab.erase, h, ih, Tab.get_cons, Ne.symm hj]
    · simp [Tab.erase, h, ih, Tab.get_cons]

theorem Tab.get_insert_ne (d v : α) (t : Tab α) {k j : Nat} (hj : j ≠ k) :
    Tab.get d (Tab.insert k v t) j = Tab.get d t j := by
  induction t with
  | nil => simp [Tab.insert, Tab.get_cons, Ne.symm hj]
  | cons x t ih =>
    by_cases h : k < x.1
    · simp [Tab.insert, h, Tab.get_cons, Ne.symm hj]
    · simp [Tab.insert, h, ih, Tab.get_cons]

theorem Tab.get_insert_same (d v : α) (t : Tab α) (k : Nat) (h : ∀ x ∈ t, x.1 ≠ k) :
    Tab.get d (Tab.insert k v t) k = v := by
  induction t with
  | nil => simp [Tab.insert, Tab.get_cons]
  | cons x t ih =>
    have hx := h x (by simp)
    by_cases hk : k < x.1
    · simp [Tab.insert, hk, Tab.get_cons]
    · simp [Tab.insert, hk, Tab.get_cons, hx, ih fun y hy => h y (by simp [hy])]

theorem Tab.erase_keys (t : Tab α) (k : Nat) : ∀ x ∈ t.erase k, x ∈ t ∧ x.1 ≠ k := by
  induction t with
  | nil => simp [Tab.erase]
  | cons y t ih =>
    intro x hx
    by_cases h : y.1 = k
    · simp only [Tab.erase, h, if_true] at hx
      exact ⟨by simp [(ih x hx).1], (ih x hx).2⟩
    · simp only [Tab.erase, h, if_false, List.mem_cons] at hx
      rcases hx with rfl | hx
      · exact ⟨by simp, h⟩
      · exact ⟨by simp [(ih x hx).1], (ih x hx).2⟩

/-- A read after a write: the value written at its key, the old value at every other. -/
theorem Tab.get_set [DecidableEq α] (d v : α) (t : Tab α) (k j : Nat) :
    Tab.get d (t.set d k v) j = if j = k then v else Tab.get d t j := by
  unfold Tab.set
  by_cases hj : j = k
  · subst hj
    by_cases hv : v = d
    · simp [hv, Tab.get_erase_same]
    · simp [hv, Tab.get_insert_same d v _ j fun x hx => (Tab.erase_keys t j x hx).2]
  · by_cases hv : v = d
    · simp [hv, hj, Tab.get_erase_ne d t hj]
    · simp [hv, hj, Tab.get_insert_ne d v _ hj, Tab.get_erase_ne d t hj]

@[simp] theorem Tab.get_set_same [DecidableEq α] (d v : α) (t : Tab α) (k : Nat) :
    Tab.get d (t.set d k v) k = v := by simp [Tab.get_set]

@[simp] theorem Tab.get_set_ne [DecidableEq α] (d v : α) (t : Tab α) {k j : Nat} (h : j ≠ k) :
    Tab.get d (t.set d k v) j = Tab.get d t j := by simp [Tab.get_set, h]

/-! ## The canonical form -/

theorem Tab.wf_cons [DecidableEq α] (d : α) (x : Nat × α) (t : Tab α) :
    Tab.wf d (x :: t) = true ↔ x.2 ≠ d ∧ (∀ y ∈ t, x.1 < y.1) ∧ Tab.wf d t = true := by
  induction t generalizing x with
  | nil => simp [Tab.wf]
  | cons y t ih =>
    have hy := ih y
    have hx : Tab.wf d (x :: y :: t) = true ↔ x.2 ≠ d ∧ x.1 < y.1 ∧ Tab.wf d (y :: t) = true := by
      simp [Tab.wf, and_assoc]
    rw [hx]
    constructor
    · rintro ⟨h1, h2, h3⟩
      refine ⟨h1, fun z hz => ?_, h3⟩
      rcases List.mem_cons.mp hz with rfl | hz
      · exact h2
      · exact Nat.lt_trans h2 ((hy.mp h3).2.1 z hz)
    · rintro ⟨h1, h2, h3⟩
      exact ⟨h1, h2 y (by simp), h3⟩

theorem Tab.wf_erase [DecidableEq α] (d : α) (t : Tab α) (k : Nat) (h : Tab.wf d t = true) :
    Tab.wf d (t.erase k) = true := by
  induction t with
  | nil => rfl
  | cons x t ih =>
    obtain ⟨h1, h2, h3⟩ := (Tab.wf_cons d x t).mp h
    by_cases hk : x.1 = k
    · simpa [Tab.erase, hk] using ih h3
    · simp only [Tab.erase, hk, if_false]
      exact (Tab.wf_cons d x _).mpr ⟨h1, fun y hy => h2 y (Tab.erase_keys t k y hy).1, ih h3⟩

theorem Tab.insert_keys (k : Nat) (v : α) (t : Tab α) : ∀ x ∈ Tab.insert k v t, x = (k, v) ∨ x ∈ t := by
  induction t with
  | nil => simp [Tab.insert]
  | cons y t ih =>
    intro x hx
    by_cases h : k < y.1
    · simp only [Tab.insert, h, if_true, List.mem_cons] at hx
      rcases hx with rfl | rfl | hx <;> simp [*]
    · simp only [Tab.insert, h, if_false, List.mem_cons] at hx
      rcases hx with rfl | hx
      · simp
      · rcases ih x hx with rfl | hx <;> simp [*]

theorem Tab.wf_insert [DecidableEq α] (d : α) (t : Tab α) (k : Nat) (v : α) (h : Tab.wf d t = true) (hv : v ≠ d)
    (hk : ∀ x ∈ t, x.1 ≠ k) : Tab.wf d (Tab.insert k v t) = true := by
  induction t with
  | nil => simp [Tab.insert, Tab.wf, hv]
  | cons x t ih =>
    obtain ⟨h1, h2, h3⟩ := (Tab.wf_cons d x t).mp h
    by_cases hlt : k < x.1
    · simp only [Tab.insert, hlt, if_true]
      refine (Tab.wf_cons d (k, v) _).mpr ⟨hv, fun y hy => ?_, h⟩
      rcases List.mem_cons.mp hy with rfl | hy
      · exact hlt
      · exact Nat.lt_trans hlt (h2 y hy)
    · simp only [Tab.insert, hlt, if_false]
      refine (Tab.wf_cons d x _).mpr ⟨h1, fun y hy => ?_, ih h3 fun z hz => hk z (by simp [hz])⟩
      have hne := hk x (by simp)
      rcases Tab.insert_keys k v t y hy with rfl | hy
      · exact Nat.lt_of_le_of_ne (Nat.le_of_not_lt hlt) hne
      · exact h2 y hy

/-- A write keeps the canonical form. -/
theorem Tab.wf_set [DecidableEq α] (d v : α) (t : Tab α) (k : Nat) (h : Tab.wf d t = true) :
    Tab.wf d (t.set d k v) = true := by
  unfold Tab.set
  by_cases hv : v = d
  · simpa [hv] using Tab.wf_erase d t k h
  · simpa [hv] using Tab.wf_insert d _ k v (Tab.wf_erase d t k h) hv fun x hx => (Tab.erase_keys t k x hx).2

theorem Tab.get_of_lt [DecidableEq α] (d : α) (t : Tab α) (k : Nat) (h : ∀ x ∈ t, k < x.1) : Tab.get d t k = d := by
  induction t with
  | nil => rfl
  | cons x t ih =>
    have hx := h x (by simp)
    simp [Tab.get_cons, Nat.ne_of_gt hx, ih fun y hy => h y (by simp [hy])]

/-- Two tables in canonical form that read alike are equal. -/
theorem Tab.ext_of_wf [DecidableEq α] (d : α) (t u : Tab α) (ht : Tab.wf d t = true) (hu : Tab.wf d u = true)
    (h : ∀ k, Tab.get d t k = Tab.get d u k) : t = u := by
  induction t generalizing u with
  | nil =>
    cases u with
    | nil => rfl
    | cons y u =>
      have := h y.1
      simp [Tab.get_cons] at this
      exact absurd this.symm ((Tab.wf_cons d y u).mp hu).1
  | cons x t ih =>
    obtain ⟨x1, x2, x3⟩ := (Tab.wf_cons d x t).mp ht
    cases u with
    | nil =>
      have := h x.1
      simp [Tab.get_cons] at this
      exact absurd this x1
    | cons y u =>
      obtain ⟨y1, y2, y3⟩ := (Tab.wf_cons d y u).mp hu
      have hxy : x.1 = y.1 := by
        rcases Nat.lt_trichotomy x.1 y.1 with hlt | heq | hgt
        · have := h x.1
          rw [Tab.get_cons, if_pos rfl, Tab.get_of_lt d (y :: u) x.1] at this
          · exact absurd this x1
          · intro z hz
            rcases List.mem_cons.mp hz with rfl | hz
            · exact hlt
            · exact Nat.lt_trans hlt (y2 z hz)
        · exact heq
        · have := h y.1
          rw [Tab.get_of_lt d (x :: t) y.1, Tab.get_cons, if_pos rfl] at this
          · exact absurd this.symm y1
          · intro z hz
            rcases List.mem_cons.mp hz with rfl | hz
            · exact hgt
            · exact Nat.lt_trans hgt (x2 z hz)
      have hv : x.2 = y.2 := by
        have := h x.1
        simpa [Tab.get_cons, hxy] using this
      have hxy' : x = y := Prod.ext hxy hv
      subst hxy'
      rw [ih u x3 y3 fun k => ?_]
      by_cases hk : x.1 = k
      · subst hk
        rw [Tab.get_of_lt d t _ x2, Tab.get_of_lt d u _ y2]
      · simpa [Tab.get_cons, hk] using h k

/-! ## Memories -/

theorem Memory.byte_setByte (m : Memory) (a x : Nat) (b : Byte) :
    (m.setByte a b).byte x = if x = a then b else m.byte x := Tab.get_set 0 b m a x

/-- What a byte reads after bytes were written from `a` on. -/
theorem Memory.byte_write (m : Memory) (a x : Nat) (bs : List Byte) :
    (m.write a bs).byte x = if a ≤ x ∧ x < a + bs.length then bs.getD (x - a) 0 else m.byte x := by
  induction bs generalizing m a with
  | nil =>
    have : ¬ (a ≤ x ∧ x < a + ([] : List Byte).length) := by simp
    rw [if_neg this]; rfl
  | cons b bs ih =>
    rw [Memory.write, ih, Memory.byte_setByte]
    by_cases h1 : x = a
    · subst h1
      rw [if_neg (by omega), if_pos rfl, if_pos (by simp)]
      simp
    · by_cases h2 : a + 1 ≤ x ∧ x < a + 1 + bs.length
      · have h3 : a ≤ x ∧ x < a + (b :: bs).length := by simp; omega
        have h4 : x - a = (x - (a + 1)) + 1 := by omega
        rw [if_pos h2, if_pos h3, h4]
        simp
      · have h3 : ¬(a ≤ x ∧ x < a + (b :: bs).length) := by simp; omega
        rw [if_neg h2, if_neg h3, if_neg h1]

/-- A write leaves every byte outside the written ones alone. -/
theorem Memory.byte_write_outside (m : Memory) (a x : Nat) (bs : List Byte) (h : x < a ∨ a + bs.length ≤ x) :
    (m.write a bs).byte x = m.byte x := by
  rw [Memory.byte_write, if_neg (by omega)]

theorem Memory.wf_setByte (m : Memory) (a : Nat) (b : Byte) (h : m.wf = true) : (m.setByte a b).wf = true :=
  Tab.wf_set 0 b m a h

/-- Writing bytes keeps the canonical form. -/
theorem Memory.wf_write (m : Memory) (a : Nat) (bs : List Byte) (h : m.wf = true) : (m.write a bs).wf = true := by
  induction bs generalizing m a with
  | nil => exact h
  | cons b bs ih => exact ih _ _ (Memory.wf_setByte m a b h)

/-- Writing a number keeps the canonical form. -/
theorem Memory.wf_setVal (m : Memory) (a n v : Nat) (h : m.wf = true) : (m.setVal a n v).wf = true :=
  Memory.wf_write m a _ h

theorem Tab.wf_filter [DecidableEq α] (d : α) (t : Tab α) (p : Nat × α → Bool) (h : Tab.wf d t = true) :
    Tab.wf d (t.filter p) = true := by
  induction t with
  | nil => rfl
  | cons x t ih =>
    obtain ⟨h1, h2, h3⟩ := (Tab.wf_cons d x t).mp h
    by_cases hp : p x
    · simp only [List.filter_cons, hp, if_true]
      exact (Tab.wf_cons d x _).mpr ⟨h1, fun y hy => h2 y (List.mem_filter.mp hy).1, ih h3⟩
    · simpa [List.filter_cons, hp] using ih h3

/-- Zeroing a range keeps the canonical form. -/
theorem Memory.wf_zero (m : Memory) (a n : Nat) (h : m.wf = true) : (m.zero a n).wf = true :=
  Tab.wf_filter (0 : Byte) m _ h

/-- What a byte reads after a range was zeroed. -/
theorem Memory.byte_zero (m : Memory) (a n x : Nat) :
    (m.zero a n).byte x = if a ≤ x ∧ x < a + n then 0 else m.byte x := by
  unfold Memory.zero Memory.byte
  induction m with
  | nil => simp
  | cons c m ih =>
    by_cases hc : c.1 = x
    · by_cases hp : a ≤ x ∧ x < a + n
      · have : (decide (c.1 < a) || decide (a + n ≤ c.1)) = false := by simp; omega
        rw [List.filter_cons, if_neg (by simp [this])]
        rw [ih, if_pos hp, if_pos hp]
      · have : (decide (c.1 < a) || decide (a + n ≤ c.1)) = true := by simp; omega
        rw [List.filter_cons, if_pos this, if_neg hp]
        simp [Tab.get_cons, hc]
    · by_cases hp : (decide (c.1 < a) || decide (a + n ≤ c.1)) = true
      · rw [List.filter_cons, if_pos hp]
        simp only [Tab.get_cons, hc, if_false]
        exact ih
      · rw [List.filter_cons, if_neg hp]
        simp only [Tab.get_cons, hc, if_false]
        exact ih

/-! ## Numbers as bytes -/

@[simp] theorem leBytes_length (n v : Nat) : (leBytes n v).length = n := by
  induction n generalizing v with
  | zero => rfl
  | succ n ih => simp [leBytes, ih]

/-- The bytes of a number give the number back. -/
theorem leVal_leBytes (n v : Nat) : leVal (leBytes n v) = v % 256 ^ n := by
  induction n generalizing v with
  | zero => simp [leBytes, leVal, Nat.mod_one]
  | succ n ih =>
    have : (BitVec.ofNat 8 v).toNat = v % 256 := by simp
    rw [leBytes, leVal, ih, this, Nat.pow_succ, Nat.mul_comm (256 ^ n) 256, Nat.mod_mul]

/-- The bytes read where a list of bytes was written are that list. -/
theorem Memory.bytes_write (m : Memory) (a : Nat) (bs : List Byte) : (m.write a bs).bytes a bs.length = bs := by
  induction bs generalizing m a with
  | nil => rfl
  | cons b bs ih =>
    have h : ((m.setByte a b).write (a + 1) bs).byte a = b := by
      rw [Memory.byte_write_outside _ _ _ _ (by omega), Memory.byte_setByte, if_pos rfl]
    simp only [List.length_cons, Memory.bytes, Memory.write, h, ih]

/-- A number read where it was written. -/
theorem Memory.val_setVal (m : Memory) (a n v : Nat) : (m.setVal a n v).val a n = v % 256 ^ n := by
  have h := Memory.bytes_write m a (leBytes n v)
  rw [leBytes_length] at h
  rw [Memory.val, Memory.setVal, h, leVal_leBytes]

end Sys2Proof.Machine
end

