-- ==== Sys2Proof/Laws/State.lean ====
section
/-! SUPPORT. What the named updates of the state and of a core leave alone, one lemma for each field and update, and what
the accessors read after them. -/

namespace Sys2Proof.Machine

/-! ## Parts of the state -/

theorem State.core_setCore (s : State) (c d : Nat) (x : Core) :
    (s.setCore c x).core d = if d = c then x else s.core d := Tab.get_set _ _ _ _ _

@[simp] theorem State.core_setCore_same (s : State) (c : Nat) (x : Core) : (s.setCore c x).core c = x := by
  simp [State.core_setCore]

theorem State.core_modCore (s : State) (c d : Nat) (f : Core → Core) :
    (s.modCore c f).core d = if d = c then f (s.core c) else s.core d := State.core_setCore s c d _

@[simp] theorem State.core_modCore_same (s : State) (c : Nat) (f : Core → Core) :
    (s.modCore c f).core c = f (s.core c) := by simp [State.core_modCore]

theorem State.core_modCore_ne (s : State) {c d : Nat} (f : Core → Core) (h : d ≠ c) :
    (s.modCore c f).core d = s.core d := by simp [State.core_modCore, h]

theorem State.core_modCur (s : State) (d : Nat) (f : Core → Core) :
    (s.modCur f).core d = if d = s.ctx.core then f s.cur else s.core d := State.core_modCore s _ d f

@[simp] theorem State.cur_modCur (s : State) (f : Core → Core) : (s.modCur f).cur = f s.cur :=
  State.core_modCore_same s s.ctx.core f

theorem State.die_modDie (s : State) (d e : Nat) (f : Die → Die) :
    (s.modDie d f).die e = if e = d then f (s.die d) else s.die e := Tab.get_set _ _ _ _ _

theorem State.bulk_modBulk (s : State) (b e : Nat) (f : Bulkhead → Bulkhead) :
    (s.modBulk b f).bulk e = if e = b then f (s.bulk b) else s.bulk e := Tab.get_set _ _ _ _ _

theorem State.part_modPart (s : State) (p e : Nat) (f : Part → Part) :
    (s.modPart p f).part e = if e = p then f (s.part p) else s.part e := Tab.get_set _ _ _ _ _

theorem State.world_modWorld (s : State) (v e : Nat) (f : World → World) :
    (s.modWorld v f).world e = if e = v then f (s.world v) else s.world e := Tab.get_set _ _ _ _ _

/-! ### `State.setCore` -/

@[simp] theorem State.setCore_me (s : State) (c : Nat) (x : Core) : (s.setCore c x).me = s.me := rfl
@[simp] theorem State.setCore_dies (s : State) (c : Nat) (x : Core) : (s.setCore c x).dies = s.dies := rfl
@[simp] theorem State.setCore_bulks (s : State) (c : Nat) (x : Core) : (s.setCore c x).bulks = s.bulks := rfl
@[simp] theorem State.setCore_parts (s : State) (c : Nat) (x : Core) : (s.setCore c x).parts = s.parts := rfl
@[simp] theorem State.setCore_worlds (s : State) (c : Nat) (x : Core) : (s.setCore c x).worlds = s.worlds := rfl
@[simp] theorem State.setCore_mem (s : State) (c : Nat) (x : Core) : (s.setCore c x).mem = s.mem := rfl
@[simp] theorem State.setCore_lines (s : State) (c : Nat) (x : Core) : (s.setCore c x).lines = s.lines := rfl
@[simp] theorem State.setCore_lost (s : State) (c : Nat) (x : Core) : (s.setCore c x).lost = s.lost := rfl
@[simp] theorem State.setCore_kept (s : State) (c : Nat) (x : Core) : (s.setCore c x).kept = s.kept := rfl
@[simp] theorem State.setCore_tlb (s : State) (c : Nat) (x : Core) : (s.setCore c x).tlb = s.tlb := rfl
@[simp] theorem State.setCore_dtlb (s : State) (c : Nat) (x : Core) : (s.setCore c x).dtlb = s.dtlb := rfl
@[simp] theorem State.setCore_shoots (s : State) (c : Nat) (x : Core) : (s.setCore c x).shoots = s.shoots := rfl
@[simp] theorem State.setCore_windows (s : State) (c : Nat) (x : Core) : (s.setCore c x).windows = s.windows := rfl
@[simp] theorem State.setCore_winReqs (s : State) (c : Nat) (x : Core) : (s.setCore c x).winReqs = s.winReqs := rfl
@[simp] theorem State.setCore_corrected (s : State) (c : Nat) (x : Core) : (s.setCore c x).corrected = s.corrected := rfl
@[simp] theorem State.setCore_badFrames (s : State) (c : Nat) (x : Core) : (s.setCore c x).badFrames = s.badFrames := rfl
@[simp] theorem State.setCore_badSeq (s : State) (c : Nat) (x : Core) : (s.setCore c x).badSeq = s.badSeq := rfl
@[simp] theorem State.setCore_quarantine (s : State) (c : Nat) (x : Core) : (s.setCore c x).quarantine = s.quarantine := rfl
@[simp] theorem State.setCore_quarSeq (s : State) (c : Nat) (x : Core) : (s.setCore c x).quarSeq = s.quarSeq := rfl
@[simp] theorem State.setCore_listCopies (s : State) (c : Nat) (x : Core) : (s.setCore c x).listCopies = s.listCopies := rfl
@[simp] theorem State.setCore_retiring (s : State) (c : Nat) (x : Core) : (s.setCore c x).retiring = s.retiring := rfl
@[simp] theorem State.setCore_taken (s : State) (c : Nat) (x : Core) : (s.setCore c x).taken = s.taken := rfl
@[simp] theorem State.setCore_hostMem (s : State) (c : Nat) (x : Core) : (s.setCore c x).hostMem = s.hostMem := rfl
@[simp] theorem State.setCore_saves (s : State) (c : Nat) (x : Core) : (s.setCore c x).saves = s.saves := rfl
@[simp] theorem State.setCore_reams (s : State) (c : Nat) (x : Core) : (s.setCore c x).reams = s.reams := rfl
@[simp] theorem State.setCore_nextRid (s : State) (c : Nat) (x : Core) : (s.setCore c x).nextRid = s.nextRid := rfl
@[simp] theorem State.setCore_bars (s : State) (c : Nat) (x : Core) : (s.setCore c x).bars = s.bars := rfl
@[simp] theorem State.setCore_watches (s : State) (c : Nat) (x : Core) : (s.setCore c x).watches = s.watches := rfl
@[simp] theorem State.setCore_dirty (s : State) (c : Nat) (x : Core) : (s.setCore c x).dirty = s.dirty := rfl
@[simp] theorem State.setCore_heldFields (s : State) (c : Nat) (x : Core) : (s.setCore c x).heldFields = s.heldFields := rfl
@[simp] theorem State.setCore_queues (s : State) (c : Nat) (x : Core) : (s.setCore c x).queues = s.queues := rfl
@[simp] theorem State.setCore_keys (s : State) (c : Nat) (x : Core) : (s.setCore c x).keys = s.keys := rfl
@[simp] theorem State.setCore_keyOrder (s : State) (c : Nat) (x : Core) : (s.setCore c x).keyOrder = s.keyOrder := rfl
@[simp] theorem State.setCore_keyOps (s : State) (c : Nat) (x : Core) : (s.setCore c x).keyOps = s.keyOps := rfl
@[simp] theorem State.setCore_keysMade (s : State) (c : Nat) (x : Core) : (s.setCore c x).keysMade = s.keysMade := rfl
@[simp] theorem State.setCore_lanes (s : State) (c : Nat) (x : Core) : (s.setCore c x).lanes = s.lanes := rfl
@[simp] theorem State.setCore_lit (s : State) (c : Nat) (x : Core) : (s.setCore c x).lit = s.lit := rfl
@[simp] theorem State.setCore_changing (s : State) (c : Nat) (x : Core) : (s.setCore c x).changing = s.changing := rfl
@[simp] theorem State.setCore_held (s : State) (c : Nat) (x : Core) : (s.setCore c x).held = s.held := rfl
@[simp] theorem State.setCore_resend (s : State) (c : Nat) (x : Core) : (s.setCore c x).resend = s.resend := rfl
@[simp] theorem State.setCore_dropped (s : State) (c : Nat) (x : Core) : (s.setCore c x).dropped = s.dropped := rfl
@[simp] theorem State.setCore_selfState (s : State) (c : Nat) (x : Core) : (s.setCore c x).selfState = s.selfState := rfl
@[simp] theorem State.setCore_mig (s : State) (c : Nat) (x : Core) : (s.setCore c x).mig = s.mig := rfl
@[simp] theorem State.setCore_moves (s : State) (c : Nat) (x : Core) : (s.setCore c x).moves = s.moves := rfl
@[simp] theorem State.setCore_arrivals (s : State) (c : Nat) (x : Core) : (s.setCore c x).arrivals = s.arrivals := rfl
@[simp] theorem State.setCore_heldReqs (s : State) (c : Nat) (x : Core) : (s.setCore c x).heldReqs = s.heldReqs := rfl
@[simp] theorem State.setCore_seqNo (s : State) (c : Nat) (x : Core) : (s.setCore c x).seqNo = s.seqNo := rfl
@[simp] theorem State.setCore_mon (s : State) (c : Nat) (x : Core) : (s.setCore c x).mon = s.mon := rfl
@[simp] theorem State.setCore_host (s : State) (c : Nat) (x : Core) : (s.setCore c x).host = s.host := rfl
@[simp] theorem State.setCore_us (s : State) (c : Nat) (x : Core) : (s.setCore c x).us = s.us := rfl
@[simp] theorem State.setCore_tick (s : State) (c : Nat) (x : Core) : (s.setCore c x).tick = s.tick := rfl
@[simp] theorem State.setCore_agenda (s : State) (c : Nat) (x : Core) : (s.setCore c x).agenda = s.agenda := rfl
@[simp] theorem State.setCore_ctx (s : State) (c : Nat) (x : Core) : (s.setCore c x).ctx = s.ctx := rfl
@[simp] theorem State.setCore_out (s : State) (c : Nat) (x : Core) : (s.setCore c x).out = s.out := rfl
@[simp] theorem State.setCore_die (s : State) (c : Nat) (x : Core) (n : Nat) : (s.setCore c x).die n = s.die n := rfl
@[simp] theorem State.setCore_bulk (s : State) (c : Nat) (x : Core) (n : Nat) : (s.setCore c x).bulk n = s.bulk n := rfl
@[simp] theorem State.setCore_part (s : State) (c : Nat) (x : Core) (n : Nat) : (s.setCore c x).part n = s.part n := rfl
@[simp] theorem State.setCore_world (s : State) (c : Nat) (x : Core) (n : Nat) : (s.setCore c x).world n = s.world n := rfl

/-! ### `State.modCore` -/

@[simp] theorem State.modCore_me (s : State) (c : Nat) (f : Core → Core) : (s.modCore c f).me = s.me := rfl
@[simp] theorem State.modCore_dies (s : State) (c : Nat) (f : Core → Core) : (s.modCore c f).dies = s.dies := rfl
@[simp] theorem State.modCore_bulks (s : State) (c : Nat) (f : Core → Core) : (s.modCore c f).bulks = s.bulks := rfl
@[simp] theorem State.modCore_parts (s : State) (c : Nat) (f : Core → Core) : (s.modCore c f).parts = s.parts := rfl
@[simp] theorem State.modCore_worlds (s : State) (c : Nat) (f : Core → Core) : (s.modCore c f).worlds = s.worlds := rfl
@[simp] theorem State.modCore_mem (s : State) (c : Nat) (f : Core → Core) : (s.modCore c f).mem = s.mem := rfl
@[simp] theorem State.modCore_lines (s : State) (c : Nat) (f : Core → Core) : (s.modCore c f).lines = s.lines := rfl
@[simp] theorem State.modCore_lost (s : State) (c : Nat) (f : Core → Core) : (s.modCore c f).lost = s.lost := rfl
@[simp] theorem State.modCore_kept (s : State) (c : Nat) (f : Core → Core) : (s.modCore c f).kept = s.kept := rfl
@[simp] theorem State.modCore_tlb (s : State) (c : Nat) (f : Core → Core) : (s.modCore c f).tlb = s.tlb := rfl
@[simp] theorem State.modCore_dtlb (s : State) (c : Nat) (f : Core → Core) : (s.modCore c f).dtlb = s.dtlb := rfl
@[simp] theorem State.modCore_shoots (s : State) (c : Nat) (f : Core → Core) : (s.modCore c f).shoots = s.shoots := rfl
@[simp] theorem State.modCore_windows (s : State) (c : Nat) (f : Core → Core) : (s.modCore c f).windows = s.windows := rfl
@[simp] theorem State.modCore_winReqs (s : State) (c : Nat) (f : Core → Core) : (s.modCore c f).winReqs = s.winReqs := rfl
@[simp] theorem State.modCore_corrected (s : State) (c : Nat) (f : Core → Core) : (s.modCore c f).corrected = s.corrected := rfl
@[simp] theorem State.modCore_badFrames (s : State) (c : Nat) (f : Core → Core) : (s.modCore c f).badFrames = s.badFrames := rfl
@[simp] theorem State.modCore_badSeq (s : State) (c : Nat) (f : Core → Core) : (s.modCore c f).badSeq = s.badSeq := rfl
@[simp] theorem State.modCore_quarantine (s : State) (c : Nat) (f : Core → Core) : (s.modCore c f).quarantine = s.quarantine := rfl
@[simp] theorem State.modCore_quarSeq (s : State) (c : Nat) (f : Core → Core) : (s.modCore c f).quarSeq = s.quarSeq := rfl
@[simp] theorem State.modCore_listCopies (s : State) (c : Nat) (f : Core → Core) : (s.modCore c f).listCopies = s.listCopies := rfl
@[simp] theorem State.modCore_retiring (s : State) (c : Nat) (f : Core → Core) : (s.modCore c f).retiring = s.retiring := rfl
@[simp] theorem State.modCore_taken (s : State) (c : Nat) (f : Core → Core) : (s.modCore c f).taken = s.taken := rfl
@[simp] theorem State.modCore_hostMem (s : State) (c : Nat) (f : Core → Core) : (s.modCore c f).hostMem = s.hostMem := rfl
@[simp] theorem State.modCore_saves (s : State) (c : Nat) (f : Core → Core) : (s.modCore c f).saves = s.saves := rfl
@[simp] theorem State.modCore_reams (s : State) (c : Nat) (f : Core → Core) : (s.modCore c f).reams = s.reams := rfl
@[simp] theorem State.modCore_nextRid (s : State) (c : Nat) (f : Core → Core) : (s.modCore c f).nextRid = s.nextRid := rfl
@[simp] theorem State.modCore_bars (s : State) (c : Nat) (f : Core → Core) : (s.modCore c f).bars = s.bars := rfl
@[simp] theorem State.modCore_watches (s : State) (c : Nat) (f : Core → Core) : (s.modCore c f).watches = s.watches := rfl
@[simp] theorem State.modCore_dirty (s : State) (c : Nat) (f : Core → Core) : (s.modCore c f).dirty = s.dirty := rfl
@[simp] theorem State.modCore_heldFields (s : State) (c : Nat) (f : Core → Core) : (s.modCore c f).heldFields = s.heldFields := rfl
@[simp] theorem State.modCore_queues (s : State) (c : Nat) (f : Core → Core) : (s.modCore c f).queues = s.queues := rfl
@[simp] theorem State.modCore_keys (s : State) (c : Nat) (f : Core → Core) : (s.modCore c f).keys = s.keys := rfl
@[simp] theorem State.modCore_keyOrder (s : State) (c : Nat) (f : Core → Core) : (s.modCore c f).keyOrder = s.keyOrder := rfl
@[simp] theorem State.modCore_keyOps (s : State) (c : Nat) (f : Core → Core) : (s.modCore c f).keyOps = s.keyOps := rfl
@[simp] theorem State.modCore_keysMade (s : State) (c : Nat) (f : Core → Core) : (s.modCore c f).keysMade = s.keysMade := rfl
@[simp] theorem State.modCore_lanes (s : State) (c : Nat) (f : Core → Core) : (s.modCore c f).lanes = s.lanes := rfl
@[simp] theorem State.modCore_lit (s : State) (c : Nat) (f : Core → Core) : (s.modCore c f).lit = s.lit := rfl
@[simp] theorem State.modCore_changing (s : State) (c : Nat) (f : Core → Core) : (s.modCore c f).changing = s.changing := rfl
@[simp] theorem State.modCore_held (s : State) (c : Nat) (f : Core → Core) : (s.modCore c f).held = s.held := rfl
@[simp] theorem State.modCore_resend (s : State) (c : Nat) (f : Core → Core) : (s.modCore c f).resend = s.resend := rfl
@[simp] theorem State.modCore_dropped (s : State) (c : Nat) (f : Core → Core) : (s.modCore c f).dropped = s.dropped := rfl
@[simp] theorem State.modCore_selfState (s : State) (c : Nat) (f : Core → Core) : (s.modCore c f).selfState = s.selfState := rfl
@[simp] theorem State.modCore_mig (s : State) (c : Nat) (f : Core → Core) : (s.modCore c f).mig = s.mig := rfl
@[simp] theorem State.modCore_moves (s : State) (c : Nat) (f : Core → Core) : (s.modCore c f).moves = s.moves := rfl
@[simp] theorem State.modCore_arrivals (s : State) (c : Nat) (f : Core → Core) : (s.modCore c f).arrivals = s.arrivals := rfl
@[simp] theorem State.modCore_heldReqs (s : State) (c : Nat) (f : Core → Core) : (s.modCore c f).heldReqs = s.heldReqs := rfl
@[simp] theorem State.modCore_seqNo (s : State) (c : Nat) (f : Core → Core) : (s.modCore c f).seqNo = s.seqNo := rfl
@[simp] theorem State.modCore_mon (s : State) (c : Nat) (f : Core → Core) : (s.modCore c f).mon = s.mon := rfl
@[simp] theorem State.modCore_host (s : State) (c : Nat) (f : Core → Core) : (s.modCore c f).host = s.host := rfl
@[simp] theorem State.modCore_us (s : State) (c : Nat) (f : Core → Core) : (s.modCore c f).us = s.us := rfl
@[simp] theorem State.modCore_tick (s : State) (c : Nat) (f : Core → Core) : (s.modCore c f).tick = s.tick := rfl
@[simp] theorem State.modCore_agenda (s : State) (c : Nat) (f : Core → Core) : (s.modCore c f).agenda = s.agenda := rfl
@[simp] theorem State.modCore_ctx (s : State) (c : Nat) (f : Core → Core) : (s.modCore c f).ctx = s.ctx := rfl
@[simp] theorem State.modCore_out (s : State) (c : Nat) (f : Core → Core) : (s.modCore c f).out = s.out := rfl
@[simp] theorem State.modCore_die (s : State) (c : Nat) (f : Core → Core) (n : Nat) : (s.modCore c f).die n = s.die n := rfl
@[simp] theorem State.modCore_bulk (s : State) (c : Nat) (f : Core → Core) (n : Nat) : (s.modCore c f).bulk n = s.bulk n := rfl
@[simp] theorem State.modCore_part (s : State) (c : Nat) (f : Core → Core) (n : Nat) : (s.modCore c f).part n = s.part n := rfl
@[simp] theorem State.modCore_world (s : State) (c : Nat) (f : Core → Core) (n : Nat) : (s.modCore c f).world n = s.world n := rfl

/-! ### `State.modCur` -/

@[simp] theorem State.modCur_me (s : State) (f : Core → Core) : (s.modCur f).me = s.me := rfl
@[simp] theorem State.modCur_dies (s : State) (f : Core → Core) : (s.modCur f).dies = s.dies := rfl
@[simp] theorem State.modCur_bulks (s : State) (f : Core → Core) : (s.modCur f).bulks = s.bulks := rfl
@[simp] theorem State.modCur_parts (s : State) (f : Core → Core) : (s.modCur f).parts = s.parts := rfl
@[simp] theorem State.modCur_worlds (s : State) (f : Core → Core) : (s.modCur f).worlds = s.worlds := rfl
@[simp] theorem State.modCur_mem (s : State) (f : Core → Core) : (s.modCur f).mem = s.mem := rfl
@[simp] theorem State.modCur_lines (s : State) (f : Core → Core) : (s.modCur f).lines = s.lines := rfl
@[simp] theorem State.modCur_lost (s : State) (f : Core → Core) : (s.modCur f).lost = s.lost := rfl
@[simp] theorem State.modCur_kept (s : State) (f : Core → Core) : (s.modCur f).kept = s.kept := rfl
@[simp] theorem State.modCur_tlb (s : State) (f : Core → Core) : (s.modCur f).tlb = s.tlb := rfl
@[simp] theorem State.modCur_dtlb (s : State) (f : Core → Core) : (s.modCur f).dtlb = s.dtlb := rfl
@[simp] theorem State.modCur_shoots (s : State) (f : Core → Core) : (s.modCur f).shoots = s.shoots := rfl
@[simp] theorem State.modCur_windows (s : State) (f : Core → Core) : (s.modCur f).windows = s.windows := rfl
@[simp] theorem State.modCur_winReqs (s : State) (f : Core → Core) : (s.modCur f).winReqs = s.winReqs := rfl
@[simp] theorem State.modCur_corrected (s : State) (f : Core → Core) : (s.modCur f).corrected = s.corrected := rfl
@[simp] theorem State.modCur_badFrames (s : State) (f : Core → Core) : (s.modCur f).badFrames = s.badFrames := rfl
@[simp] theorem State.modCur_badSeq (s : State) (f : Core → Core) : (s.modCur f).badSeq = s.badSeq := rfl
@[simp] theorem State.modCur_quarantine (s : State) (f : Core → Core) : (s.modCur f).quarantine = s.quarantine := rfl
@[simp] theorem State.modCur_quarSeq (s : State) (f : Core → Core) : (s.modCur f).quarSeq = s.quarSeq := rfl
@[simp] theorem State.modCur_listCopies (s : State) (f : Core → Core) : (s.modCur f).listCopies = s.listCopies := rfl
@[simp] theorem State.modCur_retiring (s : State) (f : Core → Core) : (s.modCur f).retiring = s.retiring := rfl
@[simp] theorem State.modCur_taken (s : State) (f : Core → Core) : (s.modCur f).taken = s.taken := rfl
@[simp] theorem State.modCur_hostMem (s : State) (f : Core → Core) : (s.modCur f).hostMem = s.hostMem := rfl
@[simp] theorem State.modCur_saves (s : State) (f : Core → Core) : (s.modCur f).saves = s.saves := rfl
@[simp] theorem State.modCur_reams (s : State) (f : Core → Core) : (s.modCur f).reams = s.reams := rfl
@[simp] theorem State.modCur_nextRid (s : State) (f : Core → Core) : (s.modCur f).nextRid = s.nextRid := rfl
@[simp] theorem State.modCur_bars (s : State) (f : Core → Core) : (s.modCur f).bars = s.bars := rfl
@[simp] theorem State.modCur_watches (s : State) (f : Core → Core) : (s.modCur f).watches = s.watches := rfl
@[simp] theorem State.modCur_dirty (s : State) (f : Core → Core) : (s.modCur f).dirty = s.dirty := rfl
@[simp] theorem State.modCur_heldFields (s : State) (f : Core → Core) : (s.modCur f).heldFields = s.heldFields := rfl
@[simp] theorem State.modCur_queues (s : State) (f : Core → Core) : (s.modCur f).queues = s.queues := rfl
@[simp] theorem State.modCur_keys (s : State) (f : Core → Core) : (s.modCur f).keys = s.keys := rfl
@[simp] theorem State.modCur_keyOrder (s : State) (f : Core → Core) : (s.modCur f).keyOrder = s.keyOrder := rfl
@[simp] theorem State.modCur_keyOps (s : State) (f : Core → Core) : (s.modCur f).keyOps = s.keyOps := rfl
@[simp] theorem State.modCur_keysMade (s : State) (f : Core → Core) : (s.modCur f).keysMade = s.keysMade := rfl
@[simp] theorem State.modCur_lanes (s : State) (f : Core → Core) : (s.modCur f).lanes = s.lanes := rfl
@[simp] theorem State.modCur_lit (s : State) (f : Core → Core) : (s.modCur f).lit = s.lit := rfl
@[simp] theorem State.modCur_changing (s : State) (f : Core → Core) : (s.modCur f).changing = s.changing := rfl
@[simp] theorem State.modCur_held (s : State) (f : Core → Core) : (s.modCur f).held = s.held := rfl
@[simp] theorem State.modCur_resend (s : State) (f : Core → Core) : (s.modCur f).resend = s.resend := rfl
@[simp] theorem State.modCur_dropped (s : State) (f : Core → Core) : (s.modCur f).dropped = s.dropped := rfl
@[simp] theorem State.modCur_selfState (s : State) (f : Core → Core) : (s.modCur f).selfState = s.selfState := rfl
@[simp] theorem State.modCur_mig (s : State) (f : Core → Core) : (s.modCur f).mig = s.mig := rfl
@[simp] theorem State.modCur_moves (s : State) (f : Core → Core) : (s.modCur f).moves = s.moves := rfl
@[simp] theorem State.modCur_arrivals (s : State) (f : Core → Core) : (s.modCur f).arrivals = s.arrivals := rfl
@[simp] theorem State.modCur_heldReqs (s : State) (f : Core → Core) : (s.modCur f).heldReqs = s.heldReqs := rfl
@[simp] theorem State.modCur_seqNo (s : State) (f : Core → Core) : (s.modCur f).seqNo = s.seqNo := rfl
@[simp] theorem State.modCur_mon (s : State) (f : Core → Core) : (s.modCur f).mon = s.mon := rfl
@[simp] theorem State.modCur_host (s : State) (f : Core → Core) : (s.modCur f).host = s.host := rfl
@[simp] theorem State.modCur_us (s : State) (f : Core → Core) : (s.modCur f).us = s.us := rfl
@[simp] theorem State.modCur_tick (s : State) (f : Core → Core) : (s.modCur f).tick = s.tick := rfl
@[simp] theorem State.modCur_agenda (s : State) (f : Core → Core) : (s.modCur f).agenda = s.agenda := rfl
@[simp] theorem State.modCur_ctx (s : State) (f : Core → Core) : (s.modCur f).ctx = s.ctx := rfl
@[simp] theorem State.modCur_out (s : State) (f : Core → Core) : (s.modCur f).out = s.out := rfl
@[simp] theorem State.modCur_die (s : State) (f : Core → Core) (n : Nat) : (s.modCur f).die n = s.die n := rfl
@[simp] theorem State.modCur_bulk (s : State) (f : Core → Core) (n : Nat) : (s.modCur f).bulk n = s.bulk n := rfl
@[simp] theorem State.modCur_part (s : State) (f : Core → Core) (n : Nat) : (s.modCur f).part n = s.part n := rfl
@[simp] theorem State.modCur_world (s : State) (f : Core → Core) (n : Nat) : (s.modCur f).world n = s.world n := rfl

/-! ### `State.modDie` -/

@[simp] theorem State.modDie_me (s : State) (d : Nat) (f : Die → Die) : (s.modDie d f).me = s.me := rfl
@[simp] theorem State.modDie_cores (s : State) (d : Nat) (f : Die → Die) : (s.modDie d f).cores = s.cores := rfl
@[simp] theorem State.modDie_bulks (s : State) (d : Nat) (f : Die → Die) : (s.modDie d f).bulks = s.bulks := rfl
@[simp] theorem State.modDie_parts (s : State) (d : Nat) (f : Die → Die) : (s.modDie d f).parts = s.parts := rfl
@[simp] theorem State.modDie_worlds (s : State) (d : Nat) (f : Die → Die) : (s.modDie d f).worlds = s.worlds := rfl
@[simp] theorem State.modDie_mem (s : State) (d : Nat) (f : Die → Die) : (s.modDie d f).mem = s.mem := rfl
@[simp] theorem State.modDie_lines (s : State) (d : Nat) (f : Die → Die) : (s.modDie d f).lines = s.lines := rfl
@[simp] theorem State.modDie_lost (s : State) (d : Nat) (f : Die → Die) : (s.modDie d f).lost = s.lost := rfl
@[simp] theorem State.modDie_kept (s : State) (d : Nat) (f : Die → Die) : (s.modDie d f).kept = s.kept := rfl
@[simp] theorem State.modDie_tlb (s : State) (d : Nat) (f : Die → Die) : (s.modDie d f).tlb = s.tlb := rfl
@[simp] theorem State.modDie_dtlb (s : State) (d : Nat) (f : Die → Die) : (s.modDie d f).dtlb = s.dtlb := rfl
@[simp] theorem State.modDie_shoots (s : State) (d : Nat) (f : Die → Die) : (s.modDie d f).shoots = s.shoots := rfl
@[simp] theorem State.modDie_windows (s : State) (d : Nat) (f : Die → Die) : (s.modDie d f).windows = s.windows := rfl
@[simp] theorem State.modDie_winReqs (s : State) (d : Nat) (f : Die → Die) : (s.modDie d f).winReqs = s.winReqs := rfl
@[simp] theorem State.modDie_corrected (s : State) (d : Nat) (f : Die → Die) : (s.modDie d f).corrected = s.corrected := rfl
@[simp] theorem State.modDie_badFrames (s : State) (d : Nat) (f : Die → Die) : (s.modDie d f).badFrames = s.badFrames := rfl
@[simp] theorem State.modDie_badSeq (s : State) (d : Nat) (f : Die → Die) : (s.modDie d f).badSeq = s.badSeq := rfl
@[simp] theorem State.modDie_quarantine (s : State) (d : Nat) (f : Die → Die) : (s.modDie d f).quarantine = s.quarantine := rfl
@[simp] theorem State.modDie_quarSeq (s : State) (d : Nat) (f : Die → Die) : (s.modDie d f).quarSeq = s.quarSeq := rfl
@[simp] theorem State.modDie_listCopies (s : State) (d : Nat) (f : Die → Die) : (s.modDie d f).listCopies = s.listCopies := rfl
@[simp] theorem State.modDie_retiring (s : State) (d : Nat) (f : Die → Die) : (s.modDie d f).retiring = s.retiring := rfl
@[simp] theorem State.modDie_taken (s : State) (d : Nat) (f : Die → Die) : (s.modDie d f).taken = s.taken := rfl
@[simp] theorem State.modDie_hostMem (s : State) (d : Nat) (f : Die → Die) : (s.modDie d f).hostMem = s.hostMem := rfl
@[simp] theorem State.modDie_saves (s : State) (d : Nat) (f : Die → Die) : (s.modDie d f).saves = s.saves := rfl
@[simp] theorem State.modDie_reams (s : State) (d : Nat) (f : Die → Die) : (s.modDie d f).reams = s.reams := rfl
@[simp] theorem State.modDie_nextRid (s : State) (d : Nat) (f : Die → Die) : (s.modDie d f).nextRid = s.nextRid := rfl
@[simp] theorem State.modDie_bars (s : State) (d : Nat) (f : Die → Die) : (s.modDie d f).bars = s.bars := rfl
@[simp] theorem State.modDie_watches (s : State) (d : Nat) (f : Die → Die) : (s.modDie d f).watches = s.watches := rfl
@[simp] theorem State.modDie_dirty (s : State) (d : Nat) (f : Die → Die) : (s.modDie d f).dirty = s.dirty := rfl
@[simp] theorem State.modDie_heldFields (s : State) (d : Nat) (f : Die → Die) : (s.modDie d f).heldFields = s.heldFields := rfl
@[simp] theorem State.modDie_queues (s : State) (d : Nat) (f : Die → Die) : (s.modDie d f).queues = s.queues := rfl
@[simp] theorem State.modDie_keys (s : State) (d : Nat) (f : Die → Die) : (s.modDie d f).keys = s.keys := rfl
@[simp] theorem State.modDie_keyOrder (s : State) (d : Nat) (f : Die → Die) : (s.modDie d f).keyOrder = s.keyOrder := rfl
@[simp] theorem State.modDie_keyOps (s : State) (d : Nat) (f : Die → Die) : (s.modDie d f).keyOps = s.keyOps := rfl
@[simp] theorem State.modDie_keysMade (s : State) (d : Nat) (f : Die → Die) : (s.modDie d f).keysMade = s.keysMade := rfl
@[simp] theorem State.modDie_lanes (s : State) (d : Nat) (f : Die → Die) : (s.modDie d f).lanes = s.lanes := rfl
@[simp] theorem State.modDie_lit (s : State) (d : Nat) (f : Die → Die) : (s.modDie d f).lit = s.lit := rfl
@[simp] theorem State.modDie_changing (s : State) (d : Nat) (f : Die → Die) : (s.modDie d f).changing = s.changing := rfl
@[simp] theorem State.modDie_held (s : State) (d : Nat) (f : Die → Die) : (s.modDie d f).held = s.held := rfl
@[simp] theorem State.modDie_resend (s : State) (d : Nat) (f : Die → Die) : (s.modDie d f).resend = s.resend := rfl
@[simp] theorem State.modDie_dropped (s : State) (d : Nat) (f : Die → Die) : (s.modDie d f).dropped = s.dropped := rfl
@[simp] theorem State.modDie_selfState (s : State) (d : Nat) (f : Die → Die) : (s.modDie d f).selfState = s.selfState := rfl
@[simp] theorem State.modDie_mig (s : State) (d : Nat) (f : Die → Die) : (s.modDie d f).mig = s.mig := rfl
@[simp] theorem State.modDie_moves (s : State) (d : Nat) (f : Die → Die) : (s.modDie d f).moves = s.moves := rfl
@[simp] theorem State.modDie_arrivals (s : State) (d : Nat) (f : Die → Die) : (s.modDie d f).arrivals = s.arrivals := rfl
@[simp] theorem State.modDie_heldReqs (s : State) (d : Nat) (f : Die → Die) : (s.modDie d f).heldReqs = s.heldReqs := rfl
@[simp] theorem State.modDie_seqNo (s : State) (d : Nat) (f : Die → Die) : (s.modDie d f).seqNo = s.seqNo := rfl
@[simp] theorem State.modDie_mon (s : State) (d : Nat) (f : Die → Die) : (s.modDie d f).mon = s.mon := rfl
@[simp] theorem State.modDie_host (s : State) (d : Nat) (f : Die → Die) : (s.modDie d f).host = s.host := rfl
@[simp] theorem State.modDie_us (s : State) (d : Nat) (f : Die → Die) : (s.modDie d f).us = s.us := rfl
@[simp] theorem State.modDie_tick (s : State) (d : Nat) (f : Die → Die) : (s.modDie d f).tick = s.tick := rfl
@[simp] theorem State.modDie_agenda (s : State) (d : Nat) (f : Die → Die) : (s.modDie d f).agenda = s.agenda := rfl
@[simp] theorem State.modDie_ctx (s : State) (d : Nat) (f : Die → Die) : (s.modDie d f).ctx = s.ctx := rfl
@[simp] theorem State.modDie_out (s : State) (d : Nat) (f : Die → Die) : (s.modDie d f).out = s.out := rfl
@[simp] theorem State.modDie_core (s : State) (d : Nat) (f : Die → Die) (n : Nat) : (s.modDie d f).core n = s.core n := rfl
@[simp] theorem State.modDie_bulk (s : State) (d : Nat) (f : Die → Die) (n : Nat) : (s.modDie d f).bulk n = s.bulk n := rfl
@[simp] theorem State.modDie_part (s : State) (d : Nat) (f : Die → Die) (n : Nat) : (s.modDie d f).part n = s.part n := rfl
@[simp] theorem State.modDie_world (s : State) (d : Nat) (f : Die → Die) (n : Nat) : (s.modDie d f).world n = s.world n := rfl
@[simp] theorem State.modDie_cur (s : State) (d : Nat) (f : Die → Die) : (s.modDie d f).cur = s.cur := rfl

/-! ### `State.modBulk` -/

@[simp] theorem State.modBulk_me (s : State) (b : Nat) (f : Bulkhead → Bulkhead) : (s.modBulk b f).me = s.me := rfl
@[simp] theorem State.modBulk_cores (s : State) (b : Nat) (f : Bulkhead → Bulkhead) : (s.modBulk b f).cores = s.cores := rfl
@[simp] theorem State.modBulk_dies (s : State) (b : Nat) (f : Bulkhead → Bulkhead) : (s.modBulk b f).dies = s.dies := rfl
@[simp] theorem State.modBulk_parts (s : State) (b : Nat) (f : Bulkhead → Bulkhead) : (s.modBulk b f).parts = s.parts := rfl
@[simp] theorem State.modBulk_worlds (s : State) (b : Nat) (f : Bulkhead → Bulkhead) : (s.modBulk b f).worlds = s.worlds := rfl
@[simp] theorem State.modBulk_mem (s : State) (b : Nat) (f : Bulkhead → Bulkhead) : (s.modBulk b f).mem = s.mem := rfl
@[simp] theorem State.modBulk_lines (s : State) (b : Nat) (f : Bulkhead → Bulkhead) : (s.modBulk b f).lines = s.lines := rfl
@[simp] theorem State.modBulk_lost (s : State) (b : Nat) (f : Bulkhead → Bulkhead) : (s.modBulk b f).lost = s.lost := rfl
@[simp] theorem State.modBulk_kept (s : State) (b : Nat) (f : Bulkhead → Bulkhead) : (s.modBulk b f).kept = s.kept := rfl
@[simp] theorem State.modBulk_tlb (s : State) (b : Nat) (f : Bulkhead → Bulkhead) : (s.modBulk b f).tlb = s.tlb := rfl
@[simp] theorem State.modBulk_dtlb (s : State) (b : Nat) (f : Bulkhead → Bulkhead) : (s.modBulk b f).dtlb = s.dtlb := rfl
@[simp] theorem State.modBulk_shoots (s : State) (b : Nat) (f : Bulkhead → Bulkhead) : (s.modBulk b f).shoots = s.shoots := rfl
@[simp] theorem State.modBulk_windows (s : State) (b : Nat) (f : Bulkhead → Bulkhead) : (s.modBulk b f).windows = s.windows := rfl
@[simp] theorem State.modBulk_winReqs (s : State) (b : Nat) (f : Bulkhead → Bulkhead) : (s.modBulk b f).winReqs = s.winReqs := rfl
@[simp] theorem State.modBulk_corrected (s : State) (b : Nat) (f : Bulkhead → Bulkhead) : (s.modBulk b f).corrected = s.corrected := rfl
@[simp] theorem State.modBulk_badFrames (s : State) (b : Nat) (f : Bulkhead → Bulkhead) : (s.modBulk b f).badFrames = s.badFrames := rfl
@[simp] theorem State.modBulk_badSeq (s : State) (b : Nat) (f : Bulkhead → Bulkhead) : (s.modBulk b f).badSeq = s.badSeq := rfl
@[simp] theorem State.modBulk_quarantine (s : State) (b : Nat) (f : Bulkhead → Bulkhead) : (s.modBulk b f).quarantine = s.quarantine := rfl
@[simp] theorem State.modBulk_quarSeq (s : State) (b : Nat) (f : Bulkhead → Bulkhead) : (s.modBulk b f).quarSeq = s.quarSeq := rfl
@[simp] theorem State.modBulk_listCopies (s : State) (b : Nat) (f : Bulkhead → Bulkhead) : (s.modBulk b f).listCopies = s.listCopies := rfl
@[simp] theorem State.modBulk_retiring (s : State) (b : Nat) (f : Bulkhead → Bulkhead) : (s.modBulk b f).retiring = s.retiring := rfl
@[simp] theorem State.modBulk_taken (s : State) (b : Nat) (f : Bulkhead → Bulkhead) : (s.modBulk b f).taken = s.taken := rfl
@[simp] theorem State.modBulk_hostMem (s : State) (b : Nat) (f : Bulkhead → Bulkhead) : (s.modBulk b f).hostMem = s.hostMem := rfl
@[simp] theorem State.modBulk_saves (s : State) (b : Nat) (f : Bulkhead → Bulkhead) : (s.modBulk b f).saves = s.saves := rfl
@[simp] theorem State.modBulk_reams (s : State) (b : Nat) (f : Bulkhead → Bulkhead) : (s.modBulk b f).reams = s.reams := rfl
@[simp] theorem State.modBulk_nextRid (s : State) (b : Nat) (f : Bulkhead → Bulkhead) : (s.modBulk b f).nextRid = s.nextRid := rfl
@[simp] theorem State.modBulk_bars (s : State) (b : Nat) (f : Bulkhead → Bulkhead) : (s.modBulk b f).bars = s.bars := rfl
@[simp] theorem State.modBulk_watches (s : State) (b : Nat) (f : Bulkhead → Bulkhead) : (s.modBulk b f).watches = s.watches := rfl
@[simp] theorem State.modBulk_dirty (s : State) (b : Nat) (f : Bulkhead → Bulkhead) : (s.modBulk b f).dirty = s.dirty := rfl
@[simp] theorem State.modBulk_heldFields (s : State) (b : Nat) (f : Bulkhead → Bulkhead) : (s.modBulk b f).heldFields = s.heldFields := rfl
@[simp] theorem State.modBulk_queues (s : State) (b : Nat) (f : Bulkhead → Bulkhead) : (s.modBulk b f).queues = s.queues := rfl
@[simp] theorem State.modBulk_keys (s : State) (b : Nat) (f : Bulkhead → Bulkhead) : (s.modBulk b f).keys = s.keys := rfl
@[simp] theorem State.modBulk_keyOrder (s : State) (b : Nat) (f : Bulkhead → Bulkhead) : (s.modBulk b f).keyOrder = s.keyOrder := rfl
@[simp] theorem State.modBulk_keyOps (s : State) (b : Nat) (f : Bulkhead → Bulkhead) : (s.modBulk b f).keyOps = s.keyOps := rfl
@[simp] theorem State.modBulk_keysMade (s : State) (b : Nat) (f : Bulkhead → Bulkhead) : (s.modBulk b f).keysMade = s.keysMade := rfl
@[simp] theorem State.modBulk_lanes (s : State) (b : Nat) (f : Bulkhead → Bulkhead) : (s.modBulk b f).lanes = s.lanes := rfl
@[simp] theorem State.modBulk_lit (s : State) (b : Nat) (f : Bulkhead → Bulkhead) : (s.modBulk b f).lit = s.lit := rfl
@[simp] theorem State.modBulk_changing (s : State) (b : Nat) (f : Bulkhead → Bulkhead) : (s.modBulk b f).changing = s.changing := rfl
@[simp] theorem State.modBulk_held (s : State) (b : Nat) (f : Bulkhead → Bulkhead) : (s.modBulk b f).held = s.held := rfl
@[simp] theorem State.modBulk_resend (s : State) (b : Nat) (f : Bulkhead → Bulkhead) : (s.modBulk b f).resend = s.resend := rfl
@[simp] theorem State.modBulk_dropped (s : State) (b : Nat) (f : Bulkhead → Bulkhead) : (s.modBulk b f).dropped = s.dropped := rfl
@[simp] theorem State.modBulk_selfState (s : State) (b : Nat) (f : Bulkhead → Bulkhead) : (s.modBulk b f).selfState = s.selfState := rfl
@[simp] theorem State.modBulk_mig (s : State) (b : Nat) (f : Bulkhead → Bulkhead) : (s.modBulk b f).mig = s.mig := rfl
@[simp] theorem State.modBulk_moves (s : State) (b : Nat) (f : Bulkhead → Bulkhead) : (s.modBulk b f).moves = s.moves := rfl
@[simp] theorem State.modBulk_arrivals (s : State) (b : Nat) (f : Bulkhead → Bulkhead) : (s.modBulk b f).arrivals = s.arrivals := rfl
@[simp] theorem State.modBulk_heldReqs (s : State) (b : Nat) (f : Bulkhead → Bulkhead) : (s.modBulk b f).heldReqs = s.heldReqs := rfl
@[simp] theorem State.modBulk_seqNo (s : State) (b : Nat) (f : Bulkhead → Bulkhead) : (s.modBulk b f).seqNo = s.seqNo := rfl
@[simp] theorem State.modBulk_mon (s : State) (b : Nat) (f : Bulkhead → Bulkhead) : (s.modBulk b f).mon = s.mon := rfl
@[simp] theorem State.modBulk_host (s : State) (b : Nat) (f : Bulkhead → Bulkhead) : (s.modBulk b f).host = s.host := rfl
@[simp] theorem State.modBulk_us (s : State) (b : Nat) (f : Bulkhead → Bulkhead) : (s.modBulk b f).us = s.us := rfl
@[simp] theorem State.modBulk_tick (s : State) (b : Nat) (f : Bulkhead → Bulkhead) : (s.modBulk b f).tick = s.tick := rfl
@[simp] theorem State.modBulk_agenda (s : State) (b : Nat) (f : Bulkhead → Bulkhead) : (s.modBulk b f).agenda = s.agenda := rfl
@[simp] theorem State.modBulk_ctx (s : State) (b : Nat) (f : Bulkhead → Bulkhead) : (s.modBulk b f).ctx = s.ctx := rfl
@[simp] theorem State.modBulk_out (s : State) (b : Nat) (f : Bulkhead → Bulkhead) : (s.modBulk b f).out = s.out := rfl
@[simp] theorem State.modBulk_core (s : State) (b : Nat) (f : Bulkhead → Bulkhead) (n : Nat) : (s.modBulk b f).core n = s.core n := rfl
@[simp] theorem State.modBulk_die (s : State) (b : Nat) (f : Bulkhead → Bulkhead) (n : Nat) : (s.modBulk b f).die n = s.die n := rfl
@[simp] theorem State.modBulk_part (s : State) (b : Nat) (f : Bulkhead → Bulkhead) (n : Nat) : (s.modBulk b f).part n = s.part n := rfl
@[simp] theorem State.modBulk_world (s : State) (b : Nat) (f : Bulkhead → Bulkhead) (n : Nat) : (s.modBulk b f).world n = s.world n := rfl
@[simp] theorem State.modBulk_cur (s : State) (b : Nat) (f : Bulkhead → Bulkhead) : (s.modBulk b f).cur = s.cur := rfl

/-! ### `State.modPart` -/

@[simp] theorem State.modPart_me (s : State) (p : Nat) (f : Part → Part) : (s.modPart p f).me = s.me := rfl
@[simp] theorem State.modPart_cores (s : State) (p : Nat) (f : Part → Part) : (s.modPart p f).cores = s.cores := rfl
@[simp] theorem State.modPart_dies (s : State) (p : Nat) (f : Part → Part) : (s.modPart p f).dies = s.dies := rfl
@[simp] theorem State.modPart_bulks (s : State) (p : Nat) (f : Part → Part) : (s.modPart p f).bulks = s.bulks := rfl
@[simp] theorem State.modPart_worlds (s : State) (p : Nat) (f : Part → Part) : (s.modPart p f).worlds = s.worlds := rfl
@[simp] theorem State.modPart_mem (s : State) (p : Nat) (f : Part → Part) : (s.modPart p f).mem = s.mem := rfl
@[simp] theorem State.modPart_lines (s : State) (p : Nat) (f : Part → Part) : (s.modPart p f).lines = s.lines := rfl
@[simp] theorem State.modPart_lost (s : State) (p : Nat) (f : Part → Part) : (s.modPart p f).lost = s.lost := rfl
@[simp] theorem State.modPart_kept (s : State) (p : Nat) (f : Part → Part) : (s.modPart p f).kept = s.kept := rfl
@[simp] theorem State.modPart_tlb (s : State) (p : Nat) (f : Part → Part) : (s.modPart p f).tlb = s.tlb := rfl
@[simp] theorem State.modPart_dtlb (s : State) (p : Nat) (f : Part → Part) : (s.modPart p f).dtlb = s.dtlb := rfl
@[simp] theorem State.modPart_shoots (s : State) (p : Nat) (f : Part → Part) : (s.modPart p f).shoots = s.shoots := rfl
@[simp] theorem State.modPart_windows (s : State) (p : Nat) (f : Part → Part) : (s.modPart p f).windows = s.windows := rfl
@[simp] theorem State.modPart_winReqs (s : State) (p : Nat) (f : Part → Part) : (s.modPart p f).winReqs = s.winReqs := rfl
@[simp] theorem State.modPart_corrected (s : State) (p : Nat) (f : Part → Part) : (s.modPart p f).corrected = s.corrected := rfl
@[simp] theorem State.modPart_badFrames (s : State) (p : Nat) (f : Part → Part) : (s.modPart p f).badFrames = s.badFrames := rfl
@[simp] theorem State.modPart_badSeq (s : State) (p : Nat) (f : Part → Part) : (s.modPart p f).badSeq = s.badSeq := rfl
@[simp] theorem State.modPart_quarantine (s : State) (p : Nat) (f : Part → Part) : (s.modPart p f).quarantine = s.quarantine := rfl
@[simp] theorem State.modPart_quarSeq (s : State) (p : Nat) (f : Part → Part) : (s.modPart p f).quarSeq = s.quarSeq := rfl
@[simp] theorem State.modPart_listCopies (s : State) (p : Nat) (f : Part → Part) : (s.modPart p f).listCopies = s.listCopies := rfl
@[simp] theorem State.modPart_retiring (s : State) (p : Nat) (f : Part → Part) : (s.modPart p f).retiring = s.retiring := rfl
@[simp] theorem State.modPart_taken (s : State) (p : Nat) (f : Part → Part) : (s.modPart p f).taken = s.taken := rfl
@[simp] theorem State.modPart_hostMem (s : State) (p : Nat) (f : Part → Part) : (s.modPart p f).hostMem = s.hostMem := rfl
@[simp] theorem State.modPart_saves (s : State) (p : Nat) (f : Part → Part) : (s.modPart p f).saves = s.saves := rfl
@[simp] theorem State.modPart_reams (s : State) (p : Nat) (f : Part → Part) : (s.modPart p f).reams = s.reams := rfl
@[simp] theorem State.modPart_nextRid (s : State) (p : Nat) (f : Part → Part) : (s.modPart p f).nextRid = s.nextRid := rfl
@[simp] theorem State.modPart_bars (s : State) (p : Nat) (f : Part → Part) : (s.modPart p f).bars = s.bars := rfl
@[simp] theorem State.modPart_watches (s : State) (p : Nat) (f : Part → Part) : (s.modPart p f).watches = s.watches := rfl
@[simp] theorem State.modPart_dirty (s : State) (p : Nat) (f : Part → Part) : (s.modPart p f).dirty = s.dirty := rfl
@[simp] theorem State.modPart_heldFields (s : State) (p : Nat) (f : Part → Part) : (s.modPart p f).heldFields = s.heldFields := rfl
@[simp] theorem State.modPart_queues (s : State) (p : Nat) (f : Part → Part) : (s.modPart p f).queues = s.queues := rfl
@[simp] theorem State.modPart_keys (s : State) (p : Nat) (f : Part → Part) : (s.modPart p f).keys = s.keys := rfl
@[simp] theorem State.modPart_keyOrder (s : State) (p : Nat) (f : Part → Part) : (s.modPart p f).keyOrder = s.keyOrder := rfl
@[simp] theorem State.modPart_keyOps (s : State) (p : Nat) (f : Part → Part) : (s.modPart p f).keyOps = s.keyOps := rfl
@[simp] theorem State.modPart_keysMade (s : State) (p : Nat) (f : Part → Part) : (s.modPart p f).keysMade = s.keysMade := rfl
@[simp] theorem State.modPart_lanes (s : State) (p : Nat) (f : Part → Part) : (s.modPart p f).lanes = s.lanes := rfl
@[simp] theorem State.modPart_lit (s : State) (p : Nat) (f : Part → Part) : (s.modPart p f).lit = s.lit := rfl
@[simp] theorem State.modPart_changing (s : State) (p : Nat) (f : Part → Part) : (s.modPart p f).changing = s.changing := rfl
@[simp] theorem State.modPart_held (s : State) (p : Nat) (f : Part → Part) : (s.modPart p f).held = s.held := rfl
@[simp] theorem State.modPart_resend (s : State) (p : Nat) (f : Part → Part) : (s.modPart p f).resend = s.resend := rfl
@[simp] theorem State.modPart_dropped (s : State) (p : Nat) (f : Part → Part) : (s.modPart p f).dropped = s.dropped := rfl
@[simp] theorem State.modPart_selfState (s : State) (p : Nat) (f : Part → Part) : (s.modPart p f).selfState = s.selfState := rfl
@[simp] theorem State.modPart_mig (s : State) (p : Nat) (f : Part → Part) : (s.modPart p f).mig = s.mig := rfl
@[simp] theorem State.modPart_moves (s : State) (p : Nat) (f : Part → Part) : (s.modPart p f).moves = s.moves := rfl
@[simp] theorem State.modPart_arrivals (s : State) (p : Nat) (f : Part → Part) : (s.modPart p f).arrivals = s.arrivals := rfl
@[simp] theorem State.modPart_heldReqs (s : State) (p : Nat) (f : Part → Part) : (s.modPart p f).heldReqs = s.heldReqs := rfl
@[simp] theorem State.modPart_seqNo (s : State) (p : Nat) (f : Part → Part) : (s.modPart p f).seqNo = s.seqNo := rfl
@[simp] theorem State.modPart_mon (s : State) (p : Nat) (f : Part → Part) : (s.modPart p f).mon = s.mon := rfl
@[simp] theorem State.modPart_host (s : State) (p : Nat) (f : Part → Part) : (s.modPart p f).host = s.host := rfl
@[simp] theorem State.modPart_us (s : State) (p : Nat) (f : Part → Part) : (s.modPart p f).us = s.us := rfl
@[simp] theorem State.modPart_tick (s : State) (p : Nat) (f : Part → Part) : (s.modPart p f).tick = s.tick := rfl
@[simp] theorem State.modPart_agenda (s : State) (p : Nat) (f : Part → Part) : (s.modPart p f).agenda = s.agenda := rfl
@[simp] theorem State.modPart_ctx (s : State) (p : Nat) (f : Part → Part) : (s.modPart p f).ctx = s.ctx := rfl
@[simp] theorem State.modPart_out (s : State) (p : Nat) (f : Part → Part) : (s.modPart p f).out = s.out := rfl
@[simp] theorem State.modPart_core (s : State) (p : Nat) (f : Part → Part) (n : Nat) : (s.modPart p f).core n = s.core n := rfl
@[simp] theorem State.modPart_die (s : State) (p : Nat) (f : Part → Part) (n : Nat) : (s.modPart p f).die n = s.die n := rfl
@[simp] theorem State.modPart_bulk (s : State) (p : Nat) (f : Part → Part) (n : Nat) : (s.modPart p f).bulk n = s.bulk n := rfl
@[simp] theorem State.modPart_world (s : State) (p : Nat) (f : Part → Part) (n : Nat) : (s.modPart p f).world n = s.world n := rfl
@[simp] theorem State.modPart_cur (s : State) (p : Nat) (f : Part → Part) : (s.modPart p f).cur = s.cur := rfl

/-! ### `State.modWorld` -/

@[simp] theorem State.modWorld_me (s : State) (v : Nat) (f : World → World) : (s.modWorld v f).me = s.me := rfl
@[simp] theorem State.modWorld_cores (s : State) (v : Nat) (f : World → World) : (s.modWorld v f).cores = s.cores := rfl
@[simp] theorem State.modWorld_dies (s : State) (v : Nat) (f : World → World) : (s.modWorld v f).dies = s.dies := rfl
@[simp] theorem State.modWorld_bulks (s : State) (v : Nat) (f : World → World) : (s.modWorld v f).bulks = s.bulks := rfl
@[simp] theorem State.modWorld_parts (s : State) (v : Nat) (f : World → World) : (s.modWorld v f).parts = s.parts := rfl
@[simp] theorem State.modWorld_mem (s : State) (v : Nat) (f : World → World) : (s.modWorld v f).mem = s.mem := rfl
@[simp] theorem State.modWorld_lines (s : State) (v : Nat) (f : World → World) : (s.modWorld v f).lines = s.lines := rfl
@[simp] theorem State.modWorld_lost (s : State) (v : Nat) (f : World → World) : (s.modWorld v f).lost = s.lost := rfl
@[simp] theorem State.modWorld_kept (s : State) (v : Nat) (f : World → World) : (s.modWorld v f).kept = s.kept := rfl
@[simp] theorem State.modWorld_tlb (s : State) (v : Nat) (f : World → World) : (s.modWorld v f).tlb = s.tlb := rfl
@[simp] theorem State.modWorld_dtlb (s : State) (v : Nat) (f : World → World) : (s.modWorld v f).dtlb = s.dtlb := rfl
@[simp] theorem State.modWorld_shoots (s : State) (v : Nat) (f : World → World) : (s.modWorld v f).shoots = s.shoots := rfl
@[simp] theorem State.modWorld_windows (s : State) (v : Nat) (f : World → World) : (s.modWorld v f).windows = s.windows := rfl
@[simp] theorem State.modWorld_winReqs (s : State) (v : Nat) (f : World → World) : (s.modWorld v f).winReqs = s.winReqs := rfl
@[simp] theorem State.modWorld_corrected (s : State) (v : Nat) (f : World → World) : (s.modWorld v f).corrected = s.corrected := rfl
@[simp] theorem State.modWorld_badFrames (s : State) (v : Nat) (f : World → World) : (s.modWorld v f).badFrames = s.badFrames := rfl
@[simp] theorem State.modWorld_badSeq (s : State) (v : Nat) (f : World → World) : (s.modWorld v f).badSeq = s.badSeq := rfl
@[simp] theorem State.modWorld_quarantine (s : State) (v : Nat) (f : World → World) : (s.modWorld v f).quarantine = s.quarantine := rfl
@[simp] theorem State.modWorld_quarSeq (s : State) (v : Nat) (f : World → World) : (s.modWorld v f).quarSeq = s.quarSeq := rfl
@[simp] theorem State.modWorld_listCopies (s : State) (v : Nat) (f : World → World) : (s.modWorld v f).listCopies = s.listCopies := rfl
@[simp] theorem State.modWorld_retiring (s : State) (v : Nat) (f : World → World) : (s.modWorld v f).retiring = s.retiring := rfl
@[simp] theorem State.modWorld_taken (s : State) (v : Nat) (f : World → World) : (s.modWorld v f).taken = s.taken := rfl
@[simp] theorem State.modWorld_hostMem (s : State) (v : Nat) (f : World → World) : (s.modWorld v f).hostMem = s.hostMem := rfl
@[simp] theorem State.modWorld_saves (s : State) (v : Nat) (f : World → World) : (s.modWorld v f).saves = s.saves := rfl
@[simp] theorem State.modWorld_reams (s : State) (v : Nat) (f : World → World) : (s.modWorld v f).reams = s.reams := rfl
@[simp] theorem State.modWorld_nextRid (s : State) (v : Nat) (f : World → World) : (s.modWorld v f).nextRid = s.nextRid := rfl
@[simp] theorem State.modWorld_bars (s : State) (v : Nat) (f : World → World) : (s.modWorld v f).bars = s.bars := rfl
@[simp] theorem State.modWorld_watches (s : State) (v : Nat) (f : World → World) : (s.modWorld v f).watches = s.watches := rfl
@[simp] theorem State.modWorld_dirty (s : State) (v : Nat) (f : World → World) : (s.modWorld v f).dirty = s.dirty := rfl
@[simp] theorem State.modWorld_heldFields (s : State) (v : Nat) (f : World → World) : (s.modWorld v f).heldFields = s.heldFields := rfl
@[simp] theorem State.modWorld_queues (s : State) (v : Nat) (f : World → World) : (s.modWorld v f).queues = s.queues := rfl
@[simp] theorem State.modWorld_keys (s : State) (v : Nat) (f : World → World) : (s.modWorld v f).keys = s.keys := rfl
@[simp] theorem State.modWorld_keyOrder (s : State) (v : Nat) (f : World → World) : (s.modWorld v f).keyOrder = s.keyOrder := rfl
@[simp] theorem State.modWorld_keyOps (s : State) (v : Nat) (f : World → World) : (s.modWorld v f).keyOps = s.keyOps := rfl
@[simp] theorem State.modWorld_keysMade (s : State) (v : Nat) (f : World → World) : (s.modWorld v f).keysMade = s.keysMade := rfl
@[simp] theorem State.modWorld_lanes (s : State) (v : Nat) (f : World → World) : (s.modWorld v f).lanes = s.lanes := rfl
@[simp] theorem State.modWorld_lit (s : State) (v : Nat) (f : World → World) : (s.modWorld v f).lit = s.lit := rfl
@[simp] theorem State.modWorld_changing (s : State) (v : Nat) (f : World → World) : (s.modWorld v f).changing = s.changing := rfl
@[simp] theorem State.modWorld_held (s : State) (v : Nat) (f : World → World) : (s.modWorld v f).held = s.held := rfl
@[simp] theorem State.modWorld_resend (s : State) (v : Nat) (f : World → World) : (s.modWorld v f).resend = s.resend := rfl
@[simp] theorem State.modWorld_dropped (s : State) (v : Nat) (f : World → World) : (s.modWorld v f).dropped = s.dropped := rfl
@[simp] theorem State.modWorld_selfState (s : State) (v : Nat) (f : World → World) : (s.modWorld v f).selfState = s.selfState := rfl
@[simp] theorem State.modWorld_mig (s : State) (v : Nat) (f : World → World) : (s.modWorld v f).mig = s.mig := rfl
@[simp] theorem State.modWorld_moves (s : State) (v : Nat) (f : World → World) : (s.modWorld v f).moves = s.moves := rfl
@[simp] theorem State.modWorld_arrivals (s : State) (v : Nat) (f : World → World) : (s.modWorld v f).arrivals = s.arrivals := rfl
@[simp] theorem State.modWorld_heldReqs (s : State) (v : Nat) (f : World → World) : (s.modWorld v f).heldReqs = s.heldReqs := rfl
@[simp] theorem State.modWorld_seqNo (s : State) (v : Nat) (f : World → World) : (s.modWorld v f).seqNo = s.seqNo := rfl
@[simp] theorem State.modWorld_mon (s : State) (v : Nat) (f : World → World) : (s.modWorld v f).mon = s.mon := rfl
@[simp] theorem State.modWorld_host (s : State) (v : Nat) (f : World → World) : (s.modWorld v f).host = s.host := rfl
@[simp] theorem State.modWorld_us (s : State) (v : Nat) (f : World → World) : (s.modWorld v f).us = s.us := rfl
@[simp] theorem State.modWorld_tick (s : State) (v : Nat) (f : World → World) : (s.modWorld v f).tick = s.tick := rfl
@[simp] theorem State.modWorld_agenda (s : State) (v : Nat) (f : World → World) : (s.modWorld v f).agenda = s.agenda := rfl
@[simp] theorem State.modWorld_ctx (s : State) (v : Nat) (f : World → World) : (s.modWorld v f).ctx = s.ctx := rfl
@[simp] theorem State.modWorld_out (s : State) (v : Nat) (f : World → World) : (s.modWorld v f).out = s.out := rfl
@[simp] theorem State.modWorld_core (s : State) (v : Nat) (f : World → World) (n : Nat) : (s.modWorld v f).core n = s.core n := rfl
@[simp] theorem State.modWorld_die (s : State) (v : Nat) (f : World → World) (n : Nat) : (s.modWorld v f).die n = s.die n := rfl
@[simp] theorem State.modWorld_bulk (s : State) (v : Nat) (f : World → World) (n : Nat) : (s.modWorld v f).bulk n = s.bulk n := rfl
@[simp] theorem State.modWorld_part (s : State) (v : Nat) (f : World → World) (n : Nat) : (s.modWorld v f).part n = s.part n := rfl
@[simp] theorem State.modWorld_cur (s : State) (v : Nat) (f : World → World) : (s.modWorld v f).cur = s.cur := rfl

/-! ### `State.emit` -/

@[simp] theorem State.emit_me (s : State) (o : Out) : (s.emit o).me = s.me := rfl
@[simp] theorem State.emit_cores (s : State) (o : Out) : (s.emit o).cores = s.cores := rfl
@[simp] theorem State.emit_dies (s : State) (o : Out) : (s.emit o).dies = s.dies := rfl
@[simp] theorem State.emit_bulks (s : State) (o : Out) : (s.emit o).bulks = s.bulks := rfl
@[simp] theorem State.emit_parts (s : State) (o : Out) : (s.emit o).parts = s.parts := rfl
@[simp] theorem State.emit_worlds (s : State) (o : Out) : (s.emit o).worlds = s.worlds := rfl
@[simp] theorem State.emit_mem (s : State) (o : Out) : (s.emit o).mem = s.mem := rfl
@[simp] theorem State.emit_lines (s : State) (o : Out) : (s.emit o).lines = s.lines := rfl
@[simp] theorem State.emit_lost (s : State) (o : Out) : (s.emit o).lost = s.lost := rfl
@[simp] theorem State.emit_kept (s : State) (o : Out) : (s.emit o).kept = s.kept := rfl
@[simp] theorem State.emit_tlb (s : State) (o : Out) : (s.emit o).tlb = s.tlb := rfl
@[simp] theorem State.emit_dtlb (s : State) (o : Out) : (s.emit o).dtlb = s.dtlb := rfl
@[simp] theorem State.emit_shoots (s : State) (o : Out) : (s.emit o).shoots = s.shoots := rfl
@[simp] theorem State.emit_windows (s : State) (o : Out) : (s.emit o).windows = s.windows := rfl
@[simp] theorem State.emit_winReqs (s : State) (o : Out) : (s.emit o).winReqs = s.winReqs := rfl
@[simp] theorem State.emit_corrected (s : State) (o : Out) : (s.emit o).corrected = s.corrected := rfl
@[simp] theorem State.emit_badFrames (s : State) (o : Out) : (s.emit o).badFrames = s.badFrames := rfl
@[simp] theorem State.emit_badSeq (s : State) (o : Out) : (s.emit o).badSeq = s.badSeq := rfl
@[simp] theorem State.emit_quarantine (s : State) (o : Out) : (s.emit o).quarantine = s.quarantine := rfl
@[simp] theorem State.emit_quarSeq (s : State) (o : Out) : (s.emit o).quarSeq = s.quarSeq := rfl
@[simp] theorem State.emit_listCopies (s : State) (o : Out) : (s.emit o).listCopies = s.listCopies := rfl
@[simp] theorem State.emit_retiring (s : State) (o : Out) : (s.emit o).retiring = s.retiring := rfl
@[simp] theorem State.emit_taken (s : State) (o : Out) : (s.emit o).taken = s.taken := rfl
@[simp] theorem State.emit_hostMem (s : State) (o : Out) : (s.emit o).hostMem = s.hostMem := rfl
@[simp] theorem State.emit_saves (s : State) (o : Out) : (s.emit o).saves = s.saves := rfl
@[simp] theorem State.emit_reams (s : State) (o : Out) : (s.emit o).reams = s.reams := rfl
@[simp] theorem State.emit_nextRid (s : State) (o : Out) : (s.emit o).nextRid = s.nextRid := rfl
@[simp] theorem State.emit_bars (s : State) (o : Out) : (s.emit o).bars = s.bars := rfl
@[simp] theorem State.emit_watches (s : State) (o : Out) : (s.emit o).watches = s.watches := rfl
@[simp] theorem State.emit_dirty (s : State) (o : Out) : (s.emit o).dirty = s.dirty := rfl
@[simp] theorem State.emit_heldFields (s : State) (o : Out) : (s.emit o).heldFields = s.heldFields := rfl
@[simp] theorem State.emit_queues (s : State) (o : Out) : (s.emit o).queues = s.queues := rfl
@[simp] theorem State.emit_keys (s : State) (o : Out) : (s.emit o).keys = s.keys := rfl
@[simp] theorem State.emit_keyOrder (s : State) (o : Out) : (s.emit o).keyOrder = s.keyOrder := rfl
@[simp] theorem State.emit_keyOps (s : State) (o : Out) : (s.emit o).keyOps = s.keyOps := rfl
@[simp] theorem State.emit_keysMade (s : State) (o : Out) : (s.emit o).keysMade = s.keysMade := rfl
@[simp] theorem State.emit_lanes (s : State) (o : Out) : (s.emit o).lanes = s.lanes := rfl
@[simp] theorem State.emit_lit (s : State) (o : Out) : (s.emit o).lit = s.lit := rfl
@[simp] theorem State.emit_changing (s : State) (o : Out) : (s.emit o).changing = s.changing := rfl
@[simp] theorem State.emit_held (s : State) (o : Out) : (s.emit o).held = s.held := rfl
@[simp] theorem State.emit_resend (s : State) (o : Out) : (s.emit o).resend = s.resend := rfl
@[simp] theorem State.emit_dropped (s : State) (o : Out) : (s.emit o).dropped = s.dropped := rfl
@[simp] theorem State.emit_selfState (s : State) (o : Out) : (s.emit o).selfState = s.selfState := rfl
@[simp] theorem State.emit_mig (s : State) (o : Out) : (s.emit o).mig = s.mig := rfl
@[simp] theorem State.emit_moves (s : State) (o : Out) : (s.emit o).moves = s.moves := rfl
@[simp] theorem State.emit_arrivals (s : State) (o : Out) : (s.emit o).arrivals = s.arrivals := rfl
@[simp] theorem State.emit_heldReqs (s : State) (o : Out) : (s.emit o).heldReqs = s.heldReqs := rfl
@[simp] theorem State.emit_seqNo (s : State) (o : Out) : (s.emit o).seqNo = s.seqNo := rfl
@[simp] theorem State.emit_mon (s : State) (o : Out) : (s.emit o).mon = s.mon := rfl
@[simp] theorem State.emit_host (s : State) (o : Out) : (s.emit o).host = s.host := rfl
@[simp] theorem State.emit_us (s : State) (o : Out) : (s.emit o).us = s.us := rfl
@[simp] theorem State.emit_tick (s : State) (o : Out) : (s.emit o).tick = s.tick := rfl
@[simp] theorem State.emit_agenda (s : State) (o : Out) : (s.emit o).agenda = s.agenda := rfl
@[simp] theorem State.emit_ctx (s : State) (o : Out) : (s.emit o).ctx = s.ctx := rfl
@[simp] theorem State.emit_core (s : State) (o : Out) (n : Nat) : (s.emit o).core n = s.core n := rfl
@[simp] theorem State.emit_die (s : State) (o : Out) (n : Nat) : (s.emit o).die n = s.die n := rfl
@[simp] theorem State.emit_bulk (s : State) (o : Out) (n : Nat) : (s.emit o).bulk n = s.bulk n := rfl
@[simp] theorem State.emit_part (s : State) (o : Out) (n : Nat) : (s.emit o).part n = s.part n := rfl
@[simp] theorem State.emit_world (s : State) (o : Out) (n : Nat) : (s.emit o).world n = s.world n := rfl
@[simp] theorem State.emit_cur (s : State) (o : Out) : (s.emit o).cur = s.cur := rfl

/-! ## Parts of a core -/

theorem Core.sreg_setS (c : Core) (r q : Nat) (v : Word) (p : Option Poison) :
    (c.setS r v p).sreg q = if q = r ∧ r ≠ 0 then v else c.sreg q := by
  by_cases h : r = 0
  · simp [Core.setS, h]
  · by_cases hq : q = r
    · subst hq; simp [Core.setS, Core.sreg, h]
    · simp [Core.setS, Core.sreg, h, hq]

theorem Core.spoi_setS (c : Core) (r q : Nat) (v : Word) (p : Option Poison) :
    (c.setS r v p).spoi q = if q = r ∧ r ≠ 0 then p else c.spoi q := by
  by_cases h : r = 0
  · simp [Core.setS, h]
  · by_cases hq : q = r
    · subst hq; simp [Core.setS, Core.spoi, h]
    · simp [Core.setS, Core.spoi, h, hq]

theorem Core.vreg_setV (c : Core) (r q : Nat) (v : Vec) (p : Option Poison) :
    (c.setV r v p).vreg q = if q = r then v else c.vreg q := by
  by_cases hq : q = r
  · subst hq; simp [Core.setV, Core.vreg]
  · simp [Core.setV, Core.vreg, hq]

theorem Core.kreg_setK (c : Core) (r q : Nat) (v : Word) :
    (c.setK r v).kreg q = if q = r ∧ r ≠ 0 then v else c.kreg q := by
  by_cases h : r = 0
  · simp [Core.setK, h]
  · by_cases hq : q = r
    · subst hq; simp [Core.setK, Core.kreg, h]
    · simp [Core.setK, Core.kreg, h, hq]

theorem Core.cr_setCr (c : Core) (a b : Nat) (v : Word) :
    (c.setCr a v).cr b = if b = a then v &&& cregMask a else c.cr b := Tab.get_set _ _ _ _ _

theorem Core.sema_modSema (c : Core) (n m : Nat) (f : Sema → Sema) :
    (c.modSema n f).sema m = if m = n then f (c.sema n) else c.sema m := Tab.get_set _ _ _ _ _

theorem Core.stream_modStream (c : Core) (n m : Nat) (f : Stream → Stream) :
    (c.modStream n f).stream m = if m = n then f (c.stream n) else c.stream m := Tab.get_set _ _ _ _ _

theorem Core.chan_modChan (c : Core) (n m : Nat) (f : Channel → Channel) :
    (c.modChan n f).chan m = if m = n then f (c.chan n) else c.chan m := Tab.get_set _ _ _ _ _

theorem Core.slot_modSlot (c : Core) (n m : Nat) (f : SlotEntry → SlotEntry) :
    (c.modSlot n f).slot m = if m = n then f (c.slot n) else c.slot m := Tab.get_set _ _ _ _ _

/-! ### `Core.setS` -/

@[simp] theorem Core.setS_p (c : Core) (r : Nat) (v : Word) (p : Option Poison) : (c.setS r v p).p = c.p := by unfold Core.setS; split <;> rfl
@[simp] theorem Core.setS_v (c : Core) (r : Nat) (v : Word) (p : Option Poison) : (c.setS r v p).v = c.v := by unfold Core.setS; split <;> rfl
@[simp] theorem Core.setS_vPoi (c : Core) (r : Nat) (v : Word) (p : Option Poison) : (c.setS r v p).vPoi = c.vPoi := by unfold Core.setS; split <;> rfl
@[simp] theorem Core.setS_k (c : Core) (r : Nat) (v : Word) (p : Option Poison) : (c.setS r v p).k = c.k := by unfold Core.setS; split <;> rfl
@[simp] theorem Core.setS_acc (c : Core) (r : Nat) (v : Word) (p : Option Poison) : (c.setS r v p).acc = c.acc := by unfold Core.setS; split <;> rfl
@[simp] theorem Core.setS_accw (c : Core) (r : Nat) (v : Word) (p : Option Poison) : (c.setS r v p).accw = c.accw := by unfold Core.setS; split <;> rfl
@[simp] theorem Core.setS_ovf (c : Core) (r : Nat) (v : Word) (p : Option Poison) : (c.setS r v p).ovf = c.ovf := by unfold Core.setS; split <;> rfl
@[simp] theorem Core.setS_sat (c : Core) (r : Nat) (v : Word) (p : Option Poison) : (c.setS r v p).sat = c.sat := by unfold Core.setS; split <;> rfl
@[simp] theorem Core.setS_mp (c : Core) (r : Nat) (v : Word) (p : Option Poison) : (c.setS r v p).mp = c.mp := by unfold Core.setS; split <;> rfl
@[simp] theorem Core.setS_gix (c : Core) (r : Nat) (v : Word) (p : Option Poison) : (c.setS r v p).gix = c.gix := by unfold Core.setS; split <;> rfl
@[simp] theorem Core.setS_creg (c : Core) (r : Nat) (v : Word) (p : Option Poison) : (c.setS r v p).creg = c.creg := by unfold Core.setS; split <;> rfl
@[simp] theorem Core.setS_routine (c : Core) (r : Nat) (v : Word) (p : Option Poison) : (c.setS r v p).routine = c.routine := by unfold Core.setS; split <;> rfl
@[simp] theorem Core.setS_relSigs (c : Core) (r : Nat) (v : Word) (p : Option Poison) : (c.setS r v p).relSigs = c.relSigs := by unfold Core.setS; split <;> rfl
@[simp] theorem Core.setS_q (c : Core) (r : Nat) (v : Word) (p : Option Poison) : (c.setS r v p).q = c.q := by unfold Core.setS; split <;> rfl
@[simp] theorem Core.setS_qNew (c : Core) (r : Nat) (v : Word) (p : Option Poison) : (c.setS r v p).qNew = c.qNew := by unfold Core.setS; split <;> rfl
@[simp] theorem Core.setS_sem (c : Core) (r : Nat) (v : Word) (p : Option Poison) : (c.setS r v p).sem = c.sem := by unfold Core.setS; split <;> rfl
@[simp] theorem Core.setS_ch (c : Core) (r : Nat) (v : Word) (p : Option Poison) : (c.setS r v p).ch = c.ch := by unfold Core.setS; split <;> rfl
@[simp] theorem Core.setS_nextCmd (c : Core) (r : Nat) (v : Word) (p : Option Poison) : (c.setS r v p).nextCmd = c.nextCmd := by unfold Core.setS; split <;> rfl
@[simp] theorem Core.setS_cpWait (c : Core) (r : Nat) (v : Word) (p : Option Poison) : (c.setS r v p).cpWait = c.cpWait := by unfold Core.setS; split <;> rfl
@[simp] theorem Core.setS_slots (c : Core) (r : Nat) (v : Word) (p : Option Poison) : (c.setS r v p).slots = c.slots := by unfold Core.setS; split <;> rfl
@[simp] theorem Core.setS_scr (c : Core) (r : Nat) (v : Word) (p : Option Poison) : (c.setS r v p).scr = c.scr := by unfold Core.setS; split <;> rfl
@[simp] theorem Core.setS_scrBad (c : Core) (r : Nat) (v : Word) (p : Option Poison) : (c.setS r v p).scrBad = c.scrBad := by unfold Core.setS; split <;> rfl
@[simp] theorem Core.setS_imem (c : Core) (r : Nat) (v : Word) (p : Option Poison) : (c.setS r v p).imem = c.imem := by unfold Core.setS; split <;> rfl
@[simp] theorem Core.setS_imemBad (c : Core) (r : Nat) (v : Word) (p : Option Poison) : (c.setS r v p).imemBad = c.imemBad := by unfold Core.setS; split <;> rfl
@[simp] theorem Core.setS_imgLen (c : Core) (r : Nat) (v : Word) (p : Option Poison) : (c.setS r v p).imgLen = c.imgLen := by unfold Core.setS; split <;> rfl
@[simp] theorem Core.setS_imgProg (c : Core) (r : Nat) (v : Word) (p : Option Poison) : (c.setS r v p).imgProg = c.imgProg := by unfold Core.setS; split <;> rfl
@[simp] theorem Core.setS_hLen (c : Core) (r : Nat) (v : Word) (p : Option Poison) : (c.setS r v p).hLen = c.hLen := by unfold Core.setS; split <;> rfl
@[simp] theorem Core.setS_cmem (c : Core) (r : Nat) (v : Word) (p : Option Poison) : (c.setS r v p).cmem = c.cmem := by unfold Core.setS; split <;> rfl
@[simp] theorem Core.setS_occ (c : Core) (r : Nat) (v : Word) (p : Option Poison) : (c.setS r v p).occ = c.occ := by unfold Core.setS; split <;> rfl
@[simp] theorem Core.setS_store (c : Core) (r : Nat) (v : Word) (p : Option Poison) : (c.setS r v p).store = c.store := by unfold Core.setS; split <;> rfl
@[simp] theorem Core.setS_pc (c : Core) (r : Nat) (v : Word) (p : Option Poison) : (c.setS r v p).pc = c.pc := by unfold Core.setS; split <;> rfl
@[simp] theorem Core.setS_holding (c : Core) (r : Nat) (v : Word) (p : Option Poison) : (c.setS r v p).holding = c.holding := by unfold Core.setS; split <;> rfl
@[simp] theorem Core.setS_holdCond (c : Core) (r : Nat) (v : Word) (p : Option Poison) : (c.setS r v p).holdCond = c.holdCond := by unfold Core.setS; split <;> rfl
@[simp] theorem Core.setS_pend (c : Core) (r : Nat) (v : Word) (p : Option Poison) : (c.setS r v p).pend = c.pend := by unfold Core.setS; split <;> rfl
@[simp] theorem Core.setS_hpend (c : Core) (r : Nat) (v : Word) (p : Option Poison) : (c.setS r v p).hpend = c.hpend := by unfold Core.setS; split <;> rfl
@[simp] theorem Core.setS_loads (c : Core) (r : Nat) (v : Word) (p : Option Poison) : (c.setS r v p).loads = c.loads := by unfold Core.setS; split <;> rfl
@[simp] theorem Core.setS_hloads (c : Core) (r : Nat) (v : Word) (p : Option Poison) : (c.setS r v p).hloads = c.hloads := by unfold Core.setS; split <;> rfl
@[simp] theorem Core.setS_pvec (c : Core) (r : Nat) (v : Word) (p : Option Poison) : (c.setS r v p).pvec = c.pvec := by unfold Core.setS; split <;> rfl
@[simp] theorem Core.setS_issued (c : Core) (r : Nat) (v : Word) (p : Option Poison) : (c.setS r v p).issued = c.issued := by unfold Core.setS; split <;> rfl
@[simp] theorem Core.setS_late (c : Core) (r : Nat) (v : Word) (p : Option Poison) : (c.setS r v p).late = c.late := by unfold Core.setS; split <;> rfl
@[simp] theorem Core.setS_owed (c : Core) (r : Nat) (v : Word) (p : Option Poison) : (c.setS r v p).owed = c.owed := by unfold Core.setS; split <;> rfl
@[simp] theorem Core.setS_zstat (c : Core) (r : Nat) (v : Word) (p : Option Poison) : (c.setS r v p).zstat = c.zstat := by unfold Core.setS; split <;> rfl
@[simp] theorem Core.setS_ssb (c : Core) (r : Nat) (v : Word) (p : Option Poison) : (c.setS r v p).ssb = c.ssb := by unfold Core.setS; split <;> rfl
@[simp] theorem Core.setS_ssbNext (c : Core) (r : Nat) (v : Word) (p : Option Poison) : (c.setS r v p).ssbNext = c.ssbNext := by unfold Core.setS; split <;> rfl
@[simp] theorem Core.setS_charge (c : Core) (r : Nat) (v : Word) (p : Option Poison) : (c.setS r v p).charge = c.charge := by unfold Core.setS; split <;> rfl
@[simp] theorem Core.setS_qaStore (c : Core) (r : Nat) (v : Word) (p : Option Poison) : (c.setS r v p).qaStore = c.qaStore := by unfold Core.setS; split <;> rfl
@[simp] theorem Core.setS_qaLoad (c : Core) (r : Nat) (v : Word) (p : Option Poison) : (c.setS r v p).qaLoad = c.qaLoad := by unfold Core.setS; split <;> rfl
@[simp] theorem Core.setS_loadSeq (c : Core) (r : Nat) (v : Word) (p : Option Poison) : (c.setS r v p).loadSeq = c.loadSeq := by unfold Core.setS; split <;> rfl
@[simp] theorem Core.setS_portNext (c : Core) (r : Nat) (v : Word) (p : Option Poison) : (c.setS r v p).portNext = c.portNext := by unfold Core.setS; split <;> rfl
@[simp] theorem Core.setS_port (c : Core) (r : Nat) (v : Word) (p : Option Poison) : (c.setS r v p).port = c.port := by unfold Core.setS; split <;> rfl
@[simp] theorem Core.setS_seg (c : Core) (r : Nat) (v : Word) (p : Option Poison) : (c.setS r v p).seg = c.seg := by unfold Core.setS; split <;> rfl
@[simp] theorem Core.setS_needSeg (c : Core) (r : Nat) (v : Word) (p : Option Poison) : (c.setS r v p).needSeg = c.needSeg := by unfold Core.setS; split <;> rfl
@[simp] theorem Core.setS_semOps (c : Core) (r : Nat) (v : Word) (p : Option Poison) : (c.setS r v p).semOps = c.semOps := by unfold Core.setS; split <;> rfl
@[simp] theorem Core.setS_fencing (c : Core) (r : Nat) (v : Word) (p : Option Poison) : (c.setS r v p).fencing = c.fencing := by unfold Core.setS; split <;> rfl
@[simp] theorem Core.setS_badStream (c : Core) (r : Nat) (v : Word) (p : Option Poison) : (c.setS r v p).badStream = c.badStream := by unfold Core.setS; split <;> rfl
@[simp] theorem Core.setS_run (c : Core) (r : Nat) (v : Word) (p : Option Poison) : (c.setS r v p).run = c.run := by unfold Core.setS; split <;> rfl
@[simp] theorem Core.setS_task (c : Core) (r : Nat) (v : Word) (p : Option Poison) : (c.setS r v p).task = c.task := by unfold Core.setS; split <;> rfl
@[simp] theorem Core.setS_closing (c : Core) (r : Nat) (v : Word) (p : Option Poison) : (c.setS r v p).closing = c.closing := by unfold Core.setS; split <;> rfl
@[simp] theorem Core.setS_early (c : Core) (r : Nat) (v : Word) (p : Option Poison) : (c.setS r v p).early = c.early := by unfold Core.setS; split <;> rfl
@[simp] theorem Core.setS_freeze (c : Core) (r : Nat) (v : Word) (p : Option Poison) : (c.setS r v p).freeze = c.freeze := by unfold Core.setS; split <;> rfl
@[simp] theorem Core.setS_stopReq (c : Core) (r : Nat) (v : Word) (p : Option Poison) : (c.setS r v p).stopReq = c.stopReq := by unfold Core.setS; split <;> rfl
@[simp] theorem Core.setS_hCount (c : Core) (r : Nat) (v : Word) (p : Option Poison) : (c.setS r v p).hCount = c.hCount := by unfold Core.setS; split <;> rfl
@[simp] theorem Core.setS_mism (c : Core) (r : Nat) (v : Word) (p : Option Poison) : (c.setS r v p).mism = c.mism := by unfold Core.setS; split <;> rfl
@[simp] theorem Core.setS_barHold (c : Core) (r : Nat) (v : Word) (p : Option Poison) : (c.setS r v p).barHold = c.barHold := by unfold Core.setS; split <;> rfl
@[simp] theorem Core.setS_keyHold (c : Core) (r : Nat) (v : Word) (p : Option Poison) : (c.setS r v p).keyHold = c.keyHold := by unfold Core.setS; split <;> rfl
@[simp] theorem Core.setS_tinvHold (c : Core) (r : Nat) (v : Word) (p : Option Poison) : (c.setS r v p).tinvHold = c.tinvHold := by unfold Core.setS; split <;> rfl
@[simp] theorem Core.setS_rplHold (c : Core) (r : Nat) (v : Word) (p : Option Poison) : (c.setS r v p).rplHold = c.rplHold := by unfold Core.setS; split <;> rfl
@[simp] theorem Core.setS_bubble (c : Core) (r : Nat) (v : Word) (p : Option Poison) : (c.setS r v p).bubble = c.bubble := by unfold Core.setS; split <;> rfl
@[simp] theorem Core.setS_wres (c : Core) (r : Nat) (v : Word) (p : Option Poison) : (c.setS r v p).wres = c.wres := by unfold Core.setS; split <;> rfl
@[simp] theorem Core.setS_bus (c : Core) (r : Nat) (v : Word) (p : Option Poison) : (c.setS r v p).bus = c.bus := by unfold Core.setS; split <;> rfl
@[simp] theorem Core.setS_away (c : Core) (r : Nat) (v : Word) (p : Option Poison) : (c.setS r v p).away = c.away := by unfold Core.setS; split <;> rfl
@[simp] theorem Core.setS_again (c : Core) (r : Nat) (v : Word) (p : Option Poison) : (c.setS r v p).again = c.again := by unfold Core.setS; split <;> rfl

/-! ### `Core.setV` -/

@[simp] theorem Core.setV_s (c : Core) (r : Nat) (v : Vec) (p : Option Poison) : (c.setV r v p).s = c.s := rfl
@[simp] theorem Core.setV_sPoi (c : Core) (r : Nat) (v : Vec) (p : Option Poison) : (c.setV r v p).sPoi = c.sPoi := rfl
@[simp] theorem Core.setV_p (c : Core) (r : Nat) (v : Vec) (p : Option Poison) : (c.setV r v p).p = c.p := rfl
@[simp] theorem Core.setV_k (c : Core) (r : Nat) (v : Vec) (p : Option Poison) : (c.setV r v p).k = c.k := rfl
@[simp] theorem Core.setV_acc (c : Core) (r : Nat) (v : Vec) (p : Option Poison) : (c.setV r v p).acc = c.acc := rfl
@[simp] theorem Core.setV_accw (c : Core) (r : Nat) (v : Vec) (p : Option Poison) : (c.setV r v p).accw = c.accw := rfl
@[simp] theorem Core.setV_ovf (c : Core) (r : Nat) (v : Vec) (p : Option Poison) : (c.setV r v p).ovf = c.ovf := rfl
@[simp] theorem Core.setV_sat (c : Core) (r : Nat) (v : Vec) (p : Option Poison) : (c.setV r v p).sat = c.sat := rfl
@[simp] theorem Core.setV_mp (c : Core) (r : Nat) (v : Vec) (p : Option Poison) : (c.setV r v p).mp = c.mp := rfl
@[simp] theorem Core.setV_gix (c : Core) (r : Nat) (v : Vec) (p : Option Poison) : (c.setV r v p).gix = c.gix := rfl
@[simp] theorem Core.setV_creg (c : Core) (r : Nat) (v : Vec) (p : Option Poison) : (c.setV r v p).creg = c.creg := rfl
@[simp] theorem Core.setV_routine (c : Core) (r : Nat) (v : Vec) (p : Option Poison) : (c.setV r v p).routine = c.routine := rfl
@[simp] theorem Core.setV_relSigs (c : Core) (r : Nat) (v : Vec) (p : Option Poison) : (c.setV r v p).relSigs = c.relSigs := rfl
@[simp] theorem Core.setV_q (c : Core) (r : Nat) (v : Vec) (p : Option Poison) : (c.setV r v p).q = c.q := rfl
@[simp] theorem Core.setV_qNew (c : Core) (r : Nat) (v : Vec) (p : Option Poison) : (c.setV r v p).qNew = c.qNew := rfl
@[simp] theorem Core.setV_sem (c : Core) (r : Nat) (v : Vec) (p : Option Poison) : (c.setV r v p).sem = c.sem := rfl
@[simp] theorem Core.setV_ch (c : Core) (r : Nat) (v : Vec) (p : Option Poison) : (c.setV r v p).ch = c.ch := rfl
@[simp] theorem Core.setV_nextCmd (c : Core) (r : Nat) (v : Vec) (p : Option Poison) : (c.setV r v p).nextCmd = c.nextCmd := rfl
@[simp] theorem Core.setV_cpWait (c : Core) (r : Nat) (v : Vec) (p : Option Poison) : (c.setV r v p).cpWait = c.cpWait := rfl
@[simp] theorem Core.setV_slots (c : Core) (r : Nat) (v : Vec) (p : Option Poison) : (c.setV r v p).slots = c.slots := rfl
@[simp] theorem Core.setV_scr (c : Core) (r : Nat) (v : Vec) (p : Option Poison) : (c.setV r v p).scr = c.scr := rfl
@[simp] theorem Core.setV_scrBad (c : Core) (r : Nat) (v : Vec) (p : Option Poison) : (c.setV r v p).scrBad = c.scrBad := rfl
@[simp] theorem Core.setV_imem (c : Core) (r : Nat) (v : Vec) (p : Option Poison) : (c.setV r v p).imem = c.imem := rfl
@[simp] theorem Core.setV_imemBad (c : Core) (r : Nat) (v : Vec) (p : Option Poison) : (c.setV r v p).imemBad = c.imemBad := rfl
@[simp] theorem Core.setV_imgLen (c : Core) (r : Nat) (v : Vec) (p : Option Poison) : (c.setV r v p).imgLen = c.imgLen := rfl
@[simp] theorem Core.setV_imgProg (c : Core) (r : Nat) (v : Vec) (p : Option Poison) : (c.setV r v p).imgProg = c.imgProg := rfl
@[simp] theorem Core.setV_hLen (c : Core) (r : Nat) (v : Vec) (p : Option Poison) : (c.setV r v p).hLen = c.hLen := rfl
@[simp] theorem Core.setV_cmem (c : Core) (r : Nat) (v : Vec) (p : Option Poison) : (c.setV r v p).cmem = c.cmem := rfl
@[simp] theorem Core.setV_occ (c : Core) (r : Nat) (v : Vec) (p : Option Poison) : (c.setV r v p).occ = c.occ := rfl
@[simp] theorem Core.setV_store (c : Core) (r : Nat) (v : Vec) (p : Option Poison) : (c.setV r v p).store = c.store := rfl
@[simp] theorem Core.setV_pc (c : Core) (r : Nat) (v : Vec) (p : Option Poison) : (c.setV r v p).pc = c.pc := rfl
@[simp] theorem Core.setV_holding (c : Core) (r : Nat) (v : Vec) (p : Option Poison) : (c.setV r v p).holding = c.holding := rfl
@[simp] theorem Core.setV_holdCond (c : Core) (r : Nat) (v : Vec) (p : Option Poison) : (c.setV r v p).holdCond = c.holdCond := rfl
@[simp] theorem Core.setV_pend (c : Core) (r : Nat) (v : Vec) (p : Option Poison) : (c.setV r v p).pend = c.pend := rfl
@[simp] theorem Core.setV_hpend (c : Core) (r : Nat) (v : Vec) (p : Option Poison) : (c.setV r v p).hpend = c.hpend := rfl
@[simp] theorem Core.setV_loads (c : Core) (r : Nat) (v : Vec) (p : Option Poison) : (c.setV r v p).loads = c.loads := rfl
@[simp] theorem Core.setV_hloads (c : Core) (r : Nat) (v : Vec) (p : Option Poison) : (c.setV r v p).hloads = c.hloads := rfl
@[simp] theorem Core.setV_pvec (c : Core) (r : Nat) (v : Vec) (p : Option Poison) : (c.setV r v p).pvec = c.pvec := rfl
@[simp] theorem Core.setV_issued (c : Core) (r : Nat) (v : Vec) (p : Option Poison) : (c.setV r v p).issued = c.issued := rfl
@[simp] theorem Core.setV_late (c : Core) (r : Nat) (v : Vec) (p : Option Poison) : (c.setV r v p).late = c.late := rfl
@[simp] theorem Core.setV_owed (c : Core) (r : Nat) (v : Vec) (p : Option Poison) : (c.setV r v p).owed = c.owed := rfl
@[simp] theorem Core.setV_zstat (c : Core) (r : Nat) (v : Vec) (p : Option Poison) : (c.setV r v p).zstat = c.zstat := rfl
@[simp] theorem Core.setV_ssb (c : Core) (r : Nat) (v : Vec) (p : Option Poison) : (c.setV r v p).ssb = c.ssb := rfl
@[simp] theorem Core.setV_ssbNext (c : Core) (r : Nat) (v : Vec) (p : Option Poison) : (c.setV r v p).ssbNext = c.ssbNext := rfl
@[simp] theorem Core.setV_charge (c : Core) (r : Nat) (v : Vec) (p : Option Poison) : (c.setV r v p).charge = c.charge := rfl
@[simp] theorem Core.setV_qaStore (c : Core) (r : Nat) (v : Vec) (p : Option Poison) : (c.setV r v p).qaStore = c.qaStore := rfl
@[simp] theorem Core.setV_qaLoad (c : Core) (r : Nat) (v : Vec) (p : Option Poison) : (c.setV r v p).qaLoad = c.qaLoad := rfl
@[simp] theorem Core.setV_loadSeq (c : Core) (r : Nat) (v : Vec) (p : Option Poison) : (c.setV r v p).loadSeq = c.loadSeq := rfl
@[simp] theorem Core.setV_portNext (c : Core) (r : Nat) (v : Vec) (p : Option Poison) : (c.setV r v p).portNext = c.portNext := rfl
@[simp] theorem Core.setV_port (c : Core) (r : Nat) (v : Vec) (p : Option Poison) : (c.setV r v p).port = c.port := rfl
@[simp] theorem Core.setV_seg (c : Core) (r : Nat) (v : Vec) (p : Option Poison) : (c.setV r v p).seg = c.seg := rfl
@[simp] theorem Core.setV_needSeg (c : Core) (r : Nat) (v : Vec) (p : Option Poison) : (c.setV r v p).needSeg = c.needSeg := rfl
@[simp] theorem Core.setV_semOps (c : Core) (r : Nat) (v : Vec) (p : Option Poison) : (c.setV r v p).semOps = c.semOps := rfl
@[simp] theorem Core.setV_fencing (c : Core) (r : Nat) (v : Vec) (p : Option Poison) : (c.setV r v p).fencing = c.fencing := rfl
@[simp] theorem Core.setV_badStream (c : Core) (r : Nat) (v : Vec) (p : Option Poison) : (c.setV r v p).badStream = c.badStream := rfl
@[simp] theorem Core.setV_run (c : Core) (r : Nat) (v : Vec) (p : Option Poison) : (c.setV r v p).run = c.run := rfl
@[simp] theorem Core.setV_task (c : Core) (r : Nat) (v : Vec) (p : Option Poison) : (c.setV r v p).task = c.task := rfl
@[simp] theorem Core.setV_closing (c : Core) (r : Nat) (v : Vec) (p : Option Poison) : (c.setV r v p).closing = c.closing := rfl
@[simp] theorem Core.setV_early (c : Core) (r : Nat) (v : Vec) (p : Option Poison) : (c.setV r v p).early = c.early := rfl
@[simp] theorem Core.setV_freeze (c : Core) (r : Nat) (v : Vec) (p : Option Poison) : (c.setV r v p).freeze = c.freeze := rfl
@[simp] theorem Core.setV_stopReq (c : Core) (r : Nat) (v : Vec) (p : Option Poison) : (c.setV r v p).stopReq = c.stopReq := rfl
@[simp] theorem Core.setV_hCount (c : Core) (r : Nat) (v : Vec) (p : Option Poison) : (c.setV r v p).hCount = c.hCount := rfl
@[simp] theorem Core.setV_mism (c : Core) (r : Nat) (v : Vec) (p : Option Poison) : (c.setV r v p).mism = c.mism := rfl
@[simp] theorem Core.setV_barHold (c : Core) (r : Nat) (v : Vec) (p : Option Poison) : (c.setV r v p).barHold = c.barHold := rfl
@[simp] theorem Core.setV_keyHold (c : Core) (r : Nat) (v : Vec) (p : Option Poison) : (c.setV r v p).keyHold = c.keyHold := rfl
@[simp] theorem Core.setV_tinvHold (c : Core) (r : Nat) (v : Vec) (p : Option Poison) : (c.setV r v p).tinvHold = c.tinvHold := rfl
@[simp] theorem Core.setV_rplHold (c : Core) (r : Nat) (v : Vec) (p : Option Poison) : (c.setV r v p).rplHold = c.rplHold := rfl
@[simp] theorem Core.setV_bubble (c : Core) (r : Nat) (v : Vec) (p : Option Poison) : (c.setV r v p).bubble = c.bubble := rfl
@[simp] theorem Core.setV_wres (c : Core) (r : Nat) (v : Vec) (p : Option Poison) : (c.setV r v p).wres = c.wres := rfl
@[simp] theorem Core.setV_bus (c : Core) (r : Nat) (v : Vec) (p : Option Poison) : (c.setV r v p).bus = c.bus := rfl
@[simp] theorem Core.setV_away (c : Core) (r : Nat) (v : Vec) (p : Option Poison) : (c.setV r v p).away = c.away := rfl
@[simp] theorem Core.setV_again (c : Core) (r : Nat) (v : Vec) (p : Option Poison) : (c.setV r v p).again = c.again := rfl

/-! ### `Core.setP` -/

@[simp] theorem Core.setP_s (c : Core) (i : Nat) (b : Bool) : (c.setP i b).s = c.s := by unfold Core.setP; split <;> rfl
@[simp] theorem Core.setP_sPoi (c : Core) (i : Nat) (b : Bool) : (c.setP i b).sPoi = c.sPoi := by unfold Core.setP; split <;> rfl
@[simp] theorem Core.setP_v (c : Core) (i : Nat) (b : Bool) : (c.setP i b).v = c.v := by unfold Core.setP; split <;> rfl
@[simp] theorem Core.setP_vPoi (c : Core) (i : Nat) (b : Bool) : (c.setP i b).vPoi = c.vPoi := by unfold Core.setP; split <;> rfl
@[simp] theorem Core.setP_k (c : Core) (i : Nat) (b : Bool) : (c.setP i b).k = c.k := by unfold Core.setP; split <;> rfl
@[simp] theorem Core.setP_acc (c : Core) (i : Nat) (b : Bool) : (c.setP i b).acc = c.acc := by unfold Core.setP; split <;> rfl
@[simp] theorem Core.setP_accw (c : Core) (i : Nat) (b : Bool) : (c.setP i b).accw = c.accw := by unfold Core.setP; split <;> rfl
@[simp] theorem Core.setP_ovf (c : Core) (i : Nat) (b : Bool) : (c.setP i b).ovf = c.ovf := by unfold Core.setP; split <;> rfl
@[simp] theorem Core.setP_sat (c : Core) (i : Nat) (b : Bool) : (c.setP i b).sat = c.sat := by unfold Core.setP; split <;> rfl
@[simp] theorem Core.setP_mp (c : Core) (i : Nat) (b : Bool) : (c.setP i b).mp = c.mp := by unfold Core.setP; split <;> rfl
@[simp] theorem Core.setP_gix (c : Core) (i : Nat) (b : Bool) : (c.setP i b).gix = c.gix := by unfold Core.setP; split <;> rfl
@[simp] theorem Core.setP_creg (c : Core) (i : Nat) (b : Bool) : (c.setP i b).creg = c.creg := by unfold Core.setP; split <;> rfl
@[simp] theorem Core.setP_routine (c : Core) (i : Nat) (b : Bool) : (c.setP i b).routine = c.routine := by unfold Core.setP; split <;> rfl
@[simp] theorem Core.setP_relSigs (c : Core) (i : Nat) (b : Bool) : (c.setP i b).relSigs = c.relSigs := by unfold Core.setP; split <;> rfl
@[simp] theorem Core.setP_q (c : Core) (i : Nat) (b : Bool) : (c.setP i b).q = c.q := by unfold Core.setP; split <;> rfl
@[simp] theorem Core.setP_qNew (c : Core) (i : Nat) (b : Bool) : (c.setP i b).qNew = c.qNew := by unfold Core.setP; split <;> rfl
@[simp] theorem Core.setP_sem (c : Core) (i : Nat) (b : Bool) : (c.setP i b).sem = c.sem := by unfold Core.setP; split <;> rfl
@[simp] theorem Core.setP_ch (c : Core) (i : Nat) (b : Bool) : (c.setP i b).ch = c.ch := by unfold Core.setP; split <;> rfl
@[simp] theorem Core.setP_nextCmd (c : Core) (i : Nat) (b : Bool) : (c.setP i b).nextCmd = c.nextCmd := by unfold Core.setP; split <;> rfl
@[simp] theorem Core.setP_cpWait (c : Core) (i : Nat) (b : Bool) : (c.setP i b).cpWait = c.cpWait := by unfold Core.setP; split <;> rfl
@[simp] theorem Core.setP_slots (c : Core) (i : Nat) (b : Bool) : (c.setP i b).slots = c.slots := by unfold Core.setP; split <;> rfl
@[simp] theorem Core.setP_scr (c : Core) (i : Nat) (b : Bool) : (c.setP i b).scr = c.scr := by unfold Core.setP; split <;> rfl
@[simp] theorem Core.setP_scrBad (c : Core) (i : Nat) (b : Bool) : (c.setP i b).scrBad = c.scrBad := by unfold Core.setP; split <;> rfl
@[simp] theorem Core.setP_imem (c : Core) (i : Nat) (b : Bool) : (c.setP i b).imem = c.imem := by unfold Core.setP; split <;> rfl
@[simp] theorem Core.setP_imemBad (c : Core) (i : Nat) (b : Bool) : (c.setP i b).imemBad = c.imemBad := by unfold Core.setP; split <;> rfl
@[simp] theorem Core.setP_imgLen (c : Core) (i : Nat) (b : Bool) : (c.setP i b).imgLen = c.imgLen := by unfold Core.setP; split <;> rfl
@[simp] theorem Core.setP_imgProg (c : Core) (i : Nat) (b : Bool) : (c.setP i b).imgProg = c.imgProg := by unfold Core.setP; split <;> rfl
@[simp] theorem Core.setP_hLen (c : Core) (i : Nat) (b : Bool) : (c.setP i b).hLen = c.hLen := by unfold Core.setP; split <;> rfl
@[simp] theorem Core.setP_cmem (c : Core) (i : Nat) (b : Bool) : (c.setP i b).cmem = c.cmem := by unfold Core.setP; split <;> rfl
@[simp] theorem Core.setP_occ (c : Core) (i : Nat) (b : Bool) : (c.setP i b).occ = c.occ := by unfold Core.setP; split <;> rfl
@[simp] theorem Core.setP_store (c : Core) (i : Nat) (b : Bool) : (c.setP i b).store = c.store := by unfold Core.setP; split <;> rfl
@[simp] theorem Core.setP_pc (c : Core) (i : Nat) (b : Bool) : (c.setP i b).pc = c.pc := by unfold Core.setP; split <;> rfl
@[simp] theorem Core.setP_holding (c : Core) (i : Nat) (b : Bool) : (c.setP i b).holding = c.holding := by unfold Core.setP; split <;> rfl
@[simp] theorem Core.setP_holdCond (c : Core) (i : Nat) (b : Bool) : (c.setP i b).holdCond = c.holdCond := by unfold Core.setP; split <;> rfl
@[simp] theorem Core.setP_pend (c : Core) (i : Nat) (b : Bool) : (c.setP i b).pend = c.pend := by unfold Core.setP; split <;> rfl
@[simp] theorem Core.setP_hpend (c : Core) (i : Nat) (b : Bool) : (c.setP i b).hpend = c.hpend := by unfold Core.setP; split <;> rfl
@[simp] theorem Core.setP_loads (c : Core) (i : Nat) (b : Bool) : (c.setP i b).loads = c.loads := by unfold Core.setP; split <;> rfl
@[simp] theorem Core.setP_hloads (c : Core) (i : Nat) (b : Bool) : (c.setP i b).hloads = c.hloads := by unfold Core.setP; split <;> rfl
@[simp] theorem Core.setP_pvec (c : Core) (i : Nat) (b : Bool) : (c.setP i b).pvec = c.pvec := by unfold Core.setP; split <;> rfl
@[simp] theorem Core.setP_issued (c : Core) (i : Nat) (b : Bool) : (c.setP i b).issued = c.issued := by unfold Core.setP; split <;> rfl
@[simp] theorem Core.setP_late (c : Core) (i : Nat) (b : Bool) : (c.setP i b).late = c.late := by unfold Core.setP; split <;> rfl
@[simp] theorem Core.setP_owed (c : Core) (i : Nat) (b : Bool) : (c.setP i b).owed = c.owed := by unfold Core.setP; split <;> rfl
@[simp] theorem Core.setP_zstat (c : Core) (i : Nat) (b : Bool) : (c.setP i b).zstat = c.zstat := by unfold Core.setP; split <;> rfl
@[simp] theorem Core.setP_ssb (c : Core) (i : Nat) (b : Bool) : (c.setP i b).ssb = c.ssb := by unfold Core.setP; split <;> rfl
@[simp] theorem Core.setP_ssbNext (c : Core) (i : Nat) (b : Bool) : (c.setP i b).ssbNext = c.ssbNext := by unfold Core.setP; split <;> rfl
@[simp] theorem Core.setP_charge (c : Core) (i : Nat) (b : Bool) : (c.setP i b).charge = c.charge := by unfold Core.setP; split <;> rfl
@[simp] theorem Core.setP_qaStore (c : Core) (i : Nat) (b : Bool) : (c.setP i b).qaStore = c.qaStore := by unfold Core.setP; split <;> rfl
@[simp] theorem Core.setP_qaLoad (c : Core) (i : Nat) (b : Bool) : (c.setP i b).qaLoad = c.qaLoad := by unfold Core.setP; split <;> rfl
@[simp] theorem Core.setP_loadSeq (c : Core) (i : Nat) (b : Bool) : (c.setP i b).loadSeq = c.loadSeq := by unfold Core.setP; split <;> rfl
@[simp] theorem Core.setP_portNext (c : Core) (i : Nat) (b : Bool) : (c.setP i b).portNext = c.portNext := by unfold Core.setP; split <;> rfl
@[simp] theorem Core.setP_port (c : Core) (i : Nat) (b : Bool) : (c.setP i b).port = c.port := by unfold Core.setP; split <;> rfl
@[simp] theorem Core.setP_seg (c : Core) (i : Nat) (b : Bool) : (c.setP i b).seg = c.seg := by unfold Core.setP; split <;> rfl
@[simp] theorem Core.setP_needSeg (c : Core) (i : Nat) (b : Bool) : (c.setP i b).needSeg = c.needSeg := by unfold Core.setP; split <;> rfl
@[simp] theorem Core.setP_semOps (c : Core) (i : Nat) (b : Bool) : (c.setP i b).semOps = c.semOps := by unfold Core.setP; split <;> rfl
@[simp] theorem Core.setP_fencing (c : Core) (i : Nat) (b : Bool) : (c.setP i b).fencing = c.fencing := by unfold Core.setP; split <;> rfl
@[simp] theorem Core.setP_badStream (c : Core) (i : Nat) (b : Bool) : (c.setP i b).badStream = c.badStream := by unfold Core.setP; split <;> rfl
@[simp] theorem Core.setP_run (c : Core) (i : Nat) (b : Bool) : (c.setP i b).run = c.run := by unfold Core.setP; split <;> rfl
@[simp] theorem Core.setP_task (c : Core) (i : Nat) (b : Bool) : (c.setP i b).task = c.task := by unfold Core.setP; split <;> rfl
@[simp] theorem Core.setP_closing (c : Core) (i : Nat) (b : Bool) : (c.setP i b).closing = c.closing := by unfold Core.setP; split <;> rfl
@[simp] theorem Core.setP_early (c : Core) (i : Nat) (b : Bool) : (c.setP i b).early = c.early := by unfold Core.setP; split <;> rfl
@[simp] theorem Core.setP_freeze (c : Core) (i : Nat) (b : Bool) : (c.setP i b).freeze = c.freeze := by unfold Core.setP; split <;> rfl
@[simp] theorem Core.setP_stopReq (c : Core) (i : Nat) (b : Bool) : (c.setP i b).stopReq = c.stopReq := by unfold Core.setP; split <;> rfl
@[simp] theorem Core.setP_hCount (c : Core) (i : Nat) (b : Bool) : (c.setP i b).hCount = c.hCount := by unfold Core.setP; split <;> rfl
@[simp] theorem Core.setP_mism (c : Core) (i : Nat) (b : Bool) : (c.setP i b).mism = c.mism := by unfold Core.setP; split <;> rfl
@[simp] theorem Core.setP_barHold (c : Core) (i : Nat) (b : Bool) : (c.setP i b).barHold = c.barHold := by unfold Core.setP; split <;> rfl
@[simp] theorem Core.setP_keyHold (c : Core) (i : Nat) (b : Bool) : (c.setP i b).keyHold = c.keyHold := by unfold Core.setP; split <;> rfl
@[simp] theorem Core.setP_tinvHold (c : Core) (i : Nat) (b : Bool) : (c.setP i b).tinvHold = c.tinvHold := by unfold Core.setP; split <;> rfl
@[simp] theorem Core.setP_rplHold (c : Core) (i : Nat) (b : Bool) : (c.setP i b).rplHold = c.rplHold := by unfold Core.setP; split <;> rfl
@[simp] theorem Core.setP_bubble (c : Core) (i : Nat) (b : Bool) : (c.setP i b).bubble = c.bubble := by unfold Core.setP; split <;> rfl
@[simp] theorem Core.setP_wres (c : Core) (i : Nat) (b : Bool) : (c.setP i b).wres = c.wres := by unfold Core.setP; split <;> rfl
@[simp] theorem Core.setP_bus (c : Core) (i : Nat) (b : Bool) : (c.setP i b).bus = c.bus := by unfold Core.setP; split <;> rfl
@[simp] theorem Core.setP_away (c : Core) (i : Nat) (b : Bool) : (c.setP i b).away = c.away := by unfold Core.setP; split <;> rfl
@[simp] theorem Core.setP_again (c : Core) (i : Nat) (b : Bool) : (c.setP i b).again = c.again := by unfold Core.setP; split <;> rfl

/-! ### `Core.setK` -/

@[simp] theorem Core.setK_s (c : Core) (i : Nat) (v : Word) : (c.setK i v).s = c.s := by unfold Core.setK; split <;> rfl
@[simp] theorem Core.setK_sPoi (c : Core) (i : Nat) (v : Word) : (c.setK i v).sPoi = c.sPoi := by unfold Core.setK; split <;> rfl
@[simp] theorem Core.setK_p (c : Core) (i : Nat) (v : Word) : (c.setK i v).p = c.p := by unfold Core.setK; split <;> rfl
@[simp] theorem Core.setK_v (c : Core) (i : Nat) (v : Word) : (c.setK i v).v = c.v := by unfold Core.setK; split <;> rfl
@[simp] theorem Core.setK_vPoi (c : Core) (i : Nat) (v : Word) : (c.setK i v).vPoi = c.vPoi := by unfold Core.setK; split <;> rfl
@[simp] theorem Core.setK_acc (c : Core) (i : Nat) (v : Word) : (c.setK i v).acc = c.acc := by unfold Core.setK; split <;> rfl
@[simp] theorem Core.setK_accw (c : Core) (i : Nat) (v : Word) : (c.setK i v).accw = c.accw := by unfold Core.setK; split <;> rfl
@[simp] theorem Core.setK_ovf (c : Core) (i : Nat) (v : Word) : (c.setK i v).ovf = c.ovf := by unfold Core.setK; split <;> rfl
@[simp] theorem Core.setK_sat (c : Core) (i : Nat) (v : Word) : (c.setK i v).sat = c.sat := by unfold Core.setK; split <;> rfl
@[simp] theorem Core.setK_mp (c : Core) (i : Nat) (v : Word) : (c.setK i v).mp = c.mp := by unfold Core.setK; split <;> rfl
@[simp] theorem Core.setK_gix (c : Core) (i : Nat) (v : Word) : (c.setK i v).gix = c.gix := by unfold Core.setK; split <;> rfl
@[simp] theorem Core.setK_creg (c : Core) (i : Nat) (v : Word) : (c.setK i v).creg = c.creg := by unfold Core.setK; split <;> rfl
@[simp] theorem Core.setK_routine (c : Core) (i : Nat) (v : Word) : (c.setK i v).routine = c.routine := by unfold Core.setK; split <;> rfl
@[simp] theorem Core.setK_relSigs (c : Core) (i : Nat) (v : Word) : (c.setK i v).relSigs = c.relSigs := by unfold Core.setK; split <;> rfl
@[simp] theorem Core.setK_q (c : Core) (i : Nat) (v : Word) : (c.setK i v).q = c.q := by unfold Core.setK; split <;> rfl
@[simp] theorem Core.setK_qNew (c : Core) (i : Nat) (v : Word) : (c.setK i v).qNew = c.qNew := by unfold Core.setK; split <;> rfl
@[simp] theorem Core.setK_sem (c : Core) (i : Nat) (v : Word) : (c.setK i v).sem = c.sem := by unfold Core.setK; split <;> rfl
@[simp] theorem Core.setK_ch (c : Core) (i : Nat) (v : Word) : (c.setK i v).ch = c.ch := by unfold Core.setK; split <;> rfl
@[simp] theorem Core.setK_nextCmd (c : Core) (i : Nat) (v : Word) : (c.setK i v).nextCmd = c.nextCmd := by unfold Core.setK; split <;> rfl
@[simp] theorem Core.setK_cpWait (c : Core) (i : Nat) (v : Word) : (c.setK i v).cpWait = c.cpWait := by unfold Core.setK; split <;> rfl
@[simp] theorem Core.setK_slots (c : Core) (i : Nat) (v : Word) : (c.setK i v).slots = c.slots := by unfold Core.setK; split <;> rfl
@[simp] theorem Core.setK_scr (c : Core) (i : Nat) (v : Word) : (c.setK i v).scr = c.scr := by unfold Core.setK; split <;> rfl
@[simp] theorem Core.setK_scrBad (c : Core) (i : Nat) (v : Word) : (c.setK i v).scrBad = c.scrBad := by unfold Core.setK; split <;> rfl
@[simp] theorem Core.setK_imem (c : Core) (i : Nat) (v : Word) : (c.setK i v).imem = c.imem := by unfold Core.setK; split <;> rfl
@[simp] theorem Core.setK_imemBad (c : Core) (i : Nat) (v : Word) : (c.setK i v).imemBad = c.imemBad := by unfold Core.setK; split <;> rfl
@[simp] theorem Core.setK_imgLen (c : Core) (i : Nat) (v : Word) : (c.setK i v).imgLen = c.imgLen := by unfold Core.setK; split <;> rfl
@[simp] theorem Core.setK_imgProg (c : Core) (i : Nat) (v : Word) : (c.setK i v).imgProg = c.imgProg := by unfold Core.setK; split <;> rfl
@[simp] theorem Core.setK_hLen (c : Core) (i : Nat) (v : Word) : (c.setK i v).hLen = c.hLen := by unfold Core.setK; split <;> rfl
@[simp] theorem Core.setK_cmem (c : Core) (i : Nat) (v : Word) : (c.setK i v).cmem = c.cmem := by unfold Core.setK; split <;> rfl
@[simp] theorem Core.setK_occ (c : Core) (i : Nat) (v : Word) : (c.setK i v).occ = c.occ := by unfold Core.setK; split <;> rfl
@[simp] theorem Core.setK_store (c : Core) (i : Nat) (v : Word) : (c.setK i v).store = c.store := by unfold Core.setK; split <;> rfl
@[simp] theorem Core.setK_pc (c : Core) (i : Nat) (v : Word) : (c.setK i v).pc = c.pc := by unfold Core.setK; split <;> rfl
@[simp] theorem Core.setK_holding (c : Core) (i : Nat) (v : Word) : (c.setK i v).holding = c.holding := by unfold Core.setK; split <;> rfl
@[simp] theorem Core.setK_holdCond (c : Core) (i : Nat) (v : Word) : (c.setK i v).holdCond = c.holdCond := by unfold Core.setK; split <;> rfl
@[simp] theorem Core.setK_pend (c : Core) (i : Nat) (v : Word) : (c.setK i v).pend = c.pend := by unfold Core.setK; split <;> rfl
@[simp] theorem Core.setK_hpend (c : Core) (i : Nat) (v : Word) : (c.setK i v).hpend = c.hpend := by unfold Core.setK; split <;> rfl
@[simp] theorem Core.setK_loads (c : Core) (i : Nat) (v : Word) : (c.setK i v).loads = c.loads := by unfold Core.setK; split <;> rfl
@[simp] theorem Core.setK_hloads (c : Core) (i : Nat) (v : Word) : (c.setK i v).hloads = c.hloads := by unfold Core.setK; split <;> rfl
@[simp] theorem Core.setK_pvec (c : Core) (i : Nat) (v : Word) : (c.setK i v).pvec = c.pvec := by unfold Core.setK; split <;> rfl
@[simp] theorem Core.setK_issued (c : Core) (i : Nat) (v : Word) : (c.setK i v).issued = c.issued := by unfold Core.setK; split <;> rfl
@[simp] theorem Core.setK_late (c : Core) (i : Nat) (v : Word) : (c.setK i v).late = c.late := by unfold Core.setK; split <;> rfl
@[simp] theorem Core.setK_owed (c : Core) (i : Nat) (v : Word) : (c.setK i v).owed = c.owed := by unfold Core.setK; split <;> rfl
@[simp] theorem Core.setK_zstat (c : Core) (i : Nat) (v : Word) : (c.setK i v).zstat = c.zstat := by unfold Core.setK; split <;> rfl
@[simp] theorem Core.setK_ssb (c : Core) (i : Nat) (v : Word) : (c.setK i v).ssb = c.ssb := by unfold Core.setK; split <;> rfl
@[simp] theorem Core.setK_ssbNext (c : Core) (i : Nat) (v : Word) : (c.setK i v).ssbNext = c.ssbNext := by unfold Core.setK; split <;> rfl
@[simp] theorem Core.setK_charge (c : Core) (i : Nat) (v : Word) : (c.setK i v).charge = c.charge := by unfold Core.setK; split <;> rfl
@[simp] theorem Core.setK_qaStore (c : Core) (i : Nat) (v : Word) : (c.setK i v).qaStore = c.qaStore := by unfold Core.setK; split <;> rfl
@[simp] theorem Core.setK_qaLoad (c : Core) (i : Nat) (v : Word) : (c.setK i v).qaLoad = c.qaLoad := by unfold Core.setK; split <;> rfl
@[simp] theorem Core.setK_loadSeq (c : Core) (i : Nat) (v : Word) : (c.setK i v).loadSeq = c.loadSeq := by unfold Core.setK; split <;> rfl
@[simp] theorem Core.setK_portNext (c : Core) (i : Nat) (v : Word) : (c.setK i v).portNext = c.portNext := by unfold Core.setK; split <;> rfl
@[simp] theorem Core.setK_port (c : Core) (i : Nat) (v : Word) : (c.setK i v).port = c.port := by unfold Core.setK; split <;> rfl
@[simp] theorem Core.setK_seg (c : Core) (i : Nat) (v : Word) : (c.setK i v).seg = c.seg := by unfold Core.setK; split <;> rfl
@[simp] theorem Core.setK_needSeg (c : Core) (i : Nat) (v : Word) : (c.setK i v).needSeg = c.needSeg := by unfold Core.setK; split <;> rfl
@[simp] theorem Core.setK_semOps (c : Core) (i : Nat) (v : Word) : (c.setK i v).semOps = c.semOps := by unfold Core.setK; split <;> rfl
@[simp] theorem Core.setK_fencing (c : Core) (i : Nat) (v : Word) : (c.setK i v).fencing = c.fencing := by unfold Core.setK; split <;> rfl
@[simp] theorem Core.setK_badStream (c : Core) (i : Nat) (v : Word) : (c.setK i v).badStream = c.badStream := by unfold Core.setK; split <;> rfl
@[simp] theorem Core.setK_run (c : Core) (i : Nat) (v : Word) : (c.setK i v).run = c.run := by unfold Core.setK; split <;> rfl
@[simp] theorem Core.setK_task (c : Core) (i : Nat) (v : Word) : (c.setK i v).task = c.task := by unfold Core.setK; split <;> rfl
@[simp] theorem Core.setK_closing (c : Core) (i : Nat) (v : Word) : (c.setK i v).closing = c.closing := by unfold Core.setK; split <;> rfl
@[simp] theorem Core.setK_early (c : Core) (i : Nat) (v : Word) : (c.setK i v).early = c.early := by unfold Core.setK; split <;> rfl
@[simp] theorem Core.setK_freeze (c : Core) (i : Nat) (v : Word) : (c.setK i v).freeze = c.freeze := by unfold Core.setK; split <;> rfl
@[simp] theorem Core.setK_stopReq (c : Core) (i : Nat) (v : Word) : (c.setK i v).stopReq = c.stopReq := by unfold Core.setK; split <;> rfl
@[simp] theorem Core.setK_hCount (c : Core) (i : Nat) (v : Word) : (c.setK i v).hCount = c.hCount := by unfold Core.setK; split <;> rfl
@[simp] theorem Core.setK_mism (c : Core) (i : Nat) (v : Word) : (c.setK i v).mism = c.mism := by unfold Core.setK; split <;> rfl
@[simp] theorem Core.setK_barHold (c : Core) (i : Nat) (v : Word) : (c.setK i v).barHold = c.barHold := by unfold Core.setK; split <;> rfl
@[simp] theorem Core.setK_keyHold (c : Core) (i : Nat) (v : Word) : (c.setK i v).keyHold = c.keyHold := by unfold Core.setK; split <;> rfl
@[simp] theorem Core.setK_tinvHold (c : Core) (i : Nat) (v : Word) : (c.setK i v).tinvHold = c.tinvHold := by unfold Core.setK; split <;> rfl
@[simp] theorem Core.setK_rplHold (c : Core) (i : Nat) (v : Word) : (c.setK i v).rplHold = c.rplHold := by unfold Core.setK; split <;> rfl
@[simp] theorem Core.setK_bubble (c : Core) (i : Nat) (v : Word) : (c.setK i v).bubble = c.bubble := by unfold Core.setK; split <;> rfl
@[simp] theorem Core.setK_wres (c : Core) (i : Nat) (v : Word) : (c.setK i v).wres = c.wres := by unfold Core.setK; split <;> rfl
@[simp] theorem Core.setK_bus (c : Core) (i : Nat) (v : Word) : (c.setK i v).bus = c.bus := by unfold Core.setK; split <;> rfl
@[simp] theorem Core.setK_away (c : Core) (i : Nat) (v : Word) : (c.setK i v).away = c.away := by unfold Core.setK; split <;> rfl
@[simp] theorem Core.setK_again (c : Core) (i : Nat) (v : Word) : (c.setK i v).again = c.again := by unfold Core.setK; split <;> rfl

/-! ### `Core.setCr` -/

@[simp] theorem Core.setCr_s (c : Core) (a : Nat) (v : Word) : (c.setCr a v).s = c.s := rfl
@[simp] theorem Core.setCr_sPoi (c : Core) (a : Nat) (v : Word) : (c.setCr a v).sPoi = c.sPoi := rfl
@[simp] theorem Core.setCr_p (c : Core) (a : Nat) (v : Word) : (c.setCr a v).p = c.p := rfl
@[simp] theorem Core.setCr_v (c : Core) (a : Nat) (v : Word) : (c.setCr a v).v = c.v := rfl
@[simp] theorem Core.setCr_vPoi (c : Core) (a : Nat) (v : Word) : (c.setCr a v).vPoi = c.vPoi := rfl
@[simp] theorem Core.setCr_k (c : Core) (a : Nat) (v : Word) : (c.setCr a v).k = c.k := rfl
@[simp] theorem Core.setCr_acc (c : Core) (a : Nat) (v : Word) : (c.setCr a v).acc = c.acc := rfl
@[simp] theorem Core.setCr_accw (c : Core) (a : Nat) (v : Word) : (c.setCr a v).accw = c.accw := rfl
@[simp] theorem Core.setCr_ovf (c : Core) (a : Nat) (v : Word) : (c.setCr a v).ovf = c.ovf := rfl
@[simp] theorem Core.setCr_sat (c : Core) (a : Nat) (v : Word) : (c.setCr a v).sat = c.sat := rfl
@[simp] theorem Core.setCr_mp (c : Core) (a : Nat) (v : Word) : (c.setCr a v).mp = c.mp := rfl
@[simp] theorem Core.setCr_gix (c : Core) (a : Nat) (v : Word) : (c.setCr a v).gix = c.gix := rfl
@[simp] theorem Core.setCr_routine (c : Core) (a : Nat) (v : Word) : (c.setCr a v).routine = c.routine := rfl
@[simp] theorem Core.setCr_relSigs (c : Core) (a : Nat) (v : Word) : (c.setCr a v).relSigs = c.relSigs := rfl
@[simp] theorem Core.setCr_q (c : Core) (a : Nat) (v : Word) : (c.setCr a v).q = c.q := rfl
@[simp] theorem Core.setCr_qNew (c : Core) (a : Nat) (v : Word) : (c.setCr a v).qNew = c.qNew := rfl
@[simp] theorem Core.setCr_sem (c : Core) (a : Nat) (v : Word) : (c.setCr a v).sem = c.sem := rfl
@[simp] theorem Core.setCr_ch (c : Core) (a : Nat) (v : Word) : (c.setCr a v).ch = c.ch := rfl
@[simp] theorem Core.setCr_nextCmd (c : Core) (a : Nat) (v : Word) : (c.setCr a v).nextCmd = c.nextCmd := rfl
@[simp] theorem Core.setCr_cpWait (c : Core) (a : Nat) (v : Word) : (c.setCr a v).cpWait = c.cpWait := rfl
@[simp] theorem Core.setCr_slots (c : Core) (a : Nat) (v : Word) : (c.setCr a v).slots = c.slots := rfl
@[simp] theorem Core.setCr_scr (c : Core) (a : Nat) (v : Word) : (c.setCr a v).scr = c.scr := rfl
@[simp] theorem Core.setCr_scrBad (c : Core) (a : Nat) (v : Word) : (c.setCr a v).scrBad = c.scrBad := rfl
@[simp] theorem Core.setCr_imem (c : Core) (a : Nat) (v : Word) : (c.setCr a v).imem = c.imem := rfl
@[simp] theorem Core.setCr_imemBad (c : Core) (a : Nat) (v : Word) : (c.setCr a v).imemBad = c.imemBad := rfl
@[simp] theorem Core.setCr_imgLen (c : Core) (a : Nat) (v : Word) : (c.setCr a v).imgLen = c.imgLen := rfl
@[simp] theorem Core.setCr_imgProg (c : Core) (a : Nat) (v : Word) : (c.setCr a v).imgProg = c.imgProg := rfl
@[simp] theorem Core.setCr_hLen (c : Core) (a : Nat) (v : Word) : (c.setCr a v).hLen = c.hLen := rfl
@[simp] theorem Core.setCr_cmem (c : Core) (a : Nat) (v : Word) : (c.setCr a v).cmem = c.cmem := rfl
@[simp] theorem Core.setCr_occ (c : Core) (a : Nat) (v : Word) : (c.setCr a v).occ = c.occ := rfl
@[simp] theorem Core.setCr_store (c : Core) (a : Nat) (v : Word) : (c.setCr a v).store = c.store := rfl
@[simp] theorem Core.setCr_pc (c : Core) (a : Nat) (v : Word) : (c.setCr a v).pc = c.pc := rfl
@[simp] theorem Core.setCr_holding (c : Core) (a : Nat) (v : Word) : (c.setCr a v).holding = c.holding := rfl
@[simp] theorem Core.setCr_holdCond (c : Core) (a : Nat) (v : Word) : (c.setCr a v).holdCond = c.holdCond := rfl
@[simp] theorem Core.setCr_pend (c : Core) (a : Nat) (v : Word) : (c.setCr a v).pend = c.pend := rfl
@[simp] theorem Core.setCr_hpend (c : Core) (a : Nat) (v : Word) : (c.setCr a v).hpend = c.hpend := rfl
@[simp] theorem Core.setCr_loads (c : Core) (a : Nat) (v : Word) : (c.setCr a v).loads = c.loads := rfl
@[simp] theorem Core.setCr_hloads (c : Core) (a : Nat) (v : Word) : (c.setCr a v).hloads = c.hloads := rfl
@[simp] theorem Core.setCr_pvec (c : Core) (a : Nat) (v : Word) : (c.setCr a v).pvec = c.pvec := rfl
@[simp] theorem Core.setCr_issued (c : Core) (a : Nat) (v : Word) : (c.setCr a v).issued = c.issued := rfl
@[simp] theorem Core.setCr_late (c : Core) (a : Nat) (v : Word) : (c.setCr a v).late = c.late := rfl
@[simp] theorem Core.setCr_owed (c : Core) (a : Nat) (v : Word) : (c.setCr a v).owed = c.owed := rfl
@[simp] theorem Core.setCr_zstat (c : Core) (a : Nat) (v : Word) : (c.setCr a v).zstat = c.zstat := rfl
@[simp] theorem Core.setCr_ssb (c : Core) (a : Nat) (v : Word) : (c.setCr a v).ssb = c.ssb := rfl
@[simp] theorem Core.setCr_ssbNext (c : Core) (a : Nat) (v : Word) : (c.setCr a v).ssbNext = c.ssbNext := rfl
@[simp] theorem Core.setCr_charge (c : Core) (a : Nat) (v : Word) : (c.setCr a v).charge = c.charge := rfl
@[simp] theorem Core.setCr_qaStore (c : Core) (a : Nat) (v : Word) : (c.setCr a v).qaStore = c.qaStore := rfl
@[simp] theorem Core.setCr_qaLoad (c : Core) (a : Nat) (v : Word) : (c.setCr a v).qaLoad = c.qaLoad := rfl
@[simp] theorem Core.setCr_loadSeq (c : Core) (a : Nat) (v : Word) : (c.setCr a v).loadSeq = c.loadSeq := rfl
@[simp] theorem Core.setCr_portNext (c : Core) (a : Nat) (v : Word) : (c.setCr a v).portNext = c.portNext := rfl
@[simp] theorem Core.setCr_port (c : Core) (a : Nat) (v : Word) : (c.setCr a v).port = c.port := rfl
@[simp] theorem Core.setCr_seg (c : Core) (a : Nat) (v : Word) : (c.setCr a v).seg = c.seg := rfl
@[simp] theorem Core.setCr_needSeg (c : Core) (a : Nat) (v : Word) : (c.setCr a v).needSeg = c.needSeg := rfl
@[simp] theorem Core.setCr_semOps (c : Core) (a : Nat) (v : Word) : (c.setCr a v).semOps = c.semOps := rfl
@[simp] theorem Core.setCr_fencing (c : Core) (a : Nat) (v : Word) : (c.setCr a v).fencing = c.fencing := rfl
@[simp] theorem Core.setCr_badStream (c : Core) (a : Nat) (v : Word) : (c.setCr a v).badStream = c.badStream := rfl
@[simp] theorem Core.setCr_run (c : Core) (a : Nat) (v : Word) : (c.setCr a v).run = c.run := rfl
@[simp] theorem Core.setCr_task (c : Core) (a : Nat) (v : Word) : (c.setCr a v).task = c.task := rfl
@[simp] theorem Core.setCr_closing (c : Core) (a : Nat) (v : Word) : (c.setCr a v).closing = c.closing := rfl
@[simp] theorem Core.setCr_early (c : Core) (a : Nat) (v : Word) : (c.setCr a v).early = c.early := rfl
@[simp] theorem Core.setCr_freeze (c : Core) (a : Nat) (v : Word) : (c.setCr a v).freeze = c.freeze := rfl
@[simp] theorem Core.setCr_stopReq (c : Core) (a : Nat) (v : Word) : (c.setCr a v).stopReq = c.stopReq := rfl
@[simp] theorem Core.setCr_hCount (c : Core) (a : Nat) (v : Word) : (c.setCr a v).hCount = c.hCount := rfl
@[simp] theorem Core.setCr_mism (c : Core) (a : Nat) (v : Word) : (c.setCr a v).mism = c.mism := rfl
@[simp] theorem Core.setCr_barHold (c : Core) (a : Nat) (v : Word) : (c.setCr a v).barHold = c.barHold := rfl
@[simp] theorem Core.setCr_keyHold (c : Core) (a : Nat) (v : Word) : (c.setCr a v).keyHold = c.keyHold := rfl
@[simp] theorem Core.setCr_tinvHold (c : Core) (a : Nat) (v : Word) : (c.setCr a v).tinvHold = c.tinvHold := rfl
@[simp] theorem Core.setCr_rplHold (c : Core) (a : Nat) (v : Word) : (c.setCr a v).rplHold = c.rplHold := rfl
@[simp] theorem Core.setCr_bubble (c : Core) (a : Nat) (v : Word) : (c.setCr a v).bubble = c.bubble := rfl
@[simp] theorem Core.setCr_wres (c : Core) (a : Nat) (v : Word) : (c.setCr a v).wres = c.wres := rfl
@[simp] theorem Core.setCr_bus (c : Core) (a : Nat) (v : Word) : (c.setCr a v).bus = c.bus := rfl
@[simp] theorem Core.setCr_away (c : Core) (a : Nat) (v : Word) : (c.setCr a v).away = c.away := rfl
@[simp] theorem Core.setCr_again (c : Core) (a : Nat) (v : Word) : (c.setCr a v).again = c.again := rfl

/-! ### `Core.modSema` -/

@[simp] theorem Core.modSema_s (c : Core) (n : Nat) (f : Sema → Sema) : (c.modSema n f).s = c.s := rfl
@[simp] theorem Core.modSema_sPoi (c : Core) (n : Nat) (f : Sema → Sema) : (c.modSema n f).sPoi = c.sPoi := rfl
@[simp] theorem Core.modSema_p (c : Core) (n : Nat) (f : Sema → Sema) : (c.modSema n f).p = c.p := rfl
@[simp] theorem Core.modSema_v (c : Core) (n : Nat) (f : Sema → Sema) : (c.modSema n f).v = c.v := rfl
@[simp] theorem Core.modSema_vPoi (c : Core) (n : Nat) (f : Sema → Sema) : (c.modSema n f).vPoi = c.vPoi := rfl
@[simp] theorem Core.modSema_k (c : Core) (n : Nat) (f : Sema → Sema) : (c.modSema n f).k = c.k := rfl
@[simp] theorem Core.modSema_acc (c : Core) (n : Nat) (f : Sema → Sema) : (c.modSema n f).acc = c.acc := rfl
@[simp] theorem Core.modSema_accw (c : Core) (n : Nat) (f : Sema → Sema) : (c.modSema n f).accw = c.accw := rfl
@[simp] theorem Core.modSema_ovf (c : Core) (n : Nat) (f : Sema → Sema) : (c.modSema n f).ovf = c.ovf := rfl
@[simp] theorem Core.modSema_sat (c : Core) (n : Nat) (f : Sema → Sema) : (c.modSema n f).sat = c.sat := rfl
@[simp] theorem Core.modSema_mp (c : Core) (n : Nat) (f : Sema → Sema) : (c.modSema n f).mp = c.mp := rfl
@[simp] theorem Core.modSema_gix (c : Core) (n : Nat) (f : Sema → Sema) : (c.modSema n f).gix = c.gix := rfl
@[simp] theorem Core.modSema_bad (c : Core) (n : Nat) (f : Sema → Sema) : (c.modSema n f).bad = c.bad := rfl
@[simp] theorem Core.modSema_creg (c : Core) (n : Nat) (f : Sema → Sema) : (c.modSema n f).creg = c.creg := rfl
@[simp] theorem Core.modSema_routine (c : Core) (n : Nat) (f : Sema → Sema) : (c.modSema n f).routine = c.routine := rfl
@[simp] theorem Core.modSema_relSigs (c : Core) (n : Nat) (f : Sema → Sema) : (c.modSema n f).relSigs = c.relSigs := rfl
@[simp] theorem Core.modSema_q (c : Core) (n : Nat) (f : Sema → Sema) : (c.modSema n f).q = c.q := rfl
@[simp] theorem Core.modSema_qNew (c : Core) (n : Nat) (f : Sema → Sema) : (c.modSema n f).qNew = c.qNew := rfl
@[simp] theorem Core.modSema_ch (c : Core) (n : Nat) (f : Sema → Sema) : (c.modSema n f).ch = c.ch := rfl
@[simp] theorem Core.modSema_nextCmd (c : Core) (n : Nat) (f : Sema → Sema) : (c.modSema n f).nextCmd = c.nextCmd := rfl
@[simp] theorem Core.modSema_cpWait (c : Core) (n : Nat) (f : Sema → Sema) : (c.modSema n f).cpWait = c.cpWait := rfl
@[simp] theorem Core.modSema_slots (c : Core) (n : Nat) (f : Sema → Sema) : (c.modSema n f).slots = c.slots := rfl
@[simp] theorem Core.modSema_scr (c : Core) (n : Nat) (f : Sema → Sema) : (c.modSema n f).scr = c.scr := rfl
@[simp] theorem Core.modSema_scrBad (c : Core) (n : Nat) (f : Sema → Sema) : (c.modSema n f).scrBad = c.scrBad := rfl
@[simp] theorem Core.modSema_imem (c : Core) (n : Nat) (f : Sema → Sema) : (c.modSema n f).imem = c.imem := rfl
@[simp] theorem Core.modSema_imemBad (c : Core) (n : Nat) (f : Sema → Sema) : (c.modSema n f).imemBad = c.imemBad := rfl
@[simp] theorem Core.modSema_imgLen (c : Core) (n : Nat) (f : Sema → Sema) : (c.modSema n f).imgLen = c.imgLen := rfl
@[simp] theorem Core.modSema_imgProg (c : Core) (n : Nat) (f : Sema → Sema) : (c.modSema n f).imgProg = c.imgProg := rfl
@[simp] theorem Core.modSema_hLen (c : Core) (n : Nat) (f : Sema → Sema) : (c.modSema n f).hLen = c.hLen := rfl
@[simp] theorem Core.modSema_cmem (c : Core) (n : Nat) (f : Sema → Sema) : (c.modSema n f).cmem = c.cmem := rfl
@[simp] theorem Core.modSema_occ (c : Core) (n : Nat) (f : Sema → Sema) : (c.modSema n f).occ = c.occ := rfl
@[simp] theorem Core.modSema_store (c : Core) (n : Nat) (f : Sema → Sema) : (c.modSema n f).store = c.store := rfl
@[simp] theorem Core.modSema_pc (c : Core) (n : Nat) (f : Sema → Sema) : (c.modSema n f).pc = c.pc := rfl
@[simp] theorem Core.modSema_holding (c : Core) (n : Nat) (f : Sema → Sema) : (c.modSema n f).holding = c.holding := rfl
@[simp] theorem Core.modSema_holdCond (c : Core) (n : Nat) (f : Sema → Sema) : (c.modSema n f).holdCond = c.holdCond := rfl
@[simp] theorem Core.modSema_pend (c : Core) (n : Nat) (f : Sema → Sema) : (c.modSema n f).pend = c.pend := rfl
@[simp] theorem Core.modSema_hpend (c : Core) (n : Nat) (f : Sema → Sema) : (c.modSema n f).hpend = c.hpend := rfl
@[simp] theorem Core.modSema_loads (c : Core) (n : Nat) (f : Sema → Sema) : (c.modSema n f).loads = c.loads := rfl
@[simp] theorem Core.modSema_hloads (c : Core) (n : Nat) (f : Sema → Sema) : (c.modSema n f).hloads = c.hloads := rfl
@[simp] theorem Core.modSema_pvec (c : Core) (n : Nat) (f : Sema → Sema) : (c.modSema n f).pvec = c.pvec := rfl
@[simp] theorem Core.modSema_issued (c : Core) (n : Nat) (f : Sema → Sema) : (c.modSema n f).issued = c.issued := rfl
@[simp] theorem Core.modSema_late (c : Core) (n : Nat) (f : Sema → Sema) : (c.modSema n f).late = c.late := rfl
@[simp] theorem Core.modSema_owed (c : Core) (n : Nat) (f : Sema → Sema) : (c.modSema n f).owed = c.owed := rfl
@[simp] theorem Core.modSema_zstat (c : Core) (n : Nat) (f : Sema → Sema) : (c.modSema n f).zstat = c.zstat := rfl
@[simp] theorem Core.modSema_ssb (c : Core) (n : Nat) (f : Sema → Sema) : (c.modSema n f).ssb = c.ssb := rfl
@[simp] theorem Core.modSema_ssbNext (c : Core) (n : Nat) (f : Sema → Sema) : (c.modSema n f).ssbNext = c.ssbNext := rfl
@[simp] theorem Core.modSema_charge (c : Core) (n : Nat) (f : Sema → Sema) : (c.modSema n f).charge = c.charge := rfl
@[simp] theorem Core.modSema_qaStore (c : Core) (n : Nat) (f : Sema → Sema) : (c.modSema n f).qaStore = c.qaStore := rfl
@[simp] theorem Core.modSema_qaLoad (c : Core) (n : Nat) (f : Sema → Sema) : (c.modSema n f).qaLoad = c.qaLoad := rfl
@[simp] theorem Core.modSema_loadSeq (c : Core) (n : Nat) (f : Sema → Sema) : (c.modSema n f).loadSeq = c.loadSeq := rfl
@[simp] theorem Core.modSema_portNext (c : Core) (n : Nat) (f : Sema → Sema) : (c.modSema n f).portNext = c.portNext := rfl
@[simp] theorem Core.modSema_port (c : Core) (n : Nat) (f : Sema → Sema) : (c.modSema n f).port = c.port := rfl
@[simp] theorem Core.modSema_seg (c : Core) (n : Nat) (f : Sema → Sema) : (c.modSema n f).seg = c.seg := rfl
@[simp] theorem Core.modSema_needSeg (c : Core) (n : Nat) (f : Sema → Sema) : (c.modSema n f).needSeg = c.needSeg := rfl
@[simp] theorem Core.modSema_semOps (c : Core) (n : Nat) (f : Sema → Sema) : (c.modSema n f).semOps = c.semOps := rfl
@[simp] theorem Core.modSema_fencing (c : Core) (n : Nat) (f : Sema → Sema) : (c.modSema n f).fencing = c.fencing := rfl
@[simp] theorem Core.modSema_badStream (c : Core) (n : Nat) (f : Sema → Sema) : (c.modSema n f).badStream = c.badStream := rfl
@[simp] theorem Core.modSema_run (c : Core) (n : Nat) (f : Sema → Sema) : (c.modSema n f).run = c.run := rfl
@[simp] theorem Core.modSema_task (c : Core) (n : Nat) (f : Sema → Sema) : (c.modSema n f).task = c.task := rfl
@[simp] theorem Core.modSema_closing (c : Core) (n : Nat) (f : Sema → Sema) : (c.modSema n f).closing = c.closing := rfl
@[simp] theorem Core.modSema_early (c : Core) (n : Nat) (f : Sema → Sema) : (c.modSema n f).early = c.early := rfl
@[simp] theorem Core.modSema_freeze (c : Core) (n : Nat) (f : Sema → Sema) : (c.modSema n f).freeze = c.freeze := rfl
@[simp] theorem Core.modSema_stopReq (c : Core) (n : Nat) (f : Sema → Sema) : (c.modSema n f).stopReq = c.stopReq := rfl
@[simp] theorem Core.modSema_hCount (c : Core) (n : Nat) (f : Sema → Sema) : (c.modSema n f).hCount = c.hCount := rfl
@[simp] theorem Core.modSema_mism (c : Core) (n : Nat) (f : Sema → Sema) : (c.modSema n f).mism = c.mism := rfl
@[simp] theorem Core.modSema_barHold (c : Core) (n : Nat) (f : Sema → Sema) : (c.modSema n f).barHold = c.barHold := rfl
@[simp] theorem Core.modSema_keyHold (c : Core) (n : Nat) (f : Sema → Sema) : (c.modSema n f).keyHold = c.keyHold := rfl
@[simp] theorem Core.modSema_tinvHold (c : Core) (n : Nat) (f : Sema → Sema) : (c.modSema n f).tinvHold = c.tinvHold := rfl
@[simp] theorem Core.modSema_rplHold (c : Core) (n : Nat) (f : Sema → Sema) : (c.modSema n f).rplHold = c.rplHold := rfl
@[simp] theorem Core.modSema_bubble (c : Core) (n : Nat) (f : Sema → Sema) : (c.modSema n f).bubble = c.bubble := rfl
@[simp] theorem Core.modSema_wres (c : Core) (n : Nat) (f : Sema → Sema) : (c.modSema n f).wres = c.wres := rfl
@[simp] theorem Core.modSema_bus (c : Core) (n : Nat) (f : Sema → Sema) : (c.modSema n f).bus = c.bus := rfl
@[simp] theorem Core.modSema_away (c : Core) (n : Nat) (f : Sema → Sema) : (c.modSema n f).away = c.away := rfl
@[simp] theorem Core.modSema_again (c : Core) (n : Nat) (f : Sema → Sema) : (c.modSema n f).again = c.again := rfl

/-! ### `Core.modStream` -/

@[simp] theorem Core.modStream_s (c : Core) (n : Nat) (f : Stream → Stream) : (c.modStream n f).s = c.s := rfl
@[simp] theorem Core.modStream_sPoi (c : Core) (n : Nat) (f : Stream → Stream) : (c.modStream n f).sPoi = c.sPoi := rfl
@[simp] theorem Core.modStream_p (c : Core) (n : Nat) (f : Stream → Stream) : (c.modStream n f).p = c.p := rfl
@[simp] theorem Core.modStream_v (c : Core) (n : Nat) (f : Stream → Stream) : (c.modStream n f).v = c.v := rfl
@[simp] theorem Core.modStream_vPoi (c : Core) (n : Nat) (f : Stream → Stream) : (c.modStream n f).vPoi = c.vPoi := rfl
@[simp] theorem Core.modStream_k (c : Core) (n : Nat) (f : Stream → Stream) : (c.modStream n f).k = c.k := rfl
@[simp] theorem Core.modStream_acc (c : Core) (n : Nat) (f : Stream → Stream) : (c.modStream n f).acc = c.acc := rfl
@[simp] theorem Core.modStream_accw (c : Core) (n : Nat) (f : Stream → Stream) : (c.modStream n f).accw = c.accw := rfl
@[simp] theorem Core.modStream_ovf (c : Core) (n : Nat) (f : Stream → Stream) : (c.modStream n f).ovf = c.ovf := rfl
@[simp] theorem Core.modStream_sat (c : Core) (n : Nat) (f : Stream → Stream) : (c.modStream n f).sat = c.sat := rfl
@[simp] theorem Core.modStream_mp (c : Core) (n : Nat) (f : Stream → Stream) : (c.modStream n f).mp = c.mp := rfl
@[simp] theorem Core.modStream_gix (c : Core) (n : Nat) (f : Stream → Stream) : (c.modStream n f).gix = c.gix := rfl
@[simp] theorem Core.modStream_bad (c : Core) (n : Nat) (f : Stream → Stream) : (c.modStream n f).bad = c.bad := rfl
@[simp] theorem Core.modStream_creg (c : Core) (n : Nat) (f : Stream → Stream) : (c.modStream n f).creg = c.creg := rfl
@[simp] theorem Core.modStream_routine (c : Core) (n : Nat) (f : Stream → Stream) : (c.modStream n f).routine = c.routine := rfl
@[simp] theorem Core.modStream_relSigs (c : Core) (n : Nat) (f : Stream → Stream) : (c.modStream n f).relSigs = c.relSigs := rfl
@[simp] theorem Core.modStream_qNew (c : Core) (n : Nat) (f : Stream → Stream) : (c.modStream n f).qNew = c.qNew := rfl
@[simp] theorem Core.modStream_sem (c : Core) (n : Nat) (f : Stream → Stream) : (c.modStream n f).sem = c.sem := rfl
@[simp] theorem Core.modStream_ch (c : Core) (n : Nat) (f : Stream → Stream) : (c.modStream n f).ch = c.ch := rfl
@[simp] theorem Core.modStream_nextCmd (c : Core) (n : Nat) (f : Stream → Stream) : (c.modStream n f).nextCmd = c.nextCmd := rfl
@[simp] theorem Core.modStream_cpWait (c : Core) (n : Nat) (f : Stream → Stream) : (c.modStream n f).cpWait = c.cpWait := rfl
@[simp] theorem Core.modStream_slots (c : Core) (n : Nat) (f : Stream → Stream) : (c.modStream n f).slots = c.slots := rfl
@[simp] theorem Core.modStream_scr (c : Core) (n : Nat) (f : Stream → Stream) : (c.modStream n f).scr = c.scr := rfl
@[simp] theorem Core.modStream_scrBad (c : Core) (n : Nat) (f : Stream → Stream) : (c.modStream n f).scrBad = c.scrBad := rfl
@[simp] theorem Core.modStream_imem (c : Core) (n : Nat) (f : Stream → Stream) : (c.modStream n f).imem = c.imem := rfl
@[simp] theorem Core.modStream_imemBad (c : Core) (n : Nat) (f : Stream → Stream) : (c.modStream n f).imemBad = c.imemBad := rfl
@[simp] theorem Core.modStream_imgLen (c : Core) (n : Nat) (f : Stream → Stream) : (c.modStream n f).imgLen = c.imgLen := rfl
@[simp] theorem Core.modStream_imgProg (c : Core) (n : Nat) (f : Stream → Stream) : (c.modStream n f).imgProg = c.imgProg := rfl
@[simp] theorem Core.modStream_hLen (c : Core) (n : Nat) (f : Stream → Stream) : (c.modStream n f).hLen = c.hLen := rfl
@[simp] theorem Core.modStream_cmem (c : Core) (n : Nat) (f : Stream → Stream) : (c.modStream n f).cmem = c.cmem := rfl
@[simp] theorem Core.modStream_occ (c : Core) (n : Nat) (f : Stream → Stream) : (c.modStream n f).occ = c.occ := rfl
@[simp] theorem Core.modStream_store (c : Core) (n : Nat) (f : Stream → Stream) : (c.modStream n f).store = c.store := rfl
@[simp] theorem Core.modStream_pc (c : Core) (n : Nat) (f : Stream → Stream) : (c.modStream n f).pc = c.pc := rfl
@[simp] theorem Core.modStream_holding (c : Core) (n : Nat) (f : Stream → Stream) : (c.modStream n f).holding = c.holding := rfl
@[simp] theorem Core.modStream_holdCond (c : Core) (n : Nat) (f : Stream → Stream) : (c.modStream n f).holdCond = c.holdCond := rfl
@[simp] theorem Core.modStream_pend (c : Core) (n : Nat) (f : Stream → Stream) : (c.modStream n f).pend = c.pend := rfl
@[simp] theorem Core.modStream_hpend (c : Core) (n : Nat) (f : Stream → Stream) : (c.modStream n f).hpend = c.hpend := rfl
@[simp] theorem Core.modStream_loads (c : Core) (n : Nat) (f : Stream → Stream) : (c.modStream n f).loads = c.loads := rfl
@[simp] theorem Core.modStream_hloads (c : Core) (n : Nat) (f : Stream → Stream) : (c.modStream n f).hloads = c.hloads := rfl
@[simp] theorem Core.modStream_pvec (c : Core) (n : Nat) (f : Stream → Stream) : (c.modStream n f).pvec = c.pvec := rfl
@[simp] theorem Core.modStream_issued (c : Core) (n : Nat) (f : Stream → Stream) : (c.modStream n f).issued = c.issued := rfl
@[simp] theorem Core.modStream_late (c : Core) (n : Nat) (f : Stream → Stream) : (c.modStream n f).late = c.late := rfl
@[simp] theorem Core.modStream_owed (c : Core) (n : Nat) (f : Stream → Stream) : (c.modStream n f).owed = c.owed := rfl
@[simp] theorem Core.modStream_zstat (c : Core) (n : Nat) (f : Stream → Stream) : (c.modStream n f).zstat = c.zstat := rfl
@[simp] theorem Core.modStream_ssb (c : Core) (n : Nat) (f : Stream → Stream) : (c.modStream n f).ssb = c.ssb := rfl
@[simp] theorem Core.modStream_ssbNext (c : Core) (n : Nat) (f : Stream → Stream) : (c.modStream n f).ssbNext = c.ssbNext := rfl
@[simp] theorem Core.modStream_charge (c : Core) (n : Nat) (f : Stream → Stream) : (c.modStream n f).charge = c.charge := rfl
@[simp] theorem Core.modStream_qaStore (c : Core) (n : Nat) (f : Stream → Stream) : (c.modStream n f).qaStore = c.qaStore := rfl
@[simp] theorem Core.modStream_qaLoad (c : Core) (n : Nat) (f : Stream → Stream) : (c.modStream n f).qaLoad = c.qaLoad := rfl
@[simp] theorem Core.modStream_loadSeq (c : Core) (n : Nat) (f : Stream → Stream) : (c.modStream n f).loadSeq = c.loadSeq := rfl
@[simp] theorem Core.modStream_portNext (c : Core) (n : Nat) (f : Stream → Stream) : (c.modStream n f).portNext = c.portNext := rfl
@[simp] theorem Core.modStream_port (c : Core) (n : Nat) (f : Stream → Stream) : (c.modStream n f).port = c.port := rfl
@[simp] theorem Core.modStream_seg (c : Core) (n : Nat) (f : Stream → Stream) : (c.modStream n f).seg = c.seg := rfl
@[simp] theorem Core.modStream_needSeg (c : Core) (n : Nat) (f : Stream → Stream) : (c.modStream n f).needSeg = c.needSeg := rfl
@[simp] theorem Core.modStream_semOps (c : Core) (n : Nat) (f : Stream → Stream) : (c.modStream n f).semOps = c.semOps := rfl
@[simp] theorem Core.modStream_fencing (c : Core) (n : Nat) (f : Stream → Stream) : (c.modStream n f).fencing = c.fencing := rfl
@[simp] theorem Core.modStream_badStream (c : Core) (n : Nat) (f : Stream → Stream) : (c.modStream n f).badStream = c.badStream := rfl
@[simp] theorem Core.modStream_run (c : Core) (n : Nat) (f : Stream → Stream) : (c.modStream n f).run = c.run := rfl
@[simp] theorem Core.modStream_task (c : Core) (n : Nat) (f : Stream → Stream) : (c.modStream n f).task = c.task := rfl
@[simp] theorem Core.modStream_closing (c : Core) (n : Nat) (f : Stream → Stream) : (c.modStream n f).closing = c.closing := rfl
@[simp] theorem Core.modStream_early (c : Core) (n : Nat) (f : Stream → Stream) : (c.modStream n f).early = c.early := rfl
@[simp] theorem Core.modStream_freeze (c : Core) (n : Nat) (f : Stream → Stream) : (c.modStream n f).freeze = c.freeze := rfl
@[simp] theorem Core.modStream_stopReq (c : Core) (n : Nat) (f : Stream → Stream) : (c.modStream n f).stopReq = c.stopReq := rfl
@[simp] theorem Core.modStream_hCount (c : Core) (n : Nat) (f : Stream → Stream) : (c.modStream n f).hCount = c.hCount := rfl
@[simp] theorem Core.modStream_mism (c : Core) (n : Nat) (f : Stream → Stream) : (c.modStream n f).mism = c.mism := rfl
@[simp] theorem Core.modStream_barHold (c : Core) (n : Nat) (f : Stream → Stream) : (c.modStream n f).barHold = c.barHold := rfl
@[simp] theorem Core.modStream_keyHold (c : Core) (n : Nat) (f : Stream → Stream) : (c.modStream n f).keyHold = c.keyHold := rfl
@[simp] theorem Core.modStream_tinvHold (c : Core) (n : Nat) (f : Stream → Stream) : (c.modStream n f).tinvHold = c.tinvHold := rfl
@[simp] theorem Core.modStream_rplHold (c : Core) (n : Nat) (f : Stream → Stream) : (c.modStream n f).rplHold = c.rplHold := rfl
@[simp] theorem Core.modStream_bubble (c : Core) (n : Nat) (f : Stream → Stream) : (c.modStream n f).bubble = c.bubble := rfl
@[simp] theorem Core.modStream_wres (c : Core) (n : Nat) (f : Stream → Stream) : (c.modStream n f).wres = c.wres := rfl
@[simp] theorem Core.modStream_bus (c : Core) (n : Nat) (f : Stream → Stream) : (c.modStream n f).bus = c.bus := rfl
@[simp] theorem Core.modStream_away (c : Core) (n : Nat) (f : Stream → Stream) : (c.modStream n f).away = c.away := rfl
@[simp] theorem Core.modStream_again (c : Core) (n : Nat) (f : Stream → Stream) : (c.modStream n f).again = c.again := rfl

/-! ### `Core.modChan` -/

@[simp] theorem Core.modChan_s (c : Core) (n : Nat) (f : Channel → Channel) : (c.modChan n f).s = c.s := rfl
@[simp] theorem Core.modChan_sPoi (c : Core) (n : Nat) (f : Channel → Channel) : (c.modChan n f).sPoi = c.sPoi := rfl
@[simp] theorem Core.modChan_p (c : Core) (n : Nat) (f : Channel → Channel) : (c.modChan n f).p = c.p := rfl
@[simp] theorem Core.modChan_v (c : Core) (n : Nat) (f : Channel → Channel) : (c.modChan n f).v = c.v := rfl
@[simp] theorem Core.modChan_vPoi (c : Core) (n : Nat) (f : Channel → Channel) : (c.modChan n f).vPoi = c.vPoi := rfl
@[simp] theorem Core.modChan_k (c : Core) (n : Nat) (f : Channel → Channel) : (c.modChan n f).k = c.k := rfl
@[simp] theorem Core.modChan_acc (c : Core) (n : Nat) (f : Channel → Channel) : (c.modChan n f).acc = c.acc := rfl
@[simp] theorem Core.modChan_accw (c : Core) (n : Nat) (f : Channel → Channel) : (c.modChan n f).accw = c.accw := rfl
@[simp] theorem Core.modChan_ovf (c : Core) (n : Nat) (f : Channel → Channel) : (c.modChan n f).ovf = c.ovf := rfl
@[simp] theorem Core.modChan_sat (c : Core) (n : Nat) (f : Channel → Channel) : (c.modChan n f).sat = c.sat := rfl
@[simp] theorem Core.modChan_mp (c : Core) (n : Nat) (f : Channel → Channel) : (c.modChan n f).mp = c.mp := rfl
@[simp] theorem Core.modChan_gix (c : Core) (n : Nat) (f : Channel → Channel) : (c.modChan n f).gix = c.gix := rfl
@[simp] theorem Core.modChan_bad (c : Core) (n : Nat) (f : Channel → Channel) : (c.modChan n f).bad = c.bad := rfl
@[simp] theorem Core.modChan_creg (c : Core) (n : Nat) (f : Channel → Channel) : (c.modChan n f).creg = c.creg := rfl
@[simp] theorem Core.modChan_routine (c : Core) (n : Nat) (f : Channel → Channel) : (c.modChan n f).routine = c.routine := rfl
@[simp] theorem Core.modChan_relSigs (c : Core) (n : Nat) (f : Channel → Channel) : (c.modChan n f).relSigs = c.relSigs := rfl
@[simp] theorem Core.modChan_q (c : Core) (n : Nat) (f : Channel → Channel) : (c.modChan n f).q = c.q := rfl
@[simp] theorem Core.modChan_qNew (c : Core) (n : Nat) (f : Channel → Channel) : (c.modChan n f).qNew = c.qNew := rfl
@[simp] theorem Core.modChan_sem (c : Core) (n : Nat) (f : Channel → Channel) : (c.modChan n f).sem = c.sem := rfl
@[simp] theorem Core.modChan_nextCmd (c : Core) (n : Nat) (f : Channel → Channel) : (c.modChan n f).nextCmd = c.nextCmd := rfl
@[simp] theorem Core.modChan_cpWait (c : Core) (n : Nat) (f : Channel → Channel) : (c.modChan n f).cpWait = c.cpWait := rfl
@[simp] theorem Core.modChan_slots (c : Core) (n : Nat) (f : Channel → Channel) : (c.modChan n f).slots = c.slots := rfl
@[simp] theorem Core.modChan_scr (c : Core) (n : Nat) (f : Channel → Channel) : (c.modChan n f).scr = c.scr := rfl
@[simp] theorem Core.modChan_scrBad (c : Core) (n : Nat) (f : Channel → Channel) : (c.modChan n f).scrBad = c.scrBad := rfl
@[simp] theorem Core.modChan_imem (c : Core) (n : Nat) (f : Channel → Channel) : (c.modChan n f).imem = c.imem := rfl
@[simp] theorem Core.modChan_imemBad (c : Core) (n : Nat) (f : Channel → Channel) : (c.modChan n f).imemBad = c.imemBad := rfl
@[simp] theorem Core.modChan_imgLen (c : Core) (n : Nat) (f : Channel → Channel) : (c.modChan n f).imgLen = c.imgLen := rfl
@[simp] theorem Core.modChan_imgProg (c : Core) (n : Nat) (f : Channel → Channel) : (c.modChan n f).imgProg = c.imgProg := rfl
@[simp] theorem Core.modChan_hLen (c : Core) (n : Nat) (f : Channel → Channel) : (c.modChan n f).hLen = c.hLen := rfl
@[simp] theorem Core.modChan_cmem (c : Core) (n : Nat) (f : Channel → Channel) : (c.modChan n f).cmem = c.cmem := rfl
@[simp] theorem Core.modChan_occ (c : Core) (n : Nat) (f : Channel → Channel) : (c.modChan n f).occ = c.occ := rfl
@[simp] theorem Core.modChan_store (c : Core) (n : Nat) (f : Channel → Channel) : (c.modChan n f).store = c.store := rfl
@[simp] theorem Core.modChan_pc (c : Core) (n : Nat) (f : Channel → Channel) : (c.modChan n f).pc = c.pc := rfl
@[simp] theorem Core.modChan_holding (c : Core) (n : Nat) (f : Channel → Channel) : (c.modChan n f).holding = c.holding := rfl
@[simp] theorem Core.modChan_holdCond (c : Core) (n : Nat) (f : Channel → Channel) : (c.modChan n f).holdCond = c.holdCond := rfl
@[simp] theorem Core.modChan_pend (c : Core) (n : Nat) (f : Channel → Channel) : (c.modChan n f).pend = c.pend := rfl
@[simp] theorem Core.modChan_hpend (c : Core) (n : Nat) (f : Channel → Channel) : (c.modChan n f).hpend = c.hpend := rfl
@[simp] theorem Core.modChan_loads (c : Core) (n : Nat) (f : Channel → Channel) : (c.modChan n f).loads = c.loads := rfl
@[simp] theorem Core.modChan_hloads (c : Core) (n : Nat) (f : Channel → Channel) : (c.modChan n f).hloads = c.hloads := rfl
@[simp] theorem Core.modChan_pvec (c : Core) (n : Nat) (f : Channel → Channel) : (c.modChan n f).pvec = c.pvec := rfl
@[simp] theorem Core.modChan_issued (c : Core) (n : Nat) (f : Channel → Channel) : (c.modChan n f).issued = c.issued := rfl
@[simp] theorem Core.modChan_late (c : Core) (n : Nat) (f : Channel → Channel) : (c.modChan n f).late = c.late := rfl
@[simp] theorem Core.modChan_owed (c : Core) (n : Nat) (f : Channel → Channel) : (c.modChan n f).owed = c.owed := rfl
@[simp] theorem Core.modChan_zstat (c : Core) (n : Nat) (f : Channel → Channel) : (c.modChan n f).zstat = c.zstat := rfl
@[simp] theorem Core.modChan_ssb (c : Core) (n : Nat) (f : Channel → Channel) : (c.modChan n f).ssb = c.ssb := rfl
@[simp] theorem Core.modChan_ssbNext (c : Core) (n : Nat) (f : Channel → Channel) : (c.modChan n f).ssbNext = c.ssbNext := rfl
@[simp] theorem Core.modChan_charge (c : Core) (n : Nat) (f : Channel → Channel) : (c.modChan n f).charge = c.charge := rfl
@[simp] theorem Core.modChan_qaStore (c : Core) (n : Nat) (f : Channel → Channel) : (c.modChan n f).qaStore = c.qaStore := rfl
@[simp] theorem Core.modChan_qaLoad (c : Core) (n : Nat) (f : Channel → Channel) : (c.modChan n f).qaLoad = c.qaLoad := rfl
@[simp] theorem Core.modChan_loadSeq (c : Core) (n : Nat) (f : Channel → Channel) : (c.modChan n f).loadSeq = c.loadSeq := rfl
@[simp] theorem Core.modChan_portNext (c : Core) (n : Nat) (f : Channel → Channel) : (c.modChan n f).portNext = c.portNext := rfl
@[simp] theorem Core.modChan_port (c : Core) (n : Nat) (f : Channel → Channel) : (c.modChan n f).port = c.port := rfl
@[simp] theorem Core.modChan_seg (c : Core) (n : Nat) (f : Channel → Channel) : (c.modChan n f).seg = c.seg := rfl
@[simp] theorem Core.modChan_needSeg (c : Core) (n : Nat) (f : Channel → Channel) : (c.modChan n f).needSeg = c.needSeg := rfl
@[simp] theorem Core.modChan_semOps (c : Core) (n : Nat) (f : Channel → Channel) : (c.modChan n f).semOps = c.semOps := rfl
@[simp] theorem Core.modChan_fencing (c : Core) (n : Nat) (f : Channel → Channel) : (c.modChan n f).fencing = c.fencing := rfl
@[simp] theorem Core.modChan_badStream (c : Core) (n : Nat) (f : Channel → Channel) : (c.modChan n f).badStream = c.badStream := rfl
@[simp] theorem Core.modChan_run (c : Core) (n : Nat) (f : Channel → Channel) : (c.modChan n f).run = c.run := rfl
@[simp] theorem Core.modChan_task (c : Core) (n : Nat) (f : Channel → Channel) : (c.modChan n f).task = c.task := rfl
@[simp] theorem Core.modChan_closing (c : Core) (n : Nat) (f : Channel → Channel) : (c.modChan n f).closing = c.closing := rfl
@[simp] theorem Core.modChan_early (c : Core) (n : Nat) (f : Channel → Channel) : (c.modChan n f).early = c.early := rfl
@[simp] theorem Core.modChan_freeze (c : Core) (n : Nat) (f : Channel → Channel) : (c.modChan n f).freeze = c.freeze := rfl
@[simp] theorem Core.modChan_stopReq (c : Core) (n : Nat) (f : Channel → Channel) : (c.modChan n f).stopReq = c.stopReq := rfl
@[simp] theorem Core.modChan_hCount (c : Core) (n : Nat) (f : Channel → Channel) : (c.modChan n f).hCount = c.hCount := rfl
@[simp] theorem Core.modChan_mism (c : Core) (n : Nat) (f : Channel → Channel) : (c.modChan n f).mism = c.mism := rfl
@[simp] theorem Core.modChan_barHold (c : Core) (n : Nat) (f : Channel → Channel) : (c.modChan n f).barHold = c.barHold := rfl
@[simp] theorem Core.modChan_keyHold (c : Core) (n : Nat) (f : Channel → Channel) : (c.modChan n f).keyHold = c.keyHold := rfl
@[simp] theorem Core.modChan_tinvHold (c : Core) (n : Nat) (f : Channel → Channel) : (c.modChan n f).tinvHold = c.tinvHold := rfl
@[simp] theorem Core.modChan_rplHold (c : Core) (n : Nat) (f : Channel → Channel) : (c.modChan n f).rplHold = c.rplHold := rfl
@[simp] theorem Core.modChan_bubble (c : Core) (n : Nat) (f : Channel → Channel) : (c.modChan n f).bubble = c.bubble := rfl
@[simp] theorem Core.modChan_wres (c : Core) (n : Nat) (f : Channel → Channel) : (c.modChan n f).wres = c.wres := rfl
@[simp] theorem Core.modChan_bus (c : Core) (n : Nat) (f : Channel → Channel) : (c.modChan n f).bus = c.bus := rfl
@[simp] theorem Core.modChan_away (c : Core) (n : Nat) (f : Channel → Channel) : (c.modChan n f).away = c.away := rfl
@[simp] theorem Core.modChan_again (c : Core) (n : Nat) (f : Channel → Channel) : (c.modChan n f).again = c.again := rfl

/-! ### `Core.modSlot` -/

@[simp] theorem Core.modSlot_s (c : Core) (n : Nat) (f : SlotEntry → SlotEntry) : (c.modSlot n f).s = c.s := rfl
@[simp] theorem Core.modSlot_sPoi (c : Core) (n : Nat) (f : SlotEntry → SlotEntry) : (c.modSlot n f).sPoi = c.sPoi := rfl
@[simp] theorem Core.modSlot_p (c : Core) (n : Nat) (f : SlotEntry → SlotEntry) : (c.modSlot n f).p = c.p := rfl
@[simp] theorem Core.modSlot_v (c : Core) (n : Nat) (f : SlotEntry → SlotEntry) : (c.modSlot n f).v = c.v := rfl
@[simp] theorem Core.modSlot_vPoi (c : Core) (n : Nat) (f : SlotEntry → SlotEntry) : (c.modSlot n f).vPoi = c.vPoi := rfl
@[simp] theorem Core.modSlot_k (c : Core) (n : Nat) (f : SlotEntry → SlotEntry) : (c.modSlot n f).k = c.k := rfl
@[simp] theorem Core.modSlot_acc (c : Core) (n : Nat) (f : SlotEntry → SlotEntry) : (c.modSlot n f).acc = c.acc := rfl
@[simp] theorem Core.modSlot_accw (c : Core) (n : Nat) (f : SlotEntry → SlotEntry) : (c.modSlot n f).accw = c.accw := rfl
@[simp] theorem Core.modSlot_ovf (c : Core) (n : Nat) (f : SlotEntry → SlotEntry) : (c.modSlot n f).ovf = c.ovf := rfl
@[simp] theorem Core.modSlot_sat (c : Core) (n : Nat) (f : SlotEntry → SlotEntry) : (c.modSlot n f).sat = c.sat := rfl
@[simp] theorem Core.modSlot_mp (c : Core) (n : Nat) (f : SlotEntry → SlotEntry) : (c.modSlot n f).mp = c.mp := rfl
@[simp] theorem Core.modSlot_gix (c : Core) (n : Nat) (f : SlotEntry → SlotEntry) : (c.modSlot n f).gix = c.gix := rfl
@[simp] theorem Core.modSlot_bad (c : Core) (n : Nat) (f : SlotEntry → SlotEntry) : (c.modSlot n f).bad = c.bad := rfl
@[simp] theorem Core.modSlot_creg (c : Core) (n : Nat) (f : SlotEntry → SlotEntry) : (c.modSlot n f).creg = c.creg := rfl
@[simp] theorem Core.modSlot_routine (c : Core) (n : Nat) (f : SlotEntry → SlotEntry) : (c.modSlot n f).routine = c.routine := rfl
@[simp] theorem Core.modSlot_relSigs (c : Core) (n : Nat) (f : SlotEntry → SlotEntry) : (c.modSlot n f).relSigs = c.relSigs := rfl
@[simp] theorem Core.modSlot_q (c : Core) (n : Nat) (f : SlotEntry → SlotEntry) : (c.modSlot n f).q = c.q := rfl
@[simp] theorem Core.modSlot_qNew (c : Core) (n : Nat) (f : SlotEntry → SlotEntry) : (c.modSlot n f).qNew = c.qNew := rfl
@[simp] theorem Core.modSlot_sem (c : Core) (n : Nat) (f : SlotEntry → SlotEntry) : (c.modSlot n f).sem = c.sem := rfl
@[simp] theorem Core.modSlot_ch (c : Core) (n : Nat) (f : SlotEntry → SlotEntry) : (c.modSlot n f).ch = c.ch := rfl
@[simp] theorem Core.modSlot_nextCmd (c : Core) (n : Nat) (f : SlotEntry → SlotEntry) : (c.modSlot n f).nextCmd = c.nextCmd := rfl
@[simp] theorem Core.modSlot_cpWait (c : Core) (n : Nat) (f : SlotEntry → SlotEntry) : (c.modSlot n f).cpWait = c.cpWait := rfl
@[simp] theorem Core.modSlot_scr (c : Core) (n : Nat) (f : SlotEntry → SlotEntry) : (c.modSlot n f).scr = c.scr := rfl
@[simp] theorem Core.modSlot_scrBad (c : Core) (n : Nat) (f : SlotEntry → SlotEntry) : (c.modSlot n f).scrBad = c.scrBad := rfl
@[simp] theorem Core.modSlot_imem (c : Core) (n : Nat) (f : SlotEntry → SlotEntry) : (c.modSlot n f).imem = c.imem := rfl
@[simp] theorem Core.modSlot_imemBad (c : Core) (n : Nat) (f : SlotEntry → SlotEntry) : (c.modSlot n f).imemBad = c.imemBad := rfl
@[simp] theorem Core.modSlot_imgLen (c : Core) (n : Nat) (f : SlotEntry → SlotEntry) : (c.modSlot n f).imgLen = c.imgLen := rfl
@[simp] theorem Core.modSlot_imgProg (c : Core) (n : Nat) (f : SlotEntry → SlotEntry) : (c.modSlot n f).imgProg = c.imgProg := rfl
@[simp] theorem Core.modSlot_hLen (c : Core) (n : Nat) (f : SlotEntry → SlotEntry) : (c.modSlot n f).hLen = c.hLen := rfl
@[simp] theorem Core.modSlot_cmem (c : Core) (n : Nat) (f : SlotEntry → SlotEntry) : (c.modSlot n f).cmem = c.cmem := rfl
@[simp] theorem Core.modSlot_occ (c : Core) (n : Nat) (f : SlotEntry → SlotEntry) : (c.modSlot n f).occ = c.occ := rfl
@[simp] theorem Core.modSlot_store (c : Core) (n : Nat) (f : SlotEntry → SlotEntry) : (c.modSlot n f).store = c.store := rfl
@[simp] theorem Core.modSlot_pc (c : Core) (n : Nat) (f : SlotEntry → SlotEntry) : (c.modSlot n f).pc = c.pc := rfl
@[simp] theorem Core.modSlot_holding (c : Core) (n : Nat) (f : SlotEntry → SlotEntry) : (c.modSlot n f).holding = c.holding := rfl
@[simp] theorem Core.modSlot_holdCond (c : Core) (n : Nat) (f : SlotEntry → SlotEntry) : (c.modSlot n f).holdCond = c.holdCond := rfl
@[simp] theorem Core.modSlot_pend (c : Core) (n : Nat) (f : SlotEntry → SlotEntry) : (c.modSlot n f).pend = c.pend := rfl
@[simp] theorem Core.modSlot_hpend (c : Core) (n : Nat) (f : SlotEntry → SlotEntry) : (c.modSlot n f).hpend = c.hpend := rfl
@[simp] theorem Core.modSlot_loads (c : Core) (n : Nat) (f : SlotEntry → SlotEntry) : (c.modSlot n f).loads = c.loads := rfl
@[simp] theorem Core.modSlot_hloads (c : Core) (n : Nat) (f : SlotEntry → SlotEntry) : (c.modSlot n f).hloads = c.hloads := rfl
@[simp] theorem Core.modSlot_pvec (c : Core) (n : Nat) (f : SlotEntry → SlotEntry) : (c.modSlot n f).pvec = c.pvec := rfl
@[simp] theorem Core.modSlot_issued (c : Core) (n : Nat) (f : SlotEntry → SlotEntry) : (c.modSlot n f).issued = c.issued := rfl
@[simp] theorem Core.modSlot_late (c : Core) (n : Nat) (f : SlotEntry → SlotEntry) : (c.modSlot n f).late = c.late := rfl
@[simp] theorem Core.modSlot_owed (c : Core) (n : Nat) (f : SlotEntry → SlotEntry) : (c.modSlot n f).owed = c.owed := rfl
@[simp] theorem Core.modSlot_zstat (c : Core) (n : Nat) (f : SlotEntry → SlotEntry) : (c.modSlot n f).zstat = c.zstat := rfl
@[simp] theorem Core.modSlot_ssb (c : Core) (n : Nat) (f : SlotEntry → SlotEntry) : (c.modSlot n f).ssb = c.ssb := rfl
@[simp] theorem Core.modSlot_ssbNext (c : Core) (n : Nat) (f : SlotEntry → SlotEntry) : (c.modSlot n f).ssbNext = c.ssbNext := rfl
@[simp] theorem Core.modSlot_charge (c : Core) (n : Nat) (f : SlotEntry → SlotEntry) : (c.modSlot n f).charge = c.charge := rfl
@[simp] theorem Core.modSlot_qaStore (c : Core) (n : Nat) (f : SlotEntry → SlotEntry) : (c.modSlot n f).qaStore = c.qaStore := rfl
@[simp] theorem Core.modSlot_qaLoad (c : Core) (n : Nat) (f : SlotEntry → SlotEntry) : (c.modSlot n f).qaLoad = c.qaLoad := rfl
@[simp] theorem Core.modSlot_loadSeq (c : Core) (n : Nat) (f : SlotEntry → SlotEntry) : (c.modSlot n f).loadSeq = c.loadSeq := rfl
@[simp] theorem Core.modSlot_portNext (c : Core) (n : Nat) (f : SlotEntry → SlotEntry) : (c.modSlot n f).portNext = c.portNext := rfl
@[simp] theorem Core.modSlot_port (c : Core) (n : Nat) (f : SlotEntry → SlotEntry) : (c.modSlot n f).port = c.port := rfl
@[simp] theorem Core.modSlot_seg (c : Core) (n : Nat) (f : SlotEntry → SlotEntry) : (c.modSlot n f).seg = c.seg := rfl
@[simp] theorem Core.modSlot_needSeg (c : Core) (n : Nat) (f : SlotEntry → SlotEntry) : (c.modSlot n f).needSeg = c.needSeg := rfl
@[simp] theorem Core.modSlot_semOps (c : Core) (n : Nat) (f : SlotEntry → SlotEntry) : (c.modSlot n f).semOps = c.semOps := rfl
@[simp] theorem Core.modSlot_fencing (c : Core) (n : Nat) (f : SlotEntry → SlotEntry) : (c.modSlot n f).fencing = c.fencing := rfl
@[simp] theorem Core.modSlot_badStream (c : Core) (n : Nat) (f : SlotEntry → SlotEntry) : (c.modSlot n f).badStream = c.badStream := rfl
@[simp] theorem Core.modSlot_run (c : Core) (n : Nat) (f : SlotEntry → SlotEntry) : (c.modSlot n f).run = c.run := rfl
@[simp] theorem Core.modSlot_task (c : Core) (n : Nat) (f : SlotEntry → SlotEntry) : (c.modSlot n f).task = c.task := rfl
@[simp] theorem Core.modSlot_closing (c : Core) (n : Nat) (f : SlotEntry → SlotEntry) : (c.modSlot n f).closing = c.closing := rfl
@[simp] theorem Core.modSlot_early (c : Core) (n : Nat) (f : SlotEntry → SlotEntry) : (c.modSlot n f).early = c.early := rfl
@[simp] theorem Core.modSlot_freeze (c : Core) (n : Nat) (f : SlotEntry → SlotEntry) : (c.modSlot n f).freeze = c.freeze := rfl
@[simp] theorem Core.modSlot_stopReq (c : Core) (n : Nat) (f : SlotEntry → SlotEntry) : (c.modSlot n f).stopReq = c.stopReq := rfl
@[simp] theorem Core.modSlot_hCount (c : Core) (n : Nat) (f : SlotEntry → SlotEntry) : (c.modSlot n f).hCount = c.hCount := rfl
@[simp] theorem Core.modSlot_mism (c : Core) (n : Nat) (f : SlotEntry → SlotEntry) : (c.modSlot n f).mism = c.mism := rfl
@[simp] theorem Core.modSlot_barHold (c : Core) (n : Nat) (f : SlotEntry → SlotEntry) : (c.modSlot n f).barHold = c.barHold := rfl
@[simp] theorem Core.modSlot_keyHold (c : Core) (n : Nat) (f : SlotEntry → SlotEntry) : (c.modSlot n f).keyHold = c.keyHold := rfl
@[simp] theorem Core.modSlot_tinvHold (c : Core) (n : Nat) (f : SlotEntry → SlotEntry) : (c.modSlot n f).tinvHold = c.tinvHold := rfl
@[simp] theorem Core.modSlot_rplHold (c : Core) (n : Nat) (f : SlotEntry → SlotEntry) : (c.modSlot n f).rplHold = c.rplHold := rfl
@[simp] theorem Core.modSlot_bubble (c : Core) (n : Nat) (f : SlotEntry → SlotEntry) : (c.modSlot n f).bubble = c.bubble := rfl
@[simp] theorem Core.modSlot_wres (c : Core) (n : Nat) (f : SlotEntry → SlotEntry) : (c.modSlot n f).wres = c.wres := rfl
@[simp] theorem Core.modSlot_bus (c : Core) (n : Nat) (f : SlotEntry → SlotEntry) : (c.modSlot n f).bus = c.bus := rfl
@[simp] theorem Core.modSlot_away (c : Core) (n : Nat) (f : SlotEntry → SlotEntry) : (c.modSlot n f).away = c.away := rfl
@[simp] theorem Core.modSlot_again (c : Core) (n : Nat) (f : SlotEntry → SlotEntry) : (c.modSlot n f).again = c.again := rfl

/-! ### `Core.push` -/

@[simp] theorem Core.push_s (c : Core) (cl : PendCls) (r l : Nat) (v : Vec) (p : Option Poison) (z : Option Nat) : (c.push cl r l v p z).s = c.s := by unfold Core.push; split <;> rfl
@[simp] theorem Core.push_sPoi (c : Core) (cl : PendCls) (r l : Nat) (v : Vec) (p : Option Poison) (z : Option Nat) : (c.push cl r l v p z).sPoi = c.sPoi := by unfold Core.push; split <;> rfl
@[simp] theorem Core.push_p (c : Core) (cl : PendCls) (r l : Nat) (v : Vec) (p : Option Poison) (z : Option Nat) : (c.push cl r l v p z).p = c.p := by unfold Core.push; split <;> rfl
@[simp] theorem Core.push_v (c : Core) (cl : PendCls) (r l : Nat) (v : Vec) (p : Option Poison) (z : Option Nat) : (c.push cl r l v p z).v = c.v := by unfold Core.push; split <;> rfl
@[simp] theorem Core.push_vPoi (c : Core) (cl : PendCls) (r l : Nat) (v : Vec) (p : Option Poison) (z : Option Nat) : (c.push cl r l v p z).vPoi = c.vPoi := by unfold Core.push; split <;> rfl
@[simp] theorem Core.push_k (c : Core) (cl : PendCls) (r l : Nat) (v : Vec) (p : Option Poison) (z : Option Nat) : (c.push cl r l v p z).k = c.k := by unfold Core.push; split <;> rfl
@[simp] theorem Core.push_acc (c : Core) (cl : PendCls) (r l : Nat) (v : Vec) (p : Option Poison) (z : Option Nat) : (c.push cl r l v p z).acc = c.acc := by unfold Core.push; split <;> rfl
@[simp] theorem Core.push_accw (c : Core) (cl : PendCls) (r l : Nat) (v : Vec) (p : Option Poison) (z : Option Nat) : (c.push cl r l v p z).accw = c.accw := by unfold Core.push; split <;> rfl
@[simp] theorem Core.push_ovf (c : Core) (cl : PendCls) (r l : Nat) (v : Vec) (p : Option Poison) (z : Option Nat) : (c.push cl r l v p z).ovf = c.ovf := by unfold Core.push; split <;> rfl
@[simp] theorem Core.push_sat (c : Core) (cl : PendCls) (r l : Nat) (v : Vec) (p : Option Poison) (z : Option Nat) : (c.push cl r l v p z).sat = c.sat := by unfold Core.push; split <;> rfl
@[simp] theorem Core.push_mp (c : Core) (cl : PendCls) (r l : Nat) (v : Vec) (p : Option Poison) (z : Option Nat) : (c.push cl r l v p z).mp = c.mp := by unfold Core.push; split <;> rfl
@[simp] theorem Core.push_gix (c : Core) (cl : PendCls) (r l : Nat) (v : Vec) (p : Option Poison) (z : Option Nat) : (c.push cl r l v p z).gix = c.gix := by unfold Core.push; split <;> rfl
@[simp] theorem Core.push_bad (c : Core) (cl : PendCls) (r l : Nat) (v : Vec) (p : Option Poison) (z : Option Nat) : (c.push cl r l v p z).bad = c.bad := by unfold Core.push; split <;> rfl
@[simp] theorem Core.push_creg (c : Core) (cl : PendCls) (r l : Nat) (v : Vec) (p : Option Poison) (z : Option Nat) : (c.push cl r l v p z).creg = c.creg := by unfold Core.push; split <;> rfl
@[simp] theorem Core.push_routine (c : Core) (cl : PendCls) (r l : Nat) (v : Vec) (p : Option Poison) (z : Option Nat) : (c.push cl r l v p z).routine = c.routine := by unfold Core.push; split <;> rfl
@[simp] theorem Core.push_relSigs (c : Core) (cl : PendCls) (r l : Nat) (v : Vec) (p : Option Poison) (z : Option Nat) : (c.push cl r l v p z).relSigs = c.relSigs := by unfold Core.push; split <;> rfl
@[simp] theorem Core.push_q (c : Core) (cl : PendCls) (r l : Nat) (v : Vec) (p : Option Poison) (z : Option Nat) : (c.push cl r l v p z).q = c.q := by unfold Core.push; split <;> rfl
@[simp] theorem Core.push_qNew (c : Core) (cl : PendCls) (r l : Nat) (v : Vec) (p : Option Poison) (z : Option Nat) : (c.push cl r l v p z).qNew = c.qNew := by unfold Core.push; split <;> rfl
@[simp] theorem Core.push_sem (c : Core) (cl : PendCls) (r l : Nat) (v : Vec) (p : Option Poison) (z : Option Nat) : (c.push cl r l v p z).sem = c.sem := by unfold Core.push; split <;> rfl
@[simp] theorem Core.push_ch (c : Core) (cl : PendCls) (r l : Nat) (v : Vec) (p : Option Poison) (z : Option Nat) : (c.push cl r l v p z).ch = c.ch := by unfold Core.push; split <;> rfl
@[simp] theorem Core.push_nextCmd (c : Core) (cl : PendCls) (r l : Nat) (v : Vec) (p : Option Poison) (z : Option Nat) : (c.push cl r l v p z).nextCmd = c.nextCmd := by unfold Core.push; split <;> rfl
@[simp] theorem Core.push_cpWait (c : Core) (cl : PendCls) (r l : Nat) (v : Vec) (p : Option Poison) (z : Option Nat) : (c.push cl r l v p z).cpWait = c.cpWait := by unfold Core.push; split <;> rfl
@[simp] theorem Core.push_slots (c : Core) (cl : PendCls) (r l : Nat) (v : Vec) (p : Option Poison) (z : Option Nat) : (c.push cl r l v p z).slots = c.slots := by unfold Core.push; split <;> rfl
@[simp] theorem Core.push_scr (c : Core) (cl : PendCls) (r l : Nat) (v : Vec) (p : Option Poison) (z : Option Nat) : (c.push cl r l v p z).scr = c.scr := by unfold Core.push; split <;> rfl
@[simp] theorem Core.push_scrBad (c : Core) (cl : PendCls) (r l : Nat) (v : Vec) (p : Option Poison) (z : Option Nat) : (c.push cl r l v p z).scrBad = c.scrBad := by unfold Core.push; split <;> rfl
@[simp] theorem Core.push_imem (c : Core) (cl : PendCls) (r l : Nat) (v : Vec) (p : Option Poison) (z : Option Nat) : (c.push cl r l v p z).imem = c.imem := by unfold Core.push; split <;> rfl
@[simp] theorem Core.push_imemBad (c : Core) (cl : PendCls) (r l : Nat) (v : Vec) (p : Option Poison) (z : Option Nat) : (c.push cl r l v p z).imemBad = c.imemBad := by unfold Core.push; split <;> rfl
@[simp] theorem Core.push_imgLen (c : Core) (cl : PendCls) (r l : Nat) (v : Vec) (p : Option Poison) (z : Option Nat) : (c.push cl r l v p z).imgLen = c.imgLen := by unfold Core.push; split <;> rfl
@[simp] theorem Core.push_imgProg (c : Core) (cl : PendCls) (r l : Nat) (v : Vec) (p : Option Poison) (z : Option Nat) : (c.push cl r l v p z).imgProg = c.imgProg := by unfold Core.push; split <;> rfl
@[simp] theorem Core.push_hLen (c : Core) (cl : PendCls) (r l : Nat) (v : Vec) (p : Option Poison) (z : Option Nat) : (c.push cl r l v p z).hLen = c.hLen := by unfold Core.push; split <;> rfl
@[simp] theorem Core.push_cmem (c : Core) (cl : PendCls) (r l : Nat) (v : Vec) (p : Option Poison) (z : Option Nat) : (c.push cl r l v p z).cmem = c.cmem := by unfold Core.push; split <;> rfl
@[simp] theorem Core.push_occ (c : Core) (cl : PendCls) (r l : Nat) (v : Vec) (p : Option Poison) (z : Option Nat) : (c.push cl r l v p z).occ = c.occ := by unfold Core.push; split <;> rfl
@[simp] theorem Core.push_store (c : Core) (cl : PendCls) (r l : Nat) (v : Vec) (p : Option Poison) (z : Option Nat) : (c.push cl r l v p z).store = c.store := by unfold Core.push; split <;> rfl
@[simp] theorem Core.push_pc (c : Core) (cl : PendCls) (r l : Nat) (v : Vec) (p : Option Poison) (z : Option Nat) : (c.push cl r l v p z).pc = c.pc := by unfold Core.push; split <;> rfl
@[simp] theorem Core.push_holding (c : Core) (cl : PendCls) (r l : Nat) (v : Vec) (p : Option Poison) (z : Option Nat) : (c.push cl r l v p z).holding = c.holding := by unfold Core.push; split <;> rfl
@[simp] theorem Core.push_holdCond (c : Core) (cl : PendCls) (r l : Nat) (v : Vec) (p : Option Poison) (z : Option Nat) : (c.push cl r l v p z).holdCond = c.holdCond := by unfold Core.push; split <;> rfl
@[simp] theorem Core.push_loads (c : Core) (cl : PendCls) (r l : Nat) (v : Vec) (p : Option Poison) (z : Option Nat) : (c.push cl r l v p z).loads = c.loads := by unfold Core.push; split <;> rfl
@[simp] theorem Core.push_hloads (c : Core) (cl : PendCls) (r l : Nat) (v : Vec) (p : Option Poison) (z : Option Nat) : (c.push cl r l v p z).hloads = c.hloads := by unfold Core.push; split <;> rfl
@[simp] theorem Core.push_pvec (c : Core) (cl : PendCls) (r l : Nat) (v : Vec) (p : Option Poison) (z : Option Nat) : (c.push cl r l v p z).pvec = c.pvec := by unfold Core.push; split <;> rfl
@[simp] theorem Core.push_issued (c : Core) (cl : PendCls) (r l : Nat) (v : Vec) (p : Option Poison) (z : Option Nat) : (c.push cl r l v p z).issued = c.issued := by unfold Core.push; split <;> rfl
@[simp] theorem Core.push_late (c : Core) (cl : PendCls) (r l : Nat) (v : Vec) (p : Option Poison) (z : Option Nat) : (c.push cl r l v p z).late = c.late := by unfold Core.push; split <;> rfl
@[simp] theorem Core.push_owed (c : Core) (cl : PendCls) (r l : Nat) (v : Vec) (p : Option Poison) (z : Option Nat) : (c.push cl r l v p z).owed = c.owed := by unfold Core.push; split <;> rfl
@[simp] theorem Core.push_zstat (c : Core) (cl : PendCls) (r l : Nat) (v : Vec) (p : Option Poison) (z : Option Nat) : (c.push cl r l v p z).zstat = c.zstat := by unfold Core.push; split <;> rfl
@[simp] theorem Core.push_ssb (c : Core) (cl : PendCls) (r l : Nat) (v : Vec) (p : Option Poison) (z : Option Nat) : (c.push cl r l v p z).ssb = c.ssb := by unfold Core.push; split <;> rfl
@[simp] theorem Core.push_ssbNext (c : Core) (cl : PendCls) (r l : Nat) (v : Vec) (p : Option Poison) (z : Option Nat) : (c.push cl r l v p z).ssbNext = c.ssbNext := by unfold Core.push; split <;> rfl
@[simp] theorem Core.push_charge (c : Core) (cl : PendCls) (r l : Nat) (v : Vec) (p : Option Poison) (z : Option Nat) : (c.push cl r l v p z).charge = c.charge := by unfold Core.push; split <;> rfl
@[simp] theorem Core.push_qaStore (c : Core) (cl : PendCls) (r l : Nat) (v : Vec) (p : Option Poison) (z : Option Nat) : (c.push cl r l v p z).qaStore = c.qaStore := by unfold Core.push; split <;> rfl
@[simp] theorem Core.push_qaLoad (c : Core) (cl : PendCls) (r l : Nat) (v : Vec) (p : Option Poison) (z : Option Nat) : (c.push cl r l v p z).qaLoad = c.qaLoad := by unfold Core.push; split <;> rfl
@[simp] theorem Core.push_loadSeq (c : Core) (cl : PendCls) (r l : Nat) (v : Vec) (p : Option Poison) (z : Option Nat) : (c.push cl r l v p z).loadSeq = c.loadSeq := by unfold Core.push; split <;> rfl
@[simp] theorem Core.push_portNext (c : Core) (cl : PendCls) (r l : Nat) (v : Vec) (p : Option Poison) (z : Option Nat) : (c.push cl r l v p z).portNext = c.portNext := by unfold Core.push; split <;> rfl
@[simp] theorem Core.push_port (c : Core) (cl : PendCls) (r l : Nat) (v : Vec) (p : Option Poison) (z : Option Nat) : (c.push cl r l v p z).port = c.port := by unfold Core.push; split <;> rfl
@[simp] theorem Core.push_seg (c : Core) (cl : PendCls) (r l : Nat) (v : Vec) (p : Option Poison) (z : Option Nat) : (c.push cl r l v p z).seg = c.seg := by unfold Core.push; split <;> rfl
@[simp] theorem Core.push_needSeg (c : Core) (cl : PendCls) (r l : Nat) (v : Vec) (p : Option Poison) (z : Option Nat) : (c.push cl r l v p z).needSeg = c.needSeg := by unfold Core.push; split <;> rfl
@[simp] theorem Core.push_semOps (c : Core) (cl : PendCls) (r l : Nat) (v : Vec) (p : Option Poison) (z : Option Nat) : (c.push cl r l v p z).semOps = c.semOps := by unfold Core.push; split <;> rfl
@[simp] theorem Core.push_fencing (c : Core) (cl : PendCls) (r l : Nat) (v : Vec) (p : Option Poison) (z : Option Nat) : (c.push cl r l v p z).fencing = c.fencing := by unfold Core.push; split <;> rfl
@[simp] theorem Core.push_badStream (c : Core) (cl : PendCls) (r l : Nat) (v : Vec) (p : Option Poison) (z : Option Nat) : (c.push cl r l v p z).badStream = c.badStream := by unfold Core.push; split <;> rfl
@[simp] theorem Core.push_run (c : Core) (cl : PendCls) (r l : Nat) (v : Vec) (p : Option Poison) (z : Option Nat) : (c.push cl r l v p z).run = c.run := by unfold Core.push; split <;> rfl
@[simp] theorem Core.push_task (c : Core) (cl : PendCls) (r l : Nat) (v : Vec) (p : Option Poison) (z : Option Nat) : (c.push cl r l v p z).task = c.task := by unfold Core.push; split <;> rfl
@[simp] theorem Core.push_closing (c : Core) (cl : PendCls) (r l : Nat) (v : Vec) (p : Option Poison) (z : Option Nat) : (c.push cl r l v p z).closing = c.closing := by unfold Core.push; split <;> rfl
@[simp] theorem Core.push_early (c : Core) (cl : PendCls) (r l : Nat) (v : Vec) (p : Option Poison) (z : Option Nat) : (c.push cl r l v p z).early = c.early := by unfold Core.push; split <;> rfl
@[simp] theorem Core.push_freeze (c : Core) (cl : PendCls) (r l : Nat) (v : Vec) (p : Option Poison) (z : Option Nat) : (c.push cl r l v p z).freeze = c.freeze := by unfold Core.push; split <;> rfl
@[simp] theorem Core.push_stopReq (c : Core) (cl : PendCls) (r l : Nat) (v : Vec) (p : Option Poison) (z : Option Nat) : (c.push cl r l v p z).stopReq = c.stopReq := by unfold Core.push; split <;> rfl
@[simp] theorem Core.push_hCount (c : Core) (cl : PendCls) (r l : Nat) (v : Vec) (p : Option Poison) (z : Option Nat) : (c.push cl r l v p z).hCount = c.hCount := by unfold Core.push; split <;> rfl
@[simp] theorem Core.push_mism (c : Core) (cl : PendCls) (r l : Nat) (v : Vec) (p : Option Poison) (z : Option Nat) : (c.push cl r l v p z).mism = c.mism := by unfold Core.push; split <;> rfl
@[simp] theorem Core.push_barHold (c : Core) (cl : PendCls) (r l : Nat) (v : Vec) (p : Option Poison) (z : Option Nat) : (c.push cl r l v p z).barHold = c.barHold := by unfold Core.push; split <;> rfl
@[simp] theorem Core.push_keyHold (c : Core) (cl : PendCls) (r l : Nat) (v : Vec) (p : Option Poison) (z : Option Nat) : (c.push cl r l v p z).keyHold = c.keyHold := by unfold Core.push; split <;> rfl
@[simp] theorem Core.push_tinvHold (c : Core) (cl : PendCls) (r l : Nat) (v : Vec) (p : Option Poison) (z : Option Nat) : (c.push cl r l v p z).tinvHold = c.tinvHold := by unfold Core.push; split <;> rfl
@[simp] theorem Core.push_rplHold (c : Core) (cl : PendCls) (r l : Nat) (v : Vec) (p : Option Poison) (z : Option Nat) : (c.push cl r l v p z).rplHold = c.rplHold := by unfold Core.push; split <;> rfl
@[simp] theorem Core.push_bubble (c : Core) (cl : PendCls) (r l : Nat) (v : Vec) (p : Option Poison) (z : Option Nat) : (c.push cl r l v p z).bubble = c.bubble := by unfold Core.push; split <;> rfl
@[simp] theorem Core.push_wres (c : Core) (cl : PendCls) (r l : Nat) (v : Vec) (p : Option Poison) (z : Option Nat) : (c.push cl r l v p z).wres = c.wres := by unfold Core.push; split <;> rfl
@[simp] theorem Core.push_bus (c : Core) (cl : PendCls) (r l : Nat) (v : Vec) (p : Option Poison) (z : Option Nat) : (c.push cl r l v p z).bus = c.bus := by unfold Core.push; split <;> rfl
@[simp] theorem Core.push_away (c : Core) (cl : PendCls) (r l : Nat) (v : Vec) (p : Option Poison) (z : Option Nat) : (c.push cl r l v p z).away = c.away := by unfold Core.push; split <;> rfl
@[simp] theorem Core.push_again (c : Core) (cl : PendCls) (r l : Nat) (v : Vec) (p : Option Poison) (z : Option Nat) : (c.push cl r l v p z).again = c.again := by unfold Core.push; split <;> rfl

end Sys2Proof.Machine
end

