-- ==== Sys2Proof/Laws/Ops.lean ====
section
/-! SUPPORT. What the shared operations can do: the choice among the stops of a bundle, the evaluation of an op, the
sources of an op, results in flight, and their landing. -/

namespace Sys2Proof.Machine

/-! ## Stops -/

@[simp] theorem pickStop_nil : pickStop [] = none := rfl

/-- A bundle that meets a stop takes one. -/
theorem pickStop_cons_ne (x : Stop) (l : List Stop) : pickStop (x :: l) ≠ none := by
  simp only [pickStop]
  split
  · simp
  · split <;> simp

theorem pickStop_eq_none (l : List Stop) : pickStop l = none ↔ l = [] := by
  cases l with
  | nil => simp
  | cons x l => simp [pickStop_cons_ne]

/-- The stop that a bundle takes is one it met. -/
theorem pickStop_mem {l : List Stop} {x : Stop} (h : pickStop l = some x) : x ∈ l := by
  induction l with
  | nil => simp at h
  | cons y l ih =>
    simp only [pickStop] at h
    split at h
    · simp_all
    · rename_i z hz
      split at h
      · exact List.mem_cons_of_mem _ (ih (by rw [hz]; exact h))
      · simp_all

/-- One stop alone is the one taken. -/
@[simp] theorem pickStop_singleton (x : Stop) : pickStop [x] = some x := rfl

/-! ## The evaluation of an op -/

/-- An op that nothing stops takes effect. -/
theorem issueOp_of_nil (stops : State → List Stop) (eff : State → State) (s : State) (h : s.acts)
    (hs : stops s = []) : issueOp stops eff s = .next (eff s) := by
  rcases h with h | h <;> simp [issueOp, h, hs]

/-- In a bundle that issues an op takes effect. -/
theorem issueOp_effect (stops : State → List Stop) (eff : State → State) (s : State) (h : s.ctx.mode = .effect) :
    issueOp stops eff s = .next (eff s) := by simp [issueOp, h]

/-- A probe only adds the op's stops. -/
theorem issueOp_probe (stops : State → List Stop) (eff : State → State) (s : State) (h : s.ctx.mode = .probe) :
    issueOp stops eff s = .next { s with ctx := { s.ctx with stops := s.ctx.stops ++ stops s } } := by
  simp [issueOp, h]

/-- An op that stands alone and meets one stop takes it. -/
theorem issueOp_of_stop (stops : State → List Stop) (eff : State → State) (s : State) (x : Stop)
    (h : s.ctx.mode = .alone) (hs : pickStop (stops s) = some x) :
    issueOp stops eff s = .next (s.takeStop x.kind) := by simp [issueOp, h, hs]

/-- The evaluation of an op always gives a next state. -/
theorem issueOp_goesOn (stops : State → List Stop) (eff : State → State) (s : State) :
    goesOn (issueOp stops eff s) := by
  unfold issueOp
  split
  · trivial
  · trivial
  · split <;> trivial
  · trivial

/-- An op with an act of its own that nothing stops takes effect. -/
theorem lateOp_of_nil (closes : Bool) (stops : State → List Stop) (act eff : State → State) (s : State) (h : s.acts)
    (hs : stops s = []) : lateOp closes stops act eff s = .next (eff s) := by
  rcases h with h | h <;> simp [lateOp, h, hs]

theorem lateOp_effect (closes : Bool) (stops : State → List Stop) (act eff : State → State) (s : State)
    (h : s.ctx.mode = .effect) : lateOp closes stops act eff s = .next (eff s) := by simp [lateOp, h]

theorem lateOp_goesOn (closes : Bool) (stops : State → List Stop) (act eff : State → State) (s : State) :
    goesOn (lateOp closes stops act eff s) := by
  unfold lateOp
  split
  · trivial
  · trivial
  · trivial
  · split
    · trivial
    · split
      · simp only []
        split <;> trivial
      · trivial

/-! ## Sources -/

@[simp] theorem State.srcStops_nil (s : State) : s.srcStops [] = [] := rfl

theorem State.srcStops_cons (s : State) (x : Src) (l : List Src) :
    s.srcStops (x :: l) = s.srcStops [x] ++ s.srcStops l := by
  simp only [State.srcStops, List.filterMap_cons, List.filterMap_nil]
  split <;> simp_all

theorem State.srcStops_append (s : State) (l m : List Src) : s.srcStops (l ++ m) = s.srcStops l ++ s.srcStops m := by
  simp [State.srcStops, List.filterMap_append]

/-- Sources that stop nothing one by one stop nothing together. -/
theorem State.srcStops_cons_nil {s : State} {x : Src} {l : List Src} (hx : s.srcStops [x] = [])
    (hl : s.srcStops l = []) : s.srcStops (x :: l) = [] := by rw [State.srcStops_cons, hx, hl]; rfl

theorem State.srcStops_s (s : State) (r : BitVec 6) (b : Nat) (h : s.sOk r) : s.srcStops [.s r.toNat b] = [] := by
  obtain ⟨h1, h2⟩ := h
  by_cases hr : r.toNat = 0
  · simp [State.srcStops, hr, Core.spoi]
  · simp [State.srcStops, hr, h1 hr, h2]

theorem State.srcStops_v (s : State) (r : BitVec 5) (b : Nat) (h : s.vOk r) : s.srcStops [.v r.toNat b] = [] := by
  simp [State.srcStops, h.1, h.2]

theorem State.srcStops_k (s : State) (r : BitVec 3) (b : Nat) (h : s.kOk r) : s.srcStops [.k r.toNat b] = [] := by
  by_cases hr : r.toNat = 0
  · simp [State.srcStops, hr]
  · simp [State.srcStops, hr, h hr]

theorem State.srcStops_p (s : State) (h : s.pOk) : s.srcStops [.p] = [] := by
  simp [State.srcStops, show BadReg.p ∉ s.cur.bad from h]

theorem State.srcStops_acc (s : State) (n b : Nat) (h : s.accOk n) : s.srcStops [.acc n b] = [] := by
  simp [State.srcStops, show BadReg.acc n ∉ s.cur.bad from h]

/-- A scalar register that can be read is one whose value may be looked at. -/
theorem State.clean_of_sOk (s : State) (r : BitVec 6) (h : s.sOk r) : s.clean r = true := by
  simp [State.clean, State.srcStops_s s r 0 h]

/-- A hold that does not apply adds nothing. -/
@[simp] theorem State.holdIf_false (s : State) (n : Nat) : s.holdIf false n = [] := rfl

theorem State.privStop_atH (s : State) (h : s.cur.atH = true) : s.privStop = [] := by simp [State.privStop, h]

/-! ## Results in flight (R30, R63) -/

/-- A result goes to the end of the table of the privilege at which its op was issued. -/
theorem Core.push_T (c : Core) (cl : PendCls) (r l : Nat) (v : Vec) (p : Option Poison) (z : Option Nat)
    (h : c.atH = false) :
    c.push cl r l v p z = { c with pend := c.pend ++ [⟨true, cl, r, l, p, 0, v, c.issued, z, 0, 0⟩] } := by
  simp [Core.push, h]

theorem Core.push_H (c : Core) (cl : PendCls) (r l : Nat) (v : Vec) (p : Option Poison) (z : Option Nat)
    (h : c.atH = true) :
    c.push cl r l v p z = { c with hpend := c.hpend ++ [⟨true, cl, r, l, p, 0, v, c.issued, z, 0, 0⟩] } := by
  simp [Core.push, h]

@[simp] theorem Core.push_atH (c : Core) (cl : PendCls) (r l : Nat) (v : Vec) (p : Option Poison) (z : Option Nat) :
    (c.push cl r l v p z).atH = c.atH := by simp [Core.atH, Core.cr]

@[simp] theorem State.putS_zero (s : State) (l : Nat) (v : Word) : s.putS 0 l v = s := rfl

@[simp] theorem State.putP_zero (s : State) (b : Bool) : s.putP 0 b = s := rfl

@[simp] theorem State.putK_zero (s : State) (l : Nat) (v : Word) : s.putK 0 l v = s := rfl

/-- The results a state owes differ from another's only by results added: nothing else has changed. -/
def State.owesMore (s t : State) : Prop :=
  ∃ p h, t = s.modCur fun c => { c with pend := c.pend ++ p, hpend := c.hpend ++ h }

theorem State.modCur_modCur (s : State) (f g : Core → Core) :
    (s.modCur f).modCur g = (s.modCur f).setCore s.ctx.core (g (f s.cur)) := by
  simp [State.modCur, State.modCore, State.cur]

end Sys2Proof.Machine
end

