-- ==== Sys2Proof/Laws/Elements.lean ====
section
/-! SUPPORT. The elements of vectors (R102, R104): a vector made of elements gives them back, and what an element op puts
into each element. -/

namespace Sys2Proof.Machine

@[simp] theorem splitNat_length (w n x : Nat) : (splitNat w n x).length = n := by
  induction n generalizing x with
  | zero => rfl
  | succ n ih => simp [splitNat, ih]

/-- An element of a split number. -/
theorem splitNat_getD (w n x e : Nat) (h : e < n) : (splitNat w n x).getD e 0 = x / 2 ^ (w * e) % 2 ^ w := by
  induction n generalizing x e with
  | zero => omega
  | succ n ih =>
    cases e with
    | zero => simp [splitNat]
    | succ e =>
      have : (splitNat w (n + 1) x).getD (e + 1) 0 = (splitNat w n (x / 2 ^ w)).getD e 0 := rfl
      rw [this, ih _ _ (by omega), Nat.div_div_eq_div_mul, ← Nat.pow_add, Nat.mul_succ, Nat.add_comm]

/-- An element of a joined number. -/
theorem joinNat_elem (w : Nat) (l : List Nat) (e : Nat) :
    joinNat w l / 2 ^ (w * e) % 2 ^ w = l.getD e 0 % 2 ^ w := by
  induction l generalizing e with
  | nil => simp [joinNat]
  | cons x l ih =>
    have hp : 0 < 2 ^ w := Nat.two_pow_pos w
    cases e with
    | zero => simp [joinNat, Nat.add_mul_mod_self_left]
    | succ e =>
      have : joinNat w (x :: l) / 2 ^ (w * (e + 1)) = joinNat w l / 2 ^ (w * e) := by
        rw [Nat.mul_succ, Nat.add_comm, Nat.pow_add, ← Nat.div_div_eq_div_mul]
        congr 1
        rw [joinNat, Nat.add_mul_div_left _ _ hp, Nat.div_eq_of_lt (Nat.mod_lt _ hp), Nat.zero_add]
      rw [this, ih]
      rfl

theorem joinNat_lt (w : Nat) (l : List Nat) : joinNat w l < 2 ^ (w * l.length) := by
  induction l with
  | nil => simp [joinNat]
  | cons x l ih =>
    have hp : 0 < 2 ^ w := Nat.two_pow_pos w
    have hx : x % 2 ^ w < 2 ^ w := Nat.mod_lt _ hp
    have h1 : joinNat w l + 1 ≤ 2 ^ (w * l.length) := ih
    have h2 : 2 ^ (w * (x :: l).length) = 2 ^ w * 2 ^ (w * l.length) := by
      rw [List.length_cons, Nat.mul_succ, Nat.add_comm, Nat.pow_add]
    have h3 : 2 ^ w * (joinNat w l + 1) ≤ 2 ^ w * 2 ^ (w * l.length) := Nat.mul_le_mul_left _ h1
    rw [h2, joinNat]
    rw [Nat.mul_succ] at h3
    omega

/-- The elements of a vector one by one. -/
theorem Vec.elems_getD (w : Nat) (v : Vec) (e : Nat) (h : e < 2048 / w) : (Vec.elems w v).getD e 0 = Vec.elem w v e :=
  splitNat_getD w _ _ e h

@[simp] theorem Vec.elems_length (w : Nat) (v : Vec) : (Vec.elems w v).length = 2048 / w := splitNat_length _ _ _

/-- A vector made of elements gives them back. -/
theorem Vec.elem_ofElems (w : Nat) (l : List Nat) (e : Nat) (hl : w * l.length ≤ 2048) :
    Vec.elem w (Vec.ofElems w l) e = l.getD e 0 % 2 ^ w := by
  have h1 : joinNat w l < 2 ^ 2048 := Nat.lt_of_lt_of_le (joinNat_lt w l) (Nat.pow_le_pow_right (Nat.succ_pos 1) hl)
  rw [Vec.elem, Vec.ofElems, BitVec.toNat_ofNat, Nat.mod_eq_of_lt h1, joinNat_elem]

/-- Every element lies below 2^w. -/
theorem Vec.elem_lt (w : Nat) (v : Vec) (e : Nat) : Vec.elem w v e < 2 ^ w := Nat.mod_lt _ (Nat.two_pow_pos w)

theorem getD_map {α β : Type} (f : α → β) (l : List α) (e : Nat) (d : α) (d' : β) (h : e < l.length) :
    (l.map f).getD e d' = f (l.getD e d) := by
  simp [List.getD_eq_getElem?_getD, List.getElem?_eq_getElem h]

theorem getD_zip {α β : Type} (l : List α) (m : List β) (e : Nat) (a : α) (b : β) (hl : e < l.length) (hm : e < m.length) :
    (l.zip m).getD e (a, b) = (l.getD e a, m.getD e b) := by
  have h : e < (l.zip m).length := by simp; omega
  simp [List.getD_eq_getElem?_getD, List.getElem?_eq_getElem h, hl, hm]

theorem getD_zipIdx {α : Type} (l : List α) (e : Nat) (a : α) (n : Nat) (h : e < l.length) :
    l.zipIdx.getD e (a, n) = (l.getD e a, e) := by
  simp [List.getD_eq_getElem?_getD, h]

/-- An element of a merged list (R104). -/
theorem mergeElems_getD (m : Word) (w : Nat) (new old : List Nat) (e : Nat) (h : e < new.length) (ho : e < old.length) :
    (mergeElems m w new old).getD e 0 = if active m e w then new.getD e 0 else old.getD e 0 := by
  unfold mergeElems
  have hz : e < (new.zip old).length := by simp; omega
  rw [getD_map _ _ e ((0, 0), 0) 0 (by simpa using hz), getD_zipIdx _ e _ _ hz, getD_zip _ _ _ _ _ h ho]

@[simp] theorem mergeElems_length (m : Word) (w : Nat) (new old : List Nat) :
    (mergeElems m w new old).length = min new.length old.length := by simp [mergeElems]

theorem zip3_length (f : Nat → Nat → Nat → Nat → Nat) (a b c : List Nat) :
    (zip3 f a b c).length = min (min a.length b.length) c.length := by simp [zip3]

theorem zip3_getD (f : Nat → Nat → Nat → Nat → Nat) (a b c : List Nat) (e : Nat) (ha : e < a.length) (hb : e < b.length)
    (hc : e < c.length) : (zip3 f a b c).getD e 0 = f e (a.getD e 0) (b.getD e 0) (c.getD e 0) := by
  unfold zip3
  have h1 : e < (a.zip b).length := by simp; omega
  have h2 : e < ((a.zip b).zip c).length := by simp; omega
  rw [getD_map _ _ e (((0, 0), 0), 0) 0 (by simpa using h2), getD_zipIdx _ e _ _ h2, getD_zip _ _ _ _ _ h1 hc,
    getD_zip _ _ _ _ _ ha hb]

/-- The widths of Table 5-1 divide 2,048. -/
theorem Ty.width_mul (t : Ty) : t.width * (2048 / t.width) = 2048 := by cases t <;> rfl

/-- An element after a merge: the new one where the mask makes it active, else the old one of the destination (R104). -/
theorem State.elem_merged (s : State) (vd : BitVec 5) (k : BitVec 3) (t : Ty) (new : List Nat) (e : Nat)
    (hl : new.length = 2048 / t.width) (he : e < 2048 / t.width) :
    Vec.elem t.width (s.merged vd k t.width new) e =
      if k = 0 ∨ active (s.cur.kreg k.toNat) e t.width = true then new.getD e 0 % 2 ^ t.width
      else Vec.elem t.width (s.cur.vreg vd.toNat) e := by
  have hw : t.width * new.length ≤ 2048 := Nat.le_of_eq (by rw [hl, Ty.width_mul t])
  unfold State.merged
  by_cases hk : k = 0
  · simp only [hk, if_true, true_or]
    exact Vec.elem_ofElems _ _ _ hw
  · have hv : (s.cur.velems t.width vd.toNat).length = 2048 / t.width := Vec.elems_length _ _
    simp only [hk, if_false, false_or]
    rw [Vec.elem_ofElems _ _ _ (Nat.le_of_eq (by rw [mergeElems_length, hl, hv, Nat.min_self, Ty.width_mul t])),
      mergeElems_getD _ _ _ _ _ (by omega) (by omega)]
    split
    · rfl
    · rw [show (s.cur.velems t.width vd.toNat).getD e 0 = Vec.elem t.width (s.cur.vreg vd.toNat) e from
        Vec.elems_getD _ _ _ he]
      exact Nat.mod_eq_of_lt (Vec.elem_lt _ _ _)

/-- The sources of an op of class VR stop nothing when they can be read. -/
theorem vrStops_eq_nil (n : Nat) (merge : Bool) (x : ClsVR) (s : State) (ha : 1 ≤ n → s.vOk x.va)
    (hb : 2 ≤ n → s.vOk x.vb) (hc : 3 ≤ n → s.vOk x.vc) (hd : merge = true → x.k ≠ 0 → s.vOk x.vd) (hk : s.kOk x.k) :
    vrStops n merge x s = [] := by
  unfold vrStops
  rw [State.srcStops_append, State.srcStops_append]
  have h1 : s.srcStops (if merge ∧ x.k ≠ 0 then [.v x.vd.toNat 0] else []) = [] := by
    split
    · rename_i h; exact s.srcStops_v _ _ (hd h.1 h.2)
    · rfl
  have h2 : s.srcStops (if x.k ≠ 0 then [.k x.k.toNat 20] else []) = [] := by
    split
    · exact s.srcStops_k _ _ hk
    · rfl
  have h3 : s.srcStops ([Src.v x.va.toNat 5, .v x.vb.toNat 10, .v x.vc.toNat 15].take n) = [] := by
    match n with
    | 0 => rfl
    | 1 => exact s.srcStops_v _ _ (ha (Nat.le_refl _))
    | 2 => exact State.srcStops_cons_nil (s.srcStops_v _ _ (ha (by decide))) (s.srcStops_v _ _ (hb (Nat.le_refl _)))
    | n + 3 =>
      exact State.srcStops_cons_nil (s.srcStops_v _ _ (ha (by omega)))
        (State.srcStops_cons_nil (s.srcStops_v _ _ (hb (by omega))) (by
          simpa using s.srcStops_v x.vc 15 (hc (by omega))))
  rw [h1, h2, h3]; rfl

/-- The sources of an op of class VS. -/
theorem vsStops_eq_nil (readVa merge : Bool) (x : ClsVS) (s : State) (ha : readVa = true → s.vOk x.va) (hs : s.sOk x.s)
    (hd : merge = true → x.k ≠ 0 → s.vOk x.vd) (hk : s.kOk x.k) : vsStops readVa merge x s = [] := by
  unfold vsStops
  rw [State.srcStops_append, State.srcStops_append, State.srcStops_append]
  have h1 : s.srcStops (if merge ∧ x.k ≠ 0 then [.v x.vd.toNat 0] else []) = [] := by
    split
    · rename_i h; exact s.srcStops_v _ _ (hd h.1 h.2)
    · rfl
  have h2 : s.srcStops (if x.k ≠ 0 then [.k x.k.toNat 20] else []) = [] := by
    split
    · exact s.srcStops_k _ _ hk
    · rfl
  have h3 : s.srcStops (if readVa = true then [.v x.va.toNat 5] else []) = [] := by
    split
    · rename_i h; exact s.srcStops_v _ _ (ha h)
    · rfl
  rw [h1, h2, h3, s.srcStops_s _ _ hs]; rfl

/-- The sources of a rounding mode stop nothing when they can be read. -/
theorem State.srcStops_sources (s : State) (rm : Rm) (h : s.drawOk rm) : s.srcStops (rmSources rm) = [] := by
  unfold rmSources
  split
  · rename_i hr
    have h6 : BadReg.mp 6 ∉ s.cur.bad := (h hr).1
    have h7 : BadReg.mp 7 ∉ s.cur.bad := (h hr).2
    simp [State.srcStops, h6, h7]
  · rfl

/-- What an element op of class VR puts into flight: each element from the elements of its sources at the same place. -/
theorem vElem_next (n : Nat) (lat : Ty → Nat) (f : ElemFn) (x : ClsVR) (s : State) (h : s.acts)
    (hs : vrStops n true x s = []) (hr : s.drawOk x.rm) :
    ∃ v, vElem n lat f x s = .next (s.putV x.vd.toNat (lat x.ty) v) ∧ ∀ e < 2048 / x.ty.width,
      Vec.elem x.ty.width v e =
        if x.k = 0 ∨ active (s.cur.kreg x.k.toNat) e x.ty.width = true then
          f x.ty x.rm (s.cur.drawFor x.rm e) (Vec.elem x.ty.width (s.cur.vreg x.va.toNat) e)
            (Vec.elem x.ty.width (s.cur.vreg x.vb.toNat) e) (Vec.elem x.ty.width (s.cur.vreg x.vc.toNat) e) % 2 ^ x.ty.width
        else Vec.elem x.ty.width (s.cur.vreg x.vd.toNat) e := by
  refine ⟨_, issueOp_of_nil _ _ s h (by simp only [hs, s.srcStops_sources x.rm hr, List.append_nil]), fun e he => ?_⟩
  have hv (r : BitVec 5) : (s.cur.velems x.ty.width r.toNat).length = 2048 / x.ty.width := Vec.elems_length _ _
  have hg (r : BitVec 5) : (s.cur.velems x.ty.width r.toNat).getD e 0 = Vec.elem x.ty.width (s.cur.vreg r.toNat) e :=
    Vec.elems_getD _ _ _ he
  rw [State.elem_merged s x.vd x.k x.ty _ e (by simp only [zip3_length, hv, Nat.min_self]) he,
    zip3_getD _ _ _ _ e (by rw [hv]; exact he) (by rw [hv]; exact he) (by rw [hv]; exact he), hg, hg, hg]

/-- The same for an op with the scalar operand in place of B. -/
theorem vElemS_next (lat : Ty → Nat) (readVa : Bool) (f : ElemFn) (x : ClsVS) (s : State) (h : s.acts)
    (hs : vsStops readVa true x s = []) (hr : s.drawOk x.rm) :
    ∃ v, vElemS lat readVa f x s = .next (s.putV x.vd.toNat (lat x.ty) v) ∧ ∀ e < 2048 / x.ty.width,
      Vec.elem x.ty.width v e =
        if x.k = 0 ∨ active (s.cur.kreg x.k.toNat) e x.ty.width = true then
          f x.ty x.rm (s.cur.drawFor x.rm e) (Vec.elem x.ty.width (s.cur.vreg x.va.toNat) e)
            ((s.sv x.s).toNat % 2 ^ x.ty.width) 0 % 2 ^ x.ty.width
        else Vec.elem x.ty.width (s.cur.vreg x.vd.toNat) e := by
  refine ⟨_, issueOp_of_nil _ _ s h (by simp only [hs, s.srcStops_sources x.rm hr, List.append_nil]), fun e he => ?_⟩
  have hv : (s.cur.velems x.ty.width x.va.toNat).length = 2048 / x.ty.width := Vec.elems_length _ _
  have hg : (s.cur.velems x.ty.width x.va.toNat).getD e 0 = Vec.elem x.ty.width (s.cur.vreg x.va.toNat) e :=
    Vec.elems_getD _ _ _ he
  rw [State.elem_merged s x.vd x.k x.ty _ e (by simp [hv]) he,
    getD_map _ _ e (0, 0) 0 (by simpa [hv] using he), getD_zipIdx _ e _ _ (by rw [hv]; exact he), hg]

end Sys2Proof.Machine
end

