-- ==== Sys2Proof/Laws/Encoding.lean ====
section
/-! SUPPORT. What a slot field gives back when it is decoded: one law per operand class of Table 1-9, from which the
per-instruction laws of Laws/PerInstr.lean follow, and the small laws of the type, rounding, scope and ordering codes. -/

namespace Sys2Proof

theorem Ty.ofCode_code (t : Ty) : Ty.ofCode t.code = t := by cases t <;> rfl
theorem Rm.ofCode_code (t : Rm) : Rm.ofCode t.code = t := by cases t <;> rfl
theorem Scope.ofCode_code (t : Scope) : Scope.ofCode t.code = t := by cases t <;> rfl
theorem Ordering.ofCode_code (t : Ordering) : Ordering.ofCode t.code = t := by cases t <;> rfl
theorem Ty.code_le (t : Ty) : t.code ≤ 12 := by cases t <;> decide
theorem Rm.code_le (t : Rm) : t.code ≤ 4 := by cases t <;> decide
theorem Scope.code_le (t : Scope) : t.code ≤ 4 := by cases t <;> decide
theorem Ordering.code_le (t : Ordering) : t.code ≤ 3 := by cases t <;> decide

theorem Ty.code_inj (t u : Ty) : t.code = u.code ↔ t = u := by cases t <;> cases u <;> decide
theorem Ty.isInt_iff (t : Ty) : t.isInt = true ↔ t.code < 8 := by cases t <;> decide
theorem Ty.isF_iff (t : Ty) : t.isF = true ↔ 8 ≤ t.code ∧ t.code ≤ 10 := by cases t <;> decide
theorem Ty.isW_iff (t : Ty) : t.isW = true ↔ t.code ≤ 10 := by cases t <;> decide
theorem Ty.isSigned_iff (t : Ty) : t.isSigned = true ↔ t.code < 4 := by cases t <;> decide
theorem Ty.isCmp_iff (t : Ty) :
    t.isCmp = true ↔ t.code = 2 ∨ t.code = 3 ∨ t.code = 6 ∨ t.code = 7 ∨ t.code = 8 := by
  cases t <;> decide
theorem Ty.eq_s8_iff (t : Ty) : t = .s8 ↔ t.code = 0 := by cases t <;> decide
theorem Ty.eq_f32_iff (t : Ty) : t = .f32 ↔ t.code = 8 := by cases t <;> decide
theorem Ty.eq_n32_iff (t : Ty) : t = .n32 ↔ t.code = 6 := by cases t <;> decide
theorem Rm.eq_rne_iff (t : Rm) : t = .rne ↔ t.code = 0 := by cases t <;> decide
theorem rmFloatOnly_iff (r : Rm) (t : Ty) :
    rmFloatOnly r t = true ↔ r.code = 0 ∨ (8 ≤ t.code ∧ t.code ≤ 10) := by
  cases r <;> cases t <;> decide
theorem Scope.eq_core_iff (t : Scope) : t = .core ↔ t.code = 0 := by cases t <;> decide
theorem Scope.eq_pod_iff (t : Scope) : t = .pod ↔ t.code = 4 := by cases t <;> decide
theorem Scope.remote_iff (t : Scope) : (t = .die ∨ t = .pkg) ∨ t = .pod ↔ 2 ≤ t.code := by cases t <;> decide
theorem barIdOk_scope (s : Scope) (i : Nat) (h : barIdOk s i = true) : 1 ≤ s.code := by
  cases s <;> first | exact absurd h Bool.false_ne_true | decide
theorem engineOrderOk_iff (a r : Bool) (s : Scope) :
    engineOrderOk a r s = true ↔ (a = true ∨ r = true) ∨ s.code = 0 := by
  cases a <;> cases r <;> cases s <;> decide

/-- A flag is the one its bit makes. -/
theorem bool_of_bit {n : Nat} {b : Bool} (h : n = b.toNat) : (n == 1) = b := by
  subst h; cases b <;> rfl

/-- A bit vector is the one its number makes. -/
theorem ofNat_eq_of_mod {w : Nat} {n : Nat} {b : BitVec w} (h : n % 2 ^ w = b.toNat) : BitVec.ofNat w n = b :=
  BitVec.eq_of_toNat_eq (by rw [BitVec.toNat_ofNat, h])

/-- Where every bit of a range is clear, there is no lowest set bit. -/
theorem lowestSet_none (n lo w : Nat) (h : ∀ i < w, bitOf n (lo + i) = false) : lowestSet n lo w = none := by
  unfold lowestSet
  rw [List.find?_eq_none.2]
  · rfl
  · intro i hi
    rw [h i (List.mem_range.1 hi)]; decide

/-- A bit of a field that is zero is clear. -/
theorem bitOf_of_field_zero (n lo w i : Nat) (hi : i < w) (h : fieldOf n lo w = 0) : bitOf n (lo + i) = false := by
  have hb : (fieldOf n lo w).testBit i = n.testBit (lo + i) := by
    unfold fieldOf
    rw [Nat.testBit_mod_two_pow, Nat.testBit_div_two_pow, decide_eq_true hi, Bool.true_and, Nat.add_comm]
  have : n.testBit (lo + i) = false := by rw [← hb, h, Nat.zero_testBit]
  unfold bitOf
  rw [Nat.testBit_eq_decide_div_mod_eq] at this
  simpa using this

/-- A field that is zero has no set bit. -/
theorem lowestSet_of_field_zero (n lo w : Nat) (h : fieldOf n lo w = 0) : lowestSet n lo w = none :=
  lowestSet_none n lo w fun i hi => bitOf_of_field_zero n lo w i hi h

/-- Operand bits that lie within a mask leave nothing outside it. -/
theorem mask_none (n mask : Nat) (h : ∀ i < 32, mask.testBit i = false → n.testBit i = false) :
    lowestSet (n &&& (0xFFFFFFFF ^^^ mask)) 0 32 = none := by
  apply lowestSet_none
  intro i hi
  have hm : (n &&& (0xFFFFFFFF ^^^ mask)).testBit i = false := by
    rw [Nat.testBit_and, Nat.testBit_xor]
    cases hb : mask.testBit i with
    | false => rw [h i hi hb]; rfl
    | true =>
      have : (0xFFFFFFFF : Nat).testBit i = true := by
        have := Nat.testBit_two_pow_sub_one 32 i
        simpa [hi] using this
      rw [this]; simp
  unfold bitOf
  rw [Nat.testBit_eq_decide_div_mod_eq] at hm
  simpa using hm

/-- Operand bits below a width lie within a mask that lists every bit below it. -/
theorem mask_of_lt {n mask k : Nat} (hn : n < 2 ^ k) (hm : ∀ i < 32, mask.testBit i = false → k ≤ i) :
    ∀ i < 32, mask.testBit i = false → n.testBit i = false := fun i hi hb =>
  Nat.testBit_lt_two_pow (Nat.lt_of_lt_of_le hn (Nat.pow_le_pow_right (by decide) (hm i hi hb)))

/-- A slot field decodes to what its row builds where no operand bit offends (R10, R20 to R22). -/
theorem decodeSlot_of_row {sl : Slot} {m : BitVec 64} {code n : Nat} {r : OpRow} {i : Instr}
    (hc : 0 < code ∧ code < 256) (hr : rowOf sl m code = some r)
    (hm : ∀ i < 32, r.mask.testBit i = false → n.testBit i = false)
    (hz : ∀ z ∈ r.zeros, fieldOf n z.1 z.2 = 0) (hl : ∀ l ∈ r.lims, l.2 n = true)
    (ho : ∀ p, r.orderAt = some p → bitOf n p.1 = true ∨ bitOf n (p.1 + 1) = true ∨ fieldOf n p.2 3 = 0)
    (hb : r.build n = i) : decodeSlot sl m (code + 256 * n) = some i := by
  have h1 : (code + 256 * n) % 256 = code := by omega
  have h2 : (code + 256 * n) / 256 = n := by omega
  have h3 : code ≠ 0 := by omega
  have hzs : r.zeros.filterMap (fun z => lowestSet n z.1 z.2) = [] :=
    List.filterMap_eq_nil_iff.2 fun z hz' => lowestSet_of_field_zero n z.1 z.2 (hz z hz')
  have hls : (r.lims.filterMap fun l => if l.2 n then none else some l.1) = [] :=
    List.filterMap_eq_nil_iff.2 fun l hl' => if_pos (hl l hl')
  have hoff : r.offences n = [] := by
    unfold OpRow.offences
    rw [mask_none n r.mask hm, hzs, hls]
    cases hp : r.orderAt with
    | none => rfl
    | some p =>
      rcases ho p hp with h | h | h
      · simp [h]
      · simp [h]
      · simp [lowestSet_of_field_zero n p.2 3 h]
  unfold decodeSlot slotOffences slotInstr
  simp only [h1, h2, h3, hr, hoff, hb, if_false, List.map_nil, Option.map_some, Option.getD_some, if_true]

/-- Reading back operand bits of class SR. -/
theorem decSR_encSR (x : ClsSR) : decSR (encSR x) = x := by
  have := x.d.isLt; have := x.a.isLt; have := x.b.isLt
  cases x
  simp only [encSR, decSR, ClsSR.mk.injEq] at *
  refine ⟨?_, ?_, ?_⟩
  · exact ofNat_eq_of_mod (by omega)
  · exact ofNat_eq_of_mod (by omega)
  · exact ofNat_eq_of_mod (by omega)

/-- The operand bits of class SR lie within its mask. -/
theorem encSR_mask (x : ClsSR) : ∀ i < 32, (0x3ffff : Nat).testBit i = false → (encSR x).testBit i = false := by
  have := x.d.isLt; have := x.a.isLt; have := x.b.isLt
  exact mask_of_lt (k := 18) (by unfold encSR; omega) (by decide)

theorem encSR_at0 (x : ClsSR) : fieldOf (encSR x) 0 6 = x.d.toNat := by
  have := x.d.isLt; have := x.a.isLt; have := x.b.isLt
  unfold fieldOf encSR; omega
theorem encSR_at12 (x : ClsSR) : fieldOf (encSR x) 12 6 = x.b.toNat := by
  have := x.d.isLt; have := x.a.isLt; have := x.b.isLt
  unfold fieldOf encSR; omega
theorem encSR_at6 (x : ClsSR) : fieldOf (encSR x) 6 6 = x.a.toNat := by
  have := x.d.isLt; have := x.a.isLt; have := x.b.isLt
  unfold fieldOf encSR; omega

/-- Reading back operand bits of class SS. -/
theorem decSS_encSS (x : ClsSS) : decSS (encSS x) = x := by
  have := x.d.isLt; have := x.a.isLt; have := x.b.isLt; have := x.p.isLt
  cases x
  simp only [encSS, decSS, ClsSS.mk.injEq] at *
  refine ⟨?_, ?_, ?_, ?_⟩
  · exact ofNat_eq_of_mod (by omega)
  · exact ofNat_eq_of_mod (by omega)
  · exact ofNat_eq_of_mod (by omega)
  · exact ofNat_eq_of_mod (by omega)

/-- The operand bits of class SS lie within its mask. -/
theorem encSS_mask (x : ClsSS) : ∀ i < 32, (0x3fffff : Nat).testBit i = false → (encSS x).testBit i = false := by
  have := x.d.isLt; have := x.a.isLt; have := x.b.isLt; have := x.p.isLt
  exact mask_of_lt (k := 22) (by unfold encSS; omega) (by decide)


/-- Reading back operand bits of class SA. -/
theorem decSA_encSA (x : ClsSA) : decSA (encSA x) = x := by
  have := x.d.isLt; have := x.a.isLt; have := x.b.isLt; have := x.sh.isLt
  cases x
  simp only [encSA, decSA, ClsSA.mk.injEq] at *
  refine ⟨?_, ?_, ?_, ?_⟩
  · exact ofNat_eq_of_mod (by omega)
  · exact ofNat_eq_of_mod (by omega)
  · exact ofNat_eq_of_mod (by omega)
  · exact ofNat_eq_of_mod (by omega)

/-- The operand bits of class SA lie within its mask. -/
theorem encSA_mask (x : ClsSA) : ∀ i < 32, (0x1fffff : Nat).testBit i = false → (encSA x).testBit i = false := by
  have := x.d.isLt; have := x.a.isLt; have := x.b.isLt; have := x.sh.isLt
  exact mask_of_lt (k := 21) (by unfold encSA; omega) (by decide)


/-- Reading back operand bits of class S4. -/
theorem decS4_encS4 (x : ClsS4) : decS4 (encS4 x) = x := by
  have := x.d.isLt; have := x.a.isLt; have := x.b.isLt; have := x.c.isLt
  cases x
  simp only [encS4, decS4, ClsS4.mk.injEq] at *
  refine ⟨?_, ?_, ?_, ?_⟩
  · exact ofNat_eq_of_mod (by omega)
  · exact ofNat_eq_of_mod (by omega)
  · exact ofNat_eq_of_mod (by omega)
  · exact ofNat_eq_of_mod (by omega)

/-- The operand bits of class S4 lie within its mask. -/
theorem encS4_mask (x : ClsS4) : ∀ i < 32, (0xffffff : Nat).testBit i = false → (encS4 x).testBit i = false := by
  have := x.d.isLt; have := x.a.isLt; have := x.b.isLt; have := x.c.isLt
  exact mask_of_lt (k := 24) (by unfold encS4; omega) (by decide)


/-- Reading back operand bits of class SI. -/
theorem decSI_encSI (x : ClsSI) : decSI (encSI x) = x := by
  have := x.d.isLt; have := x.a.isLt; have := x.imm.isLt
  cases x
  simp only [encSI, decSI, ClsSI.mk.injEq] at *
  refine ⟨?_, ?_, ?_⟩
  · exact ofNat_eq_of_mod (by omega)
  · exact ofNat_eq_of_mod (by omega)
  · exact ofNat_eq_of_mod (by omega)

/-- The operand bits of class SI lie within its mask. -/
theorem encSI_mask (x : ClsSI) : ∀ i < 32, (0xffffffff : Nat).testBit i = false → (encSI x).testBit i = false := by
  have := x.d.isLt; have := x.a.isLt; have := x.imm.isLt
  exact mask_of_lt (k := 32) (by unfold encSI; omega) (by decide)

theorem encSI_at18 (x : ClsSI) : fieldOf (encSI x) 18 14 = x.imm.toNat / 64 := by
  have := x.d.isLt; have := x.a.isLt; have := x.imm.isLt
  unfold fieldOf encSI; omega
theorem encSI_at6 (x : ClsSI) : fieldOf (encSI x) 6 6 = x.a.toNat := by
  have := x.d.isLt; have := x.a.isLt; have := x.imm.isLt
  unfold fieldOf encSI; omega

/-- Reading back operand bits of class SL. -/
theorem decSL_encSL (x : ClsSL) (m : BitVec 64) (h : x.imm = m) : decSL m (encSL x) = x := by
  have := x.d.isLt; have := x.a.isLt
  cases x
  simp only [encSL, decSL, ClsSL.mk.injEq] at *
  refine ⟨?_, ?_, ?_⟩
  · exact ofNat_eq_of_mod (by omega)
  · exact ofNat_eq_of_mod (by omega)
  · exact h.symm

/-- The operand bits of class SL lie within its mask. -/
theorem encSL_mask (x : ClsSL) : ∀ i < 32, (0xfff : Nat).testBit i = false → (encSL x).testBit i = false := by
  have := x.d.isLt; have := x.a.isLt
  exact mask_of_lt (k := 12) (by unfold encSL; omega) (by decide)

theorem encSL_at0 (x : ClsSL) : fieldOf (encSL x) 0 6 = x.d.toNat := by
  have := x.d.isLt; have := x.a.isLt
  unfold fieldOf encSL; omega
theorem encSL_at6 (x : ClsSL) : fieldOf (encSL x) 6 6 = x.a.toNat := by
  have := x.d.isLt; have := x.a.isLt
  unfold fieldOf encSL; omega

/-- Reading back operand bits of class SP. -/
theorem decSP_encSP (x : ClsSP) : decSP (encSP x) = x := by
  have := x.pd.isLt; have := x.a.isLt; have := x.b.isLt
  cases x
  simp only [encSP, decSP, ClsSP.mk.injEq] at *
  refine ⟨?_, ?_, ?_⟩
  · exact ofNat_eq_of_mod (by omega)
  · exact ofNat_eq_of_mod (by omega)
  · exact ofNat_eq_of_mod (by omega)

/-- The operand bits of class SP lie within its mask. -/
theorem encSP_mask (x : ClsSP) : ∀ i < 32, (0xffff : Nat).testBit i = false → (encSP x).testBit i = false := by
  have := x.pd.isLt; have := x.a.isLt; have := x.b.isLt
  exact mask_of_lt (k := 16) (by unfold encSP; omega) (by decide)


/-- Reading back operand bits of class SPI. -/
theorem decSPI_encSPI (x : ClsSPI) : decSPI (encSPI x) = x := by
  have := x.pd.isLt; have := x.a.isLt; have := x.imm.isLt
  cases x
  simp only [encSPI, decSPI, ClsSPI.mk.injEq] at *
  refine ⟨?_, ?_, ?_⟩
  · exact ofNat_eq_of_mod (by omega)
  · exact ofNat_eq_of_mod (by omega)
  · exact ofNat_eq_of_mod (by omega)

/-- The operand bits of class SPI lie within its mask. -/
theorem encSPI_mask (x : ClsSPI) : ∀ i < 32, (0xffffffff : Nat).testBit i = false → (encSPI x).testBit i = false := by
  have := x.pd.isLt; have := x.a.isLt; have := x.imm.isLt
  exact mask_of_lt (k := 32) (by unfold encSPI; omega) (by decide)


/-- Reading back operand bits of class PL. -/
theorem decPL_encPL (x : ClsPL) : decPL (encPL x) = x := by
  have := x.pd.isLt; have := x.pa.isLt; have := x.pb.isLt; have := x.na.toNat_lt; have := x.nb.toNat_lt
  cases x
  simp only [encPL, decPL, ClsPL.mk.injEq] at *
  refine ⟨?_, ?_, ?_, ?_, ?_⟩
  · exact ofNat_eq_of_mod (by omega)
  · exact ofNat_eq_of_mod (by omega)
  · exact ofNat_eq_of_mod (by omega)
  · exact bool_of_bit (by omega)
  · exact bool_of_bit (by omega)

/-- The operand bits of class PL lie within its mask. -/
theorem encPL_mask (x : ClsPL) : ∀ i < 32, (0x3fff : Nat).testBit i = false → (encPL x).testBit i = false := by
  have := x.pd.isLt; have := x.pa.isLt; have := x.pb.isLt; have := x.na.toNat_lt; have := x.nb.toNat_lt
  exact mask_of_lt (k := 14) (by unfold encPL; omega) (by decide)

theorem encPL_at13 (x : ClsPL) : fieldOf (encPL x) 13 1 = x.nb.toNat := by
  have := x.pd.isLt; have := x.pa.isLt; have := x.pb.isLt; have := x.na.toNat_lt; have := x.nb.toNat_lt
  unfold fieldOf encPL; omega
theorem encPL_at8 (x : ClsPL) : fieldOf (encPL x) 8 4 = x.pb.toNat := by
  have := x.pd.isLt; have := x.pa.isLt; have := x.pb.isLt; have := x.na.toNat_lt; have := x.nb.toNat_lt
  unfold fieldOf encPL; omega

/-- Reading back operand bits of class SB. -/
theorem decSB_encSB (x : ClsSB) : decSB (encSB x) = x := by
  have := x.d.isLt; have := x.a.isLt; have := x.pos.isLt; have := x.len1.isLt
  cases x
  simp only [encSB, decSB, ClsSB.mk.injEq] at *
  refine ⟨?_, ?_, ?_, ?_⟩
  · exact ofNat_eq_of_mod (by omega)
  · exact ofNat_eq_of_mod (by omega)
  · exact ofNat_eq_of_mod (by omega)
  · exact ofNat_eq_of_mod (by omega)

/-- The operand bits of class SB lie within its mask. -/
theorem encSB_mask (x : ClsSB) : ∀ i < 32, (0xffffff : Nat).testBit i = false → (encSB x).testBit i = false := by
  have := x.d.isLt; have := x.a.isLt; have := x.pos.isLt; have := x.len1.isLt
  exact mask_of_lt (k := 24) (by unfold encSB; omega) (by decide)

theorem encSB_at12 (x : ClsSB) : fieldOf (encSB x) 12 6 = x.pos.toNat := by
  have := x.d.isLt; have := x.a.isLt; have := x.pos.isLt; have := x.len1.isLt
  unfold fieldOf encSB; omega
theorem encSB_at18 (x : ClsSB) : fieldOf (encSB x) 18 6 = x.len1.toNat := by
  have := x.d.isLt; have := x.a.isLt; have := x.pos.isLt; have := x.len1.isLt
  unfold fieldOf encSB; omega

/-- Reading back operand bits of class SO. -/
theorem decSO_encSO (x : ClsSO) : decSO (encSO x) = x := by
  have := x.d.isLt; have := x.off.isLt
  cases x
  simp only [encSO, decSO, ClsSO.mk.injEq] at *
  refine ⟨?_, ?_⟩
  · exact ofNat_eq_of_mod (by omega)
  · exact ofNat_eq_of_mod (by omega)

/-- The operand bits of class SO lie within its mask. -/
theorem encSO_mask (x : ClsSO) : ∀ i < 32, (0xffffffff : Nat).testBit i = false → (encSO x).testBit i = false := by
  have := x.d.isLt; have := x.off.isLt
  exact mask_of_lt (k := 32) (by unfold encSO; omega) (by decide)

theorem encSO_at0 (x : ClsSO) : fieldOf (encSO x) 0 6 = x.d.toNat := by
  have := x.d.isLt; have := x.off.isLt
  unfold fieldOf encSO; omega

/-- Reading back operand bits of class SJ. -/
theorem decSJ_encSJ (x : ClsSJ) : decSJ (encSJ x) = x := by
  have := x.d.isLt; have := x.a.isLt
  cases x
  simp only [encSJ, decSJ, ClsSJ.mk.injEq] at *
  refine ⟨?_, ?_⟩
  · exact ofNat_eq_of_mod (by omega)
  · exact ofNat_eq_of_mod (by omega)

/-- The operand bits of class SJ lie within its mask. -/
theorem encSJ_mask (x : ClsSJ) : ∀ i < 32, (0xfff : Nat).testBit i = false → (encSJ x).testBit i = false := by
  have := x.d.isLt; have := x.a.isLt
  exact mask_of_lt (k := 12) (by unfold encSJ; omega) (by decide)

theorem encSJ_at0 (x : ClsSJ) : fieldOf (encSJ x) 0 6 = x.d.toNat := by
  have := x.d.isLt; have := x.a.isLt
  unfold fieldOf encSJ; omega

/-- Reading back operand bits of class SK. -/
theorem decSK_encSK (x : ClsSK) : decSK (encSK x) = x := by
  have := x.s.isLt; have := x.k.isLt
  cases x
  simp only [encSK, decSK, ClsSK.mk.injEq] at *
  refine ⟨?_, ?_⟩
  · exact ofNat_eq_of_mod (by omega)
  · exact ofNat_eq_of_mod (by omega)

/-- The operand bits of class SK lie within its mask. -/
theorem encSK_mask (x : ClsSK) : ∀ i < 32, (0x1ff : Nat).testBit i = false → (encSK x).testBit i = false := by
  have := x.s.isLt; have := x.k.isLt
  exact mask_of_lt (k := 9) (by unfold encSK; omega) (by decide)


/-- Reading back operand bits of class SCR. -/
theorem decSCR_encSCR (x : ClsSCR) : decSCR (encSCR x) = x := by
  have := x.s.isLt; have := x.creg.isLt
  cases x
  simp only [encSCR, decSCR, ClsSCR.mk.injEq] at *
  refine ⟨?_, ?_⟩
  · exact ofNat_eq_of_mod (by omega)
  · exact ofNat_eq_of_mod (by omega)

/-- The operand bits of class SCR lie within its mask. -/
theorem encSCR_mask (x : ClsSCR) : ∀ i < 32, (0x3ffff : Nat).testBit i = false → (encSCR x).testBit i = false := by
  have := x.s.isLt; have := x.creg.isLt
  exact mask_of_lt (k := 18) (by unfold encSCR; omega) (by decide)

theorem encSCR_at6 (x : ClsSCR) : fieldOf (encSCR x) 6 12 = x.creg.toNat := by
  have := x.s.isLt; have := x.creg.isLt
  unfold fieldOf encSCR; omega

/-- Reading back operand bits of class VR. -/
theorem decVR_encVR (x : ClsVR) : decVR (encVR x) = x := by
  have := x.vd.isLt; have := x.va.isLt; have := x.vb.isLt; have := x.vc.isLt; have := x.k.isLt; have := x.ty.code_le; have := x.rm.code_le
  cases x
  simp only [encVR, decVR, ClsVR.mk.injEq] at *
  refine ⟨?_, ?_, ?_, ?_, ?_, ?_, ?_⟩
  · exact ofNat_eq_of_mod (by omega)
  · exact ofNat_eq_of_mod (by omega)
  · exact ofNat_eq_of_mod (by omega)
  · exact ofNat_eq_of_mod (by omega)
  · exact ofNat_eq_of_mod (by omega)
  · exact (congrArg Ty.ofCode (by omega)).trans (Ty.ofCode_code _)
  · exact (congrArg Rm.ofCode (by omega)).trans (Rm.ofCode_code _)

/-- The operand bits of class VR lie within its mask. -/
theorem encVR_mask (x : ClsVR) : ∀ i < 32, (0x3fffffff : Nat).testBit i = false → (encVR x).testBit i = false := by
  have := x.vd.isLt; have := x.va.isLt; have := x.vb.isLt; have := x.vc.isLt; have := x.k.isLt; have := x.ty.code_le; have := x.rm.code_le
  exact mask_of_lt (k := 30) (by unfold encVR; omega) (by decide)

theorem encVR_at10 (x : ClsVR) : fieldOf (encVR x) 10 5 = x.vb.toNat := by
  have := x.vd.isLt; have := x.va.isLt; have := x.vb.isLt; have := x.vc.isLt; have := x.k.isLt; have := x.ty.code_le; have := x.rm.code_le
  unfold fieldOf encVR; omega
theorem encVR_at15 (x : ClsVR) : fieldOf (encVR x) 15 5 = x.vc.toNat := by
  have := x.vd.isLt; have := x.va.isLt; have := x.vb.isLt; have := x.vc.isLt; have := x.k.isLt; have := x.ty.code_le; have := x.rm.code_le
  unfold fieldOf encVR; omega
theorem encVR_at23 (x : ClsVR) : fieldOf (encVR x) 23 4 = x.ty.code := by
  have := x.vd.isLt; have := x.va.isLt; have := x.vb.isLt; have := x.vc.isLt; have := x.k.isLt; have := x.ty.code_le; have := x.rm.code_le
  unfold fieldOf encVR; omega
theorem encVR_at27 (x : ClsVR) : fieldOf (encVR x) 27 3 = x.rm.code := by
  have := x.vd.isLt; have := x.va.isLt; have := x.vb.isLt; have := x.vc.isLt; have := x.k.isLt; have := x.ty.code_le; have := x.rm.code_le
  unfold fieldOf encVR; omega
theorem encVR_at3 (x : ClsVR) : fieldOf (encVR x) 3 2 = x.vd.toNat / 8 := by
  have := x.vd.isLt; have := x.va.isLt; have := x.vb.isLt; have := x.vc.isLt; have := x.k.isLt; have := x.ty.code_le; have := x.rm.code_le
  unfold fieldOf encVR; omega

/-- Reading back operand bits of class VS. -/
theorem decVS_encVS (x : ClsVS) : decVS (encVS x) = x := by
  have := x.vd.isLt; have := x.va.isLt; have := x.s.isLt; have := x.k.isLt; have := x.ty.code_le; have := x.rm.code_le
  cases x
  simp only [encVS, decVS, ClsVS.mk.injEq] at *
  refine ⟨?_, ?_, ?_, ?_, ?_, ?_⟩
  · exact ofNat_eq_of_mod (by omega)
  · exact ofNat_eq_of_mod (by omega)
  · exact ofNat_eq_of_mod (by omega)
  · exact ofNat_eq_of_mod (by omega)
  · exact (congrArg Ty.ofCode (by omega)).trans (Ty.ofCode_code _)
  · exact (congrArg Rm.ofCode (by omega)).trans (Rm.ofCode_code _)

/-- The operand bits of class VS lie within its mask. -/
theorem encVS_mask (x : ClsVS) : ∀ i < 32, (0x3ff0ffff : Nat).testBit i = false → (encVS x).testBit i = false := by
  have := x.vd.isLt; have := x.va.isLt; have := x.s.isLt; have := x.k.isLt; have := x.ty.code_le; have := x.rm.code_le
  intro i hi hb
  rw [Nat.testBit_eq_decide_div_mod_eq]
  unfold encVS
  rw [decide_eq_false_iff_not]
  have hi' : i = 16 ∨ i = 17 ∨ i = 18 ∨ i = 19 ∨ i = 30 ∨ i = 31 := by revert i; decide
  rcases hi' with rfl | rfl | rfl | rfl | rfl | rfl <;> omega

theorem encVS_at0 (x : ClsVS) : fieldOf (encVS x) 0 5 = x.vd.toNat := by
  have := x.vd.isLt; have := x.va.isLt; have := x.s.isLt; have := x.k.isLt; have := x.ty.code_le; have := x.rm.code_le
  unfold fieldOf encVS; omega
theorem encVS_at10 (x : ClsVS) : fieldOf (encVS x) 10 6 = x.s.toNat := by
  have := x.vd.isLt; have := x.va.isLt; have := x.s.isLt; have := x.k.isLt; have := x.ty.code_le; have := x.rm.code_le
  unfold fieldOf encVS; omega
theorem encVS_at23 (x : ClsVS) : fieldOf (encVS x) 23 4 = x.ty.code := by
  have := x.vd.isLt; have := x.va.isLt; have := x.s.isLt; have := x.k.isLt; have := x.ty.code_le; have := x.rm.code_le
  unfold fieldOf encVS; omega
theorem encVS_at27 (x : ClsVS) : fieldOf (encVS x) 27 3 = x.rm.code := by
  have := x.vd.isLt; have := x.va.isLt; have := x.s.isLt; have := x.k.isLt; have := x.ty.code_le; have := x.rm.code_le
  unfold fieldOf encVS; omega
theorem encVS_at5 (x : ClsVS) : fieldOf (encVS x) 5 5 = x.va.toNat := by
  have := x.vd.isLt; have := x.va.isLt; have := x.s.isLt; have := x.k.isLt; have := x.ty.code_le; have := x.rm.code_le
  unfold fieldOf encVS; omega

/-- Reading back operand bits of class VX. -/
theorem decVX_encVX (x : ClsVX) : decVX (encVX x) = x := by
  have := x.vd.isLt; have := x.va.isLt; have := x.imm.isLt; have := x.k.isLt; have := x.ty.code_le
  cases x
  simp only [encVX, decVX, ClsVX.mk.injEq] at *
  refine ⟨?_, ?_, ?_, ?_, ?_⟩
  · exact ofNat_eq_of_mod (by omega)
  · exact ofNat_eq_of_mod (by omega)
  · exact ofNat_eq_of_mod (by omega)
  · exact ofNat_eq_of_mod (by omega)
  · exact (congrArg Ty.ofCode (by omega)).trans (Ty.ofCode_code _)

/-- The operand bits of class VX lie within its mask. -/
theorem encVX_mask (x : ClsVX) : ∀ i < 32, (0x7ffffff : Nat).testBit i = false → (encVX x).testBit i = false := by
  have := x.vd.isLt; have := x.va.isLt; have := x.imm.isLt; have := x.k.isLt; have := x.ty.code_le
  exact mask_of_lt (k := 27) (by unfold encVX; omega) (by decide)

theorem encVX_at10 (x : ClsVX) : fieldOf (encVX x) 10 10 = x.imm.toNat := by
  have := x.vd.isLt; have := x.va.isLt; have := x.imm.isLt; have := x.k.isLt; have := x.ty.code_le
  unfold fieldOf encVX; omega
theorem encVX_at23 (x : ClsVX) : fieldOf (encVX x) 23 4 = x.ty.code := by
  have := x.vd.isLt; have := x.va.isLt; have := x.imm.isLt; have := x.k.isLt; have := x.ty.code_le
  unfold fieldOf encVX; omega

/-- Reading back operand bits of class VK. -/
theorem decVK_encVK (x : ClsVK) : decVK (encVK x) = x := by
  have := x.kd.isLt; have := x.ka.isLt; have := x.kb.isLt
  cases x
  simp only [encVK, decVK, ClsVK.mk.injEq] at *
  refine ⟨?_, ?_, ?_⟩
  · exact ofNat_eq_of_mod (by omega)
  · exact ofNat_eq_of_mod (by omega)
  · exact ofNat_eq_of_mod (by omega)

/-- The operand bits of class VK lie within its mask. -/
theorem encVK_mask (x : ClsVK) : ∀ i < 32, (0x1ff : Nat).testBit i = false → (encVK x).testBit i = false := by
  have := x.kd.isLt; have := x.ka.isLt; have := x.kb.isLt
  exact mask_of_lt (k := 9) (by unfold encVK; omega) (by decide)

theorem encVK_at6 (x : ClsVK) : fieldOf (encVK x) 6 3 = x.kb.toNat := by
  have := x.kd.isLt; have := x.ka.isLt; have := x.kb.isLt
  unfold fieldOf encVK; omega

/-- Reading back operand bits of class VL. -/
theorem decVL_encVL (x : ClsVL) : decVL (encVL x) = x := by
  have := x.v.isLt; have := x.s.isLt; have := x.lane.isLt; have := x.ty.code_le
  cases x
  simp only [encVL, decVL, ClsVL.mk.injEq] at *
  refine ⟨?_, ?_, ?_, ?_⟩
  · exact ofNat_eq_of_mod (by omega)
  · exact ofNat_eq_of_mod (by omega)
  · exact ofNat_eq_of_mod (by omega)
  · exact (congrArg Ty.ofCode (by omega)).trans (Ty.ofCode_code _)

/-- The operand bits of class VL lie within its mask. -/
theorem encVL_mask (x : ClsVL) : ∀ i < 32, (0x1fffff : Nat).testBit i = false → (encVL x).testBit i = false := by
  have := x.v.isLt; have := x.s.isLt; have := x.lane.isLt; have := x.ty.code_le
  exact mask_of_lt (k := 21) (by unfold encVL; omega) (by decide)

theorem encVL_at11 (x : ClsVL) : fieldOf (encVL x) 11 6 = x.lane.toNat := by
  have := x.v.isLt; have := x.s.isLt; have := x.lane.isLt; have := x.ty.code_le
  unfold fieldOf encVL; omega
theorem encVL_at17 (x : ClsVL) : fieldOf (encVL x) 17 4 = x.ty.code := by
  have := x.v.isLt; have := x.s.isLt; have := x.lane.isLt; have := x.ty.code_le
  unfold fieldOf encVL; omega

/-- Reading back operand bits of class VT. -/
theorem decVT_encVT (x : ClsVT) : decVT (encVT x) = x := by
  have := x.vd.isLt; have := x.va.isLt; have := x.res.code_le; have := x.src.code_le; have := x.rm.code_le; have := x.k.isLt
  cases x
  simp only [encVT, decVT, ClsVT.mk.injEq] at *
  refine ⟨?_, ?_, ?_, ?_, ?_, ?_⟩
  · exact ofNat_eq_of_mod (by omega)
  · exact ofNat_eq_of_mod (by omega)
  · exact (congrArg Ty.ofCode (by omega)).trans (Ty.ofCode_code _)
  · exact (congrArg Ty.ofCode (by omega)).trans (Ty.ofCode_code _)
  · exact (congrArg Rm.ofCode (by omega)).trans (Rm.ofCode_code _)
  · exact ofNat_eq_of_mod (by omega)

/-- The operand bits of class VT lie within its mask. -/
theorem encVT_mask (x : ClsVT) : ∀ i < 32, (0xffffff : Nat).testBit i = false → (encVT x).testBit i = false := by
  have := x.vd.isLt; have := x.va.isLt; have := x.res.code_le; have := x.src.code_le; have := x.rm.code_le; have := x.k.isLt
  exact mask_of_lt (k := 24) (by unfold encVT; omega) (by decide)

theorem encVT_at10 (x : ClsVT) : fieldOf (encVT x) 10 4 = x.res.code := by
  have := x.vd.isLt; have := x.va.isLt; have := x.res.code_le; have := x.src.code_le; have := x.rm.code_le; have := x.k.isLt
  unfold fieldOf encVT; omega
theorem encVT_at14 (x : ClsVT) : fieldOf (encVT x) 14 4 = x.src.code := by
  have := x.vd.isLt; have := x.va.isLt; have := x.res.code_le; have := x.src.code_le; have := x.rm.code_le; have := x.k.isLt
  unfold fieldOf encVT; omega
theorem encVT_at18 (x : ClsVT) : fieldOf (encVT x) 18 3 = x.rm.code := by
  have := x.vd.isLt; have := x.va.isLt; have := x.res.code_le; have := x.src.code_le; have := x.rm.code_le; have := x.k.isLt
  unfold fieldOf encVT; omega

/-- Reading back operand bits of class VF. -/
theorem decVF_encVF (x : ClsVF) : decVF (encVF x) = x := by
  have := x.vd.isLt; have := x.va.isLt; have := x.bm2.isLt; have := x.ty.code_le; have := x.rm.code_le; have := x.k.isLt
  cases x
  simp only [encVF, decVF, ClsVF.mk.injEq] at *
  refine ⟨?_, ?_, ?_, ?_, ?_, ?_⟩
  · exact ofNat_eq_of_mod (by omega)
  · exact ofNat_eq_of_mod (by omega)
  · exact ofNat_eq_of_mod (by omega)
  · exact (congrArg Ty.ofCode (by omega)).trans (Ty.ofCode_code _)
  · exact (congrArg Rm.ofCode (by omega)).trans (Rm.ofCode_code _)
  · exact ofNat_eq_of_mod (by omega)

/-- The operand bits of class VF lie within its mask. -/
theorem encVF_mask (x : ClsVF) : ∀ i < 32, (0x7fffff : Nat).testBit i = false → (encVF x).testBit i = false := by
  have := x.vd.isLt; have := x.va.isLt; have := x.bm2.isLt; have := x.ty.code_le; have := x.rm.code_le; have := x.k.isLt
  exact mask_of_lt (k := 23) (by unfold encVF; omega) (by decide)

theorem encVF_at10 (x : ClsVF) : fieldOf (encVF x) 10 3 = x.bm2.toNat := by
  have := x.vd.isLt; have := x.va.isLt; have := x.bm2.isLt; have := x.ty.code_le; have := x.rm.code_le; have := x.k.isLt
  unfold fieldOf encVF; omega
theorem encVF_at13 (x : ClsVF) : fieldOf (encVF x) 13 4 = x.ty.code := by
  have := x.vd.isLt; have := x.va.isLt; have := x.bm2.isLt; have := x.ty.code_le; have := x.rm.code_le; have := x.k.isLt
  unfold fieldOf encVF; omega
theorem encVF_at17 (x : ClsVF) : fieldOf (encVF x) 17 3 = x.rm.code := by
  have := x.vd.isLt; have := x.va.isLt; have := x.bm2.isLt; have := x.ty.code_le; have := x.rm.code_le; have := x.k.isLt
  unfold fieldOf encVF; omega
theorem encVF_at20 (x : ClsVF) : fieldOf (encVF x) 20 3 = x.k.toNat := by
  have := x.vd.isLt; have := x.va.isLt; have := x.bm2.isLt; have := x.ty.code_le; have := x.rm.code_le; have := x.k.isLt
  unfold fieldOf encVF; omega

/-- Reading back operand bits of class MC. -/
theorem decMC_encMC (x : ClsMC) (k : Nat) (hk : k < 20) : decMC (encMC x + k) = x := by
  have := x.acc.isLt; have := x.acq.toNat_lt; have := x.rel.toNat_lt; have := x.scope.code_le
  cases x
  simp only [encMC, decMC, ClsMC.mk.injEq] at *
  refine ⟨?_, ?_, ?_, ?_⟩
  · exact ofNat_eq_of_mod (by omega)
  · exact bool_of_bit (by omega)
  · exact bool_of_bit (by omega)
  · exact (congrArg Scope.ofCode (by omega)).trans (Scope.ofCode_code _)

/-- The operand bits of class MC lie within its mask. -/
theorem encMC_mask (x : ClsMC) (k : Nat) (hk : k < 20) : ∀ i < 32, (0xfff : Nat).testBit i = false → (encMC x + k).testBit i = false := by
  have := x.acc.isLt; have := x.acq.toNat_lt; have := x.rel.toNat_lt; have := x.scope.code_le
  exact mask_of_lt (k := 12) (by unfold encMC; omega) (by decide)

theorem encMC_bit7 (x : ClsMC) (k : Nat) (hk : k < 20) : bitOf (encMC x + k) 7 = x.acq := by
  have := x.acc.isLt; have := x.acq.toNat_lt; have := x.rel.toNat_lt; have := x.scope.code_le
  cases x; simp only [encMC, bitOf] at *
  exact bool_of_bit (by omega)
theorem encMC_bit8 (x : ClsMC) (k : Nat) (hk : k < 20) : bitOf (encMC x + k) 8 = x.rel := by
  have := x.acc.isLt; have := x.acq.toNat_lt; have := x.rel.toNat_lt; have := x.scope.code_le
  cases x; simp only [encMC, bitOf] at *
  exact bool_of_bit (by omega)
theorem encMC_at9 (x : ClsMC) (k : Nat) (hk : k < 20) : fieldOf (encMC x + k) 9 3 = x.scope.code := by
  have := x.acc.isLt; have := x.acq.toNat_lt; have := x.rel.toNat_lt; have := x.scope.code_le
  unfold fieldOf encMC; omega

/-- Reading back operand bits of class MP. -/
theorem decMP_encMP (x : ClsMP) : decMP (encMP x) = x := by
  have := x.mp.isLt; have := x.s.isLt
  cases x
  simp only [encMP, decMP, ClsMP.mk.injEq] at *
  refine ⟨?_, ?_⟩
  · exact ofNat_eq_of_mod (by omega)
  · exact ofNat_eq_of_mod (by omega)

/-- The operand bits of class MP lie within its mask. -/
theorem encMP_mask (x : ClsMP) : ∀ i < 32, (0x1ff : Nat).testBit i = false → (encMP x).testBit i = false := by
  have := x.mp.isLt; have := x.s.isLt
  exact mask_of_lt (k := 9) (by unfold encMP; omega) (by decide)


/-- Reading back operand bits of class MA. -/
theorem decMA_encMA (x : ClsMA) : decMA (encMA x) = x := by
  have := x.acc.isLt; have := x.v.isLt; have := x.s.isLt
  cases x
  simp only [encMA, decMA, ClsMA.mk.injEq] at *
  refine ⟨?_, ?_, ?_⟩
  · exact ofNat_eq_of_mod (by omega)
  · exact ofNat_eq_of_mod (by omega)
  · exact ofNat_eq_of_mod (by omega)

/-- The operand bits of class MA lie within its mask. -/
theorem encMA_mask (x : ClsMA) : ∀ i < 32, (0x1fff : Nat).testBit i = false → (encMA x).testBit i = false := by
  have := x.acc.isLt; have := x.v.isLt; have := x.s.isLt
  exact mask_of_lt (k := 13) (by unfold encMA; omega) (by decide)

theorem encMA_at0 (x : ClsMA) : fieldOf (encMA x) 0 2 = x.acc.toNat := by
  have := x.acc.isLt; have := x.v.isLt; have := x.s.isLt
  unfold fieldOf encMA; omega
theorem encMA_at2 (x : ClsMA) : fieldOf (encMA x) 2 5 = x.v.toNat := by
  have := x.acc.isLt; have := x.v.isLt; have := x.s.isLt
  unfold fieldOf encMA; omega
theorem encMA_at7 (x : ClsMA) : fieldOf (encMA x) 7 6 = x.s.toNat := by
  have := x.acc.isLt; have := x.v.isLt; have := x.s.isLt
  unfold fieldOf encMA; omega

/-- Reading back operand bits of class Q. -/
theorem decQ_encQ (x : ClsQ) : decQ (encQ x) = x := by
  have := x.r.isLt; have := x.q.isLt
  cases x
  simp only [encQ, decQ, ClsQ.mk.injEq] at *
  refine ⟨?_, ?_⟩
  · exact ofNat_eq_of_mod (by omega)
  · exact ofNat_eq_of_mod (by omega)

/-- The operand bits of class Q lie within its mask. -/
theorem encQ_mask (x : ClsQ) : ∀ i < 32, (0x3ff : Nat).testBit i = false → (encQ x).testBit i = false := by
  have := x.r.isLt; have := x.q.isLt
  exact mask_of_lt (k := 10) (by unfold encQ; omega) (by decide)

theorem encQ_at5 (x : ClsQ) : fieldOf (encQ x) 5 1 = x.r.toNat / 32 := by
  have := x.r.isLt; have := x.q.isLt
  unfold fieldOf encQ; omega

/-- Reading back operand bits of class LL. -/
theorem decLL_encLL (x : ClsLL) : decLL (encLL x) = x := by
  have := x.d.isLt; have := x.a.isLt; have := x.D.isLt; have := x.ty.code_le
  cases x
  simp only [encLL, decLL, ClsLL.mk.injEq] at *
  refine ⟨?_, ?_, ?_, ?_⟩
  · exact ofNat_eq_of_mod (by omega)
  · exact ofNat_eq_of_mod (by omega)
  · exact ofNat_eq_of_mod (by omega)
  · exact (congrArg Ty.ofCode (by omega)).trans (Ty.ofCode_code _)

/-- The operand bits of class LL lie within its mask. -/
theorem encLL_mask (x : ClsLL) : ∀ i < 32, (0xfffffff : Nat).testBit i = false → (encLL x).testBit i = false := by
  have := x.d.isLt; have := x.a.isLt; have := x.D.isLt; have := x.ty.code_le
  exact mask_of_lt (k := 28) (by unfold encLL; omega) (by decide)

theorem encLL_at12 (x : ClsLL) : fieldOf (encLL x) 12 12 = x.D.toNat := by
  have := x.d.isLt; have := x.a.isLt; have := x.D.isLt; have := x.ty.code_le
  unfold fieldOf encLL; omega
theorem encLL_at24 (x : ClsLL) : fieldOf (encLL x) 24 4 = x.ty.code := by
  have := x.d.isLt; have := x.a.isLt; have := x.D.isLt; have := x.ty.code_le
  unfold fieldOf encLL; omega
theorem encLL_at5 (x : ClsLL) : fieldOf (encLL x) 5 1 = x.d.toNat / 32 := by
  have := x.d.isLt; have := x.a.isLt; have := x.D.isLt; have := x.ty.code_le
  unfold fieldOf encLL; omega

/-- Reading back operand bits of class LT. -/
theorem decLT_encLT (x : ClsLT) : decLT (encLT x) = x := by
  have := x.d.isLt; have := x.a.isLt
  cases x
  simp only [encLT, decLT, ClsLT.mk.injEq] at *
  refine ⟨?_, ?_⟩
  · exact ofNat_eq_of_mod (by omega)
  · exact ofNat_eq_of_mod (by omega)

/-- The operand bits of class LT lie within its mask. -/
theorem encLT_mask (x : ClsLT) : ∀ i < 32, (0xfff : Nat).testBit i = false → (encLT x).testBit i = false := by
  have := x.d.isLt; have := x.a.isLt
  exact mask_of_lt (k := 12) (by unfold encLT; omega) (by decide)

theorem encLT_at5 (x : ClsLT) : fieldOf (encLT x) 5 1 = x.d.toNat / 32 := by
  have := x.d.isLt; have := x.a.isLt
  unfold fieldOf encLT; omega

/-- Reading back operand bits of class LG. -/
theorem decLG_encLG (x : ClsLG) : decLG (encLG x) = x := by
  have := x.d.isLt; have := x.q.isLt; have := x.vi.isLt; have := x.D.isLt
  cases x
  simp only [encLG, decLG, ClsLG.mk.injEq] at *
  refine ⟨?_, ?_, ?_, ?_⟩
  · exact ofNat_eq_of_mod (by omega)
  · exact ofNat_eq_of_mod (by omega)
  · exact ofNat_eq_of_mod (by omega)
  · exact ofNat_eq_of_mod (by omega)

/-- The operand bits of class LG lie within its mask. -/
theorem encLG_mask (x : ClsLG) : ∀ i < 32, (0x7ffffff : Nat).testBit i = false → (encLG x).testBit i = false := by
  have := x.d.isLt; have := x.q.isLt; have := x.vi.isLt; have := x.D.isLt
  exact mask_of_lt (k := 27) (by unfold encLG; omega) (by decide)

theorem encLG_at15 (x : ClsLG) : fieldOf (encLG x) 15 12 = x.D.toNat := by
  have := x.d.isLt; have := x.q.isLt; have := x.vi.isLt; have := x.D.isLt
  unfold fieldOf encLG; omega
theorem encLG_at5 (x : ClsLG) : fieldOf (encLG x) 5 1 = x.d.toNat / 32 := by
  have := x.d.isLt; have := x.q.isLt; have := x.vi.isLt; have := x.D.isLt
  unfold fieldOf encLG; omega

/-- Reading back operand bits of class RL. -/
theorem decRL_encRL (x : ClsRL) : decRL (encRL x) = x := by
  have := x.d.isLt; have := x.a.isLt; have := x.D.isLt
  cases x
  simp only [encRL, decRL, ClsRL.mk.injEq] at *
  refine ⟨?_, ?_, ?_⟩
  · exact ofNat_eq_of_mod (by omega)
  · exact ofNat_eq_of_mod (by omega)
  · exact ofNat_eq_of_mod (by omega)

/-- The operand bits of class RL lie within its mask. -/
theorem encRL_mask (x : ClsRL) : ∀ i < 32, (0xffffff : Nat).testBit i = false → (encRL x).testBit i = false := by
  have := x.d.isLt; have := x.a.isLt; have := x.D.isLt
  exact mask_of_lt (k := 24) (by unfold encRL; omega) (by decide)

theorem encRL_at12 (x : ClsRL) : fieldOf (encRL x) 12 12 = x.D.toNat := by
  have := x.d.isLt; have := x.a.isLt; have := x.D.isLt
  unfold fieldOf encRL; omega
theorem encRL_at5 (x : ClsRL) : fieldOf (encRL x) 5 1 = x.d.toNat / 32 := by
  have := x.d.isLt; have := x.a.isLt; have := x.D.isLt
  unfold fieldOf encRL; omega

/-- Reading back operand bits of class AT. -/
theorem decAT_encAT (x : ClsAT) : decAT (encAT x) = x := by
  have := x.d.isLt; have := x.a.isLt; have := x.b.isLt; have := x.dx.isLt; have := x.ord.code_le; have := x.scope.code_le
  cases x
  simp only [encAT, decAT, ClsAT.mk.injEq] at *
  refine ⟨?_, ?_, ?_, ?_, ?_, ?_⟩
  · exact ofNat_eq_of_mod (by omega)
  · exact ofNat_eq_of_mod (by omega)
  · exact ofNat_eq_of_mod (by omega)
  · exact ofNat_eq_of_mod (by omega)
  · exact (congrArg Ordering.ofCode (by omega)).trans (Ordering.ofCode_code _)
  · exact (congrArg Scope.ofCode (by omega)).trans (Scope.ofCode_code _)

/-- The operand bits of class AT lie within its mask. -/
theorem encAT_mask (x : ClsAT) : ∀ i < 32, (0xffffffff : Nat).testBit i = false → (encAT x).testBit i = false := by
  have := x.d.isLt; have := x.a.isLt; have := x.b.isLt; have := x.dx.isLt; have := x.ord.code_le; have := x.scope.code_le
  exact mask_of_lt (k := 32) (by unfold encAT; omega) (by decide)

theorem encAT_at0 (x : ClsAT) : fieldOf (encAT x) 0 6 = x.d.toNat := by
  have := x.d.isLt; have := x.a.isLt; have := x.b.isLt; have := x.dx.isLt; have := x.ord.code_le; have := x.scope.code_le
  unfold fieldOf encAT; omega
theorem encAT_at18 (x : ClsAT) : fieldOf (encAT x) 18 9 = x.dx.toNat := by
  have := x.d.isLt; have := x.a.isLt; have := x.b.isLt; have := x.dx.isLt; have := x.ord.code_le; have := x.scope.code_le
  unfold fieldOf encAT; omega
theorem encAT_at29 (x : ClsAT) : fieldOf (encAT x) 29 3 = x.scope.code := by
  have := x.d.isLt; have := x.a.isLt; have := x.b.isLt; have := x.dx.isLt; have := x.ord.code_le; have := x.scope.code_le
  unfold fieldOf encAT; omega

/-- Reading back operand bits of class FS. -/
theorem decFS_encFS (x : ClsFS) : decFS (encFS x) = x := by
  have := x.s.isLt; have := x.a.isLt; have := x.ty.code_le
  cases x
  simp only [encFS, decFS, ClsFS.mk.injEq] at *
  refine ⟨?_, ?_, ?_⟩
  · exact ofNat_eq_of_mod (by omega)
  · exact ofNat_eq_of_mod (by omega)
  · exact (congrArg Ty.ofCode (by omega)).trans (Ty.ofCode_code _)

/-- The operand bits of class FS lie within its mask. -/
theorem encFS_mask (x : ClsFS) : ∀ i < 32, (0xffff : Nat).testBit i = false → (encFS x).testBit i = false := by
  have := x.s.isLt; have := x.a.isLt; have := x.ty.code_le
  exact mask_of_lt (k := 16) (by unfold encFS; omega) (by decide)

theorem encFS_at12 (x : ClsFS) : fieldOf (encFS x) 12 4 = x.ty.code := by
  have := x.s.isLt; have := x.a.isLt; have := x.ty.code_le
  unfold fieldOf encFS; omega
theorem encFS_at5 (x : ClsFS) : fieldOf (encFS x) 5 1 = x.s.toNat / 32 := by
  have := x.s.isLt; have := x.a.isLt; have := x.ty.code_le
  unfold fieldOf encFS; omega

/-- Reading back operand bits of class SG. -/
theorem decSG_encSG (x : ClsSG) : decSG (encSG x) = x := by
  have := x.s.isLt; have := x.q.isLt; have := x.vi.isLt
  cases x
  simp only [encSG, decSG, ClsSG.mk.injEq] at *
  refine ⟨?_, ?_, ?_⟩
  · exact ofNat_eq_of_mod (by omega)
  · exact ofNat_eq_of_mod (by omega)
  · exact ofNat_eq_of_mod (by omega)

/-- The operand bits of class SG lie within its mask. -/
theorem encSG_mask (x : ClsSG) : ∀ i < 32, (0x7fff : Nat).testBit i = false → (encSG x).testBit i = false := by
  have := x.s.isLt; have := x.q.isLt; have := x.vi.isLt
  exact mask_of_lt (k := 15) (by unfold encSG; omega) (by decide)

theorem encSG_at5 (x : ClsSG) : fieldOf (encSG x) 5 1 = x.s.toNat / 32 := by
  have := x.s.isLt; have := x.q.isLt; have := x.vi.isLt
  unfold fieldOf encSG; omega

/-- Reading back operand bits of class RS. -/
theorem decRS_encRS (x : ClsRS) : decRS (encRS x) = x := by
  have := x.s.isLt; have := x.a.isLt; have := x.c.isLt; have := x.scope.code_le; have := x.rel.toNat_lt
  cases x
  simp only [encRS, decRS, ClsRS.mk.injEq] at *
  refine ⟨?_, ?_, ?_, ?_, ?_⟩
  · exact ofNat_eq_of_mod (by omega)
  · exact ofNat_eq_of_mod (by omega)
  · exact ofNat_eq_of_mod (by omega)
  · exact (congrArg Scope.ofCode (by omega)).trans (Scope.ofCode_code _)
  · exact bool_of_bit (by omega)

/-- The operand bits of class RS lie within its mask. -/
theorem encRS_mask (x : ClsRS) : ∀ i < 32, (0x3fffff : Nat).testBit i = false → (encRS x).testBit i = false := by
  have := x.s.isLt; have := x.a.isLt; have := x.c.isLt; have := x.scope.code_le; have := x.rel.toNat_lt
  exact mask_of_lt (k := 22) (by unfold encRS; omega) (by decide)

theorem encRS_at18 (x : ClsRS) : fieldOf (encRS x) 18 3 = x.scope.code := by
  have := x.s.isLt; have := x.a.isLt; have := x.c.isLt; have := x.scope.code_le; have := x.rel.toNat_lt
  unfold fieldOf encRS; omega
theorem encRS_at5 (x : ClsRS) : fieldOf (encRS x) 5 1 = x.s.toNat / 32 := by
  have := x.s.isLt; have := x.a.isLt; have := x.c.isLt; have := x.scope.code_le; have := x.rel.toNat_lt
  unfold fieldOf encRS; omega

/-- Reading back operand bits of class CC. -/
theorem decCC_encCC (x : ClsCC) : decCC (encCC x) = x := by
  have := x.ch.isLt; have := x.a.isLt; have := x.b.isLt; have := x.c.isLt; have := x.acq.toNat_lt; have := x.rel.toNat_lt; have := x.scope.code_le; have := x.func.isLt
  cases x
  simp only [encCC, decCC, ClsCC.mk.injEq] at *
  refine ⟨?_, ?_, ?_, ?_, ?_, ?_, ?_, ?_⟩
  · exact ofNat_eq_of_mod (by omega)
  · exact ofNat_eq_of_mod (by omega)
  · exact ofNat_eq_of_mod (by omega)
  · exact ofNat_eq_of_mod (by omega)
  · exact bool_of_bit (by omega)
  · exact bool_of_bit (by omega)
  · exact (congrArg Scope.ofCode (by omega)).trans (Scope.ofCode_code _)
  · exact ofNat_eq_of_mod (by omega)

/-- The operand bits of class CC lie within its mask. -/
theorem encCC_mask (x : ClsCC) : ∀ i < 32, (0x3fffffff : Nat).testBit i = false → (encCC x).testBit i = false := by
  have := x.ch.isLt; have := x.a.isLt; have := x.b.isLt; have := x.c.isLt; have := x.acq.toNat_lt; have := x.rel.toNat_lt; have := x.scope.code_le; have := x.func.isLt
  exact mask_of_lt (k := 30) (by unfold encCC; omega) (by decide)

theorem encCC_bit21 (x : ClsCC) : bitOf (encCC x) 21 = x.acq := by
  have := x.ch.isLt; have := x.a.isLt; have := x.b.isLt; have := x.c.isLt; have := x.acq.toNat_lt; have := x.rel.toNat_lt; have := x.scope.code_le; have := x.func.isLt
  cases x; simp only [encCC, bitOf] at *
  exact bool_of_bit (by omega)
theorem encCC_bit22 (x : ClsCC) : bitOf (encCC x) 22 = x.rel := by
  have := x.ch.isLt; have := x.a.isLt; have := x.b.isLt; have := x.c.isLt; have := x.acq.toNat_lt; have := x.rel.toNat_lt; have := x.scope.code_le; have := x.func.isLt
  cases x; simp only [encCC, bitOf] at *
  exact bool_of_bit (by omega)
theorem encCC_at15 (x : ClsCC) : fieldOf (encCC x) 15 6 = x.c.toNat := by
  have := x.ch.isLt; have := x.a.isLt; have := x.b.isLt; have := x.c.isLt; have := x.acq.toNat_lt; have := x.rel.toNat_lt; have := x.scope.code_le; have := x.func.isLt
  unfold fieldOf encCC; omega
theorem encCC_at23 (x : ClsCC) : fieldOf (encCC x) 23 3 = x.scope.code := by
  have := x.ch.isLt; have := x.a.isLt; have := x.b.isLt; have := x.c.isLt; have := x.acq.toNat_lt; have := x.rel.toNat_lt; have := x.scope.code_le; have := x.func.isLt
  unfold fieldOf encCC; omega
theorem encCC_at26 (x : ClsCC) : fieldOf (encCC x) 26 4 = x.func.toNat := by
  have := x.ch.isLt; have := x.a.isLt; have := x.b.isLt; have := x.c.isLt; have := x.acq.toNat_lt; have := x.rel.toNat_lt; have := x.scope.code_le; have := x.func.isLt
  unfold fieldOf encCC; omega
theorem encCC_at9 (x : ClsCC) : fieldOf (encCC x) 9 6 = x.b.toNat := by
  have := x.ch.isLt; have := x.a.isLt; have := x.b.isLt; have := x.c.isLt; have := x.acq.toNat_lt; have := x.rel.toNat_lt; have := x.scope.code_le; have := x.func.isLt
  unfold fieldOf encCC; omega

/-- Reading back operand bits of class CT. -/
theorem decCT_encCT (x : ClsCT) : decCT (encCT x) = x := by
  have := x.ch.isLt; have := x.slot.isLt; have := x.a.isLt; have := x.acq.toNat_lt; have := x.rel.toNat_lt; have := x.scope.code_le
  cases x
  simp only [encCT, decCT, ClsCT.mk.injEq] at *
  refine ⟨?_, ?_, ?_, ?_, ?_, ?_⟩
  · exact ofNat_eq_of_mod (by omega)
  · exact ofNat_eq_of_mod (by omega)
  · exact ofNat_eq_of_mod (by omega)
  · exact bool_of_bit (by omega)
  · exact bool_of_bit (by omega)
  · exact (congrArg Scope.ofCode (by omega)).trans (Scope.ofCode_code _)

/-- The operand bits of class CT lie within its mask. -/
theorem encCT_mask (x : ClsCT) : ∀ i < 32, (0xfffff : Nat).testBit i = false → (encCT x).testBit i = false := by
  have := x.ch.isLt; have := x.slot.isLt; have := x.a.isLt; have := x.acq.toNat_lt; have := x.rel.toNat_lt; have := x.scope.code_le
  exact mask_of_lt (k := 20) (by unfold encCT; omega) (by decide)

theorem encCT_bit15 (x : ClsCT) : bitOf (encCT x) 15 = x.acq := by
  have := x.ch.isLt; have := x.slot.isLt; have := x.a.isLt; have := x.acq.toNat_lt; have := x.rel.toNat_lt; have := x.scope.code_le
  cases x; simp only [encCT, bitOf] at *
  exact bool_of_bit (by omega)
theorem encCT_bit16 (x : ClsCT) : bitOf (encCT x) 16 = x.rel := by
  have := x.ch.isLt; have := x.slot.isLt; have := x.a.isLt; have := x.acq.toNat_lt; have := x.rel.toNat_lt; have := x.scope.code_le
  cases x; simp only [encCT, bitOf] at *
  exact bool_of_bit (by omega)
theorem encCT_at0 (x : ClsCT) : fieldOf (encCT x) 0 3 = x.ch.toNat := by
  have := x.ch.isLt; have := x.slot.isLt; have := x.a.isLt; have := x.acq.toNat_lt; have := x.rel.toNat_lt; have := x.scope.code_le
  unfold fieldOf encCT; omega
theorem encCT_at15 (x : ClsCT) : fieldOf (encCT x) 15 1 = x.acq.toNat := by
  have := x.ch.isLt; have := x.slot.isLt; have := x.a.isLt; have := x.acq.toNat_lt; have := x.rel.toNat_lt; have := x.scope.code_le
  unfold fieldOf encCT; omega
theorem encCT_at16 (x : ClsCT) : fieldOf (encCT x) 16 1 = x.rel.toNat := by
  have := x.ch.isLt; have := x.slot.isLt; have := x.a.isLt; have := x.acq.toNat_lt; have := x.rel.toNat_lt; have := x.scope.code_le
  unfold fieldOf encCT; omega
theorem encCT_at17 (x : ClsCT) : fieldOf (encCT x) 17 3 = x.scope.code := by
  have := x.ch.isLt; have := x.slot.isLt; have := x.a.isLt; have := x.acq.toNat_lt; have := x.rel.toNat_lt; have := x.scope.code_le
  unfold fieldOf encCT; omega
theorem encCT_at9 (x : ClsCT) : fieldOf (encCT x) 9 6 = x.a.toNat := by
  have := x.ch.isLt; have := x.slot.isLt; have := x.a.isLt; have := x.acq.toNat_lt; have := x.rel.toNat_lt; have := x.scope.code_le
  unfold fieldOf encCT; omega

/-- Reading back operand bits of class CQ. -/
theorem decCQ_encCQ (x : ClsCQ) : decCQ (encCQ x) = x := by
  have := x.s.isLt; have := x.ch.isLt; have := x.sel.isLt; have := x.slot.isLt
  cases x
  simp only [encCQ, decCQ, ClsCQ.mk.injEq] at *
  refine ⟨?_, ?_, ?_, ?_⟩
  · exact ofNat_eq_of_mod (by omega)
  · exact ofNat_eq_of_mod (by omega)
  · exact ofNat_eq_of_mod (by omega)
  · exact ofNat_eq_of_mod (by omega)

/-- The operand bits of class CQ lie within its mask. -/
theorem encCQ_mask (x : ClsCQ) : ∀ i < 32, (0x1ffff : Nat).testBit i = false → (encCQ x).testBit i = false := by
  have := x.s.isLt; have := x.ch.isLt; have := x.sel.isLt; have := x.slot.isLt
  exact mask_of_lt (k := 17) (by unfold encCQ; omega) (by decide)

theorem encCQ_at11 (x : ClsCQ) : fieldOf (encCQ x) 11 6 = x.slot.toNat := by
  have := x.s.isLt; have := x.ch.isLt; have := x.sel.isLt; have := x.slot.isLt
  unfold fieldOf encCQ; omega
theorem encCQ_at6 (x : ClsCQ) : fieldOf (encCQ x) 6 3 = x.ch.toNat := by
  have := x.s.isLt; have := x.ch.isLt; have := x.sel.isLt; have := x.slot.isLt
  unfold fieldOf encCQ; omega
theorem encCQ_at9 (x : ClsCQ) : fieldOf (encCQ x) 9 2 = x.sel.toNat := by
  have := x.s.isLt; have := x.ch.isLt; have := x.sel.isLt; have := x.slot.isLt
  unfold fieldOf encCQ; omega

/-- Reading back operand bits of class CM. -/
theorem decCM_encCM (x : ClsCM) : decCM (encCM x) = x := by
  have := x.a.isLt; have := x.b.isLt; have := x.m.isLt; have := x.ch.isLt
  cases x
  simp only [encCM, decCM, ClsCM.mk.injEq] at *
  refine ⟨?_, ?_, ?_, ?_⟩
  · exact ofNat_eq_of_mod (by omega)
  · exact ofNat_eq_of_mod (by omega)
  · exact ofNat_eq_of_mod (by omega)
  · exact ofNat_eq_of_mod (by omega)

/-- The operand bits of class CM lie within its mask. -/
theorem encCM_mask (x : ClsCM) : ∀ i < 32, (0x1fffff : Nat).testBit i = false → (encCM x).testBit i = false := by
  have := x.a.isLt; have := x.b.isLt; have := x.m.isLt; have := x.ch.isLt
  exact mask_of_lt (k := 21) (by unfold encCM; omega) (by decide)


/-- Reading back operand bits of class CF. -/
theorem decCF_encCF (x : ClsCF) : decCF (encCF x) = x := by
  have := x.mask.isLt
  cases x
  simp only [encCF, decCF, ClsCF.mk.injEq] at *
  refine ?_
  · exact ofNat_eq_of_mod (by omega)

/-- The operand bits of class CF lie within its mask. -/
theorem encCF_mask (x : ClsCF) : ∀ i < 32, (0xff : Nat).testBit i = false → (encCF x).testBit i = false := by
  have := x.mask.isLt
  exact mask_of_lt (k := 8) (by unfold encCF; omega) (by decide)

theorem encCF_at0 (x : ClsCF) : fieldOf (encCF x) 0 8 = x.mask.toNat := by
  have := x.mask.isLt
  unfold fieldOf encCF; omega

/-- Reading back operand bits of class YM. -/
theorem decYM_encYM (x : ClsYM) : decYM (encYM x) = x := by
  have := x.sem.isLt; have := x.imm.isLt
  cases x
  simp only [encYM, decYM, ClsYM.mk.injEq] at *
  refine ⟨?_, ?_⟩
  · exact ofNat_eq_of_mod (by omega)
  · exact ofNat_eq_of_mod (by omega)

/-- The operand bits of class YM lie within its mask. -/
theorem encYM_mask (x : ClsYM) : ∀ i < 32, (0xffffff : Nat).testBit i = false → (encYM x).testBit i = false := by
  have := x.sem.isLt; have := x.imm.isLt
  exact mask_of_lt (k := 24) (by unfold encYM; omega) (by decide)

theorem encYM_at8 (x : ClsYM) : fieldOf (encYM x) 8 16 = x.imm.toNat := by
  have := x.sem.isLt; have := x.imm.isLt
  unfold fieldOf encYM; omega

/-- Reading back operand bits of class YX. -/
theorem decYX_encYX (x : ClsYX) : decYX (encYX x) = x := by
  have := x.sem.isLt; have := x.s.isLt
  cases x
  simp only [encYX, decYX, ClsYX.mk.injEq] at *
  refine ⟨?_, ?_⟩
  · exact ofNat_eq_of_mod (by omega)
  · exact ofNat_eq_of_mod (by omega)

/-- The operand bits of class YX lie within its mask. -/
theorem encYX_mask (x : ClsYX) : ∀ i < 32, (0x3fff : Nat).testBit i = false → (encYX x).testBit i = false := by
  have := x.sem.isLt; have := x.s.isLt
  exact mask_of_lt (k := 14) (by unfold encYX; omega) (by decide)

theorem encYX_at8 (x : ClsYX) : fieldOf (encYX x) 8 6 = x.s.toNat := by
  have := x.sem.isLt; have := x.s.isLt
  unfold fieldOf encYX; omega

/-- Reading back operand bits of class YB. -/
theorem decYB_encYB (x : ClsYB) : decYB (encYB x) = x := by
  have := x.scope.code_le; have := x.id.isLt
  cases x
  simp only [encYB, decYB, ClsYB.mk.injEq] at *
  refine ⟨?_, ?_⟩
  · exact (congrArg Scope.ofCode (by omega)).trans (Scope.ofCode_code _)
  · exact ofNat_eq_of_mod (by omega)

/-- The operand bits of class YB lie within its mask. -/
theorem encYB_mask (x : ClsYB) : ∀ i < 32, (0xff : Nat).testBit i = false → (encYB x).testBit i = false := by
  have := x.scope.code_le; have := x.id.isLt
  exact mask_of_lt (k := 8) (by unfold encYB; omega) (by decide)

theorem encYB_at0 (x : ClsYB) : fieldOf (encYB x) 0 3 = x.scope.code := by
  have := x.scope.code_le; have := x.id.isLt
  unfold fieldOf encYB; omega
theorem encYB_at3 (x : ClsYB) : fieldOf (encYB x) 3 5 = x.id.toNat := by
  have := x.scope.code_le; have := x.id.isLt
  unfold fieldOf encYB; omega

/-- Reading back operand bits of class YC. -/
theorem decYC_encYC (x : ClsYC) : decYC (encYC x) = x := by
  have := x.x.isLt; have := x.bslot.isLt; have := x.rank.isLt
  cases x
  simp only [encYC, decYC, ClsYC.mk.injEq] at *
  refine ⟨?_, ?_, ?_⟩
  · exact ofNat_eq_of_mod (by omega)
  · exact ofNat_eq_of_mod (by omega)
  · exact ofNat_eq_of_mod (by omega)

/-- The operand bits of class YC lie within its mask. -/
theorem encYC_mask (x : ClsYC) : ∀ i < 32, (0x1fff : Nat).testBit i = false → (encYC x).testBit i = false := by
  have := x.x.isLt; have := x.bslot.isLt; have := x.rank.isLt
  exact mask_of_lt (k := 13) (by unfold encYC; omega) (by decide)

theorem encYC_at11 (x : ClsYC) : fieldOf (encYC x) 11 2 = x.rank.toNat := by
  have := x.x.isLt; have := x.bslot.isLt; have := x.rank.isLt
  unfold fieldOf encYC; omega
theorem encYC_at5 (x : ClsYC) : fieldOf (encYC x) 5 1 = x.x.toNat / 32 := by
  have := x.x.isLt; have := x.bslot.isLt; have := x.rank.isLt
  unfold fieldOf encYC; omega

/-- Reading back operand bits of class YF. -/
theorem decYF_encYF (x : ClsYF) (k : Nat) (_ : k < 3) : decYF (encYF x + 8 * k) = x := by
  have := x.scope.code_le
  cases x
  simp only [encYF, decYF, ClsYF.mk.injEq] at *
  refine ?_
  · exact (congrArg Scope.ofCode (by omega)).trans (Scope.ofCode_code _)

/-- The operand bits of class YF lie within its mask. -/
theorem encYF_mask (x : ClsYF) (k : Nat) (_ : k < 3) : ∀ i < 32, (0x1f : Nat).testBit i = false → (encYF x + 8 * k).testBit i = false := by
  have := x.scope.code_le
  exact mask_of_lt (k := 5) (by unfold encYF; omega) (by decide)

theorem encYF_at0 (x : ClsYF) (k : Nat) (_ : k < 3) : fieldOf (encYF x + 8 * k) 0 3 = x.scope.code := by
  have := x.scope.code_le
  unfold fieldOf encYF; omega
theorem encYF_at3 (x : ClsYF) (k : Nat) (hk : k < 3) : fieldOf (encYF x + 8 * k) 3 2 = k := by
  have := x.scope.code_le
  unfold fieldOf encYF; omega

/-- Reading back operand bits of class YW. -/
theorem decYW_encYW (x : ClsYW) : decYW (encYW x) = x := by
  have := x.a.isLt; have := x.b.isLt; have := x.scope.code_le
  cases x
  simp only [encYW, decYW, ClsYW.mk.injEq] at *
  refine ⟨?_, ?_, ?_⟩
  · exact ofNat_eq_of_mod (by omega)
  · exact ofNat_eq_of_mod (by omega)
  · exact (congrArg Scope.ofCode (by omega)).trans (Scope.ofCode_code _)

/-- The operand bits of class YW lie within its mask. -/
theorem encYW_mask (x : ClsYW) : ∀ i < 32, (0x7fff : Nat).testBit i = false → (encYW x).testBit i = false := by
  have := x.a.isLt; have := x.b.isLt; have := x.scope.code_le
  exact mask_of_lt (k := 15) (by unfold encYW; omega) (by decide)

theorem encYW_at12 (x : ClsYW) : fieldOf (encYW x) 12 3 = x.scope.code := by
  have := x.a.isLt; have := x.b.isLt; have := x.scope.code_le
  unfold fieldOf encYW; omega

/-- Reading back operand bits of class YU. -/
theorem decYU_encYU (x : ClsYU) : decYU (encYU x) = x := by
  have := x.a.isLt
  cases x
  simp only [encYU, decYU, ClsYU.mk.injEq] at *
  refine ?_
  · exact ofNat_eq_of_mod (by omega)

/-- The operand bits of class YU lie within its mask. -/
theorem encYU_mask (x : ClsYU) : ∀ i < 32, (0x3f : Nat).testBit i = false → (encYU x).testBit i = false := by
  have := x.a.isLt
  exact mask_of_lt (k := 6) (by unfold encYU; omega) (by decide)

theorem encYU_at0 (x : ClsYU) : fieldOf (encYU x) 0 6 = x.a.toNat := by
  have := x.a.isLt
  unfold fieldOf encYU; omega

/-- Reading back operand bits of class YT. -/
theorem decYT_encYT (x : ClsYT) : decYT (encYT x) = x := by
  have := x.code.isLt
  cases x
  simp only [encYT, decYT, ClsYT.mk.injEq] at *
  refine ?_
  · exact ofNat_eq_of_mod (by omega)

/-- The operand bits of class YT lie within its mask. -/
theorem encYT_mask (x : ClsYT) : ∀ i < 32, (0xffff : Nat).testBit i = false → (encYT x).testBit i = false := by
  have := x.code.isLt
  exact mask_of_lt (k := 16) (by unfold encYT; omega) (by decide)


end Sys2Proof
end

