-- ==== Sys2Proof/Laws/PerInstr.lean ====
section
/-! SUPPORT. The family `Encoding` of per-instruction laws: every op that a slot holds, well-formed, is given back when
the field its encoder writes is decoded (Tables 1-9 to 1-16). An instruction no slot holds meets it trivially. -/

namespace Sys2Proof.Laws.Encoding

set_option linter.unusedSimpArgs false

/-- The 64-bit immediate that goes with an op of the long form, zero for the others (R90). -/
def longImmOf : Instr → BitVec 64
  | .movl x => x.imm
  | .addl x => x.imm
  | .andl x => x.imm
  | .katc x => x.imm
  | _ => 0

/-- Decoding the slot field of a well-formed op gives the op. -/
def Statement (i : Instr) : Prop :=
  ∀ sl, slotOf i = some sl → i.wf = true → decodeSlot sl (longImmOf i) (encodeSlot i) = some i

theorem nop : Statement .nop := fun _ h => nomatch h
theorem treeBranch (x : Tree) : Statement (.treeBranch x) := fun _ h => nomatch h
theorem add (x : ClsSR) : Statement (.add x) := by
  intro sl hs _; cases hs
  refine decodeSlot_of_row (code := 0x01) (by decide) rfl (encSR_mask x) ?_ ?_ ?_ (congrArg Instr.add (decSR_encSR x))
  · exact fun _ h => nomatch h
  · exact fun _ h => nomatch h
  · exact fun _ h => nomatch h
theorem sub (x : ClsSR) : Statement (.sub x) := by
  intro sl hs _; cases hs
  refine decodeSlot_of_row (code := 0x02) (by decide) rfl (encSR_mask x) ?_ ?_ ?_ (congrArg Instr.sub (decSR_encSR x))
  · exact fun _ h => nomatch h
  · exact fun _ h => nomatch h
  · exact fun _ h => nomatch h
theorem mul (x : ClsSR) : Statement (.mul x) := by
  intro sl hs _; cases hs
  refine decodeSlot_of_row (code := 0x03) (by decide) rfl (encSR_mask x) ?_ ?_ ?_ (congrArg Instr.mul (decSR_encSR x))
  · exact fun _ h => nomatch h
  · exact fun _ h => nomatch h
  · exact fun _ h => nomatch h
theorem mulh (x : ClsSR) : Statement (.mulh x) := by
  intro sl hs _; cases hs
  refine decodeSlot_of_row (code := 0x04) (by decide) rfl (encSR_mask x) ?_ ?_ ?_ (congrArg Instr.mulh (decSR_encSR x))
  · exact fun _ h => nomatch h
  · exact fun _ h => nomatch h
  · exact fun _ h => nomatch h
theorem mulhn (x : ClsSR) : Statement (.mulhn x) := by
  intro sl hs _; cases hs
  refine decodeSlot_of_row (code := 0x05) (by decide) rfl (encSR_mask x) ?_ ?_ ?_ (congrArg Instr.mulhn (decSR_encSR x))
  · exact fun _ h => nomatch h
  · exact fun _ h => nomatch h
  · exact fun _ h => nomatch h
theorem div (x : ClsSR) : Statement (.div x) := by
  intro sl hs _; cases hs
  refine decodeSlot_of_row (code := 0x06) (by decide) rfl (encSR_mask x) ?_ ?_ ?_ (congrArg Instr.div (decSR_encSR x))
  · exact fun _ h => nomatch h
  · exact fun _ h => nomatch h
  · exact fun _ h => nomatch h
theorem divn (x : ClsSR) : Statement (.divn x) := by
  intro sl hs _; cases hs
  refine decodeSlot_of_row (code := 0x07) (by decide) rfl (encSR_mask x) ?_ ?_ ?_ (congrArg Instr.divn (decSR_encSR x))
  · exact fun _ h => nomatch h
  · exact fun _ h => nomatch h
  · exact fun _ h => nomatch h
theorem rem (x : ClsSR) : Statement (.rem x) := by
  intro sl hs _; cases hs
  refine decodeSlot_of_row (code := 0x08) (by decide) rfl (encSR_mask x) ?_ ?_ ?_ (congrArg Instr.rem (decSR_encSR x))
  · exact fun _ h => nomatch h
  · exact fun _ h => nomatch h
  · exact fun _ h => nomatch h
theorem remn (x : ClsSR) : Statement (.remn x) := by
  intro sl hs _; cases hs
  refine decodeSlot_of_row (code := 0x09) (by decide) rfl (encSR_mask x) ?_ ?_ ?_ (congrArg Instr.remn (decSR_encSR x))
  · exact fun _ h => nomatch h
  · exact fun _ h => nomatch h
  · exact fun _ h => nomatch h
theorem and (x : ClsSR) : Statement (.and x) := by
  intro sl hs _; cases hs
  refine decodeSlot_of_row (code := 0x0A) (by decide) rfl (encSR_mask x) ?_ ?_ ?_ (congrArg Instr.and (decSR_encSR x))
  · exact fun _ h => nomatch h
  · exact fun _ h => nomatch h
  · exact fun _ h => nomatch h
theorem or (x : ClsSR) : Statement (.or x) := by
  intro sl hs _; cases hs
  refine decodeSlot_of_row (code := 0x0B) (by decide) rfl (encSR_mask x) ?_ ?_ ?_ (congrArg Instr.or (decSR_encSR x))
  · exact fun _ h => nomatch h
  · exact fun _ h => nomatch h
  · exact fun _ h => nomatch h
theorem xor (x : ClsSR) : Statement (.xor x) := by
  intro sl hs _; cases hs
  refine decodeSlot_of_row (code := 0x0C) (by decide) rfl (encSR_mask x) ?_ ?_ ?_ (congrArg Instr.xor (decSR_encSR x))
  · exact fun _ h => nomatch h
  · exact fun _ h => nomatch h
  · exact fun _ h => nomatch h
theorem shl (x : ClsSR) : Statement (.shl x) := by
  intro sl hs _; cases hs
  refine decodeSlot_of_row (code := 0x0D) (by decide) rfl (encSR_mask x) ?_ ?_ ?_ (congrArg Instr.shl (decSR_encSR x))
  · exact fun _ h => nomatch h
  · exact fun _ h => nomatch h
  · exact fun _ h => nomatch h
theorem shr (x : ClsSR) : Statement (.shr x) := by
  intro sl hs _; cases hs
  refine decodeSlot_of_row (code := 0x0E) (by decide) rfl (encSR_mask x) ?_ ?_ ?_ (congrArg Instr.shr (decSR_encSR x))
  · exact fun _ h => nomatch h
  · exact fun _ h => nomatch h
  · exact fun _ h => nomatch h
theorem sra (x : ClsSR) : Statement (.sra x) := by
  intro sl hs _; cases hs
  refine decodeSlot_of_row (code := 0x0F) (by decide) rfl (encSR_mask x) ?_ ?_ ?_ (congrArg Instr.sra (decSR_encSR x))
  · exact fun _ h => nomatch h
  · exact fun _ h => nomatch h
  · exact fun _ h => nomatch h
theorem addi (x : ClsSI) : Statement (.addi x) := by
  intro sl hs _; cases hs
  refine decodeSlot_of_row (code := 0x10) (by decide) rfl (encSI_mask x) ?_ ?_ ?_ (congrArg Instr.addi (decSI_encSI x))
  · exact fun _ h => nomatch h
  · exact fun _ h => nomatch h
  · exact fun _ h => nomatch h
theorem andi (x : ClsSI) : Statement (.andi x) := by
  intro sl hs _; cases hs
  refine decodeSlot_of_row (code := 0x11) (by decide) rfl (encSI_mask x) ?_ ?_ ?_ (congrArg Instr.andi (decSI_encSI x))
  · exact fun _ h => nomatch h
  · exact fun _ h => nomatch h
  · exact fun _ h => nomatch h
theorem ori (x : ClsSI) : Statement (.ori x) := by
  intro sl hs _; cases hs
  refine decodeSlot_of_row (code := 0x12) (by decide) rfl (encSI_mask x) ?_ ?_ ?_ (congrArg Instr.ori (decSI_encSI x))
  · exact fun _ h => nomatch h
  · exact fun _ h => nomatch h
  · exact fun _ h => nomatch h
theorem xori (x : ClsSI) : Statement (.xori x) := by
  intro sl hs _; cases hs
  refine decodeSlot_of_row (code := 0x13) (by decide) rfl (encSI_mask x) ?_ ?_ ?_ (congrArg Instr.xori (decSI_encSI x))
  · exact fun _ h => nomatch h
  · exact fun _ h => nomatch h
  · exact fun _ h => nomatch h
theorem shli (x : ClsSI) : Statement (.shli x) := by
  intro sl hs h; cases hs
  replace h : (decide (x.imm.toNat < 64) : Bool) = true := h
  simp [BitVec.toNat_eq] at h
  refine decodeSlot_of_row (code := 0x14) (by decide) rfl (encSI_mask x) ?_ ?_ ?_ (congrArg Instr.shli (decSI_encSI x))
  · simp [encSI_at18] <;> grind
  · exact fun _ h => nomatch h
  · exact fun _ h => nomatch h
theorem shri (x : ClsSI) : Statement (.shri x) := by
  intro sl hs h; cases hs
  replace h : (decide (x.imm.toNat < 64) : Bool) = true := h
  simp [BitVec.toNat_eq] at h
  refine decodeSlot_of_row (code := 0x15) (by decide) rfl (encSI_mask x) ?_ ?_ ?_ (congrArg Instr.shri (decSI_encSI x))
  · simp [encSI_at18] <;> grind
  · exact fun _ h => nomatch h
  · exact fun _ h => nomatch h
theorem srai (x : ClsSI) : Statement (.srai x) := by
  intro sl hs h; cases hs
  replace h : (decide (x.imm.toNat < 64) : Bool) = true := h
  simp [BitVec.toNat_eq] at h
  refine decodeSlot_of_row (code := 0x16) (by decide) rfl (encSI_mask x) ?_ ?_ ?_ (congrArg Instr.srai (decSI_encSI x))
  · simp [encSI_at18] <;> grind
  · exact fun _ h => nomatch h
  · exact fun _ h => nomatch h
theorem muli (x : ClsSI) : Statement (.muli x) := by
  intro sl hs _; cases hs
  refine decodeSlot_of_row (code := 0x17) (by decide) rfl (encSI_mask x) ?_ ?_ ?_ (congrArg Instr.muli (decSI_encSI x))
  · exact fun _ h => nomatch h
  · exact fun _ h => nomatch h
  · exact fun _ h => nomatch h
theorem lui (x : ClsSI) : Statement (.lui x) := by
  intro sl hs h; cases hs
  replace h : (x.a == 0 : Bool) = true := h
  simp [BitVec.toNat_eq] at h
  refine decodeSlot_of_row (code := 0x18) (by decide) rfl (encSI_mask x) ?_ ?_ ?_ (congrArg Instr.lui (decSI_encSI x))
  · simp [encSI_at6] <;> grind
  · exact fun _ h => nomatch h
  · exact fun _ h => nomatch h
theorem lpc (x : ClsSI) : Statement (.lpc x) := by
  intro sl hs h; cases hs
  replace h : (x.a == 0 : Bool) = true := h
  simp [BitVec.toNat_eq] at h
  refine decodeSlot_of_row (code := 0x19) (by decide) rfl (encSI_mask x) ?_ ?_ ?_ (congrArg Instr.lpc (decSI_encSI x))
  · simp [encSI_at6] <;> grind
  · exact fun _ h => nomatch h
  · exact fun _ h => nomatch h
theorem movl (x : ClsSL) : Statement (.movl x) := by
  intro sl hs h; cases hs
  replace h : (x.a == 0 : Bool) = true := h
  simp [BitVec.toNat_eq] at h
  refine decodeSlot_of_row (code := 0x1C) (by decide) rfl (encSL_mask x) ?_ ?_ ?_ (congrArg Instr.movl (decSL_encSL x _ rfl))
  · simp [encSL_at6] <;> grind
  · exact fun _ h => nomatch h
  · exact fun _ h => nomatch h
theorem addl (x : ClsSL) : Statement (.addl x) := by
  intro sl hs _; cases hs
  refine decodeSlot_of_row (code := 0x1D) (by decide) rfl (encSL_mask x) ?_ ?_ ?_ (congrArg Instr.addl (decSL_encSL x _ rfl))
  · exact fun _ h => nomatch h
  · exact fun _ h => nomatch h
  · exact fun _ h => nomatch h
theorem andl (x : ClsSL) : Statement (.andl x) := by
  intro sl hs _; cases hs
  refine decodeSlot_of_row (code := 0x1E) (by decide) rfl (encSL_mask x) ?_ ?_ ?_ (congrArg Instr.andl (decSL_encSL x _ rfl))
  · exact fun _ h => nomatch h
  · exact fun _ h => nomatch h
  · exact fun _ h => nomatch h
theorem lea (x : ClsSA) : Statement (.lea x) := by
  intro sl hs _; cases hs
  refine decodeSlot_of_row (code := 0x48) (by decide) rfl (encSA_mask x) ?_ ?_ ?_ (congrArg Instr.lea (decSA_encSA x))
  · exact fun _ h => nomatch h
  · exact fun _ h => nomatch h
  · exact fun _ h => nomatch h
theorem madd (x : ClsS4) : Statement (.madd x) := by
  intro sl hs _; cases hs
  refine decodeSlot_of_row (code := 0x49) (by decide) rfl (encS4_mask x) ?_ ?_ ?_ (congrArg Instr.madd (decS4_encS4 x))
  · exact fun _ h => nomatch h
  · exact fun _ h => nomatch h
  · exact fun _ h => nomatch h
theorem min (x : ClsSR) : Statement (.min x) := by
  intro sl hs _; cases hs
  refine decodeSlot_of_row (code := 0x40) (by decide) rfl (encSR_mask x) ?_ ?_ ?_ (congrArg Instr.min (decSR_encSR x))
  · exact fun _ h => nomatch h
  · exact fun _ h => nomatch h
  · exact fun _ h => nomatch h
theorem minn (x : ClsSR) : Statement (.minn x) := by
  intro sl hs _; cases hs
  refine decodeSlot_of_row (code := 0x41) (by decide) rfl (encSR_mask x) ?_ ?_ ?_ (congrArg Instr.minn (decSR_encSR x))
  · exact fun _ h => nomatch h
  · exact fun _ h => nomatch h
  · exact fun _ h => nomatch h
theorem max (x : ClsSR) : Statement (.max x) := by
  intro sl hs _; cases hs
  refine decodeSlot_of_row (code := 0x42) (by decide) rfl (encSR_mask x) ?_ ?_ ?_ (congrArg Instr.max (decSR_encSR x))
  · exact fun _ h => nomatch h
  · exact fun _ h => nomatch h
  · exact fun _ h => nomatch h
theorem maxn (x : ClsSR) : Statement (.maxn x) := by
  intro sl hs _; cases hs
  refine decodeSlot_of_row (code := 0x43) (by decide) rfl (encSR_mask x) ?_ ?_ ?_ (congrArg Instr.maxn (decSR_encSR x))
  · exact fun _ h => nomatch h
  · exact fun _ h => nomatch h
  · exact fun _ h => nomatch h
theorem abs (x : ClsSR) : Statement (.abs x) := by
  intro sl hs h; cases hs
  replace h : (x.b == 0 : Bool) = true := h
  simp [BitVec.toNat_eq] at h
  refine decodeSlot_of_row (code := 0x44) (by decide) rfl (encSR_mask x) ?_ ?_ ?_ (congrArg Instr.abs (decSR_encSR x))
  · simp [encSR_at12] <;> grind
  · exact fun _ h => nomatch h
  · exact fun _ h => nomatch h
theorem sel (x : ClsSS) : Statement (.sel x) := by
  intro sl hs _; cases hs
  refine decodeSlot_of_row (code := 0x45) (by decide) rfl (encSS_mask x) ?_ ?_ ?_ (congrArg Instr.sel (decSS_encSS x))
  · exact fun _ h => nomatch h
  · exact fun _ h => nomatch h
  · exact fun _ h => nomatch h
theorem bext (x : ClsSB) : Statement (.bext x) := by
  intro sl hs h; cases hs
  replace h : (decide (x.pos.toNat + x.len1.toNat < 64) : Bool) = true := h
  simp [BitVec.toNat_eq] at h
  refine decodeSlot_of_row (code := 0x38) (by decide) rfl (encSB_mask x) ?_ ?_ ?_ (congrArg Instr.bext (decSB_encSB x))
  · exact fun _ h => nomatch h
  · simp [encSB_at12, encSB_at18] <;> grind
  · exact fun _ h => nomatch h
theorem bextn (x : ClsSB) : Statement (.bextn x) := by
  intro sl hs h; cases hs
  replace h : (decide (x.pos.toNat + x.len1.toNat < 64) : Bool) = true := h
  simp [BitVec.toNat_eq] at h
  refine decodeSlot_of_row (code := 0x39) (by decide) rfl (encSB_mask x) ?_ ?_ ?_ (congrArg Instr.bextn (decSB_encSB x))
  · exact fun _ h => nomatch h
  · simp [encSB_at12, encSB_at18] <;> grind
  · exact fun _ h => nomatch h
theorem bins (x : ClsSB) : Statement (.bins x) := by
  intro sl hs h; cases hs
  replace h : (decide (x.pos.toNat + x.len1.toNat < 64) : Bool) = true := h
  simp [BitVec.toNat_eq] at h
  refine decodeSlot_of_row (code := 0x3A) (by decide) rfl (encSB_mask x) ?_ ?_ ?_ (congrArg Instr.bins (decSB_encSB x))
  · exact fun _ h => nomatch h
  · simp [encSB_at12, encSB_at18] <;> grind
  · exact fun _ h => nomatch h
theorem clz (x : ClsSR) : Statement (.clz x) := by
  intro sl hs h; cases hs
  replace h : (x.b == 0 : Bool) = true := h
  simp [BitVec.toNat_eq] at h
  refine decodeSlot_of_row (code := 0x3B) (by decide) rfl (encSR_mask x) ?_ ?_ ?_ (congrArg Instr.clz (decSR_encSR x))
  · simp [encSR_at12] <;> grind
  · exact fun _ h => nomatch h
  · exact fun _ h => nomatch h
theorem ctz (x : ClsSR) : Statement (.ctz x) := by
  intro sl hs h; cases hs
  replace h : (x.b == 0 : Bool) = true := h
  simp [BitVec.toNat_eq] at h
  refine decodeSlot_of_row (code := 0x3C) (by decide) rfl (encSR_mask x) ?_ ?_ ?_ (congrArg Instr.ctz (decSR_encSR x))
  · simp [encSR_at12] <;> grind
  · exact fun _ h => nomatch h
  · exact fun _ h => nomatch h
theorem popc (x : ClsSR) : Statement (.popc x) := by
  intro sl hs h; cases hs
  replace h : (x.b == 0 : Bool) = true := h
  simp [BitVec.toNat_eq] at h
  refine decodeSlot_of_row (code := 0x3D) (by decide) rfl (encSR_mask x) ?_ ?_ ?_ (congrArg Instr.popc (decSR_encSR x))
  · simp [encSR_at12] <;> grind
  · exact fun _ h => nomatch h
  · exact fun _ h => nomatch h
theorem bswap (x : ClsSR) : Statement (.bswap x) := by
  intro sl hs h; cases hs
  replace h : (x.b == 0 : Bool) = true := h
  simp [BitVec.toNat_eq] at h
  refine decodeSlot_of_row (code := 0x3E) (by decide) rfl (encSR_mask x) ?_ ?_ ?_ (congrArg Instr.bswap (decSR_encSR x))
  · simp [encSR_at12] <;> grind
  · exact fun _ h => nomatch h
  · exact fun _ h => nomatch h
theorem brev (x : ClsSR) : Statement (.brev x) := by
  intro sl hs h; cases hs
  replace h : (x.b == 0 : Bool) = true := h
  simp [BitVec.toNat_eq] at h
  refine decodeSlot_of_row (code := 0x3F) (by decide) rfl (encSR_mask x) ?_ ?_ ?_ (congrArg Instr.brev (decSR_encSR x))
  · simp [encSR_at12] <;> grind
  · exact fun _ h => nomatch h
  · exact fun _ h => nomatch h
theorem ceq (x : ClsSP) : Statement (.ceq x) := by
  intro sl hs _; cases hs
  refine decodeSlot_of_row (code := 0x20) (by decide) rfl (encSP_mask x) ?_ ?_ ?_ (congrArg Instr.ceq (decSP_encSP x))
  · exact fun _ h => nomatch h
  · exact fun _ h => nomatch h
  · exact fun _ h => nomatch h
theorem cne (x : ClsSP) : Statement (.cne x) := by
  intro sl hs _; cases hs
  refine decodeSlot_of_row (code := 0x21) (by decide) rfl (encSP_mask x) ?_ ?_ ?_ (congrArg Instr.cne (decSP_encSP x))
  · exact fun _ h => nomatch h
  · exact fun _ h => nomatch h
  · exact fun _ h => nomatch h
theorem clt (x : ClsSP) : Statement (.clt x) := by
  intro sl hs _; cases hs
  refine decodeSlot_of_row (code := 0x22) (by decide) rfl (encSP_mask x) ?_ ?_ ?_ (congrArg Instr.clt (decSP_encSP x))
  · exact fun _ h => nomatch h
  · exact fun _ h => nomatch h
  · exact fun _ h => nomatch h
theorem cltn (x : ClsSP) : Statement (.cltn x) := by
  intro sl hs _; cases hs
  refine decodeSlot_of_row (code := 0x23) (by decide) rfl (encSP_mask x) ?_ ?_ ?_ (congrArg Instr.cltn (decSP_encSP x))
  · exact fun _ h => nomatch h
  · exact fun _ h => nomatch h
  · exact fun _ h => nomatch h
theorem cle (x : ClsSP) : Statement (.cle x) := by
  intro sl hs _; cases hs
  refine decodeSlot_of_row (code := 0x24) (by decide) rfl (encSP_mask x) ?_ ?_ ?_ (congrArg Instr.cle (decSP_encSP x))
  · exact fun _ h => nomatch h
  · exact fun _ h => nomatch h
  · exact fun _ h => nomatch h
theorem clen (x : ClsSP) : Statement (.clen x) := by
  intro sl hs _; cases hs
  refine decodeSlot_of_row (code := 0x25) (by decide) rfl (encSP_mask x) ?_ ?_ ?_ (congrArg Instr.clen (decSP_encSP x))
  · exact fun _ h => nomatch h
  · exact fun _ h => nomatch h
  · exact fun _ h => nomatch h
theorem ctst (x : ClsSP) : Statement (.ctst x) := by
  intro sl hs _; cases hs
  refine decodeSlot_of_row (code := 0x26) (by decide) rfl (encSP_mask x) ?_ ?_ ?_ (congrArg Instr.ctst (decSP_encSP x))
  · exact fun _ h => nomatch h
  · exact fun _ h => nomatch h
  · exact fun _ h => nomatch h
theorem ceqi (x : ClsSPI) : Statement (.ceqi x) := by
  intro sl hs _; cases hs
  refine decodeSlot_of_row (code := 0x28) (by decide) rfl (encSPI_mask x) ?_ ?_ ?_ (congrArg Instr.ceqi (decSPI_encSPI x))
  · exact fun _ h => nomatch h
  · exact fun _ h => nomatch h
  · exact fun _ h => nomatch h
theorem cnei (x : ClsSPI) : Statement (.cnei x) := by
  intro sl hs _; cases hs
  refine decodeSlot_of_row (code := 0x29) (by decide) rfl (encSPI_mask x) ?_ ?_ ?_ (congrArg Instr.cnei (decSPI_encSPI x))
  · exact fun _ h => nomatch h
  · exact fun _ h => nomatch h
  · exact fun _ h => nomatch h
theorem clti (x : ClsSPI) : Statement (.clti x) := by
  intro sl hs _; cases hs
  refine decodeSlot_of_row (code := 0x2A) (by decide) rfl (encSPI_mask x) ?_ ?_ ?_ (congrArg Instr.clti (decSPI_encSPI x))
  · exact fun _ h => nomatch h
  · exact fun _ h => nomatch h
  · exact fun _ h => nomatch h
theorem cltni (x : ClsSPI) : Statement (.cltni x) := by
  intro sl hs _; cases hs
  refine decodeSlot_of_row (code := 0x2B) (by decide) rfl (encSPI_mask x) ?_ ?_ ?_ (congrArg Instr.cltni (decSPI_encSPI x))
  · exact fun _ h => nomatch h
  · exact fun _ h => nomatch h
  · exact fun _ h => nomatch h
theorem clei (x : ClsSPI) : Statement (.clei x) := by
  intro sl hs _; cases hs
  refine decodeSlot_of_row (code := 0x2C) (by decide) rfl (encSPI_mask x) ?_ ?_ ?_ (congrArg Instr.clei (decSPI_encSPI x))
  · exact fun _ h => nomatch h
  · exact fun _ h => nomatch h
  · exact fun _ h => nomatch h
theorem cleni (x : ClsSPI) : Statement (.cleni x) := by
  intro sl hs _; cases hs
  refine decodeSlot_of_row (code := 0x2D) (by decide) rfl (encSPI_mask x) ?_ ?_ ?_ (congrArg Instr.cleni (decSPI_encSPI x))
  · exact fun _ h => nomatch h
  · exact fun _ h => nomatch h
  · exact fun _ h => nomatch h
theorem pand (x : ClsPL) : Statement (.pand x) := by
  intro sl hs _; cases hs
  refine decodeSlot_of_row (code := 0x30) (by decide) rfl (encPL_mask x) ?_ ?_ ?_ (congrArg Instr.pand (decPL_encPL x))
  · exact fun _ h => nomatch h
  · exact fun _ h => nomatch h
  · exact fun _ h => nomatch h
theorem por (x : ClsPL) : Statement (.por x) := by
  intro sl hs _; cases hs
  refine decodeSlot_of_row (code := 0x31) (by decide) rfl (encPL_mask x) ?_ ?_ ?_ (congrArg Instr.por (decPL_encPL x))
  · exact fun _ h => nomatch h
  · exact fun _ h => nomatch h
  · exact fun _ h => nomatch h
theorem pxor (x : ClsPL) : Statement (.pxor x) := by
  intro sl hs _; cases hs
  refine decodeSlot_of_row (code := 0x32) (by decide) rfl (encPL_mask x) ?_ ?_ ?_ (congrArg Instr.pxor (decPL_encPL x))
  · exact fun _ h => nomatch h
  · exact fun _ h => nomatch h
  · exact fun _ h => nomatch h
theorem pnot (x : ClsPL) : Statement (.pnot x) := by
  intro sl hs h; cases hs
  replace h : (x.pb == 0 && !x.nb : Bool) = true := h
  simp [BitVec.toNat_eq] at h
  refine decodeSlot_of_row (code := 0x33) (by decide) rfl (encPL_mask x) ?_ ?_ ?_ (congrArg Instr.pnot (decPL_encPL x))
  · simp [encPL_at13, encPL_at8] <;> grind
  · exact fun _ h => nomatch h
  · exact fun _ h => nomatch h
theorem pmov (x : ClsPL) : Statement (.pmov x) := by
  intro sl hs h; cases hs
  replace h : (x.pb == 0 && !x.nb : Bool) = true := h
  simp [BitVec.toNat_eq] at h
  refine decodeSlot_of_row (code := 0x34) (by decide) rfl (encPL_mask x) ?_ ?_ ?_ (congrArg Instr.pmov (decPL_encPL x))
  · simp [encPL_at13, encPL_at8] <;> grind
  · exact fun _ h => nomatch h
  · exact fun _ h => nomatch h
theorem movp (x : ClsSR) : Statement (.movp x) := by
  intro sl hs h; cases hs
  replace h : (x.a == 0 && x.b == 0 : Bool) = true := h
  simp [BitVec.toNat_eq] at h
  refine decodeSlot_of_row (code := 0x58) (by decide) rfl (encSR_mask x) ?_ ?_ ?_ (congrArg Instr.movp (decSR_encSR x))
  · simp [encSR_at12, encSR_at6] <;> grind
  · exact fun _ h => nomatch h
  · exact fun _ h => nomatch h
theorem pmovs (x : ClsSR) : Statement (.pmovs x) := by
  intro sl hs h; cases hs
  replace h : (x.d == 0 : Bool) = true := h
  simp [BitVec.toNat_eq] at h
  refine decodeSlot_of_row (code := 0x59) (by decide) rfl (encSR_mask x) ?_ ?_ ?_ (congrArg Instr.pmovs (decSR_encSR x))
  · simp [encSR_at0] <;> grind
  · exact fun _ h => nomatch h
  · exact fun _ h => nomatch h
theorem movk (x : ClsSK) : Statement (.movk x) := by
  intro sl hs _; cases hs
  refine decodeSlot_of_row (code := 0x5A) (by decide) rfl (encSK_mask x) ?_ ?_ ?_ (congrArg Instr.movk (decSK_encSK x))
  · exact fun _ h => nomatch h
  · exact fun _ h => nomatch h
  · exact fun _ h => nomatch h
theorem kmov (x : ClsSK) : Statement (.kmov x) := by
  intro sl hs _; cases hs
  refine decodeSlot_of_row (code := 0x5B) (by decide) rfl (encSK_mask x) ?_ ?_ ?_ (congrArg Instr.kmov (decSK_encSK x))
  · exact fun _ h => nomatch h
  · exact fun _ h => nomatch h
  · exact fun _ h => nomatch h
theorem jmp (x : ClsSO) : Statement (.jmp x) := by
  intro sl hs h; cases hs
  replace h : (x.d == 0 : Bool) = true := h
  simp [BitVec.toNat_eq] at h
  refine decodeSlot_of_row (code := 0x50) (by decide) rfl (encSO_mask x) ?_ ?_ ?_ (congrArg Instr.jmp (decSO_encSO x))
  · simp [encSO_at0] <;> grind
  · exact fun _ h => nomatch h
  · exact fun _ h => nomatch h
theorem call (x : ClsSO) : Statement (.call x) := by
  intro sl hs _; cases hs
  refine decodeSlot_of_row (code := 0x51) (by decide) rfl (encSO_mask x) ?_ ?_ ?_ (congrArg Instr.call (decSO_encSO x))
  · exact fun _ h => nomatch h
  · exact fun _ h => nomatch h
  · exact fun _ h => nomatch h
theorem jr (x : ClsSJ) : Statement (.jr x) := by
  intro sl hs h; cases hs
  replace h : (x.d == 0 : Bool) = true := h
  simp [BitVec.toNat_eq] at h
  refine decodeSlot_of_row (code := 0x52) (by decide) rfl (encSJ_mask x) ?_ ?_ ?_ (congrArg Instr.jr (decSJ_encSJ x))
  · simp [encSJ_at0] <;> grind
  · exact fun _ h => nomatch h
  · exact fun _ h => nomatch h
theorem jalr (x : ClsSJ) : Statement (.jalr x) := by
  intro sl hs _; cases hs
  refine decodeSlot_of_row (code := 0x53) (by decide) rfl (encSJ_mask x) ?_ ?_ ?_ (congrArg Instr.jalr (decSJ_encSJ x))
  · exact fun _ h => nomatch h
  · exact fun _ h => nomatch h
  · exact fun _ h => nomatch h
theorem crr (x : ClsSCR) : Statement (.crr x) := by
  intro sl hs h; cases hs
  replace h : (cregAssigned x.creg.toNat : Bool) = true := h
  simp [BitVec.toNat_eq, cregAssigned] at h
  refine decodeSlot_of_row (code := 0xC0) (by decide) rfl (encSCR_mask x) ?_ ?_ ?_ (congrArg Instr.crr (decSCR_encSCR x))
  · exact fun _ h => nomatch h
  · simp [encSCR_at6, cregAssigned] <;> grind
  · exact fun _ h => nomatch h
theorem crw (x : ClsSCR) : Statement (.crw x) := by
  intro sl hs h; cases hs
  replace h : (cregWritable x.creg.toNat : Bool) = true := h
  simp [BitVec.toNat_eq, cregWritable] at h
  refine decodeSlot_of_row (code := 0xC1) (by decide) rfl (encSCR_mask x) ?_ ?_ ?_ (congrArg Instr.crw (decSCR_encSCR x))
  · exact fun _ h => nomatch h
  · simp [encSCR_at6, cregWritable] <;> grind
  · exact fun _ h => nomatch h
theorem snrd (x : ClsSR) : Statement (.snrd x) := by
  intro sl hs h; cases hs
  replace h : (x.b == 0 : Bool) = true := h
  simp [BitVec.toNat_eq] at h
  refine decodeSlot_of_row (code := 0xC2) (by decide) rfl (encSR_mask x) ?_ ?_ ?_ (congrArg Instr.snrd (decSR_encSR x))
  · simp [encSR_at12] <;> grind
  · exact fun _ h => nomatch h
  · exact fun _ h => nomatch h
theorem snwr (x : ClsSR) : Statement (.snwr x) := by
  intro sl hs h; cases hs
  replace h : (x.d == 0 : Bool) = true := h
  simp [BitVec.toNat_eq] at h
  refine decodeSlot_of_row (code := 0xC3) (by decide) rfl (encSR_mask x) ?_ ?_ ?_ (congrArg Instr.snwr (decSR_encSR x))
  · simp [encSR_at0] <;> grind
  · exact fun _ h => nomatch h
  · exact fun _ h => nomatch h
theorem eret : Statement .eret := by
  intro sl h _; cases h
  decide +kernel
theorem halt : Statement .halt := by
  intro sl h _; cases h
  decide +kernel
theorem seqopen (x : ClsSR) : Statement (.seqopen x) := by
  intro sl hs h; cases hs
  replace h : (x.b == 0 : Bool) = true := h
  simp [BitVec.toNat_eq] at h
  refine decodeSlot_of_row (code := 0xC6) (by decide) rfl (encSR_mask x) ?_ ?_ ?_ (congrArg Instr.seqopen (decSR_encSR x))
  · simp [encSR_at12] <;> grind
  · exact fun _ h => nomatch h
  · exact fun _ h => nomatch h
theorem seqend (x : ClsSR) : Statement (.seqend x) := by
  intro sl hs h; cases hs
  replace h : (x.d == 0 && x.b == 0 : Bool) = true := h
  simp [BitVec.toNat_eq] at h
  refine decodeSlot_of_row (code := 0xC7) (by decide) rfl (encSR_mask x) ?_ ?_ ?_ (congrArg Instr.seqend (decSR_encSR x))
  · simp [encSR_at0, encSR_at12] <;> grind
  · exact fun _ h => nomatch h
  · exact fun _ h => nomatch h
theorem seqbind (x : ClsSR) : Statement (.seqbind x) := by
  intro sl hs h; cases hs
  replace h : (x.d == 0 && x.b == 0 : Bool) = true := h
  simp [BitVec.toNat_eq] at h
  refine decodeSlot_of_row (code := 0xC8) (by decide) rfl (encSR_mask x) ?_ ?_ ?_ (congrArg Instr.seqbind (decSR_encSR x))
  · simp [encSR_at0, encSR_at12] <;> grind
  · exact fun _ h => nomatch h
  · exact fun _ h => nomatch h
theorem tinv (x : ClsSR) : Statement (.tinv x) := by
  intro sl hs h; cases hs
  replace h : (x.d == 0 : Bool) = true := h
  simp [BitVec.toNat_eq] at h
  refine decodeSlot_of_row (code := 0xC9) (by decide) rfl (encSR_mask x) ?_ ?_ ?_ (congrArg Instr.tinv (decSR_encSR x))
  · simp [encSR_at0] <;> grind
  · exact fun _ h => nomatch h
  · exact fun _ h => nomatch h
theorem ifence : Statement .ifence := by
  intro sl h _; cases h
  decide +kernel
theorem katc (x : ClsSL) : Statement (.katc x) := by
  intro sl hs h; cases hs
  replace h : (x.d == 0 : Bool) = true := h
  simp [BitVec.toNat_eq] at h
  refine decodeSlot_of_row (code := 0xCB) (by decide) rfl (encSL_mask x) ?_ ?_ ?_ (congrArg Instr.katc (decSL_encSL x _ rfl))
  · simp [encSL_at0] <;> grind
  · exact fun _ h => nomatch h
  · exact fun _ h => nomatch h
theorem diapack : Statement .diapack := by
  intro sl h _; cases h
  decide +kernel
theorem vadd (x : ClsVR) : Statement (.vadd x) := by
  intro sl hs h; cases hs
  replace h : (x.vc == 0 && x.ty.isW && rmFloatOnly x.rm x.ty : Bool) = true := h
  simp [BitVec.toNat_eq, Ty.isW_iff, rmFloatOnly_iff] at h
  have := x.ty.code_le
  have := x.rm.code_le
  refine decodeSlot_of_row (code := 0x01) (by decide) rfl (encVR_mask x) ?_ ?_ ?_ (congrArg Instr.vadd (decVR_encVR x))
  · simp [encVR_at15] <;> grind
  · simp [encVR_at23, encVR_at27] <;> grind
  · exact fun _ h => nomatch h
theorem vsub (x : ClsVR) : Statement (.vsub x) := by
  intro sl hs h; cases hs
  replace h : (x.vc == 0 && x.ty.isW && rmFloatOnly x.rm x.ty : Bool) = true := h
  simp [BitVec.toNat_eq, Ty.isW_iff, rmFloatOnly_iff] at h
  have := x.ty.code_le
  have := x.rm.code_le
  refine decodeSlot_of_row (code := 0x02) (by decide) rfl (encVR_mask x) ?_ ?_ ?_ (congrArg Instr.vsub (decVR_encVR x))
  · simp [encVR_at15] <;> grind
  · simp [encVR_at23, encVR_at27] <;> grind
  · exact fun _ h => nomatch h
theorem vmul (x : ClsVR) : Statement (.vmul x) := by
  intro sl hs h; cases hs
  replace h : (x.vc == 0 && x.ty.isW && rmFloatOnly x.rm x.ty : Bool) = true := h
  simp [BitVec.toNat_eq, Ty.isW_iff, rmFloatOnly_iff] at h
  have := x.ty.code_le
  have := x.rm.code_le
  refine decodeSlot_of_row (code := 0x03) (by decide) rfl (encVR_mask x) ?_ ?_ ?_ (congrArg Instr.vmul (decVR_encVR x))
  · simp [encVR_at15] <;> grind
  · simp [encVR_at23, encVR_at27] <;> grind
  · exact fun _ h => nomatch h
theorem vfma (x : ClsVR) : Statement (.vfma x) := by
  intro sl hs h; cases hs
  replace h : (x.ty.isF : Bool) = true := h
  simp [BitVec.toNat_eq, Ty.isF_iff] at h
  have := x.ty.code_le
  have := x.rm.code_le
  refine decodeSlot_of_row (code := 0x04) (by decide) rfl (encVR_mask x) ?_ ?_ ?_ (congrArg Instr.vfma (decVR_encVR x))
  · exact fun _ h => nomatch h
  · simp [encVR_at23, encVR_at27] <;> grind
  · exact fun _ h => nomatch h
theorem vfms (x : ClsVR) : Statement (.vfms x) := by
  intro sl hs h; cases hs
  replace h : (x.ty.isF : Bool) = true := h
  simp [BitVec.toNat_eq, Ty.isF_iff] at h
  have := x.ty.code_le
  have := x.rm.code_le
  refine decodeSlot_of_row (code := 0x05) (by decide) rfl (encVR_mask x) ?_ ?_ ?_ (congrArg Instr.vfms (decVR_encVR x))
  · exact fun _ h => nomatch h
  · simp [encVR_at23, encVR_at27] <;> grind
  · exact fun _ h => nomatch h
theorem vfnma (x : ClsVR) : Statement (.vfnma x) := by
  intro sl hs h; cases hs
  replace h : (x.ty.isF : Bool) = true := h
  simp [BitVec.toNat_eq, Ty.isF_iff] at h
  have := x.ty.code_le
  have := x.rm.code_le
  refine decodeSlot_of_row (code := 0x06) (by decide) rfl (encVR_mask x) ?_ ?_ ?_ (congrArg Instr.vfnma (decVR_encVR x))
  · exact fun _ h => nomatch h
  · simp [encVR_at23, encVR_at27] <;> grind
  · exact fun _ h => nomatch h
theorem vmin (x : ClsVR) : Statement (.vmin x) := by
  intro sl hs h; cases hs
  replace h : (x.vc == 0 && x.rm == .rne && x.ty.isW : Bool) = true := h
  simp [BitVec.toNat_eq, Ty.isW_iff, Rm.eq_rne_iff] at h
  have := x.ty.code_le
  have := x.rm.code_le
  refine decodeSlot_of_row (code := 0x07) (by decide) rfl (encVR_mask x) ?_ ?_ ?_ (congrArg Instr.vmin (decVR_encVR x))
  · simp [encVR_at15, encVR_at27] <;> grind
  · simp [encVR_at23] <;> grind
  · exact fun _ h => nomatch h
theorem vmax (x : ClsVR) : Statement (.vmax x) := by
  intro sl hs h; cases hs
  replace h : (x.vc == 0 && x.rm == .rne && x.ty.isW : Bool) = true := h
  simp [BitVec.toNat_eq, Ty.isW_iff, Rm.eq_rne_iff] at h
  have := x.ty.code_le
  have := x.rm.code_le
  refine decodeSlot_of_row (code := 0x08) (by decide) rfl (encVR_mask x) ?_ ?_ ?_ (congrArg Instr.vmax (decVR_encVR x))
  · simp [encVR_at15, encVR_at27] <;> grind
  · simp [encVR_at23] <;> grind
  · exact fun _ h => nomatch h
theorem vabs (x : ClsVR) : Statement (.vabs x) := by
  intro sl hs h; cases hs
  replace h : (x.vb == 0 && x.vc == 0 && x.rm == .rne && (x.ty.isSigned || x.ty.isF) : Bool) = true := h
  simp [BitVec.toNat_eq, Ty.isF_iff, Ty.isSigned_iff, Rm.eq_rne_iff] at h
  have := x.ty.code_le
  have := x.rm.code_le
  refine decodeSlot_of_row (code := 0x09) (by decide) rfl (encVR_mask x) ?_ ?_ ?_ (congrArg Instr.vabs (decVR_encVR x))
  · simp [encVR_at10, encVR_at15, encVR_at27] <;> grind
  · simp [encVR_at23] <;> grind
  · exact fun _ h => nomatch h
theorem vneg (x : ClsVR) : Statement (.vneg x) := by
  intro sl hs h; cases hs
  replace h : (x.vb == 0 && x.vc == 0 && x.rm == .rne && (x.ty.isSigned || x.ty.isF) : Bool) = true := h
  simp [BitVec.toNat_eq, Ty.isF_iff, Ty.isSigned_iff, Rm.eq_rne_iff] at h
  have := x.ty.code_le
  have := x.rm.code_le
  refine decodeSlot_of_row (code := 0x0A) (by decide) rfl (encVR_mask x) ?_ ?_ ?_ (congrArg Instr.vneg (decVR_encVR x))
  · simp [encVR_at10, encVR_at15, encVR_at27] <;> grind
  · simp [encVR_at23] <;> grind
  · exact fun _ h => nomatch h
theorem vand (x : ClsVR) : Statement (.vand x) := by
  intro sl hs h; cases hs
  replace h : (x.vc == 0 && x.rm == .rne && x.ty.isInt : Bool) = true := h
  simp [BitVec.toNat_eq, Ty.isInt_iff, Rm.eq_rne_iff] at h
  have := x.ty.code_le
  have := x.rm.code_le
  refine decodeSlot_of_row (code := 0x0B) (by decide) rfl (encVR_mask x) ?_ ?_ ?_ (congrArg Instr.vand (decVR_encVR x))
  · simp [encVR_at15, encVR_at27] <;> grind
  · simp [encVR_at23] <;> grind
  · exact fun _ h => nomatch h
theorem vor (x : ClsVR) : Statement (.vor x) := by
  intro sl hs h; cases hs
  replace h : (x.vc == 0 && x.rm == .rne && x.ty.isInt : Bool) = true := h
  simp [BitVec.toNat_eq, Ty.isInt_iff, Rm.eq_rne_iff] at h
  have := x.ty.code_le
  have := x.rm.code_le
  refine decodeSlot_of_row (code := 0x0C) (by decide) rfl (encVR_mask x) ?_ ?_ ?_ (congrArg Instr.vor (decVR_encVR x))
  · simp [encVR_at15, encVR_at27] <;> grind
  · simp [encVR_at23] <;> grind
  · exact fun _ h => nomatch h
theorem vxor (x : ClsVR) : Statement (.vxor x) := by
  intro sl hs h; cases hs
  replace h : (x.vc == 0 && x.rm == .rne && x.ty.isInt : Bool) = true := h
  simp [BitVec.toNat_eq, Ty.isInt_iff, Rm.eq_rne_iff] at h
  have := x.ty.code_le
  have := x.rm.code_le
  refine decodeSlot_of_row (code := 0x0D) (by decide) rfl (encVR_mask x) ?_ ?_ ?_ (congrArg Instr.vxor (decVR_encVR x))
  · simp [encVR_at15, encVR_at27] <;> grind
  · simp [encVR_at23] <;> grind
  · exact fun _ h => nomatch h
theorem vshl (x : ClsVR) : Statement (.vshl x) := by
  intro sl hs h; cases hs
  replace h : (x.vc == 0 && x.rm == .rne && x.ty.isInt : Bool) = true := h
  simp [BitVec.toNat_eq, Ty.isInt_iff, Rm.eq_rne_iff] at h
  have := x.ty.code_le
  have := x.rm.code_le
  refine decodeSlot_of_row (code := 0x0E) (by decide) rfl (encVR_mask x) ?_ ?_ ?_ (congrArg Instr.vshl (decVR_encVR x))
  · simp [encVR_at15, encVR_at27] <;> grind
  · simp [encVR_at23] <;> grind
  · exact fun _ h => nomatch h
theorem vshr (x : ClsVR) : Statement (.vshr x) := by
  intro sl hs h; cases hs
  replace h : (x.vc == 0 && x.rm == .rne && x.ty.isInt : Bool) = true := h
  simp [BitVec.toNat_eq, Ty.isInt_iff, Rm.eq_rne_iff] at h
  have := x.ty.code_le
  have := x.rm.code_le
  refine decodeSlot_of_row (code := 0x0F) (by decide) rfl (encVR_mask x) ?_ ?_ ?_ (congrArg Instr.vshr (decVR_encVR x))
  · simp [encVR_at15, encVR_at27] <;> grind
  · simp [encVR_at23] <;> grind
  · exact fun _ h => nomatch h
theorem vqadd (x : ClsVR) : Statement (.vqadd x) := by
  intro sl hs h; cases hs
  replace h : (x.vc == 0 && x.rm == .rne && x.ty.isInt : Bool) = true := h
  simp [BitVec.toNat_eq, Ty.isInt_iff, Rm.eq_rne_iff] at h
  have := x.ty.code_le
  have := x.rm.code_le
  refine decodeSlot_of_row (code := 0x10) (by decide) rfl (encVR_mask x) ?_ ?_ ?_ (congrArg Instr.vqadd (decVR_encVR x))
  · simp [encVR_at15, encVR_at27] <;> grind
  · simp [encVR_at23] <;> grind
  · exact fun _ h => nomatch h
theorem vqsub (x : ClsVR) : Statement (.vqsub x) := by
  intro sl hs h; cases hs
  replace h : (x.vc == 0 && x.rm == .rne && x.ty.isInt : Bool) = true := h
  simp [BitVec.toNat_eq, Ty.isInt_iff, Rm.eq_rne_iff] at h
  have := x.ty.code_le
  have := x.rm.code_le
  refine decodeSlot_of_row (code := 0x11) (by decide) rfl (encVR_mask x) ?_ ?_ ?_ (congrArg Instr.vqsub (decVR_encVR x))
  · simp [encVR_at15, encVR_at27] <;> grind
  · simp [encVR_at23] <;> grind
  · exact fun _ h => nomatch h
theorem vmulh (x : ClsVR) : Statement (.vmulh x) := by
  intro sl hs h; cases hs
  replace h : (x.vc == 0 && x.rm == .rne && x.ty.isInt : Bool) = true := h
  simp [BitVec.toNat_eq, Ty.isInt_iff, Rm.eq_rne_iff] at h
  have := x.ty.code_le
  have := x.rm.code_le
  refine decodeSlot_of_row (code := 0x12) (by decide) rfl (encVR_mask x) ?_ ?_ ?_ (congrArg Instr.vmulh (decVR_encVR x))
  · simp [encVR_at15, encVR_at27] <;> grind
  · simp [encVR_at23] <;> grind
  · exact fun _ h => nomatch h
theorem vavg (x : ClsVR) : Statement (.vavg x) := by
  intro sl hs h; cases hs
  replace h : (x.vc == 0 && x.rm == .rne && x.ty.isInt : Bool) = true := h
  simp [BitVec.toNat_eq, Ty.isInt_iff, Rm.eq_rne_iff] at h
  have := x.ty.code_le
  have := x.rm.code_le
  refine decodeSlot_of_row (code := 0x13) (by decide) rfl (encVR_mask x) ?_ ?_ ?_ (congrArg Instr.vavg (decVR_encVR x))
  · simp [encVR_at15, encVR_at27] <;> grind
  · simp [encVR_at23] <;> grind
  · exact fun _ h => nomatch h
theorem vclz (x : ClsVR) : Statement (.vclz x) := by
  intro sl hs h; cases hs
  replace h : (x.vb == 0 && x.vc == 0 && x.rm == .rne && x.ty.isInt : Bool) = true := h
  simp [BitVec.toNat_eq, Ty.isInt_iff, Rm.eq_rne_iff] at h
  have := x.ty.code_le
  have := x.rm.code_le
  refine decodeSlot_of_row (code := 0x14) (by decide) rfl (encVR_mask x) ?_ ?_ ?_ (congrArg Instr.vclz (decVR_encVR x))
  · simp [encVR_at10, encVR_at15, encVR_at27] <;> grind
  · simp [encVR_at23] <;> grind
  · exact fun _ h => nomatch h
theorem vpopc (x : ClsVR) : Statement (.vpopc x) := by
  intro sl hs h; cases hs
  replace h : (x.vb == 0 && x.vc == 0 && x.rm == .rne && x.ty.isInt : Bool) = true := h
  simp [BitVec.toNat_eq, Ty.isInt_iff, Rm.eq_rne_iff] at h
  have := x.ty.code_le
  have := x.rm.code_le
  refine decodeSlot_of_row (code := 0x15) (by decide) rfl (encVR_mask x) ?_ ?_ ?_ (congrArg Instr.vpopc (decVR_encVR x))
  · simp [encVR_at10, encVR_at15, encVR_at27] <;> grind
  · simp [encVR_at23] <;> grind
  · exact fun _ h => nomatch h
theorem vaddsc (x : ClsVS) : Statement (.vaddsc x) := by
  intro sl hs h; cases hs
  replace h : (x.ty.isW && rmFloatOnly x.rm x.ty : Bool) = true := h
  simp [BitVec.toNat_eq, Ty.isW_iff, rmFloatOnly_iff] at h
  have := x.ty.code_le
  have := x.rm.code_le
  refine decodeSlot_of_row (code := 0x18) (by decide) rfl (encVS_mask x) ?_ ?_ ?_ (congrArg Instr.vaddsc (decVS_encVS x))
  · exact fun _ h => nomatch h
  · simp [encVS_at23, encVS_at27] <;> grind
  · exact fun _ h => nomatch h
theorem vsubsc (x : ClsVS) : Statement (.vsubsc x) := by
  intro sl hs h; cases hs
  replace h : (x.ty.isW && rmFloatOnly x.rm x.ty : Bool) = true := h
  simp [BitVec.toNat_eq, Ty.isW_iff, rmFloatOnly_iff] at h
  have := x.ty.code_le
  have := x.rm.code_le
  refine decodeSlot_of_row (code := 0x19) (by decide) rfl (encVS_mask x) ?_ ?_ ?_ (congrArg Instr.vsubsc (decVS_encVS x))
  · exact fun _ h => nomatch h
  · simp [encVS_at23, encVS_at27] <;> grind
  · exact fun _ h => nomatch h
theorem vmulsc (x : ClsVS) : Statement (.vmulsc x) := by
  intro sl hs h; cases hs
  replace h : (x.ty.isW && rmFloatOnly x.rm x.ty : Bool) = true := h
  simp [BitVec.toNat_eq, Ty.isW_iff, rmFloatOnly_iff] at h
  have := x.ty.code_le
  have := x.rm.code_le
  refine decodeSlot_of_row (code := 0x1A) (by decide) rfl (encVS_mask x) ?_ ?_ ?_ (congrArg Instr.vmulsc (decVS_encVS x))
  · exact fun _ h => nomatch h
  · simp [encVS_at23, encVS_at27] <;> grind
  · exact fun _ h => nomatch h
theorem vminsc (x : ClsVS) : Statement (.vminsc x) := by
  intro sl hs h; cases hs
  replace h : (x.rm == .rne && x.ty.isW : Bool) = true := h
  simp [BitVec.toNat_eq, Ty.isW_iff, Rm.eq_rne_iff] at h
  have := x.ty.code_le
  have := x.rm.code_le
  refine decodeSlot_of_row (code := 0x1B) (by decide) rfl (encVS_mask x) ?_ ?_ ?_ (congrArg Instr.vminsc (decVS_encVS x))
  · simp [encVS_at27] <;> grind
  · simp [encVS_at23] <;> grind
  · exact fun _ h => nomatch h
theorem vmaxsc (x : ClsVS) : Statement (.vmaxsc x) := by
  intro sl hs h; cases hs
  replace h : (x.rm == .rne && x.ty.isW : Bool) = true := h
  simp [BitVec.toNat_eq, Ty.isW_iff, Rm.eq_rne_iff] at h
  have := x.ty.code_le
  have := x.rm.code_le
  refine decodeSlot_of_row (code := 0x1C) (by decide) rfl (encVS_mask x) ?_ ?_ ?_ (congrArg Instr.vmaxsc (decVS_encVS x))
  · simp [encVS_at27] <;> grind
  · simp [encVS_at23] <;> grind
  · exact fun _ h => nomatch h
theorem vbcast (x : ClsVS) : Statement (.vbcast x) := by
  intro sl hs h; cases hs
  replace h : (x.va == 0 && x.rm == .rne && x.ty.isW : Bool) = true := h
  simp [BitVec.toNat_eq, Ty.isW_iff, Rm.eq_rne_iff] at h
  have := x.ty.code_le
  have := x.rm.code_le
  refine decodeSlot_of_row (code := 0x1D) (by decide) rfl (encVS_mask x) ?_ ?_ ?_ (congrArg Instr.vbcast (decVS_encVS x))
  · simp [encVS_at27, encVS_at5] <;> grind
  · simp [encVS_at23] <;> grind
  · exact fun _ h => nomatch h
theorem vceq (x : ClsVR) : Statement (.vceq x) := by
  intro sl hs h; cases hs
  replace h : (x.vc == 0 && x.rm == .rne && x.ty.isCmp && x.vd.toNat < 8 : Bool) = true := h
  simp [BitVec.toNat_eq, Ty.isCmp_iff, Rm.eq_rne_iff] at h
  have := x.ty.code_le
  have := x.rm.code_le
  refine decodeSlot_of_row (code := 0x20) (by decide) rfl (encVR_mask x) ?_ ?_ ?_ (congrArg Instr.vceq (decVR_encVR x))
  · simp [encVR_at15, encVR_at27, encVR_at3] <;> grind
  · simp [encVR_at23] <;> grind
  · exact fun _ h => nomatch h
theorem vcne (x : ClsVR) : Statement (.vcne x) := by
  intro sl hs h; cases hs
  replace h : (x.vc == 0 && x.rm == .rne && x.ty.isCmp && x.vd.toNat < 8 : Bool) = true := h
  simp [BitVec.toNat_eq, Ty.isCmp_iff, Rm.eq_rne_iff] at h
  have := x.ty.code_le
  have := x.rm.code_le
  refine decodeSlot_of_row (code := 0x21) (by decide) rfl (encVR_mask x) ?_ ?_ ?_ (congrArg Instr.vcne (decVR_encVR x))
  · simp [encVR_at15, encVR_at27, encVR_at3] <;> grind
  · simp [encVR_at23] <;> grind
  · exact fun _ h => nomatch h
theorem vclt (x : ClsVR) : Statement (.vclt x) := by
  intro sl hs h; cases hs
  replace h : (x.vc == 0 && x.rm == .rne && x.ty.isCmp && x.vd.toNat < 8 : Bool) = true := h
  simp [BitVec.toNat_eq, Ty.isCmp_iff, Rm.eq_rne_iff] at h
  have := x.ty.code_le
  have := x.rm.code_le
  refine decodeSlot_of_row (code := 0x22) (by decide) rfl (encVR_mask x) ?_ ?_ ?_ (congrArg Instr.vclt (decVR_encVR x))
  · simp [encVR_at15, encVR_at27, encVR_at3] <;> grind
  · simp [encVR_at23] <;> grind
  · exact fun _ h => nomatch h
theorem vcle (x : ClsVR) : Statement (.vcle x) := by
  intro sl hs h; cases hs
  replace h : (x.vc == 0 && x.rm == .rne && x.ty.isCmp && x.vd.toNat < 8 : Bool) = true := h
  simp [BitVec.toNat_eq, Ty.isCmp_iff, Rm.eq_rne_iff] at h
  have := x.ty.code_le
  have := x.rm.code_le
  refine decodeSlot_of_row (code := 0x23) (by decide) rfl (encVR_mask x) ?_ ?_ ?_ (congrArg Instr.vcle (decVR_encVR x))
  · simp [encVR_at15, encVR_at27, encVR_at3] <;> grind
  · simp [encVR_at23] <;> grind
  · exact fun _ h => nomatch h
theorem vcgt (x : ClsVR) : Statement (.vcgt x) := by
  intro sl hs h; cases hs
  replace h : (x.vc == 0 && x.rm == .rne && x.ty.isCmp && x.vd.toNat < 8 : Bool) = true := h
  simp [BitVec.toNat_eq, Ty.isCmp_iff, Rm.eq_rne_iff] at h
  have := x.ty.code_le
  have := x.rm.code_le
  refine decodeSlot_of_row (code := 0x24) (by decide) rfl (encVR_mask x) ?_ ?_ ?_ (congrArg Instr.vcgt (decVR_encVR x))
  · simp [encVR_at15, encVR_at27, encVR_at3] <;> grind
  · simp [encVR_at23] <;> grind
  · exact fun _ h => nomatch h
theorem vcge (x : ClsVR) : Statement (.vcge x) := by
  intro sl hs h; cases hs
  replace h : (x.vc == 0 && x.rm == .rne && x.ty.isCmp && x.vd.toNat < 8 : Bool) = true := h
  simp [BitVec.toNat_eq, Ty.isCmp_iff, Rm.eq_rne_iff] at h
  have := x.ty.code_le
  have := x.rm.code_le
  refine decodeSlot_of_row (code := 0x25) (by decide) rfl (encVR_mask x) ?_ ?_ ?_ (congrArg Instr.vcge (decVR_encVR x))
  · simp [encVR_at15, encVR_at27, encVR_at3] <;> grind
  · simp [encVR_at23] <;> grind
  · exact fun _ h => nomatch h
theorem vsel (x : ClsVR) : Statement (.vsel x) := by
  intro sl hs h; cases hs
  replace h : (x.vc == 0 && x.rm == .rne && x.ty.isW : Bool) = true := h
  simp [BitVec.toNat_eq, Ty.isW_iff, Rm.eq_rne_iff] at h
  have := x.ty.code_le
  have := x.rm.code_le
  refine decodeSlot_of_row (code := 0x28) (by decide) rfl (encVR_mask x) ?_ ?_ ?_ (congrArg Instr.vsel (decVR_encVR x))
  · simp [encVR_at15, encVR_at27] <;> grind
  · simp [encVR_at23] <;> grind
  · exact fun _ h => nomatch h
theorem kand (x : ClsVK) : Statement (.kand x) := by
  intro sl hs _; cases hs
  refine decodeSlot_of_row (code := 0x29) (by decide) rfl (encVK_mask x) ?_ ?_ ?_ (congrArg Instr.kand (decVK_encVK x))
  · exact fun _ h => nomatch h
  · exact fun _ h => nomatch h
  · exact fun _ h => nomatch h
theorem kor (x : ClsVK) : Statement (.kor x) := by
  intro sl hs _; cases hs
  refine decodeSlot_of_row (code := 0x2A) (by decide) rfl (encVK_mask x) ?_ ?_ ?_ (congrArg Instr.kor (decVK_encVK x))
  · exact fun _ h => nomatch h
  · exact fun _ h => nomatch h
  · exact fun _ h => nomatch h
theorem kxor (x : ClsVK) : Statement (.kxor x) := by
  intro sl hs _; cases hs
  refine decodeSlot_of_row (code := 0x2B) (by decide) rfl (encVK_mask x) ?_ ?_ ?_ (congrArg Instr.kxor (decVK_encVK x))
  · exact fun _ h => nomatch h
  · exact fun _ h => nomatch h
  · exact fun _ h => nomatch h
theorem knot (x : ClsVK) : Statement (.knot x) := by
  intro sl hs h; cases hs
  replace h : (x.kb == 0 : Bool) = true := h
  simp [BitVec.toNat_eq] at h
  refine decodeSlot_of_row (code := 0x2C) (by decide) rfl (encVK_mask x) ?_ ?_ ?_ (congrArg Instr.knot (decVK_encVK x))
  · simp [encVK_at6] <;> grind
  · exact fun _ h => nomatch h
  · exact fun _ h => nomatch h
theorem vperm (x : ClsVR) : Statement (.vperm x) := by
  intro sl hs h; cases hs
  replace h : (x.rm == .rne && x.ty.isW : Bool) = true := h
  simp [BitVec.toNat_eq, Ty.isW_iff, Rm.eq_rne_iff] at h
  have := x.ty.code_le
  have := x.rm.code_le
  refine decodeSlot_of_row (code := 0x30) (by decide) rfl (encVR_mask x) ?_ ?_ ?_ (congrArg Instr.vperm (decVR_encVR x))
  · simp [encVR_at27] <;> grind
  · simp [encVR_at23] <;> grind
  · exact fun _ h => nomatch h
theorem vrot (x : ClsVS) : Statement (.vrot x) := by
  intro sl hs h; cases hs
  replace h : (x.rm == .rne && x.ty.isW : Bool) = true := h
  simp [BitVec.toNat_eq, Ty.isW_iff, Rm.eq_rne_iff] at h
  have := x.ty.code_le
  have := x.rm.code_le
  refine decodeSlot_of_row (code := 0x31) (by decide) rfl (encVS_mask x) ?_ ?_ ?_ (congrArg Instr.vrot (decVS_encVS x))
  · simp [encVS_at27] <;> grind
  · simp [encVS_at23] <;> grind
  · exact fun _ h => nomatch h
theorem vzip (x : ClsVR) : Statement (.vzip x) := by
  intro sl hs h; cases hs
  replace h : (x.rm == .rne && x.ty.isW && x.vc.toNat < 2 : Bool) = true := h
  simp [BitVec.toNat_eq, Ty.isW_iff, Rm.eq_rne_iff] at h
  have := x.ty.code_le
  have := x.rm.code_le
  refine decodeSlot_of_row (code := 0x32) (by decide) rfl (encVR_mask x) ?_ ?_ ?_ (congrArg Instr.vzip (decVR_encVR x))
  · simp [encVR_at27] <;> grind
  · simp [encVR_at15, encVR_at23] <;> grind
  · exact fun _ h => nomatch h
theorem vunzip (x : ClsVR) : Statement (.vunzip x) := by
  intro sl hs h; cases hs
  replace h : (x.rm == .rne && x.ty.isW && x.vc.toNat < 2 : Bool) = true := h
  simp [BitVec.toNat_eq, Ty.isW_iff, Rm.eq_rne_iff] at h
  have := x.ty.code_le
  have := x.rm.code_le
  refine decodeSlot_of_row (code := 0x33) (by decide) rfl (encVR_mask x) ?_ ?_ ?_ (congrArg Instr.vunzip (decVR_encVR x))
  · simp [encVR_at27] <;> grind
  · simp [encVR_at15, encVR_at23] <;> grind
  · exact fun _ h => nomatch h
theorem vslide (x : ClsVS) : Statement (.vslide x) := by
  intro sl hs h; cases hs
  replace h : (x.rm == .rne && x.ty.isW : Bool) = true := h
  simp [BitVec.toNat_eq, Ty.isW_iff, Rm.eq_rne_iff] at h
  have := x.ty.code_le
  have := x.rm.code_le
  refine decodeSlot_of_row (code := 0x34) (by decide) rfl (encVS_mask x) ?_ ?_ ?_ (congrArg Instr.vslide (decVS_encVS x))
  · simp [encVS_at27] <;> grind
  · simp [encVS_at23] <;> grind
  · exact fun _ h => nomatch h
theorem vbrd (x : ClsVX) : Statement (.vbrd x) := by
  intro sl hs h; cases hs
  replace h : (x.ty.isW && x.imm.toNat < x.ty.count : Bool) = true := h
  simp [BitVec.toNat_eq, Ty.isW_iff] at h
  have := x.ty.code_le
  refine decodeSlot_of_row (code := 0x35) (by decide) rfl (encVX_mask x) ?_ ?_ ?_ (congrArg Instr.vbrd (decVX_encVX x))
  · exact fun _ h => nomatch h
  · simp [encVX_at10, encVX_at23, Ty.ofCode_code] <;> grind
  · exact fun _ h => nomatch h
theorem vcomp (x : ClsVR) : Statement (.vcomp x) := by
  intro sl hs h; cases hs
  replace h : (x.vb == 0 && x.vc == 0 && x.rm == .rne && x.ty.isW : Bool) = true := h
  simp [BitVec.toNat_eq, Ty.isW_iff, Rm.eq_rne_iff] at h
  have := x.ty.code_le
  have := x.rm.code_le
  refine decodeSlot_of_row (code := 0x36) (by decide) rfl (encVR_mask x) ?_ ?_ ?_ (congrArg Instr.vcomp (decVR_encVR x))
  · simp [encVR_at10, encVR_at15, encVR_at27] <;> grind
  · simp [encVR_at23] <;> grind
  · exact fun _ h => nomatch h
theorem vmov (x : ClsVR) : Statement (.vmov x) := by
  intro sl hs h; cases hs
  replace h : (x.vb == 0 && x.vc == 0 && x.rm == .rne && x.ty.isW : Bool) = true := h
  simp [BitVec.toNat_eq, Ty.isW_iff, Rm.eq_rne_iff] at h
  have := x.ty.code_le
  have := x.rm.code_le
  refine decodeSlot_of_row (code := 0x3C) (by decide) rfl (encVR_mask x) ?_ ?_ ?_ (congrArg Instr.vmov (decVR_encVR x))
  · simp [encVR_at10, encVR_at15, encVR_at27] <;> grind
  · simp [encVR_at23] <;> grind
  · exact fun _ h => nomatch h
theorem vmovs (x : ClsVL) : Statement (.vmovs x) := by
  intro sl hs h; cases hs
  replace h : (x.ty.isW && x.lane.toNat < x.ty.count : Bool) = true := h
  simp [BitVec.toNat_eq, Ty.isW_iff] at h
  have := x.ty.code_le
  refine decodeSlot_of_row (code := 0x43) (by decide) rfl (encVL_mask x) ?_ ?_ ?_ (congrArg Instr.vmovs (decVL_encVL x))
  · exact fun _ h => nomatch h
  · simp [encVL_at11, encVL_at17, Ty.ofCode_code] <;> grind
  · exact fun _ h => nomatch h
theorem vins (x : ClsVL) : Statement (.vins x) := by
  intro sl hs h; cases hs
  replace h : (x.ty.isW && x.lane.toNat < x.ty.count : Bool) = true := h
  simp [BitVec.toNat_eq, Ty.isW_iff] at h
  have := x.ty.code_le
  refine decodeSlot_of_row (code := 0x44) (by decide) rfl (encVL_mask x) ?_ ?_ ?_ (congrArg Instr.vins (decVL_encVL x))
  · exact fun _ h => nomatch h
  · simp [encVL_at11, encVL_at17, Ty.ofCode_code] <;> grind
  · exact fun _ h => nomatch h
theorem vrsum (x : ClsVS) : Statement (.vrsum x) := by
  intro sl hs h; cases hs
  replace h : (x.vd == 0 && x.ty.isW && rmFloatOnly x.rm x.ty : Bool) = true := h
  simp [BitVec.toNat_eq, Ty.isW_iff, rmFloatOnly_iff] at h
  have := x.ty.code_le
  have := x.rm.code_le
  refine decodeSlot_of_row (code := 0x38) (by decide) rfl (encVS_mask x) ?_ ?_ ?_ (congrArg Instr.vrsum (decVS_encVS x))
  · simp [encVS_at0] <;> grind
  · simp [encVS_at23, encVS_at27] <;> grind
  · exact fun _ h => nomatch h
theorem vrmin (x : ClsVS) : Statement (.vrmin x) := by
  intro sl hs h; cases hs
  replace h : (x.vd == 0 && x.rm == .rne && x.ty.isW : Bool) = true := h
  simp [BitVec.toNat_eq, Ty.isW_iff, Rm.eq_rne_iff] at h
  have := x.ty.code_le
  have := x.rm.code_le
  refine decodeSlot_of_row (code := 0x39) (by decide) rfl (encVS_mask x) ?_ ?_ ?_ (congrArg Instr.vrmin (decVS_encVS x))
  · simp [encVS_at0, encVS_at27] <;> grind
  · simp [encVS_at23] <;> grind
  · exact fun _ h => nomatch h
theorem vrmax (x : ClsVS) : Statement (.vrmax x) := by
  intro sl hs h; cases hs
  replace h : (x.vd == 0 && x.rm == .rne && x.ty.isW : Bool) = true := h
  simp [BitVec.toNat_eq, Ty.isW_iff, Rm.eq_rne_iff] at h
  have := x.ty.code_le
  have := x.rm.code_le
  refine decodeSlot_of_row (code := 0x3A) (by decide) rfl (encVS_mask x) ?_ ?_ ?_ (congrArg Instr.vrmax (decVS_encVS x))
  · simp [encVS_at0, encVS_at27] <;> grind
  · simp [encVS_at23] <;> grind
  · exact fun _ h => nomatch h
theorem vcvt (x : ClsVT) : Statement (.vcvt x) := by
  intro sl hs h; cases hs
  replace h : (x.src != x.res : Bool) = true := h
  simp [BitVec.toNat_eq, bne_iff_ne] at h
  have := x.res.code_le
  have := x.src.code_le
  have := x.rm.code_le
  have := fun e => h ((Ty.code_inj _ _).1 e)
  refine decodeSlot_of_row (code := 0x40) (by decide) rfl (encVT_mask x) ?_ ?_ ?_ (congrArg Instr.vcvt (decVT_encVT x))
  · exact fun _ h => nomatch h
  · simp [encVT_at10, encVT_at14, encVT_at18] <;> grind
  · exact fun _ h => nomatch h
theorem vbfpe (x : ClsVF) : Statement (.vbfpe x) := by
  intro sl hs h; cases hs
  replace h : (x.ty.isF && x.bm2.toNat < 7 : Bool) = true := h
  simp [BitVec.toNat_eq, Ty.isF_iff] at h
  have := x.ty.code_le
  have := x.rm.code_le
  refine decodeSlot_of_row (code := 0x41) (by decide) rfl (encVF_mask x) ?_ ?_ ?_ (congrArg Instr.vbfpe (decVF_encVF x))
  · exact fun _ h => nomatch h
  · simp [encVF_at10, encVF_at13, encVF_at17] <;> grind
  · exact fun _ h => nomatch h
theorem vbfpd (x : ClsVF) : Statement (.vbfpd x) := by
  intro sl hs h; cases hs
  replace h : (x.k == 0 && x.ty.isF && x.bm2.toNat < 7 : Bool) = true := h
  simp [BitVec.toNat_eq, Ty.isF_iff] at h
  have := x.ty.code_le
  have := x.rm.code_le
  refine decodeSlot_of_row (code := 0x42) (by decide) rfl (encVF_mask x) ?_ ?_ ?_ (congrArg Instr.vbfpd (decVF_encVF x))
  · simp [encVF_at20] <;> grind
  · simp [encVF_at10, encVF_at13, encVF_at17] <;> grind
  · exact fun _ h => nomatch h
theorem vrcp (x : ClsVR) : Statement (.vrcp x) := by
  intro sl hs h; cases hs
  replace h : (x.vb == 0 && x.vc == 0 && x.ty == .f32 : Bool) = true := h
  simp [BitVec.toNat_eq, Ty.eq_f32_iff] at h
  have := x.ty.code_le
  have := x.rm.code_le
  refine decodeSlot_of_row (code := 0x50) (by decide) rfl (encVR_mask x) ?_ ?_ ?_ (congrArg Instr.vrcp (decVR_encVR x))
  · simp [encVR_at10, encVR_at15] <;> grind
  · simp [encVR_at23, encVR_at27] <;> grind
  · exact fun _ h => nomatch h
theorem vrsqrt (x : ClsVR) : Statement (.vrsqrt x) := by
  intro sl hs h; cases hs
  replace h : (x.vb == 0 && x.vc == 0 && x.ty == .f32 : Bool) = true := h
  simp [BitVec.toNat_eq, Ty.eq_f32_iff] at h
  have := x.ty.code_le
  have := x.rm.code_le
  refine decodeSlot_of_row (code := 0x51) (by decide) rfl (encVR_mask x) ?_ ?_ ?_ (congrArg Instr.vrsqrt (decVR_encVR x))
  · simp [encVR_at10, encVR_at15] <;> grind
  · simp [encVR_at23, encVR_at27] <;> grind
  · exact fun _ h => nomatch h
theorem vexp2 (x : ClsVR) : Statement (.vexp2 x) := by
  intro sl hs h; cases hs
  replace h : (x.vb == 0 && x.vc == 0 && x.ty == .f32 : Bool) = true := h
  simp [BitVec.toNat_eq, Ty.eq_f32_iff] at h
  have := x.ty.code_le
  have := x.rm.code_le
  refine decodeSlot_of_row (code := 0x52) (by decide) rfl (encVR_mask x) ?_ ?_ ?_ (congrArg Instr.vexp2 (decVR_encVR x))
  · simp [encVR_at10, encVR_at15] <;> grind
  · simp [encVR_at23, encVR_at27] <;> grind
  · exact fun _ h => nomatch h
theorem vlog2 (x : ClsVR) : Statement (.vlog2 x) := by
  intro sl hs h; cases hs
  replace h : (x.vb == 0 && x.vc == 0 && x.ty == .f32 : Bool) = true := h
  simp [BitVec.toNat_eq, Ty.eq_f32_iff] at h
  have := x.ty.code_le
  have := x.rm.code_le
  refine decodeSlot_of_row (code := 0x53) (by decide) rfl (encVR_mask x) ?_ ?_ ?_ (congrArg Instr.vlog2 (decVR_encVR x))
  · simp [encVR_at10, encVR_at15] <;> grind
  · simp [encVR_at23, encVR_at27] <;> grind
  · exact fun _ h => nomatch h
theorem vrng (x : ClsVS) : Statement (.vrng x) := by
  intro sl hs h; cases hs
  replace h : (x.va == 0 && x.rm == .rne && x.ty == .n32 && x.s.toNat % 2 == 0 : Bool) = true := h
  simp [BitVec.toNat_eq, Ty.eq_n32_iff, Rm.eq_rne_iff] at h
  have := x.ty.code_le
  have := x.rm.code_le
  refine decodeSlot_of_row (code := 0x54) (by decide) rfl (encVS_mask x) ?_ ?_ ?_ (congrArg Instr.vrng (decVS_encVS x))
  · simp [encVS_at27, encVS_at5] <;> grind
  · simp [encVS_at10, encVS_at23] <;> grind
  · exact fun _ h => nomatch h
theorem mpw (x : ClsMP) : Statement (.mpw x) := by
  intro sl hs _; cases hs
  refine decodeSlot_of_row (code := 0x02) (by decide) rfl (encMP_mask x) ?_ ?_ ?_ (congrArg Instr.mpw (decMP_encMP x))
  · exact fun _ h => nomatch h
  · exact fun _ h => nomatch h
  · exact fun _ h => nomatch h
theorem mpr (x : ClsMP) : Statement (.mpr x) := by
  intro sl hs _; cases hs
  refine decodeSlot_of_row (code := 0x03) (by decide) rfl (encMP_mask x) ?_ ?_ ?_ (congrArg Instr.mpr (decMP_encMP x))
  · exact fun _ h => nomatch h
  · exact fun _ h => nomatch h
  · exact fun _ h => nomatch h
theorem mclr (x : ClsMA) : Statement (.mclr x) := by
  intro sl hs h; cases hs
  replace h : (x.s == 0 && x.v == 0 : Bool) = true := h
  simp [BitVec.toNat_eq] at h
  refine decodeSlot_of_row (code := 0x04) (by decide) rfl (encMA_mask x) ?_ ?_ ?_ (congrArg Instr.mclr (decMA_encMA x))
  · simp [encMA_at2, encMA_at7] <;> grind
  · exact fun _ h => nomatch h
  · exact fun _ h => nomatch h
theorem mrow (x : ClsMA) : Statement (.mrow x) := by
  intro sl hs _; cases hs
  refine decodeSlot_of_row (code := 0x05) (by decide) rfl (encMA_mask x) ?_ ?_ ?_ (congrArg Instr.mrow (decMA_encMA x))
  · exact fun _ h => nomatch h
  · exact fun _ h => nomatch h
  · exact fun _ h => nomatch h
theorem mwm (x : ClsMA) : Statement (.mwm x) := by
  intro sl hs h; cases hs
  replace h : (x.v == 0 : Bool) = true := h
  simp [BitVec.toNat_eq] at h
  refine decodeSlot_of_row (code := 0x06) (by decide) rfl (encMA_mask x) ?_ ?_ ?_ (congrArg Instr.mwm (decMA_encMA x))
  · simp [encMA_at2] <;> grind
  · exact fun _ h => nomatch h
  · exact fun _ h => nomatch h
theorem mflg (x : ClsMA) : Statement (.mflg x) := by
  intro sl hs h; cases hs
  replace h : (x.v == 0 : Bool) = true := h
  simp [BitVec.toNat_eq] at h
  refine decodeSlot_of_row (code := 0x07) (by decide) rfl (encMA_mask x) ?_ ?_ ?_ (congrArg Instr.mflg (decMA_encMA x))
  · simp [encMA_at2] <;> grind
  · exact fun _ h => nomatch h
  · exact fun _ h => nomatch h
theorem mgix (x : ClsMA) : Statement (.mgix x) := by
  intro sl hs h; cases hs
  replace h : (x.s == 0 && x.acc == 0 : Bool) = true := h
  simp [BitVec.toNat_eq] at h
  refine decodeSlot_of_row (code := 0x08) (by decide) rfl (encMA_mask x) ?_ ?_ ?_ (congrArg Instr.mgix (decMA_encMA x))
  · simp [encMA_at0, encMA_at7] <;> grind
  · exact fun _ h => nomatch h
  · exact fun _ h => nomatch h
theorem mwait (x : ClsMA) : Statement (.mwait x) := by
  intro sl hs h; cases hs
  replace h : (x.s == 0 && x.v == 0 : Bool) = true := h
  simp [BitVec.toNat_eq] at h
  refine decodeSlot_of_row (code := 0x09) (by decide) rfl (encMA_mask x) ?_ ?_ ?_ (congrArg Instr.mwait (decMA_encMA x))
  · simp [encMA_at2, encMA_at7] <;> grind
  · exact fun _ h => nomatch h
  · exact fun _ h => nomatch h
theorem mstop (x : ClsMA) : Statement (.mstop x) := by
  intro sl hs h; cases hs
  replace h : (x.s == 0 && x.v == 0 : Bool) = true := h
  simp [BitVec.toNat_eq] at h
  refine decodeSlot_of_row (code := 0x0A) (by decide) rfl (encMA_mask x) ?_ ?_ ?_ (congrArg Instr.mstop (decMA_encMA x))
  · simp [encMA_at2, encMA_at7] <;> grind
  · exact fun _ h => nomatch h
  · exact fun _ h => nomatch h
theorem mcallBmm (x : ClsMC) : Statement (.mcallBmm x) := by
  intro sl hs h; cases hs
  replace h : (engineOrderOk x.acq x.rel x.scope : Bool) = true := h
  simp [BitVec.toNat_eq, engineOrderOk_iff] at h
  have := x.scope.code_le
  have e0 := encMC_at9 x 0 (by decide)
  simp only [Nat.add_zero, Nat.mul_zero] at e0
  have e1 := encMC_bit7 x 0 (by decide)
  simp only [Nat.add_zero, Nat.mul_zero] at e1
  have e2 := encMC_bit8 x 0 (by decide)
  simp only [Nat.add_zero, Nat.mul_zero] at e2
  refine decodeSlot_of_row (code := 0x01) (by decide) rfl (encMC_mask x 0 (by decide)) ?_ ?_ ?_ ((congrArg (mcallOf · _) (by unfold encMC; omega : _ = 0)).trans (congrArg Instr.mcallBmm (decMC_encMC x 0 (by decide))))
  · exact fun _ h => nomatch h
  · simp [e0]; exact ⟨by grind, by unfold encMC; omega⟩
  · simp [e0, e1, e2] <;> grind
theorem mcallBmmz (x : ClsMC) : Statement (.mcallBmmz x) := by
  intro sl hs h; cases hs
  replace h : (engineOrderOk x.acq x.rel x.scope : Bool) = true := h
  simp [BitVec.toNat_eq, engineOrderOk_iff] at h
  have := x.scope.code_le
  refine decodeSlot_of_row (code := 0x01) (by decide) rfl (encMC_mask x 1 (by decide)) ?_ ?_ ?_ ((congrArg (mcallOf · _) (by unfold encMC; omega : _ = 1)).trans (congrArg Instr.mcallBmmz (decMC_encMC x 1 (by decide))))
  · exact fun _ h => nomatch h
  · simp [encMC_at9 x 1 (by decide)]; exact ⟨by grind, by unfold encMC; omega⟩
  · simp [encMC_at9 x 1 (by decide), encMC_bit7 x 1 (by decide), encMC_bit8 x 1 (by decide)] <;> grind
theorem mcallBmmg (x : ClsMC) : Statement (.mcallBmmg x) := by
  intro sl hs h; cases hs
  replace h : (engineOrderOk x.acq x.rel x.scope : Bool) = true := h
  simp [BitVec.toNat_eq, engineOrderOk_iff] at h
  have := x.scope.code_le
  refine decodeSlot_of_row (code := 0x01) (by decide) rfl (encMC_mask x 2 (by decide)) ?_ ?_ ?_ ((congrArg (mcallOf · _) (by unfold encMC; omega : _ = 2)).trans (congrArg Instr.mcallBmmg (decMC_encMC x 2 (by decide))))
  · exact fun _ h => nomatch h
  · simp [encMC_at9 x 2 (by decide)]; exact ⟨by grind, by unfold encMC; omega⟩
  · simp [encMC_at9 x 2 (by decide), encMC_bit7 x 2 (by decide), encMC_bit8 x 2 (by decide)] <;> grind
theorem mcallBmmgz (x : ClsMC) : Statement (.mcallBmmgz x) := by
  intro sl hs h; cases hs
  replace h : (engineOrderOk x.acq x.rel x.scope : Bool) = true := h
  simp [BitVec.toNat_eq, engineOrderOk_iff] at h
  have := x.scope.code_le
  refine decodeSlot_of_row (code := 0x01) (by decide) rfl (encMC_mask x 3 (by decide)) ?_ ?_ ?_ ((congrArg (mcallOf · _) (by unfold encMC; omega : _ = 3)).trans (congrArg Instr.mcallBmmgz (decMC_encMC x 3 (by decide))))
  · exact fun _ h => nomatch h
  · simp [encMC_at9 x 3 (by decide)]; exact ⟨by grind, by unfold encMC; omega⟩
  · simp [encMC_at9 x 3 (by decide), encMC_bit7 x 3 (by decide), encMC_bit8 x 3 (by decide)] <;> grind
theorem mcallHmm (x : ClsMC) : Statement (.mcallHmm x) := by
  intro sl hs h; cases hs
  replace h : (engineOrderOk x.acq x.rel x.scope : Bool) = true := h
  simp [BitVec.toNat_eq, engineOrderOk_iff] at h
  have := x.scope.code_le
  refine decodeSlot_of_row (code := 0x01) (by decide) rfl (encMC_mask x 4 (by decide)) ?_ ?_ ?_ ((congrArg (mcallOf · _) (by unfold encMC; omega : _ = 4)).trans (congrArg Instr.mcallHmm (decMC_encMC x 4 (by decide))))
  · exact fun _ h => nomatch h
  · simp [encMC_at9 x 4 (by decide)]; exact ⟨by grind, by unfold encMC; omega⟩
  · simp [encMC_at9 x 4 (by decide), encMC_bit7 x 4 (by decide), encMC_bit8 x 4 (by decide)] <;> grind
theorem mcallHmmz (x : ClsMC) : Statement (.mcallHmmz x) := by
  intro sl hs h; cases hs
  replace h : (engineOrderOk x.acq x.rel x.scope : Bool) = true := h
  simp [BitVec.toNat_eq, engineOrderOk_iff] at h
  have := x.scope.code_le
  refine decodeSlot_of_row (code := 0x01) (by decide) rfl (encMC_mask x 5 (by decide)) ?_ ?_ ?_ ((congrArg (mcallOf · _) (by unfold encMC; omega : _ = 5)).trans (congrArg Instr.mcallHmmz (decMC_encMC x 5 (by decide))))
  · exact fun _ h => nomatch h
  · simp [encMC_at9 x 5 (by decide)]; exact ⟨by grind, by unfold encMC; omega⟩
  · simp [encMC_at9 x 5 (by decide), encMC_bit7 x 5 (by decide), encMC_bit8 x 5 (by decide)] <;> grind
theorem mcallFmm (x : ClsMC) : Statement (.mcallFmm x) := by
  intro sl hs h; cases hs
  replace h : (engineOrderOk x.acq x.rel x.scope : Bool) = true := h
  simp [BitVec.toNat_eq, engineOrderOk_iff] at h
  have := x.scope.code_le
  refine decodeSlot_of_row (code := 0x01) (by decide) rfl (encMC_mask x 6 (by decide)) ?_ ?_ ?_ ((congrArg (mcallOf · _) (by unfold encMC; omega : _ = 6)).trans (congrArg Instr.mcallFmm (decMC_encMC x 6 (by decide))))
  · exact fun _ h => nomatch h
  · simp [encMC_at9 x 6 (by decide)]; exact ⟨by grind, by unfold encMC; omega⟩
  · simp [encMC_at9 x 6 (by decide), encMC_bit7 x 6 (by decide), encMC_bit8 x 6 (by decide)] <;> grind
theorem mcallFmmz (x : ClsMC) : Statement (.mcallFmmz x) := by
  intro sl hs h; cases hs
  replace h : (engineOrderOk x.acq x.rel x.scope : Bool) = true := h
  simp [BitVec.toNat_eq, engineOrderOk_iff] at h
  have := x.scope.code_le
  refine decodeSlot_of_row (code := 0x01) (by decide) rfl (encMC_mask x 7 (by decide)) ?_ ?_ ?_ ((congrArg (mcallOf · _) (by unfold encMC; omega : _ = 7)).trans (congrArg Instr.mcallFmmz (decMC_encMC x 7 (by decide))))
  · exact fun _ h => nomatch h
  · simp [encMC_at9 x 7 (by decide)]; exact ⟨by grind, by unfold encMC; omega⟩
  · simp [encMC_at9 x 7 (by decide), encMC_bit7 x 7 (by decide), encMC_bit8 x 7 (by decide)] <;> grind
theorem mcallImm (x : ClsMC) : Statement (.mcallImm x) := by
  intro sl hs h; cases hs
  replace h : (engineOrderOk x.acq x.rel x.scope : Bool) = true := h
  simp [BitVec.toNat_eq, engineOrderOk_iff] at h
  have := x.scope.code_le
  refine decodeSlot_of_row (code := 0x01) (by decide) rfl (encMC_mask x 8 (by decide)) ?_ ?_ ?_ ((congrArg (mcallOf · _) (by unfold encMC; omega : _ = 8)).trans (congrArg Instr.mcallImm (decMC_encMC x 8 (by decide))))
  · exact fun _ h => nomatch h
  · simp [encMC_at9 x 8 (by decide)]; exact ⟨by grind, by unfold encMC; omega⟩
  · simp [encMC_at9 x 8 (by decide), encMC_bit7 x 8 (by decide), encMC_bit8 x 8 (by decide)] <;> grind
theorem mcallImmz (x : ClsMC) : Statement (.mcallImmz x) := by
  intro sl hs h; cases hs
  replace h : (engineOrderOk x.acq x.rel x.scope : Bool) = true := h
  simp [BitVec.toNat_eq, engineOrderOk_iff] at h
  have := x.scope.code_le
  refine decodeSlot_of_row (code := 0x01) (by decide) rfl (encMC_mask x 9 (by decide)) ?_ ?_ ?_ ((congrArg (mcallOf · _) (by unfold encMC; omega : _ = 9)).trans (congrArg Instr.mcallImmz (decMC_encMC x 9 (by decide))))
  · exact fun _ h => nomatch h
  · simp [encMC_at9 x 9 (by decide)]; exact ⟨by grind, by unfold encMC; omega⟩
  · simp [encMC_at9 x 9 (by decide), encMC_bit7 x 9 (by decide), encMC_bit8 x 9 (by decide)] <;> grind
theorem mcallGrouped (x : ClsMC) : Statement (.mcallGrouped x) := by
  intro sl hs h; cases hs
  replace h : (engineOrderOk x.acq x.rel x.scope : Bool) = true := h
  simp [BitVec.toNat_eq, engineOrderOk_iff] at h
  have := x.scope.code_le
  refine decodeSlot_of_row (code := 0x01) (by decide) rfl (encMC_mask x 10 (by decide)) ?_ ?_ ?_ ((congrArg (mcallOf · _) (by unfold encMC; omega : _ = 10)).trans (congrArg Instr.mcallGrouped (decMC_encMC x 10 (by decide))))
  · exact fun _ h => nomatch h
  · simp [encMC_at9 x 10 (by decide)]; exact ⟨by grind, by unfold encMC; omega⟩
  · simp [encMC_at9 x 10 (by decide), encMC_bit7 x 10 (by decide), encMC_bit8 x 10 (by decide)] <;> grind
theorem mcallGroupedh (x : ClsMC) : Statement (.mcallGroupedh x) := by
  intro sl hs h; cases hs
  replace h : (engineOrderOk x.acq x.rel x.scope : Bool) = true := h
  simp [BitVec.toNat_eq, engineOrderOk_iff] at h
  have := x.scope.code_le
  refine decodeSlot_of_row (code := 0x01) (by decide) rfl (encMC_mask x 11 (by decide)) ?_ ?_ ?_ ((congrArg (mcallOf · _) (by unfold encMC; omega : _ = 11)).trans (congrArg Instr.mcallGroupedh (decMC_encMC x 11 (by decide))))
  · exact fun _ h => nomatch h
  · simp [encMC_at9 x 11 (by decide)]; exact ⟨by grind, by unfold encMC; omega⟩
  · simp [encMC_at9 x 11 (by decide), encMC_bit7 x 11 (by decide), encMC_bit8 x 11 (by decide)] <;> grind
theorem mcallEbias (x : ClsMC) : Statement (.mcallEbias x) := by
  intro sl hs h; cases hs
  replace h : (engineOrderOk x.acq x.rel x.scope : Bool) = true := h
  simp [BitVec.toNat_eq, engineOrderOk_iff] at h
  have := x.scope.code_le
  refine decodeSlot_of_row (code := 0x01) (by decide) rfl (encMC_mask x 12 (by decide)) ?_ ?_ ?_ ((congrArg (mcallOf · _) (by unfold encMC; omega : _ = 12)).trans (congrArg Instr.mcallEbias (decMC_encMC x 12 (by decide))))
  · exact fun _ h => nomatch h
  · simp [encMC_at9 x 12 (by decide)]; exact ⟨by grind, by unfold encMC; omega⟩
  · simp [encMC_at9 x 12 (by decide), encMC_bit7 x 12 (by decide), encMC_bit8 x 12 (by decide)] <;> grind
theorem mcallEscale (x : ClsMC) : Statement (.mcallEscale x) := by
  intro sl hs h; cases hs
  replace h : (engineOrderOk x.acq x.rel x.scope : Bool) = true := h
  simp [BitVec.toNat_eq, engineOrderOk_iff] at h
  have := x.scope.code_le
  refine decodeSlot_of_row (code := 0x01) (by decide) rfl (encMC_mask x 13 (by decide)) ?_ ?_ ?_ ((congrArg (mcallOf · _) (by unfold encMC; omega : _ = 13)).trans (congrArg Instr.mcallEscale (decMC_encMC x 13 (by decide))))
  · exact fun _ h => nomatch h
  · simp [encMC_at9 x 13 (by decide)]; exact ⟨by grind, by unfold encMC; omega⟩
  · simp [encMC_at9 x 13 (by decide), encMC_bit7 x 13 (by decide), encMC_bit8 x 13 (by decide)] <;> grind
theorem mcallErelu (x : ClsMC) : Statement (.mcallErelu x) := by
  intro sl hs h; cases hs
  replace h : (engineOrderOk x.acq x.rel x.scope : Bool) = true := h
  simp [BitVec.toNat_eq, engineOrderOk_iff] at h
  have := x.scope.code_le
  refine decodeSlot_of_row (code := 0x01) (by decide) rfl (encMC_mask x 14 (by decide)) ?_ ?_ ?_ ((congrArg (mcallOf · _) (by unfold encMC; omega : _ = 14)).trans (congrArg Instr.mcallErelu (decMC_encMC x 14 (by decide))))
  · exact fun _ h => nomatch h
  · simp [encMC_at9 x 14 (by decide)]; exact ⟨by grind, by unfold encMC; omega⟩
  · simp [encMC_at9 x 14 (by decide), encMC_bit7 x 14 (by decide), encMC_bit8 x 14 (by decide)] <;> grind
theorem mcallEadd (x : ClsMC) : Statement (.mcallEadd x) := by
  intro sl hs h; cases hs
  replace h : (engineOrderOk x.acq x.rel x.scope : Bool) = true := h
  simp [BitVec.toNat_eq, engineOrderOk_iff] at h
  have := x.scope.code_le
  refine decodeSlot_of_row (code := 0x01) (by decide) rfl (encMC_mask x 15 (by decide)) ?_ ?_ ?_ ((congrArg (mcallOf · _) (by unfold encMC; omega : _ = 15)).trans (congrArg Instr.mcallEadd (decMC_encMC x 15 (by decide))))
  · exact fun _ h => nomatch h
  · simp [encMC_at9 x 15 (by decide)]; exact ⟨by grind, by unfold encMC; omega⟩
  · simp [encMC_at9 x 15 (by decide), encMC_bit7 x 15 (by decide), encMC_bit8 x 15 (by decide)] <;> grind
theorem mcallEload (x : ClsMC) : Statement (.mcallEload x) := by
  intro sl hs h; cases hs
  replace h : (engineOrderOk x.acq x.rel x.scope : Bool) = true := h
  simp [BitVec.toNat_eq, engineOrderOk_iff] at h
  have := x.scope.code_le
  refine decodeSlot_of_row (code := 0x01) (by decide) rfl (encMC_mask x 16 (by decide)) ?_ ?_ ?_ ((congrArg (mcallOf · _) (by unfold encMC; omega : _ = 16)).trans (congrArg Instr.mcallEload (decMC_encMC x 16 (by decide))))
  · exact fun _ h => nomatch h
  · simp [encMC_at9 x 16 (by decide)]; exact ⟨by grind, by unfold encMC; omega⟩
  · simp [encMC_at9 x 16 (by decide), encMC_bit7 x 16 (by decide), encMC_bit8 x 16 (by decide)] <;> grind
theorem mcallEcvt (x : ClsMC) : Statement (.mcallEcvt x) := by
  intro sl hs h; cases hs
  replace h : (engineOrderOk x.acq x.rel x.scope : Bool) = true := h
  simp [BitVec.toNat_eq, engineOrderOk_iff] at h
  have := x.scope.code_le
  refine decodeSlot_of_row (code := 0x01) (by decide) rfl (encMC_mask x 17 (by decide)) ?_ ?_ ?_ ((congrArg (mcallOf · _) (by unfold encMC; omega : _ = 17)).trans (congrArg Instr.mcallEcvt (decMC_encMC x 17 (by decide))))
  · exact fun _ h => nomatch h
  · simp [encMC_at9 x 17 (by decide)]; exact ⟨by grind, by unfold encMC; omega⟩
  · simp [encMC_at9 x 17 (by decide), encMC_bit7 x 17 (by decide), encMC_bit8 x 17 (by decide)] <;> grind
theorem mcallEbfp (x : ClsMC) : Statement (.mcallEbfp x) := by
  intro sl hs h; cases hs
  replace h : (engineOrderOk x.acq x.rel x.scope : Bool) = true := h
  simp [BitVec.toNat_eq, engineOrderOk_iff] at h
  have := x.scope.code_le
  refine decodeSlot_of_row (code := 0x01) (by decide) rfl (encMC_mask x 18 (by decide)) ?_ ?_ ?_ ((congrArg (mcallOf · _) (by unfold encMC; omega : _ = 18)).trans (congrArg Instr.mcallEbfp (decMC_encMC x 18 (by decide))))
  · exact fun _ h => nomatch h
  · simp [encMC_at9 x 18 (by decide)]; exact ⟨by grind, by unfold encMC; omega⟩
  · simp [encMC_at9 x 18 (by decide), encMC_bit7 x 18 (by decide), encMC_bit8 x 18 (by decide)] <;> grind
theorem mcallErowmax (x : ClsMC) : Statement (.mcallErowmax x) := by
  intro sl hs h; cases hs
  replace h : (engineOrderOk x.acq x.rel x.scope : Bool) = true := h
  simp [BitVec.toNat_eq, engineOrderOk_iff] at h
  have := x.scope.code_le
  refine decodeSlot_of_row (code := 0x01) (by decide) rfl (encMC_mask x 19 (by decide)) ?_ ?_ ?_ ((congrArg (mcallOf · _) (by unfold encMC; omega : _ = 19)).trans (congrArg Instr.mcallErowmax (decMC_encMC x 19 (by decide))))
  · exact fun _ h => nomatch h
  · simp [encMC_at9 x 19 (by decide)]; exact ⟨by grind, by unfold encMC; omega⟩
  · simp [encMC_at9 x 19 (by decide), encMC_bit7 x 19 (by decide), encMC_bit8 x 19 (by decide)] <;> grind
theorem ld (x : ClsLL) : Statement (.ld x) := by
  intro sl hs h; cases hs
  replace h : (decide (8 ≤ x.D.toNat) : Bool) = true := h
  simp [BitVec.toNat_eq] at h
  have := x.ty.code_le
  refine decodeSlot_of_row (code := 0x08) (by decide) rfl (encLL_mask x) ?_ ?_ ?_ (congrArg Instr.ld (decLL_encLL x))
  · exact fun _ h => nomatch h
  · simp [encLL_at12, encLL_at24] <;> grind
  · exact fun _ h => nomatch h
theorem ldv (x : ClsLL) : Statement (.ldv x) := by
  intro sl hs h; cases hs
  replace h : (x.ty == .s8 && 8 ≤ x.D.toNat && vecField x.d : Bool) = true := h
  simp [BitVec.toNat_eq, Ty.eq_s8_iff, vecField] at h
  have := x.ty.code_le
  refine decodeSlot_of_row (code := 0x09) (by decide) rfl (encLL_mask x) ?_ ?_ ?_ (congrArg Instr.ldv (decLL_encLL x))
  · simp [encLL_at24, encLL_at5] <;> grind
  · simp [encLL_at12] <;> grind
  · exact fun _ h => nomatch h
theorem ldt (x : ClsLT) : Statement (.ldt x) := by
  intro sl hs h; cases hs
  replace h : (vecField x.d : Bool) = true := h
  simp [BitVec.toNat_eq, vecField] at h
  refine decodeSlot_of_row (code := 0x0A) (by decide) rfl (encLT_mask x) ?_ ?_ ?_ (congrArg Instr.ldt (decLT_encLT x))
  · simp [encLT_at5] <;> grind
  · exact fun _ h => nomatch h
  · exact fun _ h => nomatch h
theorem ldts (x : ClsLT) : Statement (.ldts x) := by
  intro sl hs _; cases hs
  refine decodeSlot_of_row (code := 0x0B) (by decide) rfl (encLT_mask x) ?_ ?_ ?_ (congrArg Instr.ldts (decLT_encLT x))
  · exact fun _ h => nomatch h
  · exact fun _ h => nomatch h
  · exact fun _ h => nomatch h
theorem ldq (x : ClsQ) : Statement (.ldq x) := by
  intro sl hs h; cases hs
  replace h : (vecField x.r : Bool) = true := h
  simp [BitVec.toNat_eq, vecField] at h
  refine decodeSlot_of_row (code := 0x02) (by decide) rfl (encQ_mask x) ?_ ?_ ?_ (congrArg Instr.ldq (decQ_encQ x))
  · simp [encQ_at5] <;> grind
  · exact fun _ h => nomatch h
  · exact fun _ h => nomatch h
theorem ldqs (x : ClsQ) : Statement (.ldqs x) := by
  intro sl hs _; cases hs
  refine decodeSlot_of_row (code := 0x03) (by decide) rfl (encQ_mask x) ?_ ?_ ?_ (congrArg Instr.ldqs (decQ_encQ x))
  · exact fun _ h => nomatch h
  · exact fun _ h => nomatch h
  · exact fun _ h => nomatch h
theorem gath (x : ClsLG) : Statement (.gath x) := by
  intro sl hs h; cases hs
  replace h : (8 ≤ x.D.toNat && vecField x.d : Bool) = true := h
  simp [BitVec.toNat_eq, vecField] at h
  refine decodeSlot_of_row (code := 0x0C) (by decide) rfl (encLG_mask x) ?_ ?_ ?_ (congrArg Instr.gath (decLG_encLG x))
  · simp [encLG_at5] <;> grind
  · simp [encLG_at15] <;> grind
  · exact fun _ h => nomatch h
theorem qalign : Statement .qalign := by
  intro sl h _; cases h
  decide +kernel
theorem st (x : ClsFS) : Statement (.st x) := by
  intro sl hs _; cases hs
  have := x.ty.code_le
  refine decodeSlot_of_row (code := 0x08) (by decide) rfl (encFS_mask x) ?_ ?_ ?_ (congrArg Instr.st (decFS_encFS x))
  · exact fun _ h => nomatch h
  · simp [encFS_at12] <;> grind
  · exact fun _ h => nomatch h
theorem stv (x : ClsFS) : Statement (.stv x) := by
  intro sl hs h; cases hs
  replace h : (x.ty == .s8 && vecField x.s : Bool) = true := h
  simp [BitVec.toNat_eq, Ty.eq_s8_iff, vecField] at h
  refine decodeSlot_of_row (code := 0x09) (by decide) rfl (encFS_mask x) ?_ ?_ ?_ (congrArg Instr.stv (decFS_encFS x))
  · simp [encFS_at12, encFS_at5] <;> grind
  · exact fun _ h => nomatch h
  · exact fun _ h => nomatch h
theorem stt (x : ClsFS) : Statement (.stt x) := by
  intro sl hs h; cases hs
  replace h : (x.ty == .s8 && vecField x.s : Bool) = true := h
  simp [BitVec.toNat_eq, Ty.eq_s8_iff, vecField] at h
  refine decodeSlot_of_row (code := 0x0A) (by decide) rfl (encFS_mask x) ?_ ?_ ?_ (congrArg Instr.stt (decFS_encFS x))
  · simp [encFS_at12, encFS_at5] <;> grind
  · exact fun _ h => nomatch h
  · exact fun _ h => nomatch h
theorem stts (x : ClsFS) : Statement (.stts x) := by
  intro sl hs _; cases hs
  have := x.ty.code_le
  refine decodeSlot_of_row (code := 0x0B) (by decide) rfl (encFS_mask x) ?_ ?_ ?_ (congrArg Instr.stts (decFS_encFS x))
  · exact fun _ h => nomatch h
  · simp [encFS_at12] <;> grind
  · exact fun _ h => nomatch h
theorem stq (x : ClsQ) : Statement (.stq x) := by
  intro sl hs h; cases hs
  replace h : (vecField x.r : Bool) = true := h
  simp [BitVec.toNat_eq, vecField] at h
  refine decodeSlot_of_row (code := 0x02) (by decide) rfl (encQ_mask x) ?_ ?_ ?_ (congrArg Instr.stq (decQ_encQ x))
  · simp [encQ_at5] <;> grind
  · exact fun _ h => nomatch h
  · exact fun _ h => nomatch h
theorem stqs (x : ClsQ) : Statement (.stqs x) := by
  intro sl hs _; cases hs
  refine decodeSlot_of_row (code := 0x03) (by decide) rfl (encQ_mask x) ?_ ?_ ?_ (congrArg Instr.stqs (decQ_encQ x))
  · exact fun _ h => nomatch h
  · exact fun _ h => nomatch h
  · exact fun _ h => nomatch h
theorem scat (x : ClsSG) : Statement (.scat x) := by
  intro sl hs h; cases hs
  replace h : (vecField x.s : Bool) = true := h
  simp [BitVec.toNat_eq, vecField] at h
  refine decodeSlot_of_row (code := 0x0C) (by decide) rfl (encSG_mask x) ?_ ?_ ?_ (congrArg Instr.scat (decSG_encSG x))
  · simp [encSG_at5] <;> grind
  · exact fun _ h => nomatch h
  · exact fun _ h => nomatch h
theorem aadd (x : ClsAT) : Statement (.aadd x) := by
  intro sl hs h; cases hs
  replace h : ((x.dx != 0 || x.d == 0) : Bool) = true := h
  simp [BitVec.toNat_eq, bne_iff_ne] at h
  have := x.scope.code_le
  refine decodeSlot_of_row (code := 0x10) (by decide) rfl (encAT_mask x) ?_ ?_ ?_ (congrArg Instr.aadd (decAT_encAT x))
  · exact fun _ h => nomatch h
  · simp [encAT_at0, encAT_at18, encAT_at29] <;> grind
  · exact fun _ h => nomatch h
theorem amin (x : ClsAT) : Statement (.amin x) := by
  intro sl hs h; cases hs
  replace h : ((x.dx != 0 || x.d == 0) : Bool) = true := h
  simp [BitVec.toNat_eq, bne_iff_ne] at h
  have := x.scope.code_le
  refine decodeSlot_of_row (code := 0x11) (by decide) rfl (encAT_mask x) ?_ ?_ ?_ (congrArg Instr.amin (decAT_encAT x))
  · exact fun _ h => nomatch h
  · simp [encAT_at0, encAT_at18, encAT_at29] <;> grind
  · exact fun _ h => nomatch h
theorem aminn (x : ClsAT) : Statement (.aminn x) := by
  intro sl hs h; cases hs
  replace h : ((x.dx != 0 || x.d == 0) : Bool) = true := h
  simp [BitVec.toNat_eq, bne_iff_ne] at h
  have := x.scope.code_le
  refine decodeSlot_of_row (code := 0x12) (by decide) rfl (encAT_mask x) ?_ ?_ ?_ (congrArg Instr.aminn (decAT_encAT x))
  · exact fun _ h => nomatch h
  · simp [encAT_at0, encAT_at18, encAT_at29] <;> grind
  · exact fun _ h => nomatch h
theorem amax (x : ClsAT) : Statement (.amax x) := by
  intro sl hs h; cases hs
  replace h : ((x.dx != 0 || x.d == 0) : Bool) = true := h
  simp [BitVec.toNat_eq, bne_iff_ne] at h
  have := x.scope.code_le
  refine decodeSlot_of_row (code := 0x13) (by decide) rfl (encAT_mask x) ?_ ?_ ?_ (congrArg Instr.amax (decAT_encAT x))
  · exact fun _ h => nomatch h
  · simp [encAT_at0, encAT_at18, encAT_at29] <;> grind
  · exact fun _ h => nomatch h
theorem amaxn (x : ClsAT) : Statement (.amaxn x) := by
  intro sl hs h; cases hs
  replace h : ((x.dx != 0 || x.d == 0) : Bool) = true := h
  simp [BitVec.toNat_eq, bne_iff_ne] at h
  have := x.scope.code_le
  refine decodeSlot_of_row (code := 0x14) (by decide) rfl (encAT_mask x) ?_ ?_ ?_ (congrArg Instr.amaxn (decAT_encAT x))
  · exact fun _ h => nomatch h
  · simp [encAT_at0, encAT_at18, encAT_at29] <;> grind
  · exact fun _ h => nomatch h
theorem aand (x : ClsAT) : Statement (.aand x) := by
  intro sl hs h; cases hs
  replace h : ((x.dx != 0 || x.d == 0) : Bool) = true := h
  simp [BitVec.toNat_eq, bne_iff_ne] at h
  have := x.scope.code_le
  refine decodeSlot_of_row (code := 0x15) (by decide) rfl (encAT_mask x) ?_ ?_ ?_ (congrArg Instr.aand (decAT_encAT x))
  · exact fun _ h => nomatch h
  · simp [encAT_at0, encAT_at18, encAT_at29] <;> grind
  · exact fun _ h => nomatch h
theorem aor (x : ClsAT) : Statement (.aor x) := by
  intro sl hs h; cases hs
  replace h : ((x.dx != 0 || x.d == 0) : Bool) = true := h
  simp [BitVec.toNat_eq, bne_iff_ne] at h
  have := x.scope.code_le
  refine decodeSlot_of_row (code := 0x16) (by decide) rfl (encAT_mask x) ?_ ?_ ?_ (congrArg Instr.aor (decAT_encAT x))
  · exact fun _ h => nomatch h
  · simp [encAT_at0, encAT_at18, encAT_at29] <;> grind
  · exact fun _ h => nomatch h
theorem axor (x : ClsAT) : Statement (.axor x) := by
  intro sl hs h; cases hs
  replace h : ((x.dx != 0 || x.d == 0) : Bool) = true := h
  simp [BitVec.toNat_eq, bne_iff_ne] at h
  have := x.scope.code_le
  refine decodeSlot_of_row (code := 0x17) (by decide) rfl (encAT_mask x) ?_ ?_ ?_ (congrArg Instr.axor (decAT_encAT x))
  · exact fun _ h => nomatch h
  · simp [encAT_at0, encAT_at18, encAT_at29] <;> grind
  · exact fun _ h => nomatch h
theorem axch (x : ClsAT) : Statement (.axch x) := by
  intro sl hs h; cases hs
  replace h : ((x.dx != 0 || x.d == 0) : Bool) = true := h
  simp [BitVec.toNat_eq, bne_iff_ne] at h
  have := x.scope.code_le
  refine decodeSlot_of_row (code := 0x18) (by decide) rfl (encAT_mask x) ?_ ?_ ?_ (congrArg Instr.axch (decAT_encAT x))
  · exact fun _ h => nomatch h
  · simp [encAT_at0, encAT_at18, encAT_at29] <;> grind
  · exact fun _ h => nomatch h
theorem acas (x : ClsAT) : Statement (.acas x) := by
  intro sl hs h; cases hs
  replace h : ((x.dx != 0 || x.d == 0) : Bool) = true := h
  simp [BitVec.toNat_eq, bne_iff_ne] at h
  have := x.scope.code_le
  refine decodeSlot_of_row (code := 0x19) (by decide) rfl (encAT_mask x) ?_ ?_ ?_ (congrArg Instr.acas (decAT_encAT x))
  · exact fun _ h => nomatch h
  · simp [encAT_at0, encAT_at18, encAT_at29] <;> grind
  · exact fun _ h => nomatch h
theorem abinc (x : ClsAT) : Statement (.abinc x) := by
  intro sl hs h; cases hs
  replace h : ((x.dx != 0 || x.d == 0) : Bool) = true := h
  simp [BitVec.toNat_eq, bne_iff_ne] at h
  have := x.scope.code_le
  refine decodeSlot_of_row (code := 0x1A) (by decide) rfl (encAT_mask x) ?_ ?_ ?_ (congrArg Instr.abinc (decAT_encAT x))
  · exact fun _ h => nomatch h
  · simp [encAT_at0, encAT_at18, encAT_at29] <;> grind
  · exact fun _ h => nomatch h
theorem rld (x : ClsRL) : Statement (.rld x) := by
  intro sl hs h; cases hs
  replace h : (decide (8 ≤ x.D.toNat) : Bool) = true := h
  simp [BitVec.toNat_eq] at h
  refine decodeSlot_of_row (code := 0x20) (by decide) rfl (encRL_mask x) ?_ ?_ ?_ (congrArg Instr.rld (decRL_encRL x))
  · exact fun _ h => nomatch h
  · simp [encRL_at12] <;> grind
  · exact fun _ h => nomatch h
theorem rldv (x : ClsRL) : Statement (.rldv x) := by
  intro sl hs h; cases hs
  replace h : (8 ≤ x.D.toNat && vecField x.d : Bool) = true := h
  simp [BitVec.toNat_eq, vecField] at h
  refine decodeSlot_of_row (code := 0x21) (by decide) rfl (encRL_mask x) ?_ ?_ ?_ (congrArg Instr.rldv (decRL_encRL x))
  · simp [encRL_at5] <;> grind
  · simp [encRL_at12] <;> grind
  · exact fun _ h => nomatch h
theorem rst (x : ClsRS) : Statement (.rst x) := by
  intro sl hs h; cases hs
  replace h : ((x.scope == .die || x.scope == .pkg || x.scope == .pod) : Bool) = true := h
  simp [BitVec.toNat_eq, Scope.remote_iff] at h
  have := x.scope.code_le
  refine decodeSlot_of_row (code := 0x10) (by decide) rfl (encRS_mask x) ?_ ?_ ?_ (congrArg Instr.rst (decRS_encRS x))
  · exact fun _ h => nomatch h
  · simp [encRS_at18] <;> grind
  · exact fun _ h => nomatch h
theorem rstv (x : ClsRS) : Statement (.rstv x) := by
  intro sl hs h; cases hs
  replace h : ((x.scope == .die || x.scope == .pkg || x.scope == .pod) && vecField x.s : Bool) = true := h
  simp [BitVec.toNat_eq, Scope.remote_iff, vecField] at h
  have := x.scope.code_le
  refine decodeSlot_of_row (code := 0x11) (by decide) rfl (encRS_mask x) ?_ ?_ ?_ (congrArg Instr.rstv (decRS_encRS x))
  · simp [encRS_at5] <;> grind
  · simp [encRS_at18] <;> grind
  · exact fun _ h => nomatch h
theorem raadd (x : ClsAT) : Statement (.raadd x) := by
  intro sl hs h; cases hs
  replace h : (x.scope == .pod && (x.dx != 0 || x.d == 0) : Bool) = true := h
  simp [BitVec.toNat_eq, Scope.eq_pod_iff, bne_iff_ne] at h
  have := x.scope.code_le
  refine decodeSlot_of_row (code := 0x28) (by decide) rfl (encAT_mask x) ?_ ?_ ?_ (congrArg Instr.raadd (decAT_encAT x))
  · exact fun _ h => nomatch h
  · simp [encAT_at0, encAT_at18, encAT_at29] <;> grind
  · exact fun _ h => nomatch h
theorem ramin (x : ClsAT) : Statement (.ramin x) := by
  intro sl hs h; cases hs
  replace h : (x.scope == .pod && (x.dx != 0 || x.d == 0) : Bool) = true := h
  simp [BitVec.toNat_eq, Scope.eq_pod_iff, bne_iff_ne] at h
  have := x.scope.code_le
  refine decodeSlot_of_row (code := 0x29) (by decide) rfl (encAT_mask x) ?_ ?_ ?_ (congrArg Instr.ramin (decAT_encAT x))
  · exact fun _ h => nomatch h
  · simp [encAT_at0, encAT_at18, encAT_at29] <;> grind
  · exact fun _ h => nomatch h
theorem raminn (x : ClsAT) : Statement (.raminn x) := by
  intro sl hs h; cases hs
  replace h : (x.scope == .pod && (x.dx != 0 || x.d == 0) : Bool) = true := h
  simp [BitVec.toNat_eq, Scope.eq_pod_iff, bne_iff_ne] at h
  have := x.scope.code_le
  refine decodeSlot_of_row (code := 0x2A) (by decide) rfl (encAT_mask x) ?_ ?_ ?_ (congrArg Instr.raminn (decAT_encAT x))
  · exact fun _ h => nomatch h
  · simp [encAT_at0, encAT_at18, encAT_at29] <;> grind
  · exact fun _ h => nomatch h
theorem ramax (x : ClsAT) : Statement (.ramax x) := by
  intro sl hs h; cases hs
  replace h : (x.scope == .pod && (x.dx != 0 || x.d == 0) : Bool) = true := h
  simp [BitVec.toNat_eq, Scope.eq_pod_iff, bne_iff_ne] at h
  have := x.scope.code_le
  refine decodeSlot_of_row (code := 0x2B) (by decide) rfl (encAT_mask x) ?_ ?_ ?_ (congrArg Instr.ramax (decAT_encAT x))
  · exact fun _ h => nomatch h
  · simp [encAT_at0, encAT_at18, encAT_at29] <;> grind
  · exact fun _ h => nomatch h
theorem ramaxn (x : ClsAT) : Statement (.ramaxn x) := by
  intro sl hs h; cases hs
  replace h : (x.scope == .pod && (x.dx != 0 || x.d == 0) : Bool) = true := h
  simp [BitVec.toNat_eq, Scope.eq_pod_iff, bne_iff_ne] at h
  have := x.scope.code_le
  refine decodeSlot_of_row (code := 0x2C) (by decide) rfl (encAT_mask x) ?_ ?_ ?_ (congrArg Instr.ramaxn (decAT_encAT x))
  · exact fun _ h => nomatch h
  · simp [encAT_at0, encAT_at18, encAT_at29] <;> grind
  · exact fun _ h => nomatch h
theorem raand (x : ClsAT) : Statement (.raand x) := by
  intro sl hs h; cases hs
  replace h : (x.scope == .pod && (x.dx != 0 || x.d == 0) : Bool) = true := h
  simp [BitVec.toNat_eq, Scope.eq_pod_iff, bne_iff_ne] at h
  have := x.scope.code_le
  refine decodeSlot_of_row (code := 0x2D) (by decide) rfl (encAT_mask x) ?_ ?_ ?_ (congrArg Instr.raand (decAT_encAT x))
  · exact fun _ h => nomatch h
  · simp [encAT_at0, encAT_at18, encAT_at29] <;> grind
  · exact fun _ h => nomatch h
theorem raor (x : ClsAT) : Statement (.raor x) := by
  intro sl hs h; cases hs
  replace h : (x.scope == .pod && (x.dx != 0 || x.d == 0) : Bool) = true := h
  simp [BitVec.toNat_eq, Scope.eq_pod_iff, bne_iff_ne] at h
  have := x.scope.code_le
  refine decodeSlot_of_row (code := 0x2E) (by decide) rfl (encAT_mask x) ?_ ?_ ?_ (congrArg Instr.raor (decAT_encAT x))
  · exact fun _ h => nomatch h
  · simp [encAT_at0, encAT_at18, encAT_at29] <;> grind
  · exact fun _ h => nomatch h
theorem raxor (x : ClsAT) : Statement (.raxor x) := by
  intro sl hs h; cases hs
  replace h : (x.scope == .pod && (x.dx != 0 || x.d == 0) : Bool) = true := h
  simp [BitVec.toNat_eq, Scope.eq_pod_iff, bne_iff_ne] at h
  have := x.scope.code_le
  refine decodeSlot_of_row (code := 0x2F) (by decide) rfl (encAT_mask x) ?_ ?_ ?_ (congrArg Instr.raxor (decAT_encAT x))
  · exact fun _ h => nomatch h
  · simp [encAT_at0, encAT_at18, encAT_at29] <;> grind
  · exact fun _ h => nomatch h
theorem raxch (x : ClsAT) : Statement (.raxch x) := by
  intro sl hs h; cases hs
  replace h : (x.scope == .pod && (x.dx != 0 || x.d == 0) : Bool) = true := h
  simp [BitVec.toNat_eq, Scope.eq_pod_iff, bne_iff_ne] at h
  have := x.scope.code_le
  refine decodeSlot_of_row (code := 0x30) (by decide) rfl (encAT_mask x) ?_ ?_ ?_ (congrArg Instr.raxch (decAT_encAT x))
  · exact fun _ h => nomatch h
  · simp [encAT_at0, encAT_at18, encAT_at29] <;> grind
  · exact fun _ h => nomatch h
theorem racas (x : ClsAT) : Statement (.racas x) := by
  intro sl hs h; cases hs
  replace h : (x.scope == .pod && (x.dx != 0 || x.d == 0) : Bool) = true := h
  simp [BitVec.toNat_eq, Scope.eq_pod_iff, bne_iff_ne] at h
  have := x.scope.code_le
  refine decodeSlot_of_row (code := 0x31) (by decide) rfl (encAT_mask x) ?_ ?_ ?_ (congrArg Instr.racas (decAT_encAT x))
  · exact fun _ h => nomatch h
  · simp [encAT_at0, encAT_at18, encAT_at29] <;> grind
  · exact fun _ h => nomatch h
theorem rabinc (x : ClsAT) : Statement (.rabinc x) := by
  intro sl hs h; cases hs
  replace h : (x.scope == .pod && (x.dx != 0 || x.d == 0) : Bool) = true := h
  simp [BitVec.toNat_eq, Scope.eq_pod_iff, bne_iff_ne] at h
  have := x.scope.code_le
  refine decodeSlot_of_row (code := 0x32) (by decide) rfl (encAT_mask x) ?_ ?_ ?_ (congrArg Instr.rabinc (decAT_encAT x))
  · exact fun _ h => nomatch h
  · simp [encAT_at0, encAT_at18, encAT_at29] <;> grind
  · exact fun _ h => nomatch h
theorem tcopy (x : ClsCC) : Statement (.tcopy x) := by
  intro sl hs h; cases hs
  replace h : (x.func == 0 && engineOrderOk x.acq x.rel x.scope : Bool) = true := h
  simp [BitVec.toNat_eq, engineOrderOk_iff] at h
  have := x.scope.code_le
  refine decodeSlot_of_row (code := 0x01) (by decide) rfl (encCC_mask x) ?_ ?_ ?_ (congrArg Instr.tcopy (decCC_encCC x))
  · simp [encCC_at26] <;> grind
  · simp [encCC_at23] <;> grind
  · simp [encCC_at23, encCC_bit21, encCC_bit22] <;> grind
theorem xcopy (x : ClsCC) : Statement (.xcopy x) := by
  intro sl hs h; cases hs
  replace h : (x.func == 0 && engineOrderOk x.acq x.rel x.scope : Bool) = true := h
  simp [BitVec.toNat_eq, engineOrderOk_iff] at h
  have := x.scope.code_le
  refine decodeSlot_of_row (code := 0x02) (by decide) rfl (encCC_mask x) ?_ ?_ ?_ (congrArg Instr.xcopy (decCC_encCC x))
  · simp [encCC_at26] <;> grind
  · simp [encCC_at23] <;> grind
  · simp [encCC_at23, encCC_bit21, encCC_bit22] <;> grind
theorem ccopy (x : ClsCC) : Statement (.ccopy x) := by
  intro sl hs h; cases hs
  replace h : (x.b == 0 && x.c == 0 && x.func == 0 && engineOrderOk x.acq x.rel x.scope : Bool) = true := h
  simp [BitVec.toNat_eq, engineOrderOk_iff] at h
  have := x.scope.code_le
  refine decodeSlot_of_row (code := 0x03) (by decide) rfl (encCC_mask x) ?_ ?_ ?_ (congrArg Instr.ccopy (decCC_encCC x))
  · simp [encCC_at15, encCC_at26, encCC_at9] <;> grind
  · simp [encCC_at23] <;> grind
  · simp [encCC_at23, encCC_bit21, encCC_bit22] <;> grind
theorem rcp (x : ClsCC) : Statement (.rcp x) := by
  intro sl hs h; cases hs
  replace h : (engineOrderOk x.acq x.rel x.scope && (1 ≤ x.func.toNat && x.func.toNat ≤ 9) : Bool) = true := h
  simp [BitVec.toNat_eq, engineOrderOk_iff] at h
  have := x.scope.code_le
  refine decodeSlot_of_row (code := 0x08) (by decide) rfl (encCC_mask x) ?_ ?_ ?_ (congrArg Instr.rcp (decCC_encCC x))
  · exact fun _ h => nomatch h
  · simp [encCC_at23, encCC_at26] <;> grind
  · simp [encCC_at23, encCC_bit21, encCC_bit22] <;> grind
theorem rcpo (x : ClsCC) : Statement (.rcpo x) := by
  intro sl hs h; cases hs
  replace h : (engineOrderOk x.acq x.rel x.scope && (1 ≤ x.func.toNat && x.func.toNat ≤ 9) : Bool) = true := h
  simp [BitVec.toNat_eq, engineOrderOk_iff] at h
  have := x.scope.code_le
  refine decodeSlot_of_row (code := 0x09) (by decide) rfl (encCC_mask x) ?_ ?_ ?_ (congrArg Instr.rcpo (decCC_encCC x))
  · exact fun _ h => nomatch h
  · simp [encCC_at23, encCC_at26] <;> grind
  · simp [encCC_at23, encCC_bit21, encCC_bit22] <;> grind
theorem tfill (x : ClsCT) : Statement (.tfill x) := by
  intro sl hs h; cases hs
  replace h : (engineOrderOk x.acq x.rel x.scope : Bool) = true := h
  simp [BitVec.toNat_eq, engineOrderOk_iff] at h
  have := x.scope.code_le
  refine decodeSlot_of_row (code := 0x04) (by decide) rfl (encCT_mask x) ?_ ?_ ?_ (congrArg Instr.tfill (decCT_encCT x))
  · exact fun _ h => nomatch h
  · simp [encCT_at17] <;> grind
  · simp [encCT_at17, encCT_bit15, encCT_bit16] <;> grind
theorem tdrain (x : ClsCT) : Statement (.tdrain x) := by
  intro sl hs h; cases hs
  replace h : (engineOrderOk x.acq x.rel x.scope : Bool) = true := h
  simp [BitVec.toNat_eq, engineOrderOk_iff] at h
  have := x.scope.code_le
  refine decodeSlot_of_row (code := 0x05) (by decide) rfl (encCT_mask x) ?_ ?_ ?_ (congrArg Instr.tdrain (decCT_encCT x))
  · exact fun _ h => nomatch h
  · simp [encCT_at17] <;> grind
  · simp [encCT_at17, encCT_bit15, encCT_bit16] <;> grind
theorem tfree (x : ClsCT) : Statement (.tfree x) := by
  intro sl hs h; cases hs
  replace h : (x.ch == 0 && x.a == 0 && !x.acq && !x.rel && x.scope == .core : Bool) = true := h
  simp [BitVec.toNat_eq, Scope.eq_core_iff] at h
  refine decodeSlot_of_row (code := 0x06) (by decide) rfl (encCT_mask x) ?_ ?_ ?_ (congrArg Instr.tfree (decCT_encCT x))
  · simp [encCT_at0, encCT_at15, encCT_at16, encCT_at17, encCT_at9] <;> grind
  · exact fun _ h => nomatch h
  · exact fun _ h => nomatch h
theorem tstat (x : ClsCQ) : Statement (.tstat x) := by
  intro sl hs h; cases hs
  replace h : (x.ch == 0 && x.sel == 0 : Bool) = true := h
  simp [BitVec.toNat_eq] at h
  refine decodeSlot_of_row (code := 0x07) (by decide) rfl (encCQ_mask x) ?_ ?_ ?_ (congrArg Instr.tstat (decCQ_encCQ x))
  · simp [encCQ_at6, encCQ_at9] <;> grind
  · exact fun _ h => nomatch h
  · exact fun _ h => nomatch h
theorem chq (x : ClsCQ) : Statement (.chq x) := by
  intro sl hs h; cases hs
  replace h : (x.slot == 0 : Bool) = true := h
  simp [BitVec.toNat_eq] at h
  refine decodeSlot_of_row (code := 0x0C) (by decide) rfl (encCQ_mask x) ?_ ?_ ?_ (congrArg Instr.chq (decCQ_encCQ x))
  · simp [encCQ_at11] <;> grind
  · exact fun _ h => nomatch h
  · exact fun _ h => nomatch h
theorem chset (x : ClsCQ) : Statement (.chset x) := by
  intro sl hs h; cases hs
  replace h : (x.slot == 0 && x.sel.toNat < 2 : Bool) = true := h
  simp [BitVec.toNat_eq] at h
  refine decodeSlot_of_row (code := 0x0D) (by decide) rfl (encCQ_mask x) ?_ ?_ ?_ (congrArg Instr.chset (decCQ_encCQ x))
  · simp [encCQ_at11] <;> grind
  · simp [encCQ_at9] <;> grind
  · exact fun _ h => nomatch h
theorem cpfence (x : ClsCF) : Statement (.cpfence x) := by
  intro sl hs h; cases hs
  replace h : (x.mask != 0 : Bool) = true := h
  simp [BitVec.toNat_eq, bne_iff_ne] at h
  refine decodeSlot_of_row (code := 0x0B) (by decide) rfl (encCF_mask x) ?_ ?_ ?_ (congrArg Instr.cpfence (decCF_encCF x))
  · exact fun _ h => nomatch h
  · simp [encCF_at0] <;> grind
  · exact fun _ h => nomatch h
theorem migrate (x : ClsCM) : Statement (.migrate x) := by
  intro sl hs _; cases hs
  refine decodeSlot_of_row (code := 0x0A) (by decide) rfl (encCM_mask x) ?_ ?_ ?_ (congrArg Instr.migrate (decCM_encCM x))
  · exact fun _ h => nomatch h
  · exact fun _ h => nomatch h
  · exact fun _ h => nomatch h
theorem ssig (x : ClsYM) : Statement (.ssig x) := by
  intro sl hs h; cases hs
  replace h : (x.imm != 0 : Bool) = true := h
  simp [BitVec.toNat_eq, bne_iff_ne] at h
  refine decodeSlot_of_row (code := 0x01) (by decide) rfl (encYM_mask x) ?_ ?_ ?_ (congrArg Instr.ssig (decYM_encYM x))
  · exact fun _ h => nomatch h
  · simp [encYM_at8] <;> grind
  · exact fun _ h => nomatch h
theorem swait (x : ClsYM) : Statement (.swait x) := by
  intro sl hs h; cases hs
  replace h : (x.imm != 0 : Bool) = true := h
  simp [BitVec.toNat_eq, bne_iff_ne] at h
  refine decodeSlot_of_row (code := 0x02) (by decide) rfl (encYM_mask x) ?_ ?_ ?_ (congrArg Instr.swait (decYM_encYM x))
  · exact fun _ h => nomatch h
  · simp [encYM_at8] <;> grind
  · exact fun _ h => nomatch h
theorem sset (x : ClsYX) : Statement (.sset x) := by
  intro sl hs _; cases hs
  refine decodeSlot_of_row (code := 0x03) (by decide) rfl (encYX_mask x) ?_ ?_ ?_ (congrArg Instr.sset (decYX_encYX x))
  · exact fun _ h => nomatch h
  · exact fun _ h => nomatch h
  · exact fun _ h => nomatch h
theorem srd (x : ClsYX) : Statement (.srd x) := by
  intro sl hs _; cases hs
  refine decodeSlot_of_row (code := 0x04) (by decide) rfl (encYX_mask x) ?_ ?_ ?_ (congrArg Instr.srd (decYX_encYX x))
  · exact fun _ h => nomatch h
  · exact fun _ h => nomatch h
  · exact fun _ h => nomatch h
theorem spoi (x : ClsYX) : Statement (.spoi x) := by
  intro sl hs h; cases hs
  replace h : (x.s == 0 : Bool) = true := h
  simp [BitVec.toNat_eq] at h
  refine decodeSlot_of_row (code := 0x05) (by decide) rfl (encYX_mask x) ?_ ?_ ?_ (congrArg Instr.spoi (decYX_encYX x))
  · simp [encYX_at8] <;> grind
  · exact fun _ h => nomatch h
  · exact fun _ h => nomatch h
theorem sunp (x : ClsYX) : Statement (.sunp x) := by
  intro sl hs h; cases hs
  replace h : (x.s == 0 : Bool) = true := h
  simp [BitVec.toNat_eq] at h
  refine decodeSlot_of_row (code := 0x06) (by decide) rfl (encYX_mask x) ?_ ?_ ?_ (congrArg Instr.sunp (decYX_encYX x))
  · simp [encYX_at8] <;> grind
  · exact fun _ h => nomatch h
  · exact fun _ h => nomatch h
theorem bar (x : ClsYB) : Statement (.bar x) := by
  intro sl hs h; cases hs
  replace h : (barIdOk x.scope x.id.toNat : Bool) = true := h
  have := x.scope.code_le
  have := barIdOk_scope _ _ h
  refine decodeSlot_of_row (code := 0x08) (by decide) rfl (encYB_mask x) ?_ ?_ ?_ (congrArg Instr.bar (decYB_encYB x))
  · exact fun _ h => nomatch h
  · simp [encYB_at0, encYB_at3, Scope.ofCode_code] <;> grind
  · exact fun _ h => nomatch h
theorem bcx (x : ClsYC) : Statement (.bcx x) := by
  intro sl hs h; cases hs
  replace h : (x.rank == 0 && vecField x.x : Bool) = true := h
  simp [BitVec.toNat_eq, vecField] at h
  refine decodeSlot_of_row (code := 0x0A) (by decide) rfl (encYC_mask x) ?_ ?_ ?_ (congrArg Instr.bcx (decYC_encYC x))
  · simp [encYC_at11, encYC_at5] <;> grind
  · exact fun _ h => nomatch h
  · exact fun _ h => nomatch h
theorem bcl (x : ClsYC) : Statement (.bcl x) := by
  intro sl hs _; cases hs
  refine decodeSlot_of_row (code := 0x0B) (by decide) rfl (encYC_mask x) ?_ ?_ ?_ (congrArg Instr.bcl (decYC_encYC x))
  · exact fun _ h => nomatch h
  · exact fun _ h => nomatch h
  · exact fun _ h => nomatch h
theorem fenceFull (x : ClsYF) : Statement (.fenceFull x) := by
  intro sl hs _; cases hs
  have := x.scope.code_le
  have e0 := encYF_at0 x 0 (by decide)
  simp only [Nat.add_zero, Nat.mul_zero] at e0
  have e1 := encYF_at3 x 0 (by decide)
  simp only [Nat.add_zero, Nat.mul_zero] at e1
  refine decodeSlot_of_row (code := 0x0C) (by decide) rfl (encYF_mask x 0 (by decide)) ?_ ?_ ?_ ((congrArg (fenceOf · _) (by have := x.scope.code_le; unfold encYF; omega : _ = 0)).trans (congrArg Instr.fenceFull (decYF_encYF x 0 (by decide))))
  · exact fun _ h => nomatch h
  · simp [e0, e1]; grind
  · exact fun _ h => nomatch h
theorem fenceAcq (x : ClsYF) : Statement (.fenceAcq x) := by
  intro sl hs _; cases hs
  have := x.scope.code_le
  refine decodeSlot_of_row (code := 0x0C) (by decide) rfl (encYF_mask x 1 (by decide)) ?_ ?_ ?_ ((congrArg (fenceOf · _) (by have := x.scope.code_le; unfold encYF; omega : _ = 1)).trans (congrArg Instr.fenceAcq (decYF_encYF x 1 (by decide))))
  · exact fun _ h => nomatch h
  · simp [encYF_at0 x 1 (by decide), encYF_at3 x 1 (by decide)]; grind
  · exact fun _ h => nomatch h
theorem fenceRel (x : ClsYF) : Statement (.fenceRel x) := by
  intro sl hs _; cases hs
  have := x.scope.code_le
  refine decodeSlot_of_row (code := 0x0C) (by decide) rfl (encYF_mask x 2 (by decide)) ?_ ?_ ?_ ((congrArg (fenceOf · _) (by have := x.scope.code_le; unfold encYF; omega : _ = 2)).trans (congrArg Instr.fenceRel (decYF_encYF x 2 (by decide))))
  · exact fun _ h => nomatch h
  · simp [encYF_at0 x 2 (by decide), encYF_at3 x 2 (by decide)]; grind
  · exact fun _ h => nomatch h
theorem waitc (x : ClsYW) : Statement (.waitc x) := by
  intro sl hs _; cases hs
  have := x.scope.code_le
  refine decodeSlot_of_row (code := 0x0D) (by decide) rfl (encYW_mask x) ?_ ?_ ?_ (congrArg Instr.waitc (decYW_encYW x))
  · exact fun _ h => nomatch h
  · simp [encYW_at12] <;> grind
  · exact fun _ h => nomatch h
theorem suspend (x : ClsYU) : Statement (.suspend x) := by
  intro sl hs h; cases hs
  replace h : ((x.a.toNat % 2 == 0 && 2 ≤ x.a.toNat) : Bool) = true := h
  simp [BitVec.toNat_eq] at h
  refine decodeSlot_of_row (code := 0x0E) (by decide) rfl (encYU_mask x) ?_ ?_ ?_ (congrArg Instr.suspend (decYU_encYU x))
  · exact fun _ h => nomatch h
  · simp [encYU_at0] <;> grind
  · exact fun _ h => nomatch h
theorem yield : Statement .yield := by
  intro sl h _; cases h
  decide +kernel
theorem launch (x : ClsYU) : Statement (.launch x) := by
  intro sl hs _; cases hs
  refine decodeSlot_of_row (code := 0x10) (by decide) rfl (encYU_mask x) ?_ ?_ ?_ (congrArg Instr.launch (decYU_encYU x))
  · exact fun _ h => nomatch h
  · exact fun _ h => nomatch h
  · exact fun _ h => nomatch h
theorem trap (x : ClsYT) : Statement (.trap x) := by
  intro sl hs _; cases hs
  refine decodeSlot_of_row (code := 0x11) (by decide) rfl (encYT_mask x) ?_ ?_ ?_ (congrArg Instr.trap (decYT_encYT x))
  · exact fun _ h => nomatch h
  · exact fun _ h => nomatch h
  · exact fun _ h => nomatch h
theorem resultLanding (core : Nat) : Statement (.resultLanding core) := fun _ h => nomatch h
theorem loadOutcome (core : Nat) : Statement (.loadOutcome core) := fun _ h => nomatch h
theorem budgetExhausted (core : Nat) : Statement (.budgetExhausted core) := fun _ h => nomatch h
theorem segmentCommit (core : Nat) : Statement (.segmentCommit core) := fun _ h => nomatch h
theorem rendezvousCommit (quad : Nat) : Statement (.rendezvousCommit quad) := fun _ h => nomatch h
theorem atomicPerform (core : Nat) : Statement (.atomicPerform core) := fun _ h => nomatch h
theorem copyLine (core : Nat) (ch : Nat) : Statement (.copyLine core ch) := fun _ h => nomatch h
theorem ccopyRecord (core : Nat) (ch : Nat) : Statement (.ccopyRecord core ch) := fun _ h => nomatch h
theorem slotZeroed (core : Nat) (slot : Nat) : Statement (.slotZeroed core slot) := fun _ h => nomatch h
theorem routineStep (core : Nat) : Statement (.routineStep core) := fun _ h => nomatch h
theorem streamAddressPlace (core : Nat) (q : Nat) : Statement (.streamAddressPlace core q) := fun _ h => nomatch h
theorem streamFetchSend (core : Nat) (q : Nat) : Statement (.streamFetchSend core q) := fun _ h => nomatch h
theorem streamFetchLand (core : Nat) (q : Nat) : Statement (.streamFetchLand core q) := fun _ h => nomatch h
theorem streamOutputWrite (core : Nat) (q : Nat) : Statement (.streamOutputWrite core q) := fun _ h => nomatch h
theorem instructionRefetch (core : Nat) : Statement (.instructionRefetch core) := fun _ h => nomatch h
theorem walkStart (die : Nat) : Statement (.walkStart die) := fun _ h => nomatch h
theorem translationWalk (die : Nat) : Statement (.translationWalk die) := fun _ h => nomatch h
theorem shootdownComplete (idx : Nat) : Statement (.shootdownComplete idx) := fun _ h => nomatch h
theorem watchedWordReread (phys : Nat) : Statement (.watchedWordReread phys) := fun _ h => nomatch h
theorem unitChoice (core : Nat) : Statement (.unitChoice core) := fun _ h => nomatch h
theorem taskStart (core : Nat) : Statement (.taskStart core) := fun _ h => nomatch h
theorem priorityAging (t : AgingTarget) : Statement (.priorityAging t) := fun _ h => nomatch h
theorem queueDispatch (queue : Nat) : Statement (.queueDispatch queue) := fun _ h => nomatch h
theorem queueEntryComplete (rid : Nat) : Statement (.queueEntryComplete rid) := fun _ h => nomatch h
theorem reamAbort (rid : Nat) : Statement (.reamAbort rid) := fun _ h => nomatch h
theorem barrierComplete (idx : Nat) : Statement (.barrierComplete idx) := fun _ h => nomatch h
theorem worldDrain (core : Nat) : Statement (.worldDrain core) := fun _ h => nomatch h
theorem rewind (core : Nat) : Statement (.rewind core) := fun _ h => nomatch h
theorem freezeLatch (core : Nat) : Statement (.freezeLatch core) := fun _ h => nomatch h
theorem handlerQuietTimeout (core : Nat) : Statement (.handlerQuietTimeout core) := fun _ h => nomatch h
theorem preempt (core : Nat) : Statement (.preempt core) := fun _ h => nomatch h
theorem supervisorKill (core : Nat) : Statement (.supervisorKill core) := fun _ h => nomatch h
theorem budgetRefill (core : Nat) (budget : BitVec 64) : Statement (.budgetRefill core budget) := fun _ h => nomatch h
theorem snapshotRestore (core : Nat) (addr : Nat) : Statement (.snapshotRestore core addr) := fun _ h => nomatch h
theorem saveAreaWrite (core : Nat) (addr : Nat) : Statement (.saveAreaWrite core addr) := fun _ h => nomatch h
theorem continuationRecordWrite (core : Nat) (addr : Nat) : Statement (.continuationRecordWrite core addr) := fun _ h => nomatch h
theorem schedulingSettingWrite (pid : Nat) (x : Setting) (value : Nat) : Statement (.schedulingSettingWrite pid x value) := fun _ h => nomatch h
theorem quadCouplingChange (quad : Nat) : Statement (.quadCouplingChange quad) := fun _ h => nomatch h
theorem degradeSet (core : Nat) (planes : BitVec 3) : Statement (.degradeSet core planes) := fun _ h => nomatch h
theorem secondStageWrite (vf : Nat) (record : BitVec 128) : Statement (.secondStageWrite vf record) := fun _ h => nomatch h
theorem priorityListSet (x : PriorityList) : Statement (.priorityListSet x) := fun _ h => nomatch h
theorem queueMap (queue : Nat) (x : QueueMapping) : Statement (.queueMap queue x) := fun _ h => nomatch h
theorem controlInterfaceWrite (core : Nat) (creg : BitVec 12) (value : BitVec 64) : Statement (.controlInterfaceWrite core creg value) := fun _ h => nomatch h
theorem sealPoint (handle : Nat) : Statement (.sealPoint handle) := fun _ h => nomatch h
theorem keyInstall (x : KeyStep) : Statement (.keyInstall x) := fun _ h => nomatch h
theorem frameRetirement (frame : Nat) : Statement (.frameRetirement frame) := fun _ h => nomatch h
theorem patrolScrub (frame : Nat) : Statement (.patrolScrub frame) := fun _ h => nomatch h
theorem bulkheadFault (bulkhead : Nat) : Statement (.bulkheadFault bulkhead) := fun _ h => nomatch h
theorem bulkheadReset (bulkhead : Nat) : Statement (.bulkheadReset bulkhead) := fun _ h => nomatch h
theorem bulkheadResetRelease (bulkhead : Nat) : Statement (.bulkheadResetRelease bulkhead) := fun _ h => nomatch h
theorem partitionCreate (x : PartitionRequest) : Statement (.partitionCreate x) := fun _ h => nomatch h
theorem partitionDelete (pid : Nat) : Statement (.partitionDelete pid) := fun _ h => nomatch h
theorem windowRequest (pid : Nat) (record : BitVec 128) : Statement (.windowRequest pid record) := fun _ h => nomatch h
theorem windowRequestTimeout (idx : Nat) : Statement (.windowRequestTimeout idx) := fun _ h => nomatch h
theorem windowRevoke (idx : Nat) : Statement (.windowRevoke idx) := fun _ h => nomatch h
theorem firmwareUpdate (x : Firmware) : Statement (.firmwareUpdate x) := fun _ h => nomatch h
theorem imageLoad (vf : Nat) (x : ImageFile) : Statement (.imageLoad vf x) := fun _ h => nomatch h
theorem fabricWorldInstall (x : FabricWorld) : Statement (.fabricWorldInstall x) := fun _ h => nomatch h
theorem laneTraining (plane : Nat) (peer : Nat) (ok : Bool) : Statement (.laneTraining plane peer ok) := fun _ h => nomatch h
theorem laneRekey (plane : Nat) (peer : Nat) : Statement (.laneRekey plane peer) := fun _ h => nomatch h
theorem linkAck (plane : Nat) (peer : Nat) (count : Nat) : Statement (.linkAck plane peer count) := fun _ h => nomatch h
theorem replayRequest (plane : Nat) (peer : Nat) (count : Nat) : Statement (.replayRequest plane peer count) := fun _ h => nomatch h
theorem creditReturn (plane : Nat) (peer : Nat) (vl : Nat) (flits : Nat) : Statement (.creditReturn plane peer vl flits) := fun _ h => nomatch h
theorem laneDark (plane : Nat) (peer : Nat) : Statement (.laneDark plane peer) := fun _ h => nomatch h
theorem litSetChange (peer : Nat) : Statement (.litSetChange peer) := fun _ h => nomatch h
theorem rd8 (x : Packet) : Statement (.rd8 x) := fun _ h => nomatch h
theorem rd256 (x : Packet) : Statement (.rd256 x) := fun _ h => nomatch h
theorem wr8 (x : Packet) : Statement (.wr8 x) := fun _ h => nomatch h
theorem wr256 (x : Packet) : Statement (.wr256 x) := fun _ h => nomatch h
theorem atom (x : Packet) : Statement (.atom x) := fun _ h => nomatch h
theorem trd (x : Packet) : Statement (.trd x) := fun _ h => nomatch h
theorem twr (x : Packet) : Statement (.twr x) := fun _ h => nomatch h
theorem relay (x : Packet) : Statement (.relay x) := fun _ h => nomatch h
theorem cpw (x : Packet) : Statement (.cpw x) := fun _ h => nomatch h
theorem rcpPacket (x : Packet) : Statement (.rcpPacket x) := fun _ h => nomatch h
theorem rcpoPacket (x : Packet) : Statement (.rcpoPacket x) := fun _ h => nomatch h
theorem migAlloc (x : Packet) : Statement (.migAlloc x) := fun _ h => nomatch h
theorem migLine (x : Packet) : Statement (.migLine x) := fun _ h => nomatch h
theorem migCommit (x : Packet) : Statement (.migCommit x) := fun _ h => nomatch h
theorem migQuery (x : Packet) : Statement (.migQuery x) := fun _ h => nomatch h
theorem migRelease (x : Packet) : Statement (.migRelease x) := fun _ h => nomatch h
theorem barPacket (x : Packet) : Statement (.barPacket x) := fun _ h => nomatch h
theorem bpoi (x : Packet) : Statement (.bpoi x) := fun _ h => nomatch h
theorem diapPacket (x : Packet) : Statement (.diapPacket x) := fun _ h => nomatch h
theorem resumePacket (x : Packet) : Statement (.resumePacket x) := fun _ h => nomatch h
theorem mon (x : Packet) : Statement (.mon x) := fun _ h => nomatch h
theorem data (x : Packet) : Statement (.data x) := fun _ h => nomatch h
theorem ack (x : Packet) : Statement (.ack x) := fun _ h => nomatch h
theorem nack (x : Packet) : Statement (.nack x) := fun _ h => nomatch h
theorem redirect (x : Packet) : Statement (.redirect x) := fun _ h => nomatch h
theorem ownerCacheRelease (die : Nat) (idx : Nat) : Statement (.ownerCacheRelease die idx) := fun _ h => nomatch h
theorem tagTimeout (die : Nat) (tag : Nat) : Statement (.tagTimeout die tag) := fun _ h => nomatch h
theorem tagQuarantineExpiry (die : Nat) (tag : Nat) : Statement (.tagQuarantineExpiry die tag) := fun _ h => nomatch h
theorem busyResend (die : Nat) (tag : Nat) : Statement (.busyResend die tag) := fun _ h => nomatch h
theorem rcpoGroupAbandon (die : Nat) (idx : Nat) : Statement (.rcpoGroupAbandon die idx) := fun _ h => nomatch h
theorem stubRoundStart (idx : Nat) : Statement (.stubRoundStart idx) := fun _ h => nomatch h
theorem stubRoundTimeout (idx : Nat) : Statement (.stubRoundTimeout idx) := fun _ h => nomatch h
theorem arbiterEvent (x : ArbEvent) : Statement (.arbiterEvent x) := fun _ h => nomatch h
theorem powerFailWarning (reserve : Nat) : Statement (.powerFailWarning reserve) := fun _ h => nomatch h
theorem inputUndervoltage (reserve : Nat) : Statement (.inputUndervoltage reserve) := fun _ h => nomatch h
theorem diapauseDrain : Statement .diapauseDrain := fun _ h => nomatch h
theorem manifestSeal : Statement .manifestSeal := fun _ h => nomatch h
theorem brownoutEntry : Statement .brownoutEntry := fun _ h => nomatch h
theorem brownoutSecondShed : Statement .brownoutSecondShed := fun _ h => nomatch h
theorem brownoutRetention : Statement .brownoutRetention := fun _ h => nomatch h
theorem brownoutExit : Statement .brownoutExit := fun _ h => nomatch h
theorem powerGoodBoot (x : BootInputs) : Statement (.powerGoodBoot x) := fun _ h => nomatch h
theorem eclosion (x : EclosionInputs) : Statement (.eclosion x) := fun _ h => nomatch h
theorem memoryRestore : Statement .memoryRestore := fun _ h => nomatch h
theorem coreRestore (reserve : Nat) : Statement (.coreRestore reserve) := fun _ h => nomatch h
theorem rejoinComplete (vf : Nat) : Statement (.rejoinComplete vf) := fun _ h => nomatch h
theorem rjtExpiry (pid : Nat) : Statement (.rjtExpiry pid) := fun _ h => nomatch h
theorem sensorSample (die : Nat) (sensor : Nat) (reading : BitVec 16) : Statement (.sensorSample die sensor reading) := fun _ h => nomatch h
theorem railOvercurrent (bulkhead : Nat) : Statement (.railOvercurrent bulkhead) := fun _ h => nomatch h
theorem emgClear (bulkhead : Nat) : Statement (.emgClear bulkhead) := fun _ h => nomatch h
theorem overtempFault (bulkhead : Nat) : Statement (.overtempFault bulkhead) := fun _ h => nomatch h
theorem droopStretch (bulkhead : Nat) (on : Bool) : Statement (.droopStretch bulkhead on) := fun _ h => nomatch h
theorem clockChangeRequest (bulkhead : Nat) (steps : Nat) : Statement (.clockChangeRequest bulkhead steps) := fun _ h => nomatch h
theorem clockChangeComplete (bulkhead : Nat) : Statement (.clockChangeComplete bulkhead) := fun _ h => nomatch h
theorem powerReport (watts10 : List Nat) (input10 : Nat) : Statement (.powerReport watts10 input10) := fun _ h => nomatch h
theorem doorbellWrite (vf : Nat) (queue : Nat) (tail : Nat) : Statement (.doorbellWrite vf queue tail) := fun _ h => nomatch h
theorem atsInvalidation (vf : Nat) (base : Nat) (len : Nat) : Statement (.atsInvalidation vf base len) := fun _ h => nomatch h
theorem atsInvalidationComplete (vf : Nat) : Statement (.atsInvalidationComplete vf) := fun _ h => nomatch h
theorem hotReset : Statement .hotReset := fun _ h => nomatch h
theorem linkDown : Statement .linkDown := fun _ h => nomatch h
theorem vfReset (vf : Nat) : Statement (.vfReset vf) := fun _ h => nomatch h
theorem lockInterface (vf : Nat) (x : WorldGrant) : Statement (.lockInterface vf x) := fun _ h => nomatch h
theorem stopInterface (vf : Nat) : Statement (.stopInterface vf) := fun _ h => nomatch h
theorem getDeviceInterfaceReport (x : ReportRequest) : Statement (.getDeviceInterfaceReport x) := fun _ h => nomatch h
theorem getVersion (x : SpdmRequest) : Statement (.getVersion x) := fun _ h => nomatch h
theorem getCapabilities (x : SpdmRequest) : Statement (.getCapabilities x) := fun _ h => nomatch h
theorem negotiateAlgorithms (x : SpdmRequest) : Statement (.negotiateAlgorithms x) := fun _ h => nomatch h
theorem getDigests (x : SpdmRequest) : Statement (.getDigests x) := fun _ h => nomatch h
theorem getCertificate (x : SpdmRequest) : Statement (.getCertificate x) := fun _ h => nomatch h
theorem challenge (x : SpdmRequest) : Statement (.challenge x) := fun _ h => nomatch h
theorem getMeasurements (x : SpdmRequest) (index : Nat) : Statement (.getMeasurements x index) := fun _ h => nomatch h
theorem keyExchange (x : SpdmRequest) : Statement (.keyExchange x) := fun _ h => nomatch h
theorem finish (x : SpdmRequest) : Statement (.finish x) := fun _ h => nomatch h
theorem keyUpdate (x : SpdmRequest) : Statement (.keyUpdate x) := fun _ h => nomatch h
theorem heartbeat (x : SpdmRequest) : Statement (.heartbeat x) := fun _ h => nomatch h
theorem endSession (x : SpdmRequest) : Statement (.endSession x) := fun _ h => nomatch h
theorem spdmUnsupportedRequest (x : SpdmRequest) : Statement (.spdmUnsupportedRequest x) := fun _ h => nomatch h
theorem telemetryRead (die : Nat) (sensor : Nat) : Statement (.telemetryRead die sensor) := fun _ h => nomatch h
theorem sidebandResetRequest (t : ResetTarget) : Statement (.sidebandResetRequest t) := fun _ h => nomatch h
theorem powerCapSet (cap10 : Nat) : Statement (.powerCapSet cap10) := fun _ h => nomatch h
theorem loadReplyArrival (core : Nat) (idx : Nat) : Statement (.loadReplyArrival core idx) := fun _ h => nomatch h
theorem eviction (x : Evicted) : Statement (.eviction x) := fun _ h => nomatch h
theorem softError (x : ErrorSite) : Statement (.softError x) := fun _ h => nomatch h
theorem hostWrite (x : HostStore) : Statement (.hostWrite x) := fun _ h => nomatch h
theorem startInterface (vf : Nat) : Statement (.startInterface vf) := fun _ h => nomatch h
theorem pcieLinkTrained : Statement .pcieLinkTrained := fun _ h => nomatch h
theorem crcOrMacFailure (plane : Nat) (peer : Nat) (x : FailedPacket) : Statement (.crcOrMacFailure plane peer x) := fun _ h => nomatch h
theorem stubRoundRequest (idx : Nat) : Statement (.stubRoundRequest idx) := fun _ h => nomatch h
theorem bridgeFault (bridge : Nat) : Statement (.bridgeFault bridge) := fun _ h => nomatch h
theorem hbmStackFault (stack : Nat) : Statement (.hbmStackFault stack) := fun _ h => nomatch h
theorem dieSharedPartFault (die : Nat) : Statement (.dieSharedPartFault die) := fun _ h => nomatch h

end Sys2Proof.Laws.Encoding
end

