-- ==== Sys2Proof/Laws/Scalar.lean ====
section
/-! SUPPORT. What the forms of the scalar ops do where nothing stops them, and their arithmetic as integers reduced mod
2^64. -/

namespace Sys2Proof.Machine

theorem wrap_nat (n : Nat) : wrap (n : Int) = BitVec.ofNat 64 n := by simp [wrap]

theorem wrap_toInt_add (a b : Word) : wrap (a.toInt + b.toInt) = a + b := by simp [wrap, BitVec.ofInt_add]

theorem wrap_toInt_sub (a b : Word) : wrap (a.toInt - b.toInt) = a - b := by
  simp [wrap, Int.sub_eq_add_neg, BitVec.ofInt_add, BitVec.ofInt_neg, BitVec.sub_eq_add_neg]

theorem wrap_toInt_mul (a b : Word) : wrap (a.toInt * b.toInt) = a * b := by simp [wrap, BitVec.ofInt_mul]

/-- An op with two scalar sources that can be read. -/
theorem scRR_next {lat : Nat} {f : Word → Word → Word} {x : ClsSR} {s : State} (h : s.acts) (ha : s.sOk x.a)
    (hb : s.sOk x.b) : scRR lat f x s = .next (s.putS x.d.toNat lat (f (s.sv x.a) (s.sv x.b))) :=
  issueOp_of_nil _ _ s h (State.srcStops_cons_nil (s.srcStops_s _ _ ha) (s.srcStops_s _ _ hb))

/-- An op with one scalar source. -/
theorem scR_next {f : Word → Word} {x : ClsSR} {s : State} (h : s.acts) (ha : s.sOk x.a) :
    scR f x s = .next (s.putS x.d.toNat 1 (f (s.sv x.a))) := issueOp_of_nil _ _ s h (s.srcStops_s _ _ ha)

/-- An op with a scalar source and an immediate. -/
theorem scRI_next {lat : Nat} {f : Word → Word → Word} {x : ClsSI} {s : State} (h : s.acts) (ha : s.sOk x.a) :
    scRI lat f x s = .next (s.putS x.d.toNat lat (f (s.sv x.a) (x.imm.signExtend 64))) :=
  issueOp_of_nil _ _ s h (s.srcStops_s _ _ ha)

/-- A compare of registers. -/
theorem scCmp_next {f : Word → Word → Bool} {x : ClsSP} {s : State} (h : s.acts) (ha : s.sOk x.a) (hb : s.sOk x.b) :
    scCmp f x s = .next (s.putP x.pd.toNat (f (s.sv x.a) (s.sv x.b))) :=
  issueOp_of_nil _ _ s h (State.srcStops_cons_nil (s.srcStops_s _ _ ha) (s.srcStops_s _ _ hb))

/-- A compare with an immediate. -/
theorem scCmpI_next {f : Word → Word → Bool} {x : ClsSPI} {s : State} (h : s.acts) (ha : s.sOk x.a) :
    scCmpI f x s = .next (s.putP x.pd.toNat (f (s.sv x.a) (x.imm.signExtend 64))) :=
  issueOp_of_nil _ _ s h (s.srcStops_s _ _ ha)

/-- A predicate op. -/
theorem scPL_next {f : Bool → Bool → Bool} {x : ClsPL} {s : State} (h : s.acts) (hp : s.pOk) :
    scPL f x s = .next (s.putP x.pd.toNat
      (f (s.cur.preg x.pa.toNat != x.na) (s.cur.preg x.pb.toNat != x.nb))) :=
  issueOp_of_nil _ _ s h (s.srcStops_p hp)

end Sys2Proof.Machine
end

