-- ==== Sys2Proof/Laws/Seal.lean ====
section
/-! SUPPORT. What is encrypted opens to what it was (R335, R341, R342). -/

namespace Sys2Proof.Machine

theorem xtsOpen_xts (key : List Byte) (t : Nat) (x : BitVec 512) : xtsOpen key t (xts key t x) = x := by
  have hi (l r : BitVec 256) : (l ++ r).extractLsb' 256 256 = l := by
    rw [BitVec.extractLsb'_append_eq_of_le (by omega)]; simp
  have lo (l r : BitVec 256) : (l ++ r).extractLsb' 0 256 = r := by
    rw [BitVec.extractLsb'_append_eq_of_add_le (by omega)]; simp
  have both : x.extractLsb' 256 256 ++ x.extractLsb' 0 256 = x := by
    rw [BitVec.extractLsb'_append_extractLsb'_eq_extractLsb' (by omega)]; simp
  have cancel (a b : BitVec 256) : a ^^^ b ^^^ b = a := by rw [BitVec.xor_assoc]; simp
  simp only [xtsOpen, xts, hi, lo, cancel]
  exact both

theorem unwrapKey_wrapKey (sealing : BitVec 512) (n : Nat) (k : BitVec 512) : unwrapKey sealing n (wrapKey sealing n k) = k :=
  xtsOpen_xts _ _ _

end Sys2Proof.Machine
end

