-- ==== Sys2Proof/Laws/Wire.lean ====
section
/-! SUPPORT. The wiring of the fabric and the form of its packets (R304, R308): the light of a lane reaches the seat it is meant
for, its receiver knows the source, and a packet's data fills whole flits. -/

namespace Sys2Proof.Machine

/-- The wavelength of a lane leaves the grating at the port of the receiver's seat (R304). -/
theorem gratingPort_waveOf (m d : Nat) : gratingPort (m % 8) (waveOf m d) = d % 8 := by
  unfold gratingPort waveOf; omega

/-- The receiver of a lane finds its source from the receive fibre and the wavelength (R304). -/
theorem sourceOf_waveOf (m d : Nat) : sourceOf d (m / 8) (waveOf m d) = m := by
  unfold sourceOf waveOf; omega

/-- A packet's data fills its flits of 32 bytes (R308). -/
theorem Sent.payload_length (x : Sent) : x.payload.length = 32 * ((x.data.length + 31) / 32) := by
  unfold Sent.payload; rw [List.length_append, List.length_replicate]; omega

end Sys2Proof.Machine
end

