-- ==== Sys2Proof/Tests/Slice0.lean ====
section
/-! SUPPORT. Tests: words written out bit by bit from Tables 1-9 to 1-16 decode to their ops; WellFormed refuses an
ill-formed term for each of its checks; single steps on small states give what the spec's examples and tables give; and for
each statement of Certificates/Slice0/Obligations.lean a witness meets the hypotheses of each of its clauses. -/

namespace Sys2Proof.Tests

set_option Elab.async false

open Sys2Proof Sys2Proof.Machine

/-- Every word of a list decodes to the op beside it. -/
def decodesAll (l : List (Nat × Instr)) : Bool := l.all fun x => decodeTableWord 512 x.1 == some x.2

/-- A core at T, as after a drain, with every limit declared. -/
def plain : Core := { Core.drained with run := .running, occ := ⟨16, 8, 32768, 0, 255, 32⟩, imgLen := 100, hLen := 4 }

/-- A page table in frame 1 that maps unit 0 of the flat space to frame 2. -/
def tables : Memory :=
  Memory.setVal (Memory.setVal (Memory.setVal [] 0x10000 8 0x1400D) 0x14000 8 0x1800D) 0x18000 8 0x2000F

/-- A world that runs in a partition of bulkhead 0. -/
def world0 : World := { (default : World) with exists_ := true, ifs := .run, ptb := 0x10000, slen := 16, fwid := 9, quota := 8 }

/-- A module with one world, core 0 as given, its op in hand standing alone in the slot `sl`. -/
def with0 (c : Core) (sl : Slot := .sc) (m : Mode := .alone) : State :=
  { State.reset with
    cores := [(0, c)], worlds := [(0, world0)], mem := tables
    parts := [(0, { Part.fresh with exists_ := true, bulkheads := [0], running := true })]
    bulks := [(0, { Bulkhead.off with pid := some 0, inReset := false })]
    ctx := ⟨0, 7, sl, ⟨0, 0, 0, 0⟩, m, [], [], []⟩ }

/-- A core with scalar registers as listed. -/
def regs (l : List (Nat × Word)) (c : Core := plain) : Core := { c with s := l }

/-- The next state of an outcome; reset where there is none. -/
def next (r : Result) : State := match r with
  | .next t => t
  | _ => State.reset

theorem sOk_of {s : State} (h : s.cur.bad = []) (h2 : s.cur.sPoi = []) (r : BitVec 6) : s.sOk r := by
  refine ⟨fun _ => by rw [h]; exact List.not_mem_nil, ?_⟩
  unfold Core.spoi; rw [h2]; split <;> rfl
theorem vOk_of {s : State} (h : s.cur.bad = []) (h2 : s.cur.vPoi = []) (r : BitVec 5) : s.vOk r :=
  ⟨by rw [h]; exact List.not_mem_nil, by unfold Core.vpoi; rw [h2]; rfl⟩
theorem kOk_of {s : State} (h : s.cur.bad = []) (r : BitVec 3) : s.kOk r := fun _ => by rw [h]; exact List.not_mem_nil
theorem pOk_of {s : State} (h : s.cur.bad = []) : s.pOk := by unfold State.pOk; rw [h]; exact List.not_mem_nil
theorem accOk_of {s : State} (h : s.cur.bad = []) (n : Nat) : s.accOk n := by
  unfold State.accOk; rw [h]; exact List.not_mem_nil
theorem drawOk_of {s : State} (h : s.cur.bad = []) (rm : Rm) : s.drawOk rm :=
  fun _ => ⟨by unfold State.mpOk; rw [h]; exact List.not_mem_nil, by unfold State.mpOk; rw [h]; exact List.not_mem_nil⟩
theorem vrOk_of {s : State} (h : s.cur.bad = []) (h2 : s.cur.vPoi = []) (n : Nat) (x : ClsVR) : s.vrOk n x :=
  ⟨fun _ => vOk_of h h2 _, fun _ => vOk_of h h2 _, fun _ => vOk_of h h2 _, fun _ => vOk_of h h2 _, kOk_of h _,
    drawOk_of h _⟩
theorem vsOk_of {s : State} (h : s.cur.bad = []) (h1 : s.cur.sPoi = []) (h2 : s.cur.vPoi = []) (b : Bool) (x : ClsVS) : s.vsOk b x :=
  ⟨fun _ => vOk_of h h2 _, sOk_of h h1 _, fun _ => vOk_of h h2 _, kOk_of h _, drawOk_of h _⟩
theorem ok_of {ε α : Type} {x : Except ε α} {t : α} (h : x.toOption = some t) : x = .ok t := by
  cases x with
  | error e => exact absurd h (by simp [Except.toOption])
  | ok u => exact congrArg _ (Option.some.inj h)

theorem test_decode_scalar0 : decodesAll [
  (0x565c0 <<< 64, .crr ⟨0x25, 0x15⟩),
  (0x525c1 <<< 64, .crw ⟨0x25, 0x14⟩),
  (0xea5c2 <<< 64, .snrd ⟨0x25, 0x3a, 0⟩),
  (0x17e80c3 <<< 64, .snwr ⟨0, 0x3a, 0x17⟩),
  (0xc4 <<< 64, .eret),
  (0xc5 <<< 64, .halt),
  (0xea5c6 <<< 64, .seqopen ⟨0x25, 0x3a, 0⟩),
  (0xe80c7 <<< 64, .seqend ⟨0, 0x3a, 0⟩),
  (0xe80c8 <<< 64, .seqbind ⟨0, 0x3a, 0⟩),
  (0x17e80c9 <<< 64, .tinv ⟨0, 0x3a, 0x17⟩),
  (0xca <<< 64, .ifence),
  (0x9abcde0000000000000000000000000000000000000000f055667788000000000000000e80cb0000000000000022, .katc ⟨0, 0x3a, 0x9abcdef055667788⟩),
  (0xcc <<< 64, .diapack),
  (0x2558 <<< 64, .movp ⟨0x25, 0, 0⟩),
  (0x17e8059 <<< 64, .pmovs ⟨0, 0x3a, 0x17⟩),
  (0x1a55a <<< 64, .movk ⟨0x25, 6⟩),
  (0x1a55b <<< 64, .kmov ⟨0x25, 6⟩),
  (0xaaf37bc050 <<< 64, .jmp ⟨0, 0x2abcdef⟩),
  (0xaaf37be551 <<< 64, .call ⟨0x25, 0x2abcdef⟩),
  (0xe8052 <<< 64, .jr ⟨0, 0x3a⟩),
  (0xea553 <<< 64, .jalr ⟨0x25, 0x3a⟩),
  (0x157ea548 <<< 64, .lea ⟨0x25, 0x3a, 0x17, 5⟩),
  (0x397ea549 <<< 64, .madd ⟨0x25, 0x3a, 0x17, 0xe⟩),
  (0x17ea540 <<< 64, .min ⟨0x25, 0x3a, 0x17⟩),
  (0x17ea541 <<< 64, .minn ⟨0x25, 0x3a, 0x17⟩),
  (0x17ea542 <<< 64, .max ⟨0x25, 0x3a, 0x17⟩),
  (0x17ea543 <<< 64, .maxn ⟨0x25, 0x3a, 0x17⟩),
  (0xea544 <<< 64, .abs ⟨0x25, 0x3a, 0⟩),
  (0xd7ea545 <<< 64, .sel ⟨0x25, 0x3a, 0x17, 3⟩),
  (0xa95ea538 <<< 64, .bext ⟨0x25, 0x3a, 0x15, 0x2a⟩),
  (0xa95ea539 <<< 64, .bextn ⟨0x25, 0x3a, 0x15, 0x2a⟩),
  (0xa95ea53a <<< 64, .bins ⟨0x25, 0x3a, 0x15, 0x2a⟩)] = true := by decide +kernel

theorem test_decode_scalar1 : decodesAll [
  (0xea53b <<< 64, .clz ⟨0x25, 0x3a, 0⟩),
  (0xea53c <<< 64, .ctz ⟨0x25, 0x3a, 0⟩),
  (0xea53d <<< 64, .popc ⟨0x25, 0x3a, 0⟩),
  (0xea53e <<< 64, .bswap ⟨0x25, 0x3a, 0⟩),
  (0xea53f <<< 64, .brev ⟨0x25, 0x3a, 0⟩),
  (0x3b6d30 <<< 64, .pand ⟨0xd, 6, 0xb, true, true⟩),
  (0x3b6d31 <<< 64, .por ⟨0xd, 6, 0xb, true, true⟩),
  (0x3b6d32 <<< 64, .pxor ⟨0xd, 6, 0xb, true, true⟩),
  (0x106d33 <<< 64, .pnot ⟨0xd, 6, 0, true, false⟩),
  (0x106d34 <<< 64, .pmov ⟨0xd, 6, 0, true, false⟩),
  (0xffffd7ad28 <<< 64, .ceqi ⟨0xd, 0x3a, 0x3ffff5⟩),
  (0xffffd7ad29 <<< 64, .cnei ⟨0xd, 0x3a, 0x3ffff5⟩),
  (0xffffd7ad2a <<< 64, .clti ⟨0xd, 0x3a, 0x3ffff5⟩),
  (0xffffd7ad2b <<< 64, .cltni ⟨0xd, 0x3a, 0x3ffff5⟩),
  (0xffffd7ad2c <<< 64, .clei ⟨0xd, 0x3a, 0x3ffff5⟩),
  (0xffffd7ad2d <<< 64, .cleni ⟨0xd, 0x3a, 0x3ffff5⟩),
  (0x5fad20 <<< 64, .ceq ⟨0xd, 0x3a, 0x17⟩),
  (0x5fad21 <<< 64, .cne ⟨0xd, 0x3a, 0x17⟩),
  (0x5fad22 <<< 64, .clt ⟨0xd, 0x3a, 0x17⟩),
  (0x5fad23 <<< 64, .cltn ⟨0xd, 0x3a, 0x17⟩),
  (0x5fad24 <<< 64, .cle ⟨0xd, 0x3a, 0x17⟩),
  (0x5fad25 <<< 64, .clen ⟨0xd, 0x3a, 0x17⟩),
  (0x5fad26 <<< 64, .ctst ⟨0xd, 0x3a, 0x17⟩),
  (0x9abcde0000000000000000000000000000000000000000f0556677880000000000000000251c0000000000000002, .movl ⟨0x25, 0, 0x9abcdef055667788⟩),
  (0x9abcde0000000000000000000000000000000000000000f055667788000000000000000ea51d0000000000000002, .addl ⟨0x25, 0x3a, 0x9abcdef055667788⟩),
  (0x9abcde0000000000000000000000000000000000000000f055667788000000000000000ea51e0000000000000002, .andl ⟨0x25, 0x3a, 0x9abcdef055667788⟩),
  (0x80123ea510 <<< 64, .addi ⟨0x25, 0x3a, 0x80123⟩),
  (0x80123ea511 <<< 64, .andi ⟨0x25, 0x3a, 0x80123⟩),
  (0x80123ea512 <<< 64, .ori ⟨0x25, 0x3a, 0x80123⟩),
  (0x80123ea513 <<< 64, .xori ⟨0x25, 0x3a, 0x80123⟩),
  (0x2bea514 <<< 64, .shli ⟨0x25, 0x3a, 0x2b⟩),
  (0x2bea515 <<< 64, .shri ⟨0x25, 0x3a, 0x2b⟩)] = true := by decide +kernel

theorem test_decode_scalar2 : decodesAll [
  (0x2bea516 <<< 64, .srai ⟨0x25, 0x3a, 0x2b⟩),
  (0x80123ea517 <<< 64, .muli ⟨0x25, 0x3a, 0x80123⟩),
  (0x8012302518 <<< 64, .lui ⟨0x25, 0, 0x80123⟩),
  (0x8012302519 <<< 64, .lpc ⟨0x25, 0, 0x80123⟩),
  (0x17ea501 <<< 64, .add ⟨0x25, 0x3a, 0x17⟩),
  (0x17ea502 <<< 64, .sub ⟨0x25, 0x3a, 0x17⟩),
  (0x17ea503 <<< 64, .mul ⟨0x25, 0x3a, 0x17⟩),
  (0x17ea504 <<< 64, .mulh ⟨0x25, 0x3a, 0x17⟩),
  (0x17ea505 <<< 64, .mulhn ⟨0x25, 0x3a, 0x17⟩),
  (0x17ea506 <<< 64, .div ⟨0x25, 0x3a, 0x17⟩),
  (0x17ea507 <<< 64, .divn ⟨0x25, 0x3a, 0x17⟩),
  (0x17ea508 <<< 64, .rem ⟨0x25, 0x3a, 0x17⟩),
  (0x17ea509 <<< 64, .remn ⟨0x25, 0x3a, 0x17⟩),
  (0x17ea50a <<< 64, .and ⟨0x25, 0x3a, 0x17⟩),
  (0x17ea50b <<< 64, .or ⟨0x25, 0x3a, 0x17⟩),
  (0x17ea50c <<< 64, .xor ⟨0x25, 0x3a, 0x17⟩),
  (0x17ea50d <<< 64, .shl ⟨0x25, 0x3a, 0x17⟩),
  (0x17ea50e <<< 64, .shr ⟨0x25, 0x3a, 0x17⟩),
  (0x17ea50f <<< 64, .sra ⟨0x25, 0x3a, 0x17⟩)] = true := by decide +kernel

theorem test_decode_vector0 : decodesAll [
  (0x2460017550 <<< 104, .vrcp ⟨0x15, 0xb, 0, 0, 6, .f32, .rsr⟩),
  (0x2460017551 <<< 104, .vrsqrt ⟨0x15, 0xb, 0, 0, 6, .f32, .rsr⟩),
  (0x2460017552 <<< 104, .vexp2 ⟨0x15, 0xb, 0, 0, 6, .f32, .rsr⟩),
  (0x2460017553 <<< 104, .vlog2 ⟨0x15, 0xb, 0, 0, 6, .f32, .rsr⟩),
  (0x350a81554 <<< 104, .vrng ⟨0x15, 0, 0x2a, 5, .n32, .rne⟩),
  (0x72e97540 <<< 104, .vcvt ⟨0x15, 0xb, .bf16, .e4m3, .rsr, 3⟩),
  (0x39597541 <<< 104, .vbfpe ⟨0x15, 0xb, 6, .bf16, .rsr, 3⟩),
  (0x9557542 <<< 104, .vbfpd ⟨0x15, 0xb, 5, .bf16, .rsr, 0⟩),
  (0x155f5543 <<< 104, .vmovs ⟨0x15, 0x3a, 0x2b, .bf16⟩),
  (0x55f5544 <<< 104, .vins ⟨0x15, 0x3a, 0x2b, .s32⟩),
  (0x4e001753c <<< 104, .vmov ⟨0x15, 0xb, 0, 0, 6, .f16, .rne⟩),
  (0x25505d6038 <<< 104, .vrsum ⟨0, 0xb, 0x17, 5, .bf16, .rsr⟩),
  (0x4d05d6039 <<< 104, .vrmin ⟨0, 0xb, 0x17, 5, .f16, .rne⟩),
  (0x4d05d603a <<< 104, .vrmax ⟨0, 0xb, 0x17, 5, .f16, .rne⟩),
  (0x4e3797530 <<< 104, .vperm ⟨0x15, 0xb, 0x1e, 6, 6, .f16, .rne⟩),
  (0x4d05d7531 <<< 104, .vrot ⟨0x15, 0xb, 0x17, 5, .f16, .rne⟩),
  (0x4e0f97532 <<< 104, .vzip ⟨0x15, 0xb, 0x1e, 1, 6, .f16, .rne⟩),
  (0x4e0f97533 <<< 104, .vunzip ⟨0x15, 0xb, 0x1e, 1, 6, .f16, .rne⟩),
  (0x4d05d7534 <<< 104, .vslide ⟨0x15, 0xb, 0x17, 5, .f16, .rne⟩),
  (0x551fd7535 <<< 104, .vbrd ⟨0x15, 0xb, 0x7f, 5, .bf16⟩),
  (0x4e0017536 <<< 104, .vcomp ⟨0x15, 0xb, 0, 0, 6, .f16, .rne⟩),
  (0x4e0797528 <<< 104, .vsel ⟨0x15, 0xb, 0x1e, 0, 6, .f16, .rne⟩),
  (0xf529 <<< 104, .kand ⟨5, 6, 3⟩),
  (0xf52a <<< 104, .kor ⟨5, 6, 3⟩),
  (0xf52b <<< 104, .kxor ⟨5, 6, 3⟩),
  (0x352c <<< 104, .knot ⟨5, 6, 0⟩),
  (0x460796520 <<< 104, .vceq ⟨5, 0xb, 0x1e, 0, 6, .f32, .rne⟩),
  (0x460796521 <<< 104, .vcne ⟨5, 0xb, 0x1e, 0, 6, .f32, .rne⟩),
  (0x460796522 <<< 104, .vclt ⟨5, 0xb, 0x1e, 0, 6, .f32, .rne⟩),
  (0x460796523 <<< 104, .vcle ⟨5, 0xb, 0x1e, 0, 6, .f32, .rne⟩),
  (0x460796524 <<< 104, .vcgt ⟨5, 0xb, 0x1e, 0, 6, .f32, .rne⟩),
  (0x460796525 <<< 104, .vcge ⟨5, 0xb, 0x1e, 0, 6, .f32, .rne⟩)] = true := by decide +kernel

theorem test_decode_vector1 : decodesAll [
  (0x25505d7518 <<< 104, .vaddsc ⟨0x15, 0xb, 0x17, 5, .bf16, .rsr⟩),
  (0x25505d7519 <<< 104, .vsubsc ⟨0x15, 0xb, 0x17, 5, .bf16, .rsr⟩),
  (0x25505d751a <<< 104, .vmulsc ⟨0x15, 0xb, 0x17, 5, .bf16, .rsr⟩),
  (0x4d05d751b <<< 104, .vminsc ⟨0x15, 0xb, 0x17, 5, .f16, .rne⟩),
  (0x4d05d751c <<< 104, .vmaxsc ⟨0x15, 0xb, 0x17, 5, .f16, .rne⟩),
  (0x4d05c151d <<< 104, .vbcast ⟨0x15, 0, 0x17, 5, .f16, .rne⟩),
  (0x3e0797510 <<< 104, .vqadd ⟨0x15, 0xb, 0x1e, 0, 6, .n64, .rne⟩),
  (0x3e0797511 <<< 104, .vqsub ⟨0x15, 0xb, 0x1e, 0, 6, .n64, .rne⟩),
  (0x3e0797512 <<< 104, .vmulh ⟨0x15, 0xb, 0x1e, 0, 6, .n64, .rne⟩),
  (0x3e0797513 <<< 104, .vavg ⟨0x15, 0xb, 0x1e, 0, 6, .n64, .rne⟩),
  (0x3e0017514 <<< 104, .vclz ⟨0x15, 0xb, 0, 0, 6, .n64, .rne⟩),
  (0x3e0017515 <<< 104, .vpopc ⟨0x15, 0xb, 0, 0, 6, .n64, .rne⟩),
  (0x2560797501 <<< 104, .vadd ⟨0x15, 0xb, 0x1e, 0, 6, .bf16, .rsr⟩),
  (0x2560797502 <<< 104, .vsub ⟨0x15, 0xb, 0x1e, 0, 6, .bf16, .rsr⟩),
  (0x2560797503 <<< 104, .vmul ⟨0x15, 0xb, 0x1e, 0, 6, .bf16, .rsr⟩),
  (0x2563797504 <<< 104, .vfma ⟨0x15, 0xb, 0x1e, 6, 6, .bf16, .rsr⟩),
  (0x2563797505 <<< 104, .vfms ⟨0x15, 0xb, 0x1e, 6, 6, .bf16, .rsr⟩),
  (0x2563797506 <<< 104, .vfnma ⟨0x15, 0xb, 0x1e, 6, 6, .bf16, .rsr⟩),
  (0x4e0797507 <<< 104, .vmin ⟨0x15, 0xb, 0x1e, 0, 6, .f16, .rne⟩),
  (0x4e0797508 <<< 104, .vmax ⟨0x15, 0xb, 0x1e, 0, 6, .f16, .rne⟩),
  (0x560017509 <<< 104, .vabs ⟨0x15, 0xb, 0, 0, 6, .bf16, .rne⟩),
  (0x56001750a <<< 104, .vneg ⟨0x15, 0xb, 0, 0, 6, .bf16, .rne⟩),
  (0x3e079750b <<< 104, .vand ⟨0x15, 0xb, 0x1e, 0, 6, .n64, .rne⟩),
  (0x3e079750c <<< 104, .vor ⟨0x15, 0xb, 0x1e, 0, 6, .n64, .rne⟩),
  (0x3e079750d <<< 104, .vxor ⟨0x15, 0xb, 0x1e, 0, 6, .n64, .rne⟩),
  (0x3e079750e <<< 104, .vshl ⟨0x15, 0xb, 0x1e, 0, 6, .n64, .rne⟩),
  (0x3e079750f <<< 104, .vshr ⟨0x15, 0xb, 0x1e, 0, 6, .n64, .rne⟩)] = true := by decide +kernel

theorem test_decode_matrix0 : decodesAll [
  (0x9c001 <<< 184, .mcallBmm ⟨2, true, true, .pod⟩),
  (0x9c101 <<< 184, .mcallBmmz ⟨2, true, true, .pod⟩),
  (0x9c201 <<< 184, .mcallBmmg ⟨2, true, true, .pod⟩),
  (0x9c301 <<< 184, .mcallBmmgz ⟨2, true, true, .pod⟩),
  (0x9c401 <<< 184, .mcallHmm ⟨2, true, true, .pod⟩),
  (0x9c501 <<< 184, .mcallHmmz ⟨2, true, true, .pod⟩),
  (0x9c601 <<< 184, .mcallFmm ⟨2, true, true, .pod⟩),
  (0x9c701 <<< 184, .mcallFmmz ⟨2, true, true, .pod⟩),
  (0x9c801 <<< 184, .mcallImm ⟨2, true, true, .pod⟩),
  (0x9c901 <<< 184, .mcallImmz ⟨2, true, true, .pod⟩),
  (0x9ca01 <<< 184, .mcallGrouped ⟨2, true, true, .pod⟩),
  (0x9cb01 <<< 184, .mcallGroupedh ⟨2, true, true, .pod⟩),
  (0x9cc01 <<< 184, .mcallEbias ⟨2, true, true, .pod⟩),
  (0x9cd01 <<< 184, .mcallEscale ⟨2, true, true, .pod⟩),
  (0x9ce01 <<< 184, .mcallErelu ⟨2, true, true, .pod⟩),
  (0x9cf01 <<< 184, .mcallEadd ⟨2, true, true, .pod⟩),
  (0x9d001 <<< 184, .mcallEload ⟨2, true, true, .pod⟩),
  (0x9d101 <<< 184, .mcallEcvt ⟨2, true, true, .pod⟩),
  (0x9d201 <<< 184, .mcallEbfp ⟨2, true, true, .pod⟩),
  (0x9d301 <<< 184, .mcallErowmax ⟨2, true, true, .pod⟩),
  (0x1d502 <<< 184, .mpw ⟨5, 0x3a⟩),
  (0x1d503 <<< 184, .mpr ⟨5, 0x3a⟩),
  (0x204 <<< 184, .mclr ⟨2, 0, 0⟩),
  (0xbae05 <<< 184, .mrow ⟨2, 0xb, 0x17⟩),
  (0xb8206 <<< 184, .mwm ⟨2, 0, 0x17⟩),
  (0xb8207 <<< 184, .mflg ⟨2, 0, 0x17⟩),
  (0x2c08 <<< 184, .mgix ⟨0, 0xb, 0⟩),
  (0x209 <<< 184, .mwait ⟨2, 0, 0⟩),
  (0x20a <<< 184, .mstop ⟨2, 0, 0⟩)] = true := by decide +kernel

theorem test_decode_load0 : decodesAll [
  (0x96957ea528 <<< 224, .raadd ⟨0x25, 0x3a, 0x17, 0x1a5, .rel, .pod⟩),
  (0x96957ea529 <<< 224, .ramin ⟨0x25, 0x3a, 0x17, 0x1a5, .rel, .pod⟩),
  (0x96957ea52a <<< 224, .raminn ⟨0x25, 0x3a, 0x17, 0x1a5, .rel, .pod⟩),
  (0x96957ea52b <<< 224, .ramax ⟨0x25, 0x3a, 0x17, 0x1a5, .rel, .pod⟩),
  (0x96957ea52c <<< 224, .ramaxn ⟨0x25, 0x3a, 0x17, 0x1a5, .rel, .pod⟩),
  (0x96957ea52d <<< 224, .raand ⟨0x25, 0x3a, 0x17, 0x1a5, .rel, .pod⟩),
  (0x96957ea52e <<< 224, .raor ⟨0x25, 0x3a, 0x17, 0x1a5, .rel, .pod⟩),
  (0x96957ea52f <<< 224, .raxor ⟨0x25, 0x3a, 0x17, 0x1a5, .rel, .pod⟩),
  (0x96957ea530 <<< 224, .raxch ⟨0x25, 0x3a, 0x17, 0x1a5, .rel, .pod⟩),
  (0x96957ea531 <<< 224, .racas ⟨0x25, 0x3a, 0x17, 0x1a5, .rel, .pod⟩),
  (0x96957ea532 <<< 224, .rabinc ⟨0x25, 0x3a, 0x17, 0x1a5, .rel, .pod⟩),
  (0x8f1ea520 <<< 224, .rld ⟨0x25, 0x3a, 0x8f1⟩),
  (0x8f1e9521 <<< 224, .rldv ⟨0x15, 0x3a, 0x8f1⟩),
  (0x76957ea510 <<< 224, .aadd ⟨0x25, 0x3a, 0x17, 0x1a5, .rel, .pkg⟩),
  (0x76957ea511 <<< 224, .amin ⟨0x25, 0x3a, 0x17, 0x1a5, .rel, .pkg⟩),
  (0x76957ea512 <<< 224, .aminn ⟨0x25, 0x3a, 0x17, 0x1a5, .rel, .pkg⟩),
  (0x76957ea513 <<< 224, .amax ⟨0x25, 0x3a, 0x17, 0x1a5, .rel, .pkg⟩),
  (0x76957ea514 <<< 224, .amaxn ⟨0x25, 0x3a, 0x17, 0x1a5, .rel, .pkg⟩),
  (0x76957ea515 <<< 224, .aand ⟨0x25, 0x3a, 0x17, 0x1a5, .rel, .pkg⟩),
  (0x76957ea516 <<< 224, .aor ⟨0x25, 0x3a, 0x17, 0x1a5, .rel, .pkg⟩),
  (0x76957ea517 <<< 224, .axor ⟨0x25, 0x3a, 0x17, 0x1a5, .rel, .pkg⟩),
  (0x76957ea518 <<< 224, .axch ⟨0x25, 0x3a, 0x17, 0x1a5, .rel, .pkg⟩),
  (0x76957ea519 <<< 224, .acas ⟨0x25, 0x3a, 0x17, 0x1a5, .rel, .pkg⟩),
  (0x76957ea51a <<< 224, .abinc ⟨0x25, 0x3a, 0x17, 0x1a5, .rel, .pkg⟩),
  (0x478f9950c <<< 224, .gath ⟨0x15, 6, 0x1e, 0x8f1⟩),
  (0xe950a <<< 224, .ldt ⟨0x15, 0x3a⟩),
  (0xea50b <<< 224, .ldts ⟨0x25, 0x3a⟩),
  (0xc8f1ea508 <<< 224, .ld ⟨0x25, 0x3a, 0x8f1, .e5m2⟩),
  (0x8f1e9509 <<< 224, .ldv ⟨0x15, 0x3a, 0x8f1, .s8⟩),
  (0x19502 <<< 224, .ldq ⟨0x15, 6⟩),
  (0x1a503 <<< 224, .ldqs ⟨0x25, 6⟩),
  (0x10000000001 <<< 224, .qalign)] = true := by decide +kernel

theorem test_decode_store0 : decodesAll [
  (0x317ea510 <<< 264, .rst ⟨0x25, 0x3a, 0x17, .pod, true⟩),
  (0x317e9511 <<< 264, .rstv ⟨0x15, 0x3a, 0x17, .pod, true⟩),
  (0x79950c <<< 264, .scat ⟨0x15, 6, 0x1e⟩),
  (0xcea508 <<< 264, .st ⟨0x25, 0x3a, .e5m2⟩),
  (0xe9509 <<< 264, .stv ⟨0x15, 0x3a, .s8⟩),
  (0xe950a <<< 264, .stt ⟨0x15, 0x3a, .s8⟩),
  (0x9ea50b <<< 264, .stts ⟨0x25, 0x3a, .f16⟩),
  (0x19502 <<< 264, .stq ⟨0x15, 6⟩),
  (0x1a503 <<< 264, .stqs ⟨0x25, 6⟩)] = true := by decide +kernel

theorem test_decode_copy0 : decodesAll [
  (0x157ea50a <<< 304, .migrate ⟨0x25, 0x3a, 0x17, 5⟩),
  (0xa60b <<< 304, .cpfence ⟨0xa6⟩),
  (0x7a50c <<< 304, .chq ⟨0x25, 6, 3, 0⟩),
  (0x3a50d <<< 304, .chset ⟨0x25, 6, 1, 0⟩),
  (0xe672fd508 <<< 304, .rcp ⟨5, 0x3a, 0x17, 0xe, true, true, .pod, 3⟩),
  (0xe672fd509 <<< 304, .rcpo ⟨5, 0x3a, 0x17, 0xe, true, true, .pod, 3⟩),
  (0x9afd504 <<< 304, .tfill ⟨5, 0x3a, 0x17, true, true, .pod⟩),
  (0x9afd505 <<< 304, .tdrain ⟨5, 0x3a, 0x17, true, true, .pod⟩),
  (0x1d006 <<< 304, .tfree ⟨0, 0x3a, 0, false, false, .core⟩),
  (0x702507 <<< 304, .tstat ⟨0x25, 0, 0, 0xe⟩),
  (0x2672fd501 <<< 304, .tcopy ⟨5, 0x3a, 0x17, 0xe, true, true, .pod, 0⟩),
  (0x2672fd502 <<< 304, .xcopy ⟨5, 0x3a, 0x17, 0xe, true, true, .pod, 0⟩),
  (0x26001d503 <<< 304, .ccopy ⟨5, 0x3a, 0, 0, true, true, .pod, 0⟩)] = true := by decide +kernel

theorem test_decode_sync0 : decodesAll [
  (0x30c <<< 344, .fenceFull ⟨.pkg⟩),
  (0xb0c <<< 344, .fenceAcq ⟨.pkg⟩),
  (0x130c <<< 344, .fenceRel ⟨.pkg⟩),
  (0x3ea50d <<< 344, .waitc ⟨0x25, 0x3a, .pkg⟩),
  (0x2a0e00000000000000000000000000000000000000000000000000000000000000000000000000000000000010, .suspend ⟨0x2a⟩),
  (0xf00000000000000000000000000000000000000000000000000000000000000000000000000000000000010, .yield),
  (0x2510 <<< 344, .launch ⟨0x25⟩),
  (0xbeef11 <<< 344, .trap ⟨0xbeef⟩),
  (0x2d50a <<< 344, .bcx ⟨0x15, 0xb, 0⟩),
  (0x1ae50b <<< 344, .bcl ⟨0x25, 0xb, 3⟩),
  (0x7408 <<< 344, .bar ⟨.pod, 0xe⟩),
  (0xa5c3a601 <<< 344, .ssig ⟨0xa6, 0xa5c3⟩),
  (0xa5c3a602 <<< 344, .swait ⟨0xa6, 0xa5c3⟩),
  (0x3aa603 <<< 344, .sset ⟨0xa6, 0x3a⟩),
  (0x3aa604 <<< 344, .srd ⟨0xa6, 0x3a⟩),
  (0xa605 <<< 344, .spoi ⟨0xa6, 0⟩),
  (0xa606 <<< 344, .sunp ⟨0xa6, 0⟩)] = true := by decide +kernel
/-! ## Witnesses: scalar and vector ops -/

/-- A core with a word in `s1` and others in `s2`, `s3`. -/
def scalarState : State := with0 (regs [(1, 0x8000000000000000), (2, 0xFFFFFFFFFFFFFFFF), (3, 64)])

theorem witness_ScalarArithmeticResults : scalarState.acts ∧ scalarState.sOk 1 ∧ scalarState.sOk 63 :=
  ⟨.inl rfl, sOk_of rfl rfl _, sOk_of rfl rfl _⟩
theorem witness_MultiplyAndDivideResults : scalarState.acts ∧ scalarState.sOk 1 ∧ scalarState.sOk 2 ∧ scalarState.sOk 3 :=
  ⟨.inl rfl, sOk_of rfl rfl _, sOk_of rfl rfl _, sOk_of rfl rfl _⟩
theorem witness_ImmediateResults : scalarState.acts ∧ scalarState.sOk 1 ∧ (⟨1, 1, 63⟩ : ClsSI).imm.toNat ≤ 63 :=
  ⟨.inl rfl, sOk_of rfl rfl _, by decide⟩
theorem witness_AddressAndExtremaResults : scalarState.acts ∧ scalarState.sOk 1 ∧ scalarState.sOk 2 ∧ scalarState.pOk :=
  ⟨.inl rfl, sOk_of rfl rfl _, sOk_of rfl rfl _, pOk_of rfl⟩
theorem witness_BitFieldAndCountResults :
    scalarState.acts ∧ scalarState.sOk 1 ∧ scalarState.sOk 2 ∧ (⟨2, 1, 0, 63⟩ : ClsSB).pos.toNat + (63 + 1) ≤ 64 :=
  ⟨.inl rfl, sOk_of rfl rfl _, sOk_of rfl rfl _, by decide⟩
theorem witness_CompareAndPredicateResults :
    scalarState.acts ∧ scalarState.sOk 1 ∧ scalarState.sOk 2 ∧ scalarState.pOk ∧ scalarState.kOk 7 :=
  ⟨.inl rfl, sOk_of rfl rfl _, sOk_of rfl rfl _, pOk_of rfl, kOk_of rfl _⟩
theorem witness_ControlTransferResults :
    scalarState.acts ∧ 0 ≤ (scalarState.ctx.pc : Int) + (-7 : BitVec 26).toInt ∧ (scalarState.ctx.pc : Int) + (8184 : BitVec 26).toInt < 8192 ∧
    (with0 (regs [(1, 99)])).cur.reaches (((with0 (regs [(1, 99)])).sv 1).toNat : Int) = true ∧
    scalarState.pOk ∧ leafOf ⟨0, ⟨true, false, 0⟩, ⟨false, false, 0⟩, ⟨false, false, 0⟩, ⟨false, false, 0⟩, 1, 0, 0, 0⟩ scalarState.cur = 4 ∧
    leafOf ⟨0, ⟨true, true, 0⟩, ⟨false, false, 0⟩, ⟨false, false, 0⟩, ⟨false, false, 0⟩, 1, 0, 0, 0⟩ scalarState.cur = 8 :=
  ⟨.inl rfl, by decide, by decide, by decide +kernel, pOk_of rfl, by decide +kernel, by decide +kernel⟩
theorem witness_OperandTraps :
    (with0 (regs [(1, 100)])).ctx.mode = .alone ∧ (with0 (regs [(1, 100)])).cur.reaches (((with0 (regs [(1, 100)])).sv 1).toNat : Int) = false ∧
    (with0 { plain with sPoi := [(1, some ⟨8, .core⟩)] }).cur.spoi 1 = some ⟨8, .core⟩ ∧
    BadReg.s 1 ∉ (with0 { plain with sPoi := [(1, some ⟨8, .core⟩)] }).cur.bad ∧
    127 < ((with0 (regs [(1, 128)])).sv 1).toNat ∧ (with0 (regs [(1, 128)])).accOk 3 := by
  refine ⟨rfl, by decide +kernel, by decide +kernel, List.not_mem_nil, by decide +kernel, accOk_of rfl 3⟩

/-- A store that finds its unit translated, as much charged as the limit allows, and one byte more. -/
def storeState (charge : Nat) : State :=
  { with0 { regs [(1, 65528), (2, 1)] with charge := charge } .st with tlb := [⟨0, 0, 0, 0, ⟨0, 5, ⟨0, 0⟩, 1, true, true⟩⟩] }

theorem witness_OperandTraps_store :
    (storeState 32737).writable 1 ⟨0, 5, ⟨0, 0⟩, 1, true, true⟩ ∧ (storeState 32737).addrOk 1 8 48 ∧ (storeState 32737).flatFree 1 8 ∧
    (storeState 32737).cur.occ.ssb < (storeState 32737).cur.charge + 32 ∧ (storeState 32736).chargeRoom 32 :=
  ⟨by unfold State.writable; decide +kernel, ⟨sOk_of rfl rfl _, by decide +kernel, by decide +kernel⟩, by unfold State.flatFree; decide +kernel,
    by decide +kernel, fun _ => by decide +kernel⟩
theorem witness_OperandTraps_align :
    (with0 (regs [(1, 0x8000000000000004)]) .ld).loadRoom ∧ ((with0 (regs [(1, 0x8000000000000004)]) .ld).sv 1).getLsbD 2 = true ∧
    (∀ i < 2, ((with0 (regs [(1, 0x8000000000000004)]) .ld).sv 1).getLsbD i = false) ∧
    ((with0 (regs [(1, 0x8000000000000000)]) .ld).sv 1).toNat % 8 = 0 ∧ ((with0 (regs [(1, 0x8000000000000000)]) .ld).sv 1).getLsbD 63 = true :=
  ⟨by unfold State.loadRoom; decide +kernel, by decide +kernel, by decide +kernel, by decide +kernel, by decide +kernel⟩

/-- A core whose vector registers hold something. -/
def vectorState : State := with0 { plain with v := [(1, 5), (2, 9)] } .va

theorem witness_VectorIntegerResults : vectorState.acts ∧ Ty.isInt .n8 = true ∧ vectorState.vrOk 2 ⟨31, 1, 2, 0, 7, .n8, .rne⟩ ∧
    vectorState.vrOk 1 ⟨31, 1, 2, 0, 7, .s64, .rne⟩ := ⟨.inl rfl, rfl, vrOk_of rfl rfl _ _, vrOk_of rfl rfl _ _⟩
theorem witness_VectorFloatResults : vectorState.acts ∧ Ty.fmt .bf16 = some fmtB16 ∧ vectorState.vrOk 3 ⟨31, 1, 2, 0, 7, .bf16, .rsr⟩ ∧
    fmt32 ∈ [fmt32, fmt16, fmtB16] ∧ 0xFFFFFFFF < 2 ^ fmt32.width ∧ fmt32.isNan 0x7FC00000 = true ∧ fmt32.isNan 0x7F800000 = false :=
  ⟨.inl rfl, rfl, vrOk_of rfl rfl _ _, by decide, by decide, by decide, by decide⟩
theorem witness_VectorScalarOperandResults : vectorState.acts ∧ vectorState.vsOk true ⟨31, 1, 63, 7, .s16, .rne⟩ ∧
    Ty.isInt .s16 = true ∧ Ty.fmt .f16 = some fmt16 ∧ vectorState.vsOk false ⟨31, 0, 0, 0, .e5m2, .rne⟩ :=
  ⟨.inl rfl, vsOk_of rfl rfl rfl _ _, rfl, rfl, vsOk_of rfl rfl rfl _ _⟩
theorem witness_VectorCompareResults : vectorState.acts ∧ vectorState.vOk 1 ∧ vectorState.vOk 31 ∧ vectorState.kOk 7 ∧
    Ty.width .f32 = 32 ∧ Ty.width .n64 = 64 ∧ Ty.isInt .n64 = true :=
  ⟨.inl rfl, vOk_of rfl rfl _, vOk_of rfl rfl _, kOk_of rfl _, rfl, rfl, rfl⟩
theorem witness_SelectMaskAndElementResults : vectorState.acts ∧ vectorState.vOk 1 ∧ vectorState.kOk 7 ∧ vectorState.sOk 9 ∧
    (63 : BitVec 6).toNat < 2048 / Ty.width .f32 := ⟨.inl rfl, vOk_of rfl rfl _, kOk_of rfl _, sOk_of rfl rfl _, by decide⟩
theorem witness_PermuteResults : vectorState.acts ∧ vectorState.vrOk 3 ⟨31, 1, 2, 3, 7, .n8, .rne⟩ ∧ (1 : BitVec 5).toNat ≤ 1 ∧
    vectorState.vsOk true ⟨31, 1, 9, 7, .s32, .rne⟩ ∧ vectorState.vOk 31 ∧ vectorState.kOk 0 :=
  ⟨.inl rfl, vrOk_of rfl rfl _ _, by decide, vsOk_of rfl rfl rfl _ _, vOk_of rfl rfl _, kOk_of rfl _⟩
theorem witness_ReductionResults : vectorState.acts ∧ vectorState.vOk 1 ∧ vectorState.kOk 7 ∧ vectorState.drawOk .rsr ∧ Ty.isInt .s8 = true ∧
    Ty.fmt .f32 = some fmt32 ∧ ((List.range 64).filter fun e => active (vectorState.cur.kreg 7) e 32) = [] ∧
    ((List.range 64).filter fun e => active (vectorState.cur.kreg 0) e 32) ≠ [] :=
  ⟨.inl rfl, vOk_of rfl rfl _, kOk_of rfl _, drawOk_of rfl _, rfl, rfl, by decide +kernel, by decide +kernel⟩
theorem witness_ConversionAndBlockFloatResults : vectorState.acts ∧ vectorState.vOk 1 ∧ vectorState.kOk 7 ∧ vectorState.drawOk .rsr ∧
    Ty.fmt .f16 = some fmt16 ∧
    Ty.f16 ∈ [Ty.f32, .f16, .bf16] ∧ (6 : BitVec 3).toNat ≤ 6 := 
  ⟨.inl rfl, vOk_of rfl rfl _, kOk_of rfl _, drawOk_of rfl _, rfl, by decide, by decide⟩
theorem witness_SpecialFunctionResults : vectorState.acts ∧ vectorState.vrOk 1 ⟨31, 1, 0, 0, 7, .f32, .rsr⟩ ∧ vectorState.sOk 62 ∧
    vectorState.sOk (62 + 1) ∧ (62 : BitVec 6).toNat % 2 = 0 :=
  ⟨.inl rfl, vrOk_of rfl rfl _ _, sOk_of rfl rfl _, sOk_of rfl rfl _, by decide⟩

/-! ## Witnesses: matrix ops -/

/-- A core whose routines are loaded, its parameters naming one K-block and one group, scratchpad slot 0 READY. -/
def matrixCore : Core :=
  { plain with store := List.range 20, mp := [(2, 1), (3, 0x400000)], slots := [(0, ⟨.ready, false, 0, ⟨0, 0⟩, false⟩)], s := [(1, 127), (2, 128)] }

/-- A routine that targets accumulator 3. -/
def reluRoutine (row : Nat) : Routine :=
  { (default : Routine) with idx := 14, target := 3, mps := [0, 0, 0, 0, 0x100000000000000], wb := true, row := row }

theorem witness_MatrixRegisterResults : (with0 matrixCore .mx).acts ∧ (with0 matrixCore .mx).sOk 1 ∧ (with0 matrixCore .mx).accOk 3 ∧
    ((with0 matrixCore .mx).sv 1).toNat < (with0 matrixCore .mx).cur.accWm 3 ∧ ((with0 matrixCore .mx).sv 1).toNat ≤ 127 ∧
    (with0 matrixCore .mx).vOk 31 ∧ (with0 matrixCore .mx).cur.routine = none ∧ (with0 matrixCore .mx).cur.eaddReads 0 = false ∧
    (with0 { matrixCore with routine := some (reluRoutine 0) } .mx).cur.routine = some (reluRoutine 0) ∧ (reluRoutine 0).target = 3 :=
  ⟨.inl rfl, sOk_of rfl rfl _, accOk_of rfl _, by decide +kernel, by decide +kernel, vOk_of rfl rfl _, rfl, by decide +kernel, rfl, rfl⟩
theorem witness_RoutineStarts :
    let s := with0 matrixCore .mx
    let a : MArgs := ⟨(List.range 8).map s.cur.mpreg⟩
    let words := s.cur.groupTable a
    let counts := words.map (· % 256)
    s.acts ∧ s.cur.routine = none ∧ (∀ k ∈ [0, 1, 2, 3, 4, 5, 6, 7, 8, 9, 14], k ∈ s.cur.store) ∧
    (∀ k ∈ [12, 13, 14, 15, 16, 17, 18, 19], k ∈ s.cur.store ∧ a.epiBad k = []) ∧
    1 ≤ a.g ∧ a.g ≤ 16 ∧ a.gAt 0 % 8 = 0 ∧ a.gAt a.g ≤ 2 ^ 22 ∧
    (∀ n ∈ [a.gAt 0 / 65536, (a.gAt a.g - 1) / 65536], (s.cur.slot n).state = .ready ∧ (s.cur.slot n).zeroing = false) ∧
    s.cur.scratchBad (a.gAt 0) (8 * a.g) = false ∧ (∀ w ∈ words, w < 2 ^ 30) ∧ passes128 counts 0 0 = none ∧
    (∀ k ∈ [10, 11], k ∈ s.cur.store ∧ a.prodBad k s.cur.gix counts (words.map fun w => w / 256 % 2 ^ 22) = []) :=
  ⟨.inl rfl, by decide +kernel⟩
theorem witness_RoutineStarts_product : ∀ k ∈ [0, 1, 2, 3, 4, 5, 6, 7, 8, 9],
    (MArgs.mk ((List.range 8).map { matrixCore with mp := [(2, 1)] }.mpreg)).prodBad k 0 [] [] = [] := by decide +kernel
theorem witness_ReluStepResult : ∀ row ∈ [0, 124],
    ((with0 { matrixCore with routine := some (reluRoutine row) }).core 0).routine = some (reluRoutine row) ∧
    ((with0 { matrixCore with routine := some (reluRoutine row) }).core 0).run ∉ [Run.stopping, .frozen, .quarantined] ∧
    (reluRoutine row).idx = 14 ∧ (MArgs.mk (reluRoutine row).mps).fld 4 56 1 = 1 ∧ (reluRoutine row).wb = true ∧
    (reluRoutine row).row + 4 ≤ 128 := by decide +kernel

/-! ## Witnesses: memory ops -/

/-- A descriptor of a 4 by 4 tensor of `.f32` in one tile, its map at flat 0x100. -/
def tensor1 : Nat := 0x100 + 8 * 2 ^ 48 + 2 ^ 56 + (4 + 4 * 2 ^ 24 + 2 ^ 48 + 2 ^ 72) * 2 ^ 64 + 0x22 * 2 ^ 160 + 2 ^ 176

/-- Unit 0 of the flat space and of tensor 1 stand in core 0's translation caches, with its descriptor. -/
def cached (s : State) : State :=
  { s with tlb := [⟨0, 0, 0, 0, ⟨0, 2, ⟨0, 0⟩, 1, true, true⟩⟩, ⟨0, 0, 1, 0, ⟨0, 3, ⟨0, 0⟩, 1, true, true⟩⟩]
           dtlb := [⟨0, 0, 1, BitVec.ofNat 256 tensor1⟩] }

/-- The descriptor stands at the second place of the tensor table, at flat 0. -/
def withTensor (s : State) : State := { s with mem := Memory.setVal s.mem 0x20020 32 tensor1 }

/-- A stream of 4 by 4 elements of tensor 1, inwards or outwards. -/
def streamOf (out : Bool) (kind : Nat := 0) : BitVec 256 :=
  BitVec.ofNat 256 (kind + 8 * 4 + out.toNat * 2 ^ 10 + 2 ^ 12 + (1 - kind) * 2 ^ 24 + 2 ^ 72 + 4 * 2 ^ 88 + 2 ^ 128 + 4 * 2 ^ 144)

/-- A module whose core has stream 15 loaded. -/
def streamState (q : Stream) (sl : Slot) : State := withTensor (cached (with0 { plain with q := [(15, q)] } sl))

theorem witness_LoadIssueResults :
    let s := with0 (regs [(1, 0xFFFFFFFFFF00), (2, 0x80000000000)]) .ld
    let u := streamState { Stream.idle with desc := streamOf false, loaded := true } .ld
    s.acts ∧ s.loadRoom ∧ s.addrOk 1 8 48 ∧ s.addrOk 1 256 48 ∧ s.flatFree 1 256 ∧ s.memberOk 1 ∧ s.addrOk 1 256 54 ∧
    u.loadRoom ∧ u.vOk 31 ∧ (15 : BitVec 4).toNat < u.cur.occ.streams ∧ (u.sq 15).loaded = true ∧
    (SDesc.ofBits (u.sq 15).desc).gathers = true ∧ (∀ y ∈ u.cur.loads ++ u.cur.hloads, y.kind ≠ 3 ∧ y.kind ≠ 4) :=
  ⟨.inl rfl, by unfold State.loadRoom; decide +kernel, ⟨sOk_of rfl rfl _, by decide +kernel, by decide +kernel⟩,
    ⟨sOk_of rfl rfl _, by decide +kernel, by decide +kernel⟩, by unfold State.flatFree; decide +kernel, .inl (by decide +kernel),
    ⟨sOk_of rfl rfl _, by decide +kernel, by decide +kernel⟩, by unfold State.loadRoom; decide +kernel, vOk_of rfl rfl _,
    by decide +kernel, by decide +kernel, by decide +kernel, by decide +kernel⟩

/-- Loads that fall due: good, with a cause, late; of a scalar and of a vector register. -/
def dueLoad (vec arrived : Bool) (cause reg : Nat) : Load :=
  { (default : Load) with vec := vec, arrived := arrived, cause := cause, reg := reg }

theorem witness_LoadOutcomeRule : ∀ x ∈ [dueLoad false true 0 63, dueLoad false true 15 63, dueLoad false false 0 63, dueLoad true true 0 31,
    dueLoad true false 0 31, dueLoad false true 0 0], x.dead = false ∧ x.kind ≠ 5 ∧ x.sig.inc = 0 ∧ x.zero = false := by decide +kernel
theorem witness_ScratchpadAccessResults :
    let s := with0 (regs [(1, 0x3FFF00), (2, 0x3FFFF8)]) .ld
    let u := with0 { regs [(1, 0x3FFF00)] with slots := [(63, ⟨.empty, true, 0, ⟨0, 0⟩, false⟩)] } .ld
    s.acts ∧ s.addrOk 1 256 22 ∧ s.slotOpen 1 256 false ∧ s.slotOpen 1 256 true ∧ s.cur.scratchBad 0x3FFF00 256 = false ∧
    u.cur.slotSealed 0x3FFF00 = true ∧ s.addrOk 2 8 22 ∧ s.slotOpen 2 8 false ∧ s.vOk ((31 : BitVec 6).setWidth 5) ∧
    (s.cur.slot 63).state = .empty ∧ (with0 matrixCore).cur.slot 0 ≠ SlotEntry.drained :=
  ⟨.inl rfl, ⟨sOk_of rfl rfl _, by decide +kernel, by decide +kernel⟩, by unfold State.slotOpen; decide +kernel,
    by unfold State.slotOpen; decide +kernel, by decide +kernel, by decide +kernel, ⟨sOk_of rfl rfl _, by decide +kernel, by decide +kernel⟩,
    by unfold State.slotOpen; decide +kernel, vOk_of rfl rfl _, by decide +kernel, by decide +kernel⟩
theorem witness_FlatStoreResults :
    let s := cached (with0 { regs [(1, 0xFF00), (2, 0xFFFF)] with charge := 32768 - 256 } .st)
    s.acts ∧ s.cur.atH = false ∧ s.writable 1 ⟨0, 2, ⟨0, 0⟩, 1, true, true⟩ ∧ s.writable 2 ⟨0, 2, ⟨0, 0⟩, 1, true, true⟩ ∧ s.sOk 63 ∧
    s.addrOk 2 1 48 ∧ s.flatFree 2 1 ∧ s.chargeRoom 32 ∧ s.addrOk 1 256 48 ∧ s.flatFree 1 256 ∧ s.chargeRoom 256 ∧
    s.vOk ((31 : BitVec 6).setWidth 5) :=
  ⟨.inl rfl, by decide +kernel, by unfold State.writable; decide +kernel, by unfold State.writable; decide +kernel, sOk_of rfl rfl _,
    ⟨sOk_of rfl rfl _, by decide +kernel, by decide +kernel⟩, by unfold State.flatFree; decide +kernel, fun _ => by decide +kernel,
    ⟨sOk_of rfl rfl _, by decide +kernel, by decide +kernel⟩, by unfold State.flatFree; decide +kernel, fun _ => by decide +kernel,
    vOk_of rfl rfl _⟩
theorem witness_StreamPopResults :
    let e : QEntry := ⟨7, none, false, false, false, 0⟩
    let full := streamState { Stream.idle with desc := streamOf false, loaded := true, dq := [e], popped := List.replicate 15 e } .ld
    let idle := streamState { Stream.idle with desc := streamOf false, loaded := true } .ld
    let ended := streamState { Stream.idle with desc := streamOf false, loaded := true, done := true } .ld
    (∀ s ∈ [full, idle, ended], (15 : BitVec 4).toNat < s.cur.occ.streams ∧ (s.cur.stream 15).loaded = true ∧
      (SDesc.ofBits (s.cur.stream 15).desc).out = false ∧ s.cur.atH = false ∧ (s.cur.stream 15).popped.length < 16 ∧
      s.ctx.mode = .alone ∧ s.ctx.slot = .ld) ∧
    (full.cur.stream 15).dq = [e] ∧ (idle.cur.stream 15).dq = [] ∧ (idle.cur.stream 15).done = false ∧
    (ended.cur.stream 15).dq = [] ∧ (ended.cur.stream 15).done = true ∧ (ended.cur.stream 15).aq = [] := by decide +kernel
theorem witness_StreamPushResults :
    let s := streamState { Stream.idle with desc := streamOf true, loaded := true, pushed := 15 } .st
    let d := SDesc.ofBits (s.cur.stream 15).desc
    let last := streamState { Stream.idle with desc := streamOf true, loaded := true, made := 15, cur := 15 } .st
    s.acts ∧ s.vOk ((31 : BitVec 6).setWidth 5) ∧ s.sOk 63 ∧
    (15 : BitVec 4).toNat < s.cur.occ.streams ∧ (s.cur.stream 15).loaded = true ∧ d.out = true ∧ d.bfp = false ∧
    (s.cur.stream 15).made < d.total ∧ (s.cur.stream 15).dq.length < 16 ∧ (s.cur.stream 15).pushed < 16 ∧ (s.cur.stream 15).cur = 0 ∧
    (s.cur.stream 15).cur + 1 ≠ d.perEntry ∧ (s.cur.stream 15).made + 1 ≠ d.total ∧ (last.cur.stream 15).made + 1 = d.total ∧
    (last.cur.stream 15).made < d.total :=
  ⟨.inl rfl, vOk_of rfl rfl _, sOk_of rfl rfl _, by decide +kernel⟩

/-- An index vector that skips every row, and one that takes row 3 alone. -/
def skipAll : Vec := BitVec.allOnes 2048
def skipButOne : Vec := skipAll - 0xFFFFFFFC

theorem witness_StreamLoadAndScatterResults :
    let c : Core := { regs [(1, 0)] with slots := [(0, ⟨.ready, false, 0, ⟨0, 0⟩, false⟩)], scr := Memory.setVal [] 0 32 (streamOf false).toNat }
    let s := with0 c .ld
    s.acts ∧ s.addrOk 1 32 22 ∧ s.slotOpen 1 32 false ∧ s.cur.slotSealed 0 = false ∧ s.cur.scratchBad 0 32 = false ∧
    SDesc.offence (BitVec.ofNat 256 (leVal (s.cur.scratch 0 32))) = none ∧ (s.cur.stream 15).loaded = false :=
  ⟨.inl rfl, ⟨sOk_of rfl rfl _, by decide +kernel, by decide +kernel⟩, by unfold State.slotOpen; decide +kernel, by decide +kernel,
    by decide +kernel, by decide +kernel, by decide +kernel⟩
/-- A module whose `scat` takes its rows from `vi`. -/
def scatState (vi : Vec) : State :=
  withTensor (cached (with0 { plain with q := [(15, { Stream.idle with desc := streamOf false, loaded := true })], v := [(2, vi)] } .st))

theorem witness_StreamLoadAndScatterResults_tensor : 
    (scatState skipAll).lookDesc 0 .issue 1 true = .hit (TDesc.ofNat tensor1) := by decide +kernel
theorem witness_StreamLoadAndScatterResults_rows :
    let d := SDesc.ofBits (streamOf false)
    let t := TDesc.ofNat tensor1
    let s := scatState skipButOne
    let rows := scatItems d t skipButOne 0
    (s.cur.stream 15).loaded = true ∧ s.cur.vreg 2 = skipButOne ∧ d.gathers = true ∧ d.fits t = true ∧ d.id = 1 ∧
    scatItems d t skipAll 0 = [] ∧ rows ≠ [] ∧
    (∀ r ∈ rows, ∀ i ∈ r, i.1.out = false ∧ s.look s.ctx.core .issue d.id i.1.unit true false = .hit ⟨0, 3, ⟨0, 0⟩, 1, true, true⟩) ∧
    s.cur.charge + ((rows.map fun r => chargeOf (r.map (·.2.length)).sum).sum) ≤ s.cur.occ.ssb := by decide +kernel

/-- A world of the pod with all its members. -/
def podWorld : World := { world0 with fabric := true, members := BitVec.allOnes 64 }

/-- The module with that world. -/
def inPod (s : State) : State := { s with worlds := [(0, podWorld)] }

theorem witness_AtomicResults :
    let s := inPod (cached (with0 (regs [(1, 0xFFF8), (2, 0x3F00000000FFF8)]) .ld))
    s.acts ∧ s.cur.atH = false ∧ s.cur.coupled = false ∧ s.sOk 63 ∧ s.loadRoom ∧ s.cur.loads ++ s.cur.hloads = [] ∧ s.addrOk 1 8 48 ∧
    s.flatFree 1 8 ∧ s.writable 1 ⟨0, 2, ⟨0, 0⟩, 1, true, true⟩ ∧ s.addrOk 2 8 54 ∧ s.memberOk 2 :=
  ⟨.inl rfl, by decide +kernel, by decide +kernel, sOk_of rfl rfl _, by unfold State.loadRoom; decide +kernel, rfl,
    ⟨sOk_of rfl rfl _, by decide +kernel, by decide +kernel⟩, by unfold State.flatFree; decide +kernel, by unfold State.writable; decide +kernel,
    ⟨sOk_of rfl rfl _, by decide +kernel, by decide +kernel⟩, .inr (by decide +kernel)⟩
theorem witness_RemoteStoreResults :
    let s := inPod (with0 (regs [(1, 0x3FFFFFFFFFFF00), (2, 0xFFFFFFFFFFF8)]) .st)
    s.acts ∧ s.cur.atH = false ∧ s.cur.coupled = false ∧ s.sOk 2 ∧ s.memberOk 1 ∧ s.addrOk 2 8 48 ∧ s.addrOk 1 8 54 ∧ s.addrOk 1 256 54 ∧
    s.vOk ((31 : BitVec 6).setWidth 5) :=
  ⟨.inl rfl, by decide +kernel, by decide +kernel, sOk_of rfl rfl _, .inr (by decide +kernel),
    ⟨sOk_of rfl rfl _, by decide +kernel, by decide +kernel⟩, ⟨sOk_of rfl rfl _, by decide +kernel, by decide +kernel⟩,
    ⟨sOk_of rfl rfl _, by decide +kernel, by decide +kernel⟩, vOk_of rfl rfl _⟩

/-! ## Witnesses: the copy engine and synchronization -/

theorem placeOk_of {s : State} {r : BitVec 6} {n al : Nat} {ks : List Nat} {p : Place} (h : s.sOk r)
    (h1 : placeFaults s.me (s.sv r).toNat n al ks = []) (h2 : s.placeOf (s.sv r).toNat = p) (h3 : ∀ m a, p ≠ .remote m a) :
    s.placeOk r n al ks := ⟨h, h1, fun m a e => absurd (h2 ▸ e) (h3 m a)⟩

/-- A core with scratchpad places in `s1`, a tile in `s2`, and counts in the next registers; slot 0 READY, slot 1 EMPTY. -/
def copyCore : Core :=
  { regs [(1, 0x8000000000000000), (2, 0x4000000001000000), (3, 64), (4, 0x400000), (5, 0x3F3F00000040), (6, 1), (7, 63), (8, 0xFFE0)] with
    slots := [(0, ⟨.ready, false, 0, ⟨0, 0⟩, false⟩)] }

/-- The module that runs it. -/
def copyState : State := inPod (cached (with0 copyCore .cp))

theorem copyState_scratch (n : Nat) (b : Bool) : copyState.translated (.scratch 0) n b := fun _ h => nomatch h
theorem copyState_tile (b : Bool) : copyState.translated (.tile 1 0) 65536 b := fun u h => by
  have e : u = (1, 0) := List.mem_singleton.1 ((by decide +kernel : (Place.tile 1 0).units 65536 = [(1, 0)]) ▸ h)
  subst e; exact ⟨⟨0, 3, ⟨0, 0⟩, 1, true, true⟩, by revert b; decide +kernel⟩

theorem witness_CopyCommandResults :
    copyState.acts ∧ copyState.chanOpen 7 ∧ copyState.sOk 3 ∧ (copyState.sv 3).toNat = 64 ∧
    copyState.placeOk 1 (64 * 65536) 65536 [0, 1, 2] ∧ copyState.translated (.scratch 0) (64 * 65536) true ∧
    copyState.placeOf (copyState.sv 1).toNat = .scratch 0 ∧
    (copyState.sv 4).toNat % 64 = 0 ∧ (copyState.sv 4).toNat ≤ 2 ^ 24 ∧ copyState.placeOk 1 0x400000 64 [0, 2, 3] ∧
    copyState.placeOk 1 0x400000 64 [0, 2] ∧ (copyState.sv 5).toNat = 64 + 63 * 2 ^ 32 + 63 * 2 ^ 40 ∧ copyState.addrOk 8 32 48 :=
  ⟨.inl rfl, ⟨by decide +kernel, by decide +kernel⟩, sOk_of rfl rfl _, by decide +kernel,
    placeOk_of (p := .scratch 0) (sOk_of rfl rfl _) (by decide +kernel) (by decide +kernel) (by intros; simp), copyState_scratch _ _,
    by decide +kernel, by decide +kernel, by decide +kernel,
    placeOk_of (p := .scratch 0) (sOk_of rfl rfl _) (by decide +kernel) (by decide +kernel) (by intros; simp),
    placeOk_of (p := .scratch 0) (sOk_of rfl rfl _) (by decide +kernel) (by decide +kernel) (by intros; simp), by decide +kernel,
    ⟨sOk_of rfl rfl _, by decide +kernel, by decide +kernel⟩⟩
theorem witness_CopyCommandResults_migrate :
    copyState.placeOk 2 0 1 [1] ∧ (copyState.sv 6).toNat = 1 ∧ (copyState.sv 7).toNat = 63 ∧ 63 ≠ copyState.me ∧
    copyState.member copyState.cur.vf 63 = true ∧
    (∀ i < 1, copyState.look copyState.ctx.core .issue ((copyState.sv 2).toNat / 2 ^ 24 % 2 ^ 24) ((copyState.sv 2).toNat % 2 ^ 24 + i) false true =
      .hit ⟨0, 3, ⟨0, 0⟩, 1, true, true⟩ ∧ copyState.migOf 2 (copyState.world copyState.cur.vf).fwid 1 0 = none) :=
  ⟨placeOk_of (p := .tile 1 0) (sOk_of rfl rfl _) (by decide +kernel) (by decide +kernel) (by intros; simp), by decide +kernel,
    by decide +kernel, by decide +kernel, by decide +kernel, by decide +kernel⟩
theorem witness_SlotAndChannelResults :
    copyState.acts ∧ copyState.chanOpen 7 ∧ copyState.placeOk 2 65536 65536 [0, 1] ∧ copyState.translated (.tile 1 0) 65536 true ∧
    copyState.translated (.tile 1 0) 65536 false ∧ (copyState.cur.slot 0).state = .ready ∧ (copyState.cur.slot 63).state = .empty ∧
    (copyState.slotSeen 0).state = .ready ∧ (copyState.slotSeen 63).state = .empty ∧
    (7 : BitVec 3).toNat < copyState.cur.occ.channels ∧ copyState.sOk 3 ∧ (copyState.cur.chan 7).cmds = [] ∧
    (∀ i, 48 ≤ i → i < 63 → (copyState.sv 1).getLsbD i = false) ∧
    (∀ i < 8, (0xFF : BitVec 8).getLsbD i = true → i < copyState.cur.occ.channels) :=
  ⟨.inl rfl, ⟨by decide +kernel, by decide +kernel⟩,
    placeOk_of (p := .tile 1 0) (sOk_of rfl rfl _) (by decide +kernel) (by decide +kernel) (by intros; simp), copyState_tile _, copyState_tile _,
    by decide +kernel, by decide +kernel, by decide +kernel, by decide +kernel, by decide +kernel, sOk_of rfl rfl _, by decide +kernel,
    fun i h1 h2 => (by decide +kernel : ∀ i < 63, 48 ≤ i → (copyState.sv 1).getLsbD i = false) i h2 h1, by decide +kernel⟩

/-- A core with semaphores at the ends of their range, and stores that keep changes behind them. -/
def semCore : Core :=
  { plain with
    sem := [(0, ⟨65535, false⟩), (1, ⟨3, true⟩), (255, ⟨7, false⟩)], ssbNext := 9
    ssb := [⟨8, 0, [⟨0, 0, [1]⟩], 0, true, false, 0, 0, 0, false, 8, false⟩] }

theorem witness_SemaphoreResults :
    (with0 semCore .sy).acts ∧ (with0 semCore .sy).semIn 255 ∧ (with0 semCore .sy).semIn 0 ∧ (with0 semCore .sy).sOk 63 ∧
    (with0 semCore .sy .effect).ctx.mode = .effect ∧
    (semCore.sema 0).poison = false ∧ (65535 : BitVec 16).toNat ≤ (semCore.sema 0).count ∧ (semCore.sema 255).count < (8 : BitVec 16).toNat ∧
    (semCore.sema 1).poison = true ∧ semCore.atH = false ∧ semCore.coupled = false ∧
    semCore.storesPast 8 = true ∧ semCore.storesPast 9 = false :=
  ⟨.inl rfl, ⟨by decide +kernel, by decide +kernel⟩, ⟨by decide +kernel, by decide +kernel⟩, sOk_of rfl rfl _, by decide +kernel⟩

/-- A quad of coupled cores, rank 1 with a vector on the bus; and a core that waits at a barrier. -/
def quadState : State :=
  { with0 { regs [(1, 0x3FFF00)] with creg := [(0, 8)] } .sy with
    cores := [(0, { regs [(1, 0x3FFF00)] with creg := [(0, 8)] }), (1, { plain with creg := [(0, 24)], bus := some (31, 5) })] }
def waiting (n : Nat) : State := with0 { plain with barHold := some n } .sy

theorem witness_BarrierAndBusResults :
    (waiting 2).acts ∧ (waiting 2).cur.barHold = some 2 ∧ (waiting 3).cur.barHold = some 3 ∧ quadState.acts ∧ quadState.cur.coupled = true ∧
    (31 : BitVec 5).toNat < quadState.cur.occ.bcast ∧ quadState.vOk ((31 : BitVec 6).setWidth 5) ∧ quadState.addrOk 1 256 22 ∧
    quadState.slotOpen 1 256 true ∧ (quadState.core (quadState.ctx.core / 4 * 4 + (1 : BitVec 2).toNat)).bus = some (31, 5) ∧
    (quadState.core (quadState.ctx.core / 4 * 4 + (3 : BitVec 2).toNat)).bus = none :=
  ⟨.inl rfl, rfl, rfl, .inl rfl, by decide +kernel, by decide +kernel, vOk_of rfl rfl _, ⟨sOk_of rfl rfl _, by decide +kernel, by decide +kernel⟩,
    by unfold State.slotOpen; decide +kernel, by decide +kernel, by decide +kernel⟩

/-- A state whose `s1` names a counter that holds 5 at flat 0xFFF8. -/
def counterState (m : Mode) : State :=
  let s := cached (with0 (regs [(1, 0xFFF8), (2, 5), (3, 6)]) .sy m)
  { s with mem := Memory.setVal s.mem 0x2FFF8 8 5 }

theorem witness_FenceAndCounterResults :
    (counterState .effect).ctx.mode = .effect ∧ (counterState .alone).ctx.mode = .alone ∧ (counterState .alone).addrOk 1 8 48 ∧
    (counterState .alone).sOk 2 ∧
    (counterState .alone).look (counterState .alone).ctx.core .issue 0 (((counterState .alone).sv 1).toNat / 65536) false false =
      .hit ⟨0, 2, ⟨0, 0⟩, 1, true, true⟩ ∧
    ((counterState .alone).readNow 0xFFF8 8).map (fun x => (x.2.cause, leVal x.2.bytes)) = some (0, 5) ∧
    ((counterState .alone).sv 2).toNat ≤ 5 ∧ 5 < ((counterState .alone).sv 3).toNat ∧
    (counterState .alone).waitMet 0xFFF8 6 = false :=
  ⟨rfl, rfl, ⟨sOk_of rfl rfl _, by decide +kernel, by decide +kernel⟩, sOk_of rfl rfl _, by decide +kernel,
    by decide +kernel, by decide +kernel, by decide +kernel, by decide +kernel⟩

/-- A task with a continuation record, and a descriptor of one task of image 5 in the flat space. -/
def taskState (m : Mode := .alone) : State :=
  let s := with0 { regs [(2, 0xFFF8), (1, 0)] with task := some ⟨1, some 0x40, [], false⟩ } .sy m
  { cached s with
    worlds := [(0, { world0 with images := [{ (default : Image) with handle := 5 }] })]
    mem := Memory.setVal s.mem 0x20000 16 (5 + 2 ^ 64 + 2 ^ 96) }

theorem witness_TaskEndResults :
    taskState.acts ∧ taskState.addrOk 2 8 48 ∧ (2 : BitVec 6).toNat % 2 = 0 ∧ taskState.sOk (2 + 1) ∧
    taskState.cur.task = some ⟨1, some 0x40, [], false⟩ ∧ taskState.suspendHold = [] ∧ taskState.cur.routine = none ∧
    (∀ h < 8, (taskState.cur.chan h).cmds = []) ∧ taskState.allCommitted = true ∧
    (with0 { plain with routine := some (reluRoutine 0) } .sc).cur.routine = some (reluRoutine 0) :=
  ⟨.inl rfl, ⟨sOk_of rfl rfl _, by decide +kernel, by decide +kernel⟩, by decide, sOk_of rfl rfl _, rfl, by decide +kernel, rfl,
    by decide +kernel, by decide +kernel, rfl⟩
theorem witness_LaunchResult :
    (taskState .effect).ctx.mode = .effect ∧ (taskState .effect).sOk 1 ∧ (taskState .effect).cur.coupled = false ∧
    (quadState.core 1).coupled = true ∧ (quadState.core 1).rank ≠ 0 ∧
    ((taskState .effect).readNow 0 128).map (fun x => (reamOf x.2.bytes).map fun r => (r.prog, r.n, r.waits)) = some (some (5, 1, [])) ∧
    ((taskState .effect).image 0 5).isSome = true :=
  ⟨rfl, sOk_of rfl rfl _, by decide +kernel, by decide +kernel, by decide +kernel, by decide +kernel, by decide +kernel⟩

/-! ## Witnesses: system ops, traps and the issue of bundles -/

/-- The handler, with scalar registers as listed. -/
def hCore (l : List (Nat × Word)) : Core := { regs l with creg := [(0, 4), (7, 96), (10, 5)] }
/-- A core that holds for the key engine. -/
def keyState (ok : Bool) : State := with0 { regs [(1, 0xFFFFF)] with keyHold := some ⟨4095, true, ok⟩ }

theorem witness_ControlRegisterResults :
    let s := with0 (hCore [(1, 0x180), (2, 0xFFFFF), (3, 0x17F)])
    (with0 plain).acts ∧ s.acts ∧ s.sOk 1 ∧ s.sOk 63 ∧ cregHidden 0x11 = false ∧ BadReg.creg 0x15 ∉ s.cur.bad ∧ s.cur.atH = true ∧ cregHidden 0x15 = true ∧
    snwrOk (s.sv 1).toNat (s.sv 63).toNat = true ∧ snwrOk (s.sv 3).toNat 0 = false ∧ (s.sv 2).toNat < 2 ^ 20 ∧
    s.handleLive s.cur.vf (handleOf (s.sv 63).toNat) = true ∧ s.handleLive s.cur.vf (handleOf (s.sv 2).toNat) = false :=
  ⟨.inl rfl, .inl rfl, sOk_of rfl rfl _, sOk_of rfl rfl _, by decide +kernel⟩
theorem witness_KeyAndKnownAnswerResults :
    (keyState true).acts ∧ (keyState true).sOk 1 ∧ (keyState true).cur.keyHold = some ⟨4095, true, true⟩ ∧
    (keyState false).cur.keyHold = some ⟨4095, true, false⟩ ∧ ((keyState true).sv 1).toNat < 2 ^ 20 ∧
    (let s := with0 (hCore [(1, 0xFFFFFF), (2, 0x8000000000000000), (3, 0xFFFF00FFFFFF)])
     s.cur.atH = true ∧ s.ctx.mode = .alone ∧ s.cur.tinvHold = none ∧ tinvFaults (s.sv 1).toNat (s.sv 2).toNat = [] ∧
     tinvFaults (s.sv 1).toNat (s.sv 3).toNat = [] ∧ (s.sv 2).getLsbD 63 = true ∧ (s.sv 3).getLsbD 63 = false) ∧
    (with0 { hCore [] with tinvHold := some 1 }).cur.tinvHold = some 1 ∧
    (let o : KeyOp := { (default : KeyOp) with opening := true, ok := true }
     o.opening = true ∧ o.ok = true ∧ o.await = []) :=
  ⟨.inl rfl, sOk_of rfl rfl _, rfl, rfl, by decide +kernel, by decide +kernel, by decide +kernel, by decide +kernel⟩
theorem witness_KeyAndKnownAnswerResults_katc :
    let s := with0 (regs [(1, 0x37F)])
    s.acts ∧ s.sOk 1 ∧ s.accOk 3 ∧ (s.sv 1).toNat < 1024 ∧ (s.sv 1).toNat / 128 % 2 = 0 ∧ (s.sv 1).toNat % 128 < s.cur.accWm ((s.sv 1).toNat / 256 % 4) ∧
    katSign (s.cur.accRow 3 127) = (BitVec.ofNat 64 (katSign 0)).toNat ∧ katSign (s.cur.accRow 3 127) ≠ (0 : Word).toNat ∧
    s.ctx.mode = .alone ∧ s.cur.atH = false ∧ s.cur.mism = 0 ∧ s.cur.seg.check = none ∧ s.cur.coupled = false ∧
    s.image s.cur.vf s.cur.imgProg = none ∧ ((taskState).image 0 5).isSome = true ∧ (world0).handler = none :=
  ⟨.inl rfl, sOk_of rfl rfl _, accOk_of rfl _, by decide +kernel⟩

/-- Core 0 runs its bundle in the next step; its bundle has the reserved bit 6 set. -/
def illegal : State := { with0 { plain with imem := [(0, 0x40)] } with agenda := [.issue 0] }

theorem witness_IllegalAndPrivilegedTraps :
    (with0 plain).ctx.mode = .alone ∧ (with0 plain).cur.atH = false ∧ cregHidden 0x15 = true ∧ illegal.agenda = [.issue 0] ∧
    (illegal.core 0).run = .running ∧ (illegal.core 0).coupled = false ∧ (illegal.core 0).bubble = 0 ∧ (illegal.core 0).pc ∉ (illegal.core 0).imemBad ∧
    (illegal.core 0).atH = false ∧ (match (illegal.core 0).fetched with | .error n => n | .ok _ => 0) = 6 := by decide +kernel
theorem witness_TrapEntryAndReturnResults :
    (255 < 256 ∧ 8191 < 8192) ∧ (with0 plain .sy).acts ∧ (with0 plain .sy).cur.atH = false ∧ (with0 (hCore [])).acts ∧
    (with0 (hCore [])).cur.atH = true ∧ ((with0 (hCore [])).cur.cr 0xA).toNat % 8192 < (with0 (hCore [])).cur.imgLen ∧
    ((with0 (hCore [])).cur.cr 9).toNat % 256 ≠ 0xB ∧ (with0 (hCore [])).cur.loads = [] :=
  ⟨by decide, .inl rfl, by decide +kernel, .inl rfl, by decide +kernel, by decide +kernel, by decide +kernel, rfl⟩
theorem witness_BudgetRule :
    plain.pend ++ plain.hpend = [] ∧ plain.atH = false ∧ (hCore []).pend ++ (hCore []).hpend = [] ∧ (hCore []).atH = true ∧
    ((with0 plain).core 0).run = .running ∧ ((with0 plain).core 0).cr 1 = 0 ∧ ((with0 plain).core 0).wouldIssue = true ∧
    (world0).rejoin = false ∧ ((with0 { plain with holding := true }).core 0).wouldIssue = false := by decide +kernel

/-- The next step runs the bundle of one op: at H for `eret` and `diapack`, with its stores in the buffer for `halt`. -/
def fetches (i : Instr) : State :=
  let h := i == .eret || i == .diapack
  let s := State.reset.modCore 0 fun c => { c with
    creg := [(0, if h then 4 else 0)], early := i == .halt }
  s.withFetchWord 512 (encode i)

/-- The bundle that core 0 holds. -/
def heldBundle (s : State) : Bundle := match (s.core 0).fetched with
  | .ok b => b
  | .error _ => bundleOf 0

theorem witness_StepRunsDecodedBundle : ∀ i ∈ [.add ⟨5, 6, 7⟩, .halt, .eret, .diapack, .trap ⟨9⟩],
    let s := fetches i
    let k := s.core 0
    let b := heldBundle s
    let r := k.toRank 0 b
    let s1 : State := { s with agenda := [], tick := s.tick + 1 }
    let p := next (probe s1 [r] r (s1.modCore 0 Core.fixLoads))
    (match probe s1 [r] r (s1.modCore 0 Core.fixLoads) with | .next _ => true | _ => false) = true ∧ s.agenda = [.issue 0] ∧
    k.run = .running ∧ k.coupled = false ∧ k.stopReq = none ∧ k.fencing = none ∧ k.bubble = 0 ∧ k.pc ∉ k.imemBad ∧ k.task = none ∧
    k.fetched.toOption = some b ∧ p.ctx.stops = [] ∧ r.ops.map (·.op) = [i] := by decide +kernel
theorem witness_StepRunsDecodedBundle_plain :
    ∀ o ∈ ((fetches (.add ⟨5, 6, 7⟩)).core 0 |>.toRank 0 (heldBundle (fetches (.add ⟨5, 6, 7⟩)))).ops,
      comesLast o.op = false ∧ isBcl o.op = false ∧ buffered o.op = false := by decide +kernel
theorem witness_DecodeEncodeRoundTrip :
    (Instr.bext ⟨63, 63, 0, 63⟩).wf = true ∧ (slotOf (.bext ⟨63, 63, 0, 63⟩)).isSome = true ∧
    (Instr.treeBranch ⟨7, ⟨true, true, 15⟩, ⟨true, false, 0⟩, ⟨true, true, 1⟩, ⟨true, false, 2⟩, -1, 1, -2, 2⟩).wf = true := by decide +kernel
theorem witness_RegisterRules :
    (63 ≠ 0 ∧ (15 : Nat) < 16 ∧ (15 : Nat) ≠ 0) ∧ plain.atH = false ∧ plain.pend = [] ∧ 1 ≤ 18 := by decide +kernel
theorem witness_RegisterOpFrame :
    (with0 vectorState.cur .va .effect).ctx.mode = .effect ∧ slotOf (.vadd ⟨1, 2, 3, 0, 0, .n32, .rne⟩) = some .va ∧
    slotOf (.snwr ⟨0, 1, 2⟩) = some .sc ∧
    (match exec (.vadd ⟨1, 2, 3, 0, 0, .n32, .rne⟩) (with0 vectorState.cur .va .effect) with | .next _ => true | _ => false) = true := by
  decide +kernel
theorem witness_MemoryWaitsForCommit :
    (with0 plain .st .effect).ctx.mode = .effect ∧ (with0 plain .st .effect).cur.atH = false ∧ (slotOf (.st ⟨1, 2, .n8⟩)).isSome = true ∧
    (match exec (.st ⟨1, 2, .n8⟩) (cached (with0 plain .st .effect)) with | .next _ => true | _ => false) = true := by decide +kernel

/-- Core 0's world writes the last 8 bytes of a line of frame 3 of tensor 1. -/
def wrote : State × Wrote := (with0 plain).writeUnit 0 0 1 0 ⟨0, 3, ⟨0, 0⟩, 1, true, true⟩ 65528 (List.replicate 8 7)

theorem witness_LineWrittenIsRead :
    (65528 < 65536 ∧ 65528 % 64 + 8 ≤ 64) ∧ ((with0 plain).stage 0 3 true).map (·.frame) = some 3 ∧ wrote.2 = .done ∧
    (with0 plain).mem.wf = true ∧ ((with0 plain).lineState (3 * 1024 + 65528 / 64)).ecc = 0 ∧
    ((with0 plain).lineState (3 * 1024 + 65528 / 64)).tag = none ∧
    ({ with0 plain with lines := [(3 * 1024 + 1023, ⟨none, 2⟩)] } : State).lineState (3 * 1024 + 1023) = ⟨none, 2⟩ := by decide +kernel
theorem witness_EveryStepKeepsMemories :
    (with0 plain).mem.wf = true ∧ (with0 plain).hostMem.wf = true ∧
    (match step (fetches (.add ⟨5, 6, 7⟩)) with | .next _ => true | _ => false) = true := by decide +kernel

/-! ## Witnesses: events of the cores, the engines and the translation -/

/-- A core with a store of a closed or an open segment, to a unit whose translation it holds. -/
def commitState (closed : Bool) (frame : Nat) (h : Handle) : State :=
  { with0 { plain with ssb := [⟨0, 1, [⟨0, 65528, [1, 2]⟩], 0, closed, false, 0, 0, 0, false, 0, false⟩] } with
    tlb := [⟨0, 0, 1, 0, ⟨0, frame, h, 1, true, true⟩⟩] }

theorem witness_CommitAndLandingEvents :
    (let x : Pending := ⟨true, .s, 63, 0, none, 0, 9, 0, none, 0, 0⟩
     (with0 { plain with pend := [x] }).cur.pend = [x] ∧ plain.atH = false ∧ x.rem = 0 ∧ x.valid = true ∧ x.cls = .s ∧ x.reg ≠ 0) ∧
    (∀ p ∈ [(2, (⟨0, 0⟩ : Handle), Wrote.done), (15, ⟨9, 1⟩, .sealed)],
      let s := commitState true p.1 p.2.1
      let e := (s.core 0).ssb.headD default
      let q := e.parts.headD default
      let y : XEntry := ⟨0, p.1, p.2.1, 1, true, true⟩
      (s.core 0).coupled = false ∧ e.closed = true ∧ e.sent = false ∧ e.bad = 0 ∧ e.parts = [q] ∧ y.owner = s.me ∧
      (s.core 0).loadsPast e.loads = true ∧ (s.core 0).acquired e.port = true ∧ s.look 0 .store e.tid q.unit true false = .hit y ∧
      (∀ z ∈ (s.core 0).ssb, z.store = e.store → ∀ r ∈ z.parts, r.unit = q.unit) ∧ e.told = false ∧
      (s.writeUnit 0 0 e.tid q.unit y q.off q.data (some (bulkOf 0))).2 = p.2.2) ∧
    (match (commitState true 16 ⟨0, 0⟩).look 0 .store 1 0 true false with | .fault _ => true | _ => false) = true ∧
    ({ commitState true 2 ⟨0, 0⟩ with tlb := [] }).look 0 .store 1 0 true false = .miss ∧
    ((commitState false 2 ⟨0, 0⟩).core 0).ssb.map (·.closed) = [false] := by decide +kernel

/-- A local atomic at its core's port, and a load whose reply comes. -/
def waitingLoad (kind : Nat) : Load := { (default : Load) with valid := true, kind := kind, ty := if kind = 0 then 3 else 0, reg := 5, rem := 4 }
def portState : State :=
  with0 { plain with
    loads := [waitingLoad 5]
    port := [{ (default : PortOp) with seq := some 0, func := 0, b := 3, ord := .rlx, xl := some ⟨0, 2, ⟨0, 0⟩, 1, true, true⟩, addr := 0xFFF8 }] }
def replyState : State := cached (with0 { plain with loads := [waitingLoad 0] })

theorem witness_CommitAndLandingEvents_port :
    let c := portState.core 0
    let p := c.port.headD default
    c.port = [p] ∧ portState.portReady 0 p = true ∧ p.remote = false ∧ p.store = false ∧ p.ord = .rlx ∧ p.seq = some 0 ∧
    p.sent = false ∧ p.xl = some ⟨0, 2, ⟨0, 0⟩, 1, true, true⟩ ∧ (∀ y ∈ c.loads ++ c.hloads, y.kind ≠ 3 ∧ y.kind ≠ 4) ∧
    (portState.atomic c.vf 0 (p.addr / 65536) ⟨0, 2, ⟨0, 0⟩, 1, true, true⟩ (p.addr % 65536)
        (fun o => atomNew p.func o p.b p.x) (some (bulkOf 0))).map (fun x => (x.2.1, x.2.2.1)) = some (0, 0) := by
  decide +kernel
theorem witness_CommitAndLandingEvents_reply :
    let c := replyState.core 0
    let x := waitingLoad 0
    c.loads = [x] ∧ c.hloads = [] ∧ c.latchedNow = false ∧ x.valid = true ∧ x.performed = false ∧ x.gone = false ∧ c.atH = false ∧ x.kind = 0 ∧ x.vec = false ∧
    c.mayPerform x = true ∧
    replyState.look 0 (.load x.seq) 0 (x.addr.toNat % 2 ^ 48 / 65536) false false = .hit ⟨0, 2, ⟨0, 0⟩, 1, true, true⟩ ∧
    (State.readOver 0 x.fwd 0 ⟨0, 2, ⟨0, 0⟩, 1, true, true⟩ (linePieces 0 (codeWidth x.ty / 8)) replyState).map (·.2.cause) =
      some 0 ∧
    (let q := { quadState with cores := [0, 1, 2, 3].map fun i => (i, { plain with creg := [(0, BitVec.ofNat 64 (8 + 16 * i))], semOps := [(7, .add 255 3)] }) }
     (q.core (4 * 0)).coupled = true ∧ (q.core (4 * 0)).away = false ∧ ∀ r ∈ quadCores (4 * 0), (q.core r).ssb = [] ∧ (q.core r).port = [] ∧
       (q.core r).ch = [] ∧ (q.core r).loads = [] ∧ (q.core r).hloads = [] ∧ (q.core r).q = []) := by decide +kernel

/-- A command of a channel, already started. -/
def cmdOf (k : CmdKind) (recAt : Nat) : Cmd :=
  { (default : Cmd) with id := 3, kind := k, src := .scratch 0, dst := .scratch 0x3FFFC0, bytes := 64, started := true, recAt := recAt }
def chainState (w : Nat) : State :=
  let s := with0 { plain with ch := [(7, { Channel.idle with cmds := [cmdOf .chain 0x20] })] }
  { cached s with mem := Memory.setVal s.mem 0x20020 32 w }
/-- A record of a copy from the scratchpad to itself, of one line; with its last bit clear it ends the chain. -/
def recordWord : Nat := 0x80000000003FFFC0 * 2 ^ 64 + 0x8000000000000000 * 2 ^ 128 + (64 + 2 ^ 32) * 2 ^ 192

theorem witness_EngineEvents_copy :
    let s := with0 { plain with ch := [(7, { Channel.idle with cmds := [cmdOf .copy 0] })], slots := [(0, ⟨.ready, false, 0, ⟨0, 0⟩, false⟩)] }
    let c := s.core 0
    let m := cmdOf .copy 0
    (c.chan 7).cmds = [m] ∧ m.started = true ∧ m.last = 0 ∧ m.inRec = false ∧ m.next = 0 ∧ m.acks = 0 ∧ (s.reqFor 0 fun r => r.for_ == .line 0 7 m.id && r.op != 6) = none ∧
    c.slotWaits 0 = false ∧ c.slotWaits 0x3FFFC0 = false ∧ c.slotSealed 0 = false ∧ c.scratchBad 0 64 = false := by decide +kernel
theorem witness_EngineEvents_chain :
    (cmdOf .chain 0).inRec = false ∧ (cmdOf .chain 0).last = 0 ∧ (cmdOf .chain 0).recAt = 0 ∧
    (∀ p ∈ [(recordWord, some (0, 0x80000000003FFFC0, 0x8000000000000000, 64, true)),
        (recordWord - 2 ^ 224, some (0, 0x80000000003FFFC0, 0x8000000000000000, 64, false)), (1, none)],
      (chainState p.1).look 0 (.chan 7) 0 0 false false = .hit ⟨0, 2, ⟨0, 0⟩, 1, true, true⟩ ∧
      let got := ((chainState p.1).setCmd 0 7 { cmdOf .chain 0x20 with acqd := true, used := [(0, 0)] }).readUnit 0 true 0 0 0
        ⟨0, 2, ⟨0, 0⟩, 1, true, true⟩ 0x20 32 (some (bulkOf 0))
      got.map (fun x => x.2.cause) = some 0 ∧
      got.bind (fun x => recordOf 0 x.2.bytes) = p.2) ∧
    (chainState 0).placeOf 0x80000000003FFFC0 = .scratch 0x3FFFC0 ∧ (chainState 0).placeOf 0x8000000000000000 = .scratch 0 := by decide +kernel

/-- Streams in the states that their events need. -/
def loadedStream (x : Stream) : State := streamState { x with loaded := true } .ld
def oneElement : BitVec 256 :=
  BitVec.ofNat 256 (8 * 4 + 2 ^ 10 + 2 ^ 12 + 2 ^ 24 + 2 ^ 72 + 2 ^ 88 + 2 ^ 128 + 2 ^ 144)
def writeStream : State :=
  let s := loadedStream { Stream.idle with desc := oneElement, dq := [⟨7, none, false, false, false, 0⟩] }
  { s with mem := Memory.setVal s.mem 0x20100 16 (1 + 4 + 8 + 3 * 2 ^ 64) }

theorem witness_EngineEvents_streams :
    (∀ n, let s := loadedStream { Stream.idle with desc := streamOf false, aq := List.replicate n ⟨4, true, [], false⟩ }
      n = 63 → (s.core 0).run = .running ∧ ((s.core 0).stream 15).done = false ∧ ((s.core 0).stream 15).aq.length < 64) ∧
    (let s := loadedStream { Stream.idle with desc := streamOf false, aq := [⟨4, false, [], false⟩] }
     ((((s.core 0).stream 15).aq.find? fun a => !a.sent) = some ⟨4, false, [], false⟩) ∧ (s.core 0).fetchesGo = true ∧
     (match s.entryLook 0 15 ((s.core 0).stream 15) 4 with | .hit r => !r.any (·.out) | _ => false) = true) ∧
    (let a : AEntry := ⟨0, true, [⟨0, 63, 65532, false⟩], false⟩
     let s := loadedStream { Stream.idle with desc := streamOf false 1, aq := [a] }
     ((s.core 0).stream 15).aq = [a] ∧ (SDesc.ofBits ((s.core 0).stream 15).desc).kind = 1 ∧ (s.core 0).engineOn = true ∧
     ((s.core 0).slotItems 4 a.refs).isSome = true) ∧
    (let s := writeStream
     let x := (s.core 0).stream 15
     let d := SDesc.ofBits x.desc
     let p : Piece := ⟨0, 0, (leBytes 256 7).take d.itemBytes⟩
     x.dq = [⟨7, none, false, false, false, 0⟩] ∧ x.loaded = true ∧ d.out = true ∧ d.kind = 0 ∧ x.pushed = 0 ∧ (s.core 0).acquired 0 = true ∧ x.wrote = 0 ∧
     x.part = 0 ∧ d.total = 1 ∧ s.entryLook 0 15 x 0 = .hit [⟨1, 0, 0, false⟩] ∧ d.pieces [⟨1, 0, 0, false⟩] 7 = [p] ∧
     s.look 0 (.stream 15) 1 0 true false = .hit ⟨0, 3, ⟨0, 0⟩, 1, true, true⟩ ∧
     (s.writeUnit 0 0 1 0 ⟨0, 3, ⟨0, 0⟩, 1, true, true⟩ 0 p.data (some (bulkOf 0))).2 = .done) ∧
    (let i : Incoming := { (default : Incoming) with reg := 14, q := { Stream.idle with desc := streamOf false, loaded := true } }
     (with0 { plain with qNew := [i] }).cur.qNew = [i] ∧ (plain.stream 14).loaded = false ∧ i.q.places = true) :=
  ⟨fun n h => by subst h; decide +kernel, by decide +kernel, by decide +kernel, by decide +kernel, by decide +kernel⟩

/-- A walk that is asked for, and one whose result is there. -/
def askedWalk (tid unit : Nat) : Walk := ⟨[(0, .chan 7)], 0, tid, unit, false, none, none, none⟩
def walkState (w : Walk) (going : Bool) : State :=
  { chainState 0 with dies := [(0, { (default : Die) with walkQ := if going then [] else [w], walking := if going then [w] else List.replicate 127 w })] }

theorem witness_TranslationAndErrorEvents_walks :
    (∀ u ∈ [0, 1], ((walkState (askedWalk 0 u) false).die 0).walkQ = [askedWalk 0 u] ∧ u ≠ descUnit ∧
      ((walkState (askedWalk 0 u) false).die 0).walking.length < 128 ∧
      ((walkState (askedWalk 0 u) false).walk 0 0 u).toOption.isSome = (u == 0)) ∧
    (match (walkState (askedWalk 0 1) false).walk 0 0 1 with | .error f => f.line == none | .ok _ => false) = true ∧
    (let s := withTensor { walkState (askedWalk 1 descUnit) false with
        worlds := [(0, { world0 with ttb := 0 })] }
     (s.die 0).walkQ = [askedWalk 1 descUnit] ∧ (s.descBits 0 1).toOption.isSome = true) ∧
    (let w := { askedWalk 0 0 with entry := some ⟨0, 2, ⟨0, 0⟩, 1, true, true⟩ }
     ((walkState w true).die 0).walking = [w] ∧ w.who = [(0, .chan 7)] ∧ ((walkState w true).core 0).vf = w.vf ∧ w.desc = none ∧
     (walkState w true).heldReqs = [] ∧ ((walkState w true).core 0).awaits (.chan 7) = true) ∧
    (let w := { askedWalk 0 1 with fault := some ⟨false, 5⟩ }
     ((walkState w true).die 0).walking = [w] ∧ w.entry = none ∧ w.fault = some ⟨false, 5⟩) := by decide +kernel
/-- A record at flat 0x40 that waits for 7 at 0xF8, which was written. -/
def recordWatch : Watch := .record 0 0xF8 0x40 2 1 false
def watchState (d : List Dirty) : State :=
  { with0 plain with watches := [recordWatch], dirty := d, mem := Memory.setVal tables 0x20058 8 7 }

theorem witness_TranslationAndErrorEvents :
    (let x : Shootdown := ⟨1, 0, 5, none, some 0, .nothing⟩
     let s := { with0 { plain with tinvHold := some 0 } with shoots := [x] }
     s.shoots = [x] ∧ s.shootReady x.set true = true ∧ x.after = .nothing ∧ x.core = some 0 ∧ s.heldReqs = [] ∧ (s.core 0).tinvHold = some 0) ∧
    (with0 plain).dirty = [] := by decide +kernel
theorem witness_TranslationAndErrorEvents_watched :
    (∀ v, (watchState [⟨0x200F8, recordWatch, v, 3, 4⟩]).dirty = [⟨0x200F8, recordWatch, v, 3, 4⟩]) ∧
    recordWatch ∈ (watchState []).watches ∧ (watchState []).flatWaits 0 0x40 = false ∧ (watchState []).recWords 0 0x40 = some [0, 0, 0, 7, 0, 0, 0, 0] :=
  ⟨fun _ => rfl, by decide +kernel, by decide +kernel⟩
/-! ## Witnesses: scheduling, freezes and saves -/

/-- A ream of three indices, two of them not started, its program image 5 and its argument block at flat 0x800. -/
def ream0 : Ream :=
  { (default : Ream) with rid := 1, prog := 5, n := 3, chunk := 4, maxs := 0, argb := 0x800, budget := 77, shares := [⟨0, 1, 3, []⟩] }
def worldOf5 : World := { world0 with images := [{ (default : Image) with handle := 5 }] }
def reamState (c : Core) (r : Ream := ream0) : State :=
  { with0 c with worlds := [(0, worldOf5)], reams := [r], us := 500 }

theorem witness_SchedulingEvents_units :
    (reamState plain).unitFree 0 = false ∧
    (let s := reamState { plain with run := .free }
     (s.core 0).coupled = false ∧ s.unitFree 0 = true ∧ (s.partDies 0).contains (dieOf 0) = true ∧ s.choice 0 (dieOf 0) = some (.inr ream0)) ∧
    (∀ p ∈ [(0, true), (0x8, false)],
      let s := reamState { plain with run := .ending, task := some ⟨1, none, [2], false⟩ } { ream0 with argb := 0x800 + p.1 * 2 ^ 40 }
      (s.core 0).run = .ending ∧ (s.core 0).closing = none ∧ (s.core 0).stopReq = none ∧ (s.core 0).task = some ⟨1, none, [2], false⟩ ∧
      (s.ream 1).map (·.prog) = some 5 ∧ (s.image 0 5).isSome = true ∧
      s.flatWaits 0 (0x800 + p.1 * 2 ^ 40) = false ∧ s.argOk 0 (0x800 + p.1 * 2 ^ 40) = p.2) := by decide +kernel

/-- A queue whose ring of 16 entries stands in host memory; its entry 15 names a descriptor. -/
def queue0 : Queue := ⟨0, 0, 0x4000, 4, true, 0, 15, some 63, false, 9, 0⟩
def queueState (q : Queue) (rda : Nat) : State :=
  let s := { with0 plain with worlds := [(0, worldOf5)], queues := [(4095, q)] }
  { s with host := { s.host with up := true, xl := [(0, 4, 4)] }, hostMem := Memory.setVal [] (0x4000 + 32 * 15) 8 rda
           mem := Memory.setVal s.mem 0x2FF00 16 (5 + 2 ^ 64 + 2 ^ 96) }
theorem readReam_of {o : Option (State × Nat × Option Ream)} (h : (o.bind (·.2.2)).isSome = true) :
    ∃ u g r, o = some (u, g, some r) := by
  match o, h with
  | some (u, g, some r), _ => exact ⟨u, g, r, rfl⟩

theorem witness_SchedulingEvents_reams :
    (∀ since ∈ [0, 401],
      let x : ReadyRec := { (default : ReadyRec) with pri := 2, ageing := since }
      let s := { reamState plain with
        parts := [(0, { Part.fresh with age := 100 })], dies := [(2, { (default : Die) with ready := [x] })] }
      (s.die 2).ready[0]? = some x ∧
      Nat.min (3 - x.pri) ((s.us - x.ageing) / (s.part (s.world x.vf).pid).age) = if since = 0 then 1 else 0) ∧
    (reamState plain).ream 1 = some ream0 ∧
    (∀ up ∈ [true, false],
      let r := { ream0 with shares := [⟨0, 3, 3, []⟩], queue := some (4095, 15) }
      let q := queueState queue0 0xFF00
      let s := { q with reams := [r], host := { q.host with up := up } }
      s.ream 1 = some r ∧ s.reamLive r = false ∧ s.entryWaits 4095 15 = !up) := by decide +kernel

theorem witness_SchedulingEvents_queues :
    (let s := queueState queue0 0xFF00
     (4095 : Nat) < 4096 ∧ s.host.up = true ∧ s.queueOf (4096 * 0 + 4095) = queue0 ∧ queue0.known = true ∧ queue0.torn = false ∧
     s.mayDispatch queue0 = true ∧ queue0.host = true ∧ ((s.hostAsk 4095).queueBytes queue0 (queue0.entry queue0.head) 32).2 = some (leBytes 32 0xFF00) ∧
     s.entryWaits 4095 queue0.head = false ∧ entryOk (leBytes 32 0xFF00) = true ∧ s.flatWaits 0 (leVal (leBytes 8 0xFF00)) = false) ∧
    (let q := { queue0 with slot := none }
     let s := queueState q 0xFF00
     s.queueOf 4095 = q ∧ q.slot = none ∧ (63 : Nat) < 64 ∧ ∀ y ∈ s.queues, ¬ (y.2.pid = q.pid ∧ y.2.slot = some 63)) ∧
    (let s := queueState queue0 0xFF80
     s.mayDispatch queue0 = true ∧ ((s.hostAsk 4095).queueBytes queue0 (queue0.entry queue0.head) 32).2 = some (leBytes 32 0xFF80) ∧
     entryOk (leBytes 32 0xFF80) = false) := by decide +kernel
theorem witness_SchedulingEvents_dispatch :
    ∃ u g r, (queueState queue0 0xFF00).readReam 0 (leVal (leBytes 8 0xFF00)) = some (u, g, some r) := readReam_of (by decide +kernel)

theorem witness_SchedulingEvents_barriers :
    (∀ p ∈ [(1, [2]), (2, [2])],
      let b : Barrier := ⟨0, .pkg, 0, 255, 1, p.2, false, false⟩
      let r : Ream := { ream0 with n := p.1 }
      let s := { reamState { plain with task := some ⟨1, none, [], false⟩, creg := [(4, 2)], barHold := some 1 } r with bars := [b] }
      s.bars[0]? = some b ∧ s.ream 1 = some r ∧ b.scope ≠ .pod ∧ b.poisoned = false ∧ b.holders = [2] ∧
      (p.1 = 1 → r.participants (s.partDies 0) b.scope b.place ≤ b.holders.length) ∧
      (p.1 = 2 → b.holders.length < r.participants (s.partDies 0) b.scope b.place) ∧
      s.runners 1 2 = [0] ∧ (s.core 0).barHold.isSome = true ∧ (s.core 0).run = .running) ∧
    ((with0 plain).part 0).exists_ = true ∧
    (let s := { with0 plain with cores := [0, 1, 2, 3].map fun i => (i, { plain with run := .free }) }
     (s.bulk (bulkOf (4 * 0))).pid = some 0 ∧ ∀ c ∈ quadCores (4 * 0), s.coreIdle c = true) ∧
    (with0 plain).coreIdle (4 * 0) = false := by
  decide +kernel

/-- A checkpoint to rewind to, a save to dispose of. -/
def frozenCore (cause : Nat) : Core :=
  { plain with run := .frozen, freeze := some ⟨cause, 0, 1, true, false, true, false, false, false⟩, task := some ⟨1, none, [], false⟩ }
theorem witness_FreezeAndSaveEvents :
    (let c := (with0 { plain with task := some ⟨1, none, [], false⟩ }).core 0
     c.task = some ⟨1, none, [], false⟩ ∧ c.run = .running ∧ c.stopReq = none ∧ c.freeze = none ∧ c.coupled = false) ∧
    (let f : Freeze := ⟨10, 0, 0, true, false, false, false, false, false⟩
     let c := (with0 { plain with run := .stopping, freeze := some f }).core 0
     c.freeze = some f ∧ c.run = .stopping ∧ c.settled = true ∧ f.kill = false) ∧
    (let c := (with0 { plain with stopReq := some ⟨10, false, 0⟩, creg := [(0, 4)], hCount := 1024 }).core 0
     c.stopReq = some ⟨10, false, 0⟩ ∧ c.run = .running ∧ c.atH = true ∧ 1024 ≤ c.hCount) ∧
    (let k : Checkpoint := { (default : Checkpoint) with pc := 8191 }
     let c := (with0 { plain with run := .rewinding, seg := { plain.seg with check := some k } }).core 0
     c.seg.check = some k ∧ c.run = .rewinding ∧ c.freeze = none ∧ ∀ h < 8, (c.chan h).cmds = []) ∧
    (let c := (with0 (frozenCore 9)).core 0
     c.freeze = some ⟨9, 0, 1, true, false, true, false, false, false⟩ ∧ (with0 (frozenCore 9)).halted c.pid = false ∧ c.run = .frozen ∧ ∀ y ∈ c.loads ++ c.hloads, y.kind ≠ 3 ∧ y.kind ≠ 4) ∧
    (65536 * (2 ^ 32 - 69) % 65536 = 0 ∧ 65536 * (2 ^ 32 - 69) + 0x450000 = 2 ^ 48) ∧
    (let y : Save := { (default : Save) with src := some 0, vf := 0 }
     let s := { reamState (frozenCore 10) with saves := [y] }
     (s.core 0).task = some ⟨1, none, [], false⟩ ∧ (s.saves.reverse.find? fun y => y.src == some 0 && y.vf == (s.core 0).vf) = some y ∧ s.ream 1 = some ream0 ∧
     s.flatWaits (s.core 0).vf 0x40 = false) ∧
    ((with0 plain).bulk (bulkOf 0)).emg = false ∧
    ({ with0 plain with bulks := [(0, { Bulkhead.off with emg := true })] }.bulk (bulkOf 0)).emg = true := by decide +kernel

/-- A free core, and an image at flat 0 whose words are all zero but for the version. -/
def imageMem : Memory :=
  [(0x10000, 0xD), (0x10001, 0x40), (0x10002, 1), (0x14000, 0xD), (0x14001, 0x80), (0x14002, 1), (0x18000, 0xF), (0x18002, 2),
    (0x18008, 0xF), (0x1800A, 3), (0x18010, 0xF), (0x18012, 4), (0x18018, 0xF), (0x1801A, 5), (0x18020, 0xF), (0x18022, 6), (0x20000, 1)]
def imageState : State := { with0 { plain with run := .free } with mem := imageMem }

theorem imageMem_byte (a : Nat) (h : 0x20000 < a) : imageMem.byte a = 0 := by
  unfold Memory.byte imageMem
  simp only [Tab.get]
  repeat rw [if_neg (by omega)]
theorem bytes_part (m : Memory) (j : Nat) : ∀ (k n a : Nat), k + j ≤ n → ((m.bytes a n).drop k).take j = m.bytes (a + k) j := by
  have h0 : ∀ (j n a : Nat), j ≤ n → (m.bytes a n).take j = m.bytes a j := by
    intro j
    induction j with
    | zero => intros; rfl
    | succ j ih =>
      intro n a h
      cases n with
      | zero => omega
      | succ n => simp only [Memory.bytes, List.take_succ_cons]; rw [ih n (a + 1) (by omega)]
  intro k
  induction k with
  | zero => intro n a h; simpa using h0 j n a (by omega)
  | succ k ih =>
    intro n a h
    cases n with
    | zero => omega
    | succ n => simp only [Memory.bytes, List.drop_succ_cons]; rw [ih n (a + 1) (by omega)]; congr 1; omega
theorem imageMem_zero (n : Nat) : ∀ a, 0x20000 < a → leVal (imageMem.bytes a n) = 0 := by
  induction n with
  | zero => intros; rfl
  | succ n ih => intro a h; simp only [Memory.bytes, leVal]; rw [imageMem_byte a h, ih _ (by omega)]; rfl

theorem image_entry (u : Nat) (h : u < 5) :
    imageState.flatEntry 0 (65536 * u) false = some ⟨0, 2 + u, ⟨0, 0⟩, 1, true, true⟩ := by
  revert u; decide +kernel
theorem image_reach (u : Nat) (h : u < 5) :
    imageState.stage 0 (2 + u) false = some ⟨2 + u, 0, false⟩ ∧ imageState.reachFrame ⟨2 + u, 0, false⟩ = .yes ∧
      frameDie (2 + u) = 0 := by
  revert u; decide +kernel

theorem image_bytes (a n : Nat) (h : a < 5 * 65536) (hn : 0 < n) (hf : a % 64 + n ≤ 64) :
    imageState.flatBytes 0 a n = some (imageState, ⟨imageMem.bytes (0x20000 + a) n, 0, .frame (2 + a / 65536)⟩) := by
  have hu : a / 65536 < 5 := by omega
  have he : imageState.flatEntry 0 a false = some ⟨0, 2 + a / 65536, ⟨0, 0⟩, 1, true, true⟩ := by
    rw [← image_entry _ hu]; unfold State.flatEntry
    rw [Nat.mul_div_cancel_left _ (by decide)]
  obtain ⟨h1, h2, h3⟩ := image_reach _ hu
  have hc : (a % 65536 + n - 1) / 64 - a % 65536 / 64 = 0 := by omega
  have hl : ((2 + a / 65536) * 1024 + a % 65536 / 64) / 1024 = 2 + a / 65536 := by omega
  have hr : ∀ t : LineTag, t.handle = ⟨0, 0⟩ →
      imageState.readLine (frameDie (2 + a / 65536)) false ((2 + a / 65536) * 1024 + a % 65536 / 64) 0 t =
        (imageState, imageMem.bytes (lineAddr ((2 + a / 65536) * 1024 + a % 65536 / 64)) 64, 0) := by
    intro t ht
    have ho : imageState.opens ((2 + a / 65536) * 1024 + a % 65536 / 64) 0 t = 0 := by
      unfold State.opens
      rw [ht]
      rfl
    unfold State.readLine
    rw [hl]
    simp only [ho, true_or, if_true]
    rfl
  unfold State.flatBytes
  rw [he]
  unfold State.readUnit
  simp only [h1, h2, hc, State.readLines, hr (imageState.tagOf _ _ _ _ ⟨0, 0⟩) rfl, List.append_nil]
  rw [if_neg (by simp [State.heldTile])]
  simp only [bytes_part imageMem n (a % 65536 % 64) 64 _ (by omega)]
  have hp : lineAddr ((2 + a / 65536) * 1024 + a % 65536 / 64) + a % 65536 % 64 = 0x20000 + a := by
    unfold lineAddr; omega
  rw [hp]
  rfl
theorem image_word (i : Nat) (h : i < 0x9400) : imageState.flatWord 0 (8 * i) = some (if i = 0 then 1 else 0) := by
  unfold State.flatWord
  rw [image_bytes _ 8 (by omega) (by decide) (by omega)]
  by_cases hi : i = 0
  · subst hi; decide +kernel
  · rw [if_neg hi]; simp [imageMem_zero 8 (0x20000 + 8 * i) (by omega)]
theorem image_seen (l : List Nat) (h : ∀ i ∈ l, i < 0x1280) :
    l.foldl (fun s i => State.seen s 0 (0 + 64 * i) 64) imageState = imageState := by
  induction l with
  | nil => rfl
  | cons i l ih =>
    have hi : imageState.seen 0 (0 + 64 * i) 64 = imageState := by
      have := h i (by simp)
      unfold State.seen
      rw [image_bytes _ 64 (by omega) (by decide) (by omega)]
    rw [List.foldl_cons, hi]
    exact ih fun j hj => h j (List.mem_cons_of_mem _ hj)

theorem restoreAll_some {s : State} {vf : Nat} {l : List (Nat × Nat)} (h1 : s.canTake l = true)
    (h2 : (l.all fun x => s.imageRead vf x.2 && s.restoreOk x.1 (s.imageWord vf x.2)) = true) : ∃ t, s.restoreAll vf l = some t := by
  unfold State.restoreAll
  rw [if_neg (by rw [h1, h2]; decide)]
  exact ⟨_, rfl⟩
theorem witness_FreezeAndSaveEvents_restore :
    let areas := imageState.restoreSet 0 0
    (areas.any fun x => imageState.areaWaits 0 x.2) = false ∧ imageState.halted 0 = false ∧
    ∃ t, (areas.foldl (fun s x => s.sawImage 0 x.2) imageState).restoreAll 0 areas = some t := by
  have hw : imageState.imageWord 0 0 = fun i => if i = 0 then 1 else 0 := by
    funext i
    unfold State.imageWord
    split
    · rw [Nat.zero_add, image_word i ‹_›]; rfl
    · rw [if_neg (by omega)]
  have hr : imageState.imageRead 0 0 = true := by
    unfold State.imageRead
    rw [List.all_eq_true]
    intro i hi
    rw [Nat.zero_add, image_word i (List.mem_range.mp hi)]; rfl
  have hk : imageState.restoreOk 0 (fun i => if i = 0 then 1 else 0) = true := by decide +kernel
  have hs : imageState.restoreSet 0 0 = [(0, 0)] := by decide +kernel
  have hc : imageState.canTake [(0, 0)] = true := by decide +kernel
  have hv : imageState.sawImage 0 0 = imageState := image_seen _ fun i hi => List.mem_range.mp hi
  simp only [hs, List.foldl_cons, List.foldl_nil, hv]
  refine ⟨by decide +kernel, by decide +kernel, restoreAll_some hc ?_⟩
  rw [List.all_cons, List.all_nil, hr, hw, hk]
  rfl
/-! ## Witnesses: partitions, worlds and keys -/

def booted (m : Monitor → Monitor := id) : State :=
  { State.reset with mon := m { State.reset.mon with phase := .up, stopped := false, ac := [(0, 2), (1, 2)] } }

theorem witness_PartitionAndWorldEvents_partitions :
    (shapeOf [8, 9] = some [8, 9] ∧ (booted).booted = true ∧ (∀ b ∈ [8, 9], ((booted).bulk b).pid = none) ∧ (booted).ac 1 ≤ 2) ∧
    shapeOf [1, 2] = none ∧ shapeOf [0] = some [0] ∧ ((with0 plain).bulk 0).pid ≠ none ∧
    (let s := { with0 plain with worlds := [] }
     (s.part 0).exists_ = true ∧ (s.part 0).deleting = false ∧ ∀ w ∈ s.worlds, ¬ (w.2.exists_ = true ∧ w.2.pid = 0)) ∧
    (let s := { with0 plain with cores := [], bulks := [(23, { Bulkhead.off with pid := some 22, inReset := false })] }
     (s.bulk 23).pid = some 22 ∧ s.cores = [] ∧ (s.bulk 23).gateShut = false) ∧
    (let s := { with0 plain with cores := [], dies := [], reams := [], heldFields := [], bulks := [(23, { Bulkhead.off with pid := some 22, gateShut := true, inReset := true })] }
     (s.bulk 23).pid = some 22 ∧ (s.bulk 23).gateShut = true ∧ (s.bulk 23).inReset = true ∧ s.heldReqs = [] ∧
     s.heldFields = [] ∧ s.reams = [] ∧ (∀ w ∈ s.worlds, w.2.draining = false) ∧ ∀ d < 3, (s.die d).reqs = []) ∧
    (∀ p ∈ (with0 plain).parts, ¬ (p.2.exists_ = true ∧ 23 ∈ p.2.bulkheads)) ∧ State.reset.parts = [] ∧
    (let p := { Part.fresh with exists_ := true, bulkheads := [0, 8], running := true }
     let s := { with0 plain with parts := [(0, p)], worlds := [] }
     s.parts = [(0, p)] ∧ p.exists_ = true ∧ s.worlds = [] ∧ p.bulkheads = [0, 8]) := by decide +kernel

/-- A list of one entry, for the last frame of the world. -/
def listState : State := { with0 plain with mem := [(0x30000, 15), (0x30006, 1)] }
theorem witness_PartitionAndWorldEvents_list :
    (listState.part 0).exists_ = true ∧ 0x30000 % 16 = 0 ∧ 1 ≤ 4096 ∧ 3 ≤ 3 ∧ ∀ e ∈ listState.listAt 0x30000 1, listState.entryOk 0 e = true := by
  have h : (listState.listAt 0x30000 1).all (listState.entryOk 0) = true := by decide +kernel
  exact ⟨by decide +kernel, rfl, by decide, by decide, List.all_eq_true.mp h⟩

theorem witness_PartitionAndWorldEvents_records :
    ((with0 plain).world 0).exists_ = true ∧ (with0 plain).recordOk 0 (393216 * 23 + 393216) = true ∧
    (with0 plain).recordOk 0 (2 ^ 24) = false ∧
    (let k : KeySlot := ⟨255, true, 0, 5, 1, 3, true⟩
     let s := { with0 plain with keys := [(4095, k)] }
     s.key (handleOf (4095 + 255 * 4096)).slot = k ∧ (handleOf (4095 + 255 * 4096)).slot ≠ 0 ∧ k.live = true ∧
     k.gen = (handleOf (4095 + 255 * 4096)).gen ∧ s.keyOps = [] ∧ s.others k.reach ≠ []) ∧
    (∀ q ∈ [8, 0],
      let s := { with0 plain with worlds := [(0, { world0 with fabric := true, quota := q })] }
      (s.world 0).exists_ = true ∧ (s.world 0).fabric = true ∧ (s.key 4095).live = false ∧ (s.key 4095).gen = 1 ∧
      (s.world 0).atQuota = (q == 0)) := by decide +kernel

theorem witness_PartitionAndWorldEvents_frames :
    (let s := { with0 plain with worlds := [] }
     s.worlds = []) ∧
    (∀ x ∈ (with0 plain).retiring, x.1 ≠ 0) ∧
    (∀ p ∈ [(([] : List Nat), ([] : List (Nat × Nat))), ([15], []), ([], [(0, 15)])],
      let s := { with0 plain with
        retiring := [(0, 7)], taken := p.2, parts := [(0, { Part.fresh with exists_ := true, bulkheads := [0], spare := p.1 })] }
      s.retiring = [(0, 7)] ∧ s.worlds = [(0, world0)] ∧ world0.exists_ = true ∧ world0.sbase ≤ 0 ∧ 0 < world0.sbase + world0.slen ∧
      s.taken = p.2 ∧ (s.part world0.pid).spare = p.1 ∧ s.badFrames = [] ∧ 15 < world0.sbase + world0.slen ∧ 15 ≠ 0 ∧
      s.shootReady (s.frameSet 0 0) true = true) ∧
    (let s := { with0 { plain with port := portState.cur.port } with retiring := [(2, 7)], taken := [(2, 15)] }
     s.retiring = [(2, 7)] ∧ s.taken = [(2, 15)] ∧ world0.sbase ≤ 2 ∧ 2 < world0.sbase + world0.slen ∧
     s.shootReady (s.frameSet 0 (2 - world0.sbase)) true = false) ∧
    (with0 plain).lostFrame 0 = false ∧ (∀ l ∈ (with0 plain).lines, l.1 / 1024 = 0 → l.2.ecc = 0) ∧
    ({ with0 plain with lines := [(1023, ⟨none, 1⟩)] } : State).lines = [(1023, ⟨none, 1⟩)] := by decide +kernel

def image0 : ImageFile := ⟨1, some world0.owner, .core, [0], [], [], 0, [], ⟨16, 8, 32768, 0, 255, 32⟩, none, 9⟩
theorem witness_PartitionAndWorldEvents_loads :
    (let x : Firmware := ⟨2, 7, true⟩
     x.signed = true ∧ (booted).ac 0 ≤ x.version) ∧
    (let s := { with0 plain with host := { State.reset.host with doe := ⟨[1], []⟩ } }
     (s.world 0).exists_ = true ∧ (s.world 0).ifs = .run ∧ s.owns 0 image0.session = true ∧ s.owns 0 2 = false ∧
     image0.signer = some (s.world 0).owner ∧ image0.replaces = none ∧ image0.kind = .core ∧
     imageOk image0 (s.world 0) = true ∧ (s.world 0).handles.length < 65535 ∧ image0.data = []) := by decide +kernel

/-- Two worlds of two partitions; a record that lets VF 1 reach the last unit of VF 0. -/
def windowRecord : BitVec 128 := 15 + BitVec.ofNat 128 (16 * 2 ^ 24 + 2 * 2 ^ 62 + 2 ^ 64 + 2 ^ 88)
def windowState (q : List WindowReq) : State :=
  { with0 plain with
    worlds := [(0, world0), (1, { world0 with pid := 1, sbase := 393216 })], winReqs := q, us := 5
    parts := [(0, { Part.fresh with exists_ := true, bulkheads := [0] }), (1, { Part.fresh with exists_ := true, bulkheads := [1] })] }
theorem witness_PartitionAndWorldEvents_windows :
    (let s := windowState []
     s.winReqs = [] ∧ (s.world (fieldOf windowRecord.toNat 96 8)).pid = 0 ∧ (s.world (fieldOf windowRecord.toNat 88 8)).pid = 1) ∧
    (let s := windowState [⟨0, windowRecord, 0⟩]
     s.winReqs = [⟨0, windowRecord, 0⟩] ∧ s.us < 0 + 1000000 ∧ s.windowOf windowRecord.toNat = some ⟨0, 1, 1, true, 16, 15⟩) ∧
    (let q : WindowReq := ⟨0, windowRecord, 5⟩
     (windowState [q]).winReqs[0]? = some q ∧ (windowState [q]).us < q.since + 1000000) ∧
    (let q : WindowReq := ⟨0, windowRecord, 5⟩
     let s := { windowState [q] with us := 1000005 }
     s.winReqs[0]? = some q ∧ q.since + 1000000 ≤ s.us) ∧
    ({ windowState [] with windows := [⟨0, 1, 1, true, 16, 15⟩] } : State).windows[0]? = some ⟨0, 1, 1, true, 16, 15⟩ ∧
    (let s := { with0 { plain with run := .free } with bulks := [] }
     (s.core 0).run = .free ∧ (s.core 0).task = none ∧ (s.core 0).routine = none ∧ (s.core 0).settled = true ∧
     (s.bulk (bulkOf 0)).pid = none ∧ (s.bulk (bulkOf 0)).gateShut = false ∧ ∀ w ∈ s.worlds, w.2.draining = false) := by
  decide +kernel
/-! ## Witnesses: the fabric -/

def lane0 : Lane := { (default : Lane) with trained := true }
/-- Lane 15 to module 63, as given. -/
def laneState (l : Lane) : State := { with0 plain with lanes := [(laneKey 15 63, l)] }

theorem witness_LaneEvents :
    ((laneState default).lane 15 63).trained = false ∧
    (∀ l ∈ [lane0, { lane0 with again := (5, 7) }, { lane0 with fails := 7 }],
      (laneState l).lane 15 63 = l ∧ l.trained = true ∧ l.replay = [] ∧ (laneState l).resend = []) ∧
    (({ lane0 with again := (5, 7) }).again = (5, 7) ∧ ({ lane0 with fails := 7 }).fails = 7 ∧ lane0.again.1 ≠ 5 ∧ lane0.fails < 7 ∧
      ({ lane0 with failing := true }).failing = true ∧ lane0.expect ≠ 1) ∧
    (let l := { lane0 with count := 2, acked := 1 }
     (laneState l).lane 15 63 = l ∧ (laneState l).held = [] ∧ (laneState l).resend = [] ∧ l.acked ≤ 1 ∧ 1 < l.count ∧ 0 < l.acked ∧ l.count ≤ 2) ∧
    (let s := { laneState lane0 with worlds := [] }
     s.held = [] ∧ s.resend = [] ∧ s.worlds = [] ∧ (∀ d < 3, (s.die d).reqs = []) ∧ s.trainedTo 63 ≠ s.litTo 63 ∧
     (∀ p ∈ s.trainedTo 63, (s.lane p 63).replay = []) ∧ s.trainedTo 62 = s.litTo 62 ∧ 62 ∉ s.changing) ∧
    (let s := with0 plain
     (s.world 0).exists_ = true ∧ (s.world 0).psta = 0 ∧ ∀ y ∈ s.worlds, y.1 ≠ 0 → y.2.exists_ = true → y.2.fwid ≠ 4095) ∧
    (let s := { with0 plain with worlds := [(0, world0), (255, { world0 with fwid := 4095 })] }
     (s.world 0).exists_ = true ∧ (255, { world0 with fwid := 4095 }) ∈ s.worlds) := by decide +kernel

/-- A packet from module 1 in the world of FWID 9. -/
def pk (caddr : Nat) (n : Nat) (data : List (BitVec 8) := List.replicate n 0) : Packet :=
  ⟨1, 0, 1, 0, 4095, 9, .pod, false, false, 0xFFF8, BitVec.ofNat 48 caddr, data, 0, none, 0⟩
def podWorld1 : World := { world0 with fabric := true, members := 3 }
def podState1 : State := { with0 plain with worlds := [(0, podWorld1)] }

theorem witness_PacketEvents :
    ((pk 0 0).src ≠ podState1.me ∧ (pk 0 0).count = (podState1.lane (pk 0 0).plane (pk 0 0).src).expect) ∧
    podState1.vfOf 9 = some 0 ∧ podState1.asleepFor 0 = false ∧ podState1.vfOf 8 = none ∧
    podState1.sleepsFor 9 = false ∧ ({ podState1 with selfState := 1 } : State).sleepsFor 9 = true ∧
    ({ podState1 with selfState := 2 } : State).vfOf 9 = some 0 ∧ ({ podState1 with selfState := 2 } : State).asleepFor 0 = true ∧
    (∀ x ∈ [(1, 0, 0), (2, 0, 0), (3, 32, 0), (4, 256, 0), (5, 32, 0), (6, 0, 0), (7, 32, 0), (8, 64, 0), (9, 64, 2 ^ 25), (0xA, 64, 9 * 2 ^ 25),
        (0xB, 32, 0), (0xC, 64, 0), (0xC, 256, 2 ^ 24), (0xF, 0, 0), (0x11, 0, 0)],
      badForm x.1 (pk x.2.2 x.2.1) = false ∧ podState1.secondCopy x.1 (pk x.2.2 x.2.1) = false) ∧
    badForm 3 (pk 0 0) = true ∧ podState1.secondCopy 3 (pk 0 0) = false ∧
    (let x := pk 15 32
     badForm 0xD x = false ∧ badForm 0xE x = false ∧ leVal (x.data.take 8) = podState1.step_ 0 (x.caddr.toNat % 16) ∧
     (podState1.world 0).barIn.contains (x.caddr.toNat % 16, leVal (x.data.take 8), x.orig) = false ∧ podState1.bars = [] ∧
     (podState1.world 0).poisonIn.contains (x.caddr.toNat % 16, 1) = false ∧ (podState1.world 0).poisonIn.contains (x.caddr.toNat % 16, 0) = false) ∧
    (let x := pk 15 32 (1 :: List.replicate 31 0)
     badForm 0xE x = false ∧ leVal (x.data.take 8) = podState1.step_ 0 (x.caddr.toNat % 16) + 1) ∧
    (let x := pk 0 0
     badForm 0x10 x = false ∧ x.data = [] ∧ podState1.member 0 x.orig = true ∧ x.orig ≠ podState1.me ∧ podState1.held = [] ∧
     podState1.resend = [] ∧ (podState1.world 0).toSend = [] ∧ (podState1.world 0).psta = 0 ∧ ∀ d < 3, (podState1.die d).reqs = []) ∧
    (podState1.flatCause 0 0xFFF8 false = none ∧ podState1.flatEntry 0 0xFFF8 false = some ⟨0, 2, ⟨0, 0⟩, 1, true, true⟩ ∧
     (podState1.readUnit (frameDie 2) false 0 0 0 ⟨0, 2, ⟨0, 0⟩, 1, true, true⟩ 0xFFF8 8).map (·.2.cause) = some 0 ∧ podState1.heldReqs = []) := by
  decide +kernel

/-- Die 0 holds one request under tag 4095, generation 0, sent to module 1. -/
def reqOf (op : Nat) : Req :=
  { (default : Req) with tag := 4095, op := op, target := 1, for_ := .load 0 0, sent := true, tagged := true }
def reqState (r : Req) (us : Nat) : State := { podState1 with dies := [(0, { (default : Die) with reqs := [r] })], us := us }

theorem witness_ReplyAndTagEvents_replies :
    (∀ x ∈ [(0x21, 3, 0), (0x20, 6, 0), (0x22, 3, 2), (0x22, 3, 7), (0x23, 7, 1)],
      let s := reqState (reqOf x.2.1) 5
      let p := pk x.2.2 (if x.1 = 0x20 then 32 else 0)
      s.vfOf p.fwid = some 0 ∧ p.src ≠ s.me ∧ p.count = (s.lane p.plane p.src).expect ∧ badForm x.1 p = false ∧ s.secondCopy x.1 p = false ∧
      (s.acceptOn x.1 p).requestFor p = some (0, reqOf x.2.1)) ∧
    (pk 2 0).caddr.toNat % 16 = 2 ∧ (pk 7 0).caddr.toNat % 16 = 7 ∧ (podState1.acceptOn 0x21 (pk 0 0)).requestFor (pk 0 0) = none := by
  decide +kernel
theorem witness_ReplyAndTagEvents_tags :
    ((podState1.part 0).tto = 1000 ∧ (podState1.part 0).rwt = 100000 ∧ (podState1.part 0).stq = 10000 ∧ (podState1.part 0).srt = 1000000) ∧
    (∀ us ∈ [999, 1000],
      let s := reqState (reqOf 1) us
      ((s.die 0).reqs.find? fun r => r.sent && !r.done && !r.quar && r.tag == 4095) = some (reqOf 1) ∧ (s.die 0).reqs = [reqOf 1] ∧
      (reqOf 1).sent = true ∧ (reqOf 1).done = false ∧ (reqOf 1).quar = false ∧ (reqOf 1).for_ = .load 0 0) ∧
    (let r := { reqOf 1 with sent := false, quar := true }
     ((reqState r 3999).die 0).reqs = [r] ∧ r.quar = true ∧ r.sent = false) ∧
    (let r := { reqOf 1 with busy := true }
     ((reqState r 1).die 0).reqs = [r] ∧ r.busy = true) := by decide +kernel
theorem witness_ReplyAndTagEvents_tables :
    (let g : Group := ⟨0, 0, 0, 64, 2, 1, 5⟩
     let s := { podState1 with dies := [(2, { (default : Die) with groups := [g] })], us := 100005 }
     (s.die 2).groups[0]? = some g ∧ (s.die 2).groups = [g] ∧ 0 < g.bytes ∧ g.first + (s.part g.pid).rwt ≤ s.us ∧ (s.die 2).staged = [] ∧
     ({ s with us := 100004 } : State).us < g.first + (s.part g.pid).rwt) ∧
    (∀ n ∈ [0, 1],
      let o : OwnerEntry := ⟨9, 1, 2, 1, 1, n⟩
      let s := { podState1 with dies := [(2, { (default : Die) with owners := [o] })] }
      (s.die 2).owners[0]? = some o ∧ (s.die 2).reqs = []) ∧
    (∀ x ∈ [(0, 10000), (0, 9999), (1, 1000000), (2, 0)],
      let e : MigEntry := { (default : MigEntry) with kind := 1, dep := 1, fwid := 9, rnd := x.1 }
      let s := { podState1 with mig := [(65535, e)], us := x.2 }
      Tab.get default s.mig 65535 = e ∧ s.vfOf e.fwid = some 0 ∧ s.selfState = 0 ∧
      (x = (0, 10000) → e.last + (s.part (s.world 0).pid).stq ≤ s.us) ∧ (x = (0, 9999) → s.us < e.last + (s.part (s.world 0).pid).stq) ∧
      (x.1 = 1 → e.began + (s.part (s.world 0).pid).srt ≤ s.us)) := by decide +kernel
/-! ## Witnesses: power, diapause, the host and the side band -/

def up0 (m : Monitor → Monitor := id) : State := { with0 plain with mon := m { State.reset.mon with phase := .up, stopped := false } }
/-- A manifest in slot 1 that can be resumed from. -/
def manifest0 (frames : Nat) : Manifest := { (default : Manifest) with valid := true, mseq := 1, frames := frames, mm0 := 5 }

theorem witness_DiapauseEvents_drain :
    (up0.mon.full = false ∧ up0.mon.phase = .up ∧ up0.mon.phase ≠ .freezing) ∧
    (let s := up0 fun m => { m with full := true, phase := .freezing }
     s.mon.full = true ∧ s.mon.phase = .freezing ∧ s.coresOf s.drainParts = [0] ∧
     ∀ c ∈ s.coresOf s.drainParts, (s.core c).task.isSome = true → (s.core c).run = .frozen) ∧
    (let s := up0 fun m => { m with full := true, phase := .drained }
     s.mon.phase = .drained ∧ s.mon.full = true) ∧
    (let s := { up0 with cores := [] }
     s.mon.phase = .up ∧ s.mon.full = false ∧ s.cores = [] ∧ s.mon.brown = 0) ∧
    (∀ us ∈ [100000, 99999],
      let s := { up0 (fun m => { m with brown := 1, sheds := [2] }) with cores := [], us := us }
      s.mon.phase = .up ∧ s.mon.full = false ∧ s.cores = [] ∧ s.mon.brown ≠ 0 ∧ s.mon.sheds = [2] ∧
      (us = 99999 → s.us < s.mon.brown - 1 + 100000) ∧ (us = 100000 → s.mon.brown - 1 + 100000 ≤ s.us)) ∧
    (let s := { up0 (fun m => { m with brown := 1, sheds := [2] }) with cores := [], worlds := [], lanes := [] }
     s.mon.brown ≠ 0 ∧ s.mon.sheds ≠ [] ∧ s.selfState = 0 ∧ s.worlds = [] ∧ s.lanes = [] ∧ s.allParts = [0] ∧
     (s.part 0).shed = false ∧ ∀ p ∈ s.parts, p.2.shed = false) := by decide +kernel

theorem witness_DiapauseEvents_boot :
    State.reset.mon.phase = .off ∧
    (let s := up0 fun m => { m with phase := .boot, step := 4, ac := [(2, 3)] }
     s.mon.phase = .boot ∧ s.mon.stopped = false ∧ s.mon.step = 4 ∧ s.ac 2 ≤ 3 ∧ 2 < s.ac 2) ∧
    (∀ x ∈ [(true, some 1), (false, none)],
      let s := up0 fun m => { m with phase := .boot, step := 7, mm := [(0, 5)], manA := manifest0 0 }
      s.mon.phase = .boot ∧ s.mon.step = 7 ∧ s.mon.stopped = false ∧ s.mon.full = false ∧ s.chooseSlot ⟨x.1, true, [], []⟩ = x.2) ∧
    (let s := up0 fun m => { m with phase := .eclosing, resume := some 1, manA := manifest0 0 }
     s.mon.resume = some 1 ∧ s.mon.phase = .eclosing) ∧
    (∀ r ∈ [(100000, true), (99999, true), (5, false)],
      let w := { world0 with rejoin := r.2, rejoinAt := 0 }
      let s := { up0 with worlds := [(255, w)], us := r.1, parts := [(0, { Part.fresh with exists_ := true, bulkheads := [0], rjt := 100000 })] }
      s.selfState = 0 ∧ (∀ p ∈ s.parts, p.2.shed = false) ∧ (s.world 255).rejoin = r.2 ∧ (s.world 255).fabric = false ∧ s.worlds = [(255, w)] ∧ w.exists_ = true ∧ w.pid = 0 ∧
      (let f : World := { w with fabric := true, unanswered := [63] }
       f.fabric = true ∧ f.unanswered ≠ []) ∧
      (r.1 = 100000 → w.rejoinAt + (s.part 0).rjt ≤ s.us) ∧ (r.1 < 100000 → s.us < w.rejoinAt + (s.part 0).rjt)) := by decide +kernel
theorem drainFrames_zero (b : Nat) : drainFrames 0 b = 0 := by
  unfold drainFrames
  rw [Nat.zero_mul, Nat.zero_sub, Nat.zero_div]
theorem witness_DiapauseEvents_cores (n : Nat) :
    let s := up0 fun m => { m with phase := .restored, resume := some 1, full := true, manA := manifest0 n, man := manifest0 n }
    s.mon.resume = some 1 ∧ s.mon.phase = .restored ∧ s.mon.full = true ∧
    (n = 1 → drainFrames 0 s.mon.man.blen < s.mon.man.frames) ∧ (n = 0 → s.mon.man.frames ≤ drainFrames 0 s.mon.man.blen) :=
  ⟨rfl, rfl, rfl, fun h => by subst h; rw [drainFrames_zero]; exact Nat.zero_lt_one,
    fun h => by subst h; exact Nat.zero_le _⟩

/-- Bulkhead 23 as given, at an instant. -/
def bulkState (b : Bulkhead) (us : Nat) : State := { with0 plain with bulks := [(23, b)], us := us }
theorem witness_PowerAndHostEvents_power :
    (let s := bulkState { Bulkhead.off with pid := some 23 } 0
     (63 : Nat) < 64 ∧ sensorBulk 2 63 = 23 ∧ 110 * 64 ≤ (BitVec.ofNat 16 7040).toInt ∧ (s.bulk 23).emg = false ∧
     (s.bulk 23).target = none ∧ (s.bulk 23).pid ≠ none ∧ (s.bulk 23).hot = 0) ∧
    (∀ us ∈ [10000, 9999],
      let x := { Bulkhead.off with emg := true, cool := 1 }
      (bulkState x us).bulk 23 = x ∧ x.emg = true ∧ x.cool ≠ 0 ∧ x.target = none ∧ (us = 10000 → x.cool - 1 + 10000 ≤ us) ∧
      (us = 9999 → us < x.cool - 1 + 10000)) ∧
    (let x := { Bulkhead.off with hot := 1 }
     (bulkState x 10).bulk 23 = x ∧ x.hot ≠ 0 ∧ x.hot - 1 + 10 ≤ 10 ∧ 9 < x.hot - 1 + 10) ∧
    (let x := { Bulkhead.off with target := some 56 }
     (bulkState x 10).bulk 23 = x ∧ x.target = some 56) := by decide +kernel

def hostState (f : HostLink → HostLink := id) : State := let s := up0; { s with host := f { s.host with up := true } }
theorem witness_PowerAndHostEvents_host :
    (hostState.host.up = true ∧ (hostState.world 0).exists_ = true ∧ 0xFFFF % 65536 + 1 ≤ 65536 ∧ hostState.flatWaits 0 0xFFFF = false ∧
      hostState.host.ats = [] ∧ 0 ∈ (hostState fun h => { h with ide := [0] }).host.ide) ∧
    (let s := { hostState with worlds := [] }
     (∀ w ∈ s.worlds, w.2.ifs ≠ .locked ∧ w.2.ifs ≠ .run) ∧ s.mon.phase ≠ .off) ∧
    (let s := hostState fun h => { h with doe := ⟨[1], []⟩ }
     (s.world 255).exists_ = false ∧ (s.world 255).ifs = .unlocked ∧ (s.part 0).exists_ = true ∧ (s.part 0).deleting = false ∧
     1 ∈ s.host.doe.sessions ∧ 2 ∉ s.host.doe.sessions ∧
     (∀ y ∈ s.worlds, y.2.exists_ = true → y.2.fwid ≠ 4095)) ∧
    (let s := { hostState with worlds := [(255, { world0 with ifs := .locked })] }
     (s.world 255).ifs = .locked) ∧
    (let s := { hostState with cores := [] }
     (s.world 0).exists_ = true ∧ s.queues = [] ∧ s.reams = [] ∧ s.cores = [] ∧ s.keyOps = [] ∧ s.keys = [] ∧ s.windows = [] ∧
     (s.world 0).fabric = false ∧ (s.world 0).deleteAfter = false ∧ (s.world 0).ifs ≠ .locked) := by decide +kernel
theorem witness_PowerAndHostEvents_messages :
    (∀ x ∈ [((⟨.doe, none, 4⟩ : SpdmRequest), true), (⟨.doe, some 2, 4⟩, false)],
      hostState.portOpen x.1.port = true ∧ hostState.inSession x.1 = x.2 ∧ hostState.spdm x.1.port = ⟨[], []⟩) ∧
    (let s := hostState fun h => { h with doe := ⟨[1], [2]⟩ }
     s.portOpen .doe = true ∧ 2 ∈ (s.spdm .doe).pending ∧ 1 ∈ (s.spdm .doe).sessions ∧ s.owns 0 1 = true ∧ s.owns 0 2 = false ∧
     (s.world 0).exists_ = true ∧ (s.world 1).exists_ = false) ∧
    (hostState.mon.phase ≠ .off ∧ (hostState.bulk 23).pid = none ∧ (hostState.bulk 0).pid ≠ none) := by decide +kernel
/-! ## Words that the spec works out -/

/-- Table 1-18; Table 4-5; bundle 4 of Table 4-12; the tree of Table 1-19 (header 0x308_136B_1C01). -/
theorem test_bundle_example :
    (decodeBundle (0x4 + 0x1000C310 * 2 ^ 64 + 0x0281070800000000 * 2 ^ 192 + 0x7 * 2 ^ 256 + 0x0205010400000000 * 2 ^ 384)).toOption =
      some ⟨false, false, false, true, .compute, none,
        [⟨.sc, .addi ⟨3, 3, 256⟩, 0, ⟨0, 0, 0, 0⟩⟩, ⟨.ld, .ld ⟨7, 4, 40, .n64⟩, 0, ⟨2, 5, 1, 4⟩⟩]⟩ := by decide +kernel
theorem test_movl_example :
    decodeTableWord 512 (2 + 0x51C * 2 ^ 64 + 0x006789ABCDEF0000 * 2 ^ 128 + 0x012345000000 * 2 ^ 320) =
      some (.movl ⟨5, 0, 0x0123456789ABCDEF⟩) := by decide +kernel
theorem test_tree_examples :
    decodeTableWord 512 (0x11801 + 0xA * 2 ^ 144) = some (.treeBranch
      ⟨0, ⟨true, false, 3⟩, ⟨false, false, 0⟩, ⟨false, false, 0⟩, ⟨false, false, 0⟩, 10, 0, 0, 0⟩) ∧
    (decodeBundle (0x308136B1C01 + 0x124910 * 2 ^ 64 + 0x4000C4201 * 2 ^ 104 + 0x728908 * 2 ^ 264)).toOption.map (fun b => (b.tree, b.ops)) = some
      (some ⟨4, ⟨true, false, 3⟩, ⟨true, true, 5⟩, ⟨true, false, 6⟩, ⟨false, false, 0⟩, 0, 0, 0, 0⟩,
        [⟨.sc, .addi ⟨9, 9, 1⟩, 1, ⟨0, 0, 0, 0⟩⟩, ⟨.va, .vadd ⟨2, 2, 3, 0, 0, .f32, .rne⟩, 6, ⟨0, 0, 0, 0⟩⟩,
          ⟨.st, .st ⟨9, 10, .n64⟩, 0, ⟨0, 0, 0, 0⟩⟩]) := by decide +kernel
/-- Tables 4-12, 5-2, 6-2, 7-6, 8-7 and 9-3: a slot field alone in a bundle. -/
theorem test_slot_examples : decodesAll [
    (0x604A10 <<< 64, .addi ⟨10, 1, 6⟩), (0x4A328 <<< 64, .ceqi ⟨3, 10, 1⟩),
    (0xFFFFFF0050 <<< 64, .jmp ⟨0, -4⟩), (0x8E34A45 <<< 64, .sel ⟨10, 13, 14, 2⟩), (0xFC052 <<< 64, .jr ⟨0, 63⟩),
    (0x0C220C4104 <<< 104, .vfma ⟨1, 2, 3, 4, 2, .f32, .rtz⟩), (0x1084641 <<< 144, .vbfpe ⟨6, 2, 2, .f32, .rne, 0⟩),
    (0x0300280554 <<< 104, .vrng ⟨5, 0, 10, 0, .n32, .rne⟩),
    (0x5A101 <<< 184, .mcallBmmz ⟨1, true, true, .die⟩), (0x49D05 <<< 184, .mrow ⟨1, 7, 9⟩),
    (0x8302 <<< 224, .ldq ⟨3, 2⟩), (0xD403 <<< 224, .ldqs ⟨20, 3⟩), (0x3020A <<< 224, .ldt ⟨2, 12⟩),
    (0x6425050C <<< 224, .gath ⟨5, 4, 9, 200⟩), (0x5820B28610 <<< 224, .aadd ⟨6, 10, 11, 8, .ar, .die⟩),
    (0x728908 <<< 264, .st ⟨9, 10, .n64⟩), (0x4602 <<< 264, .stq ⟨6, 1⟩), (0x30D30411 <<< 264, .rstv ⟨4, 12, 13, .pod, true⟩),
    (0x6A86104 <<< 304, .tfill ⟨1, 12, 20, true, false, .pkg⟩), (0x30A2001 <<< 304, .tcopy ⟨0, 4, 5, 6, false, false, .core, 0⟩),
    (0x645124309 <<< 304, .rcpo ⟨3, 8, 9, 10, false, true, .pod, 1⟩), (0x2890D <<< 304, .chset ⟨9, 2, 1, 0⟩),
    (0x20501 <<< 344, .ssig ⟨5, 2⟩), (0x2A08 <<< 344, .bar ⟨.die, 5⟩), (0x90C0B <<< 344, .bcl ⟨12, 4, 1⟩),
    (0x31440D <<< 344, .waitc ⟨4, 5, .pkg⟩),
    (0x45C0 <<< 64, .crr ⟨5, 1⟩), (0x1C9C1 <<< 64, .crw ⟨9, 7⟩), (0x248C2 <<< 64, .snrd ⟨8, 9, 0⟩), (0xB280C3 <<< 64, .snwr ⟨0, 10, 11⟩),
    (0x554C6 <<< 64, .seqopen ⟨20, 21, 0⟩), (0x500C7 <<< 64, .seqend ⟨0, 20, 0⟩), (0x5100C9 <<< 64, .tinv ⟨0, 4, 5⟩),
    (0x22 + 0x180CB * 2 ^ 64 + 0x006789ABCDEF0000 * 2 ^ 128 + 0x012345000000 * 2 ^ 320, .katc ⟨0, 6, 0x0123456789ABCDEF⟩)] = true := by
  decide +kernel

/-! ## WellFormed refuses an ill-formed term for each of its checks -/

theorem test_wf_scalar : ([.shli ⟨1, 1, 64⟩, .lui ⟨1, 1, 0⟩, .lpc ⟨1, 1, 0⟩, .movl ⟨1, 1, 0⟩, .abs ⟨1, 1, 1⟩, .bext ⟨1, 1, 32, 32⟩,
    .bins ⟨1, 1, 63, 1⟩, .clz ⟨1, 1, 1⟩, .pnot ⟨1, 1, 1, false, false⟩, .pmov ⟨1, 1, 0, false, true⟩, .movp ⟨1, 1, 0⟩, .pmovs ⟨1, 1, 0⟩,
    .jmp ⟨1, 0⟩, .jr ⟨1, 1⟩, .crr ⟨1, 0x16⟩, .crw ⟨1, 0⟩, .snrd ⟨1, 1, 1⟩, .snwr ⟨1, 1, 1⟩, .seqopen ⟨1, 1, 1⟩, .seqend ⟨0, 1, 1⟩,
    .seqbind ⟨1, 1, 0⟩, .tinv ⟨1, 1, 1⟩, .katc ⟨1, 1, 0⟩,
    .treeBranch ⟨0, ⟨false, false, 0⟩, ⟨false, false, 0⟩, ⟨false, false, 0⟩, ⟨false, false, 0⟩, 0, 0, 0, 0⟩,
    .treeBranch ⟨0, ⟨true, false, 0⟩, ⟨false, false, 1⟩, ⟨false, false, 0⟩, ⟨false, false, 0⟩, 0, 0, 0, 0⟩,
    .treeBranch ⟨2, ⟨true, false, 0⟩, ⟨true, false, 1⟩, ⟨true, false, 0⟩, ⟨false, false, 0⟩, 0, 0, 0, 1⟩] : List Instr).all
    (fun i => !i.wf) = true := by decide +kernel
theorem test_wf_vector : ([.vadd ⟨1, 1, 1, 1, 0, .f32, .rne⟩, .vadd ⟨1, 1, 1, 0, 0, .e4m3, .rne⟩, .vadd ⟨1, 1, 1, 0, 0, .s32, .rtz⟩,
    .vfma ⟨1, 1, 1, 1, 0, .s32, .rne⟩, .vmin ⟨1, 1, 1, 0, 0, .f32, .rtz⟩, .vabs ⟨1, 1, 0, 0, 0, .n32, .rne⟩, .vneg ⟨1, 1, 1, 0, 0, .s32, .rne⟩,
    .vand ⟨1, 1, 1, 0, 0, .f32, .rne⟩, .vaddsc ⟨1, 1, 1, 0, .s8, .rup⟩, .vminsc ⟨1, 1, 1, 0, .e5m2, .rne⟩, .vbcast ⟨1, 1, 1, 0, .s8, .rne⟩,
    .vceq ⟨8, 1, 1, 0, 0, .f32, .rne⟩, .vclt ⟨1, 1, 1, 0, 0, .n8, .rne⟩, .vsel ⟨1, 1, 1, 1, 0, .n8, .rne⟩, .knot ⟨1, 1, 1⟩,
    .vzip ⟨1, 1, 1, 2, 0, .n8, .rne⟩, .vbrd ⟨1, 1, 64, 0, .n32⟩, .vcomp ⟨1, 1, 1, 0, 0, .n8, .rne⟩, .vmovs ⟨1, 1, 32, .n64⟩,
    .vins ⟨1, 1, 0, .e4m3⟩, .vrsum ⟨1, 1, 1, 0, .f32, .rne⟩, .vrmin ⟨0, 1, 1, 0, .f32, .rtz⟩, .vcvt ⟨1, 1, .f32, .f32, .rne, 0⟩,
    .vbfpe ⟨1, 1, 7, .f32, .rne, 0⟩, .vbfpd ⟨1, 1, 0, .f32, .rne, 1⟩, .vrcp ⟨1, 1, 0, 0, 0, .f16, .rne⟩, .vrng ⟨1, 0, 1, 0, .n32, .rne⟩] :
    List Instr).all (fun i => !i.wf) = true := by decide +kernel
theorem test_wf_memory : ([.mclr ⟨0, 0, 1⟩, .mwm ⟨0, 1, 0⟩, .mgix ⟨1, 1, 0⟩, .mwait ⟨0, 1, 0⟩, .mcallBmm ⟨0, false, false, .die⟩,
    .ld ⟨1, 1, 7, .n64⟩, .ldv ⟨32, 1, 8, .s8⟩, .ldv ⟨1, 1, 8, .n8⟩, .ldt ⟨32, 1⟩, .ldq ⟨32, 0⟩, .gath ⟨1, 0, 0, 7⟩, .stv ⟨1, 1, .n8⟩,
    .stt ⟨32, 1, .s8⟩, .stq ⟨63, 0⟩, .scat ⟨32, 0, 0⟩, .aadd ⟨1, 1, 1, 0, .rlx, .core⟩, .rld ⟨1, 1, 7⟩, .rldv ⟨32, 1, 8⟩,
    .rst ⟨1, 1, 1, .quad, false⟩, .rstv ⟨32, 1, 1, .pod, false⟩, .raadd ⟨1, 1, 1, 1, .rlx, .pkg⟩, .racas ⟨1, 1, 1, 0, .rlx, .pod⟩,
    .tcopy ⟨0, 1, 1, 1, false, false, .core, 1⟩, .ccopy ⟨0, 1, 1, 0, false, false, .core, 0⟩, .rcp ⟨0, 1, 1, 1, false, false, .core, 10⟩,
    .rcpo ⟨0, 1, 1, 1, false, false, .core, 0⟩, .tfill ⟨0, 1, 1, false, false, .pod⟩, .tfree ⟨1, 1, 0, false, false, .core⟩, .tstat ⟨1, 1, 0, 0⟩,
    .chq ⟨1, 1, 0, 1⟩, .chset ⟨1, 1, 2, 0⟩, .cpfence ⟨0⟩, .ssig ⟨0, 0⟩, .swait ⟨0, 0⟩, .spoi ⟨0, 1⟩, .sunp ⟨0, 1⟩, .bar ⟨.core, 0⟩,
    .bar ⟨.quad, 4⟩, .bar ⟨.pod, 16⟩, .bcx ⟨1, 1, 1⟩, .bcx ⟨32, 1, 0⟩, .suspend ⟨1⟩, .suspend ⟨0⟩] : List Instr).all (fun i => !i.wf) = true := by
  decide +kernel
theorem test_wf_events : ([.resultLanding 384, .rendezvousCommit 96, .copyLine 0 8, .slotZeroed 0 64, .streamFetchSend 0 16, .walkStart 3,
    .schedulingSettingWrite 24 .age 10, .quadCouplingChange 96, .secondStageWrite 256 0, .keyInstall (.peer 0 0 1 0 0),
    .keyInstall (.answer 0 64 true), .bulkheadFault 24, .partitionDelete 24, .laneTraining 16 0 true, .laneDark 0 64, .creditReturn 0 0 26 1,
    .litSetChange 64, .rd8 ⟨64, 0, 0, 0, 0, 0, .pod, false, false, 0, 0, [], 0, none, 0⟩, .tagTimeout 0 4096, .ownerCacheRelease 3 0, .sensorSample 0 64 0,
    .rejoinComplete 256, .rjtExpiry 24, .doorbellWrite 256 0 0] : List Instr).all (fun i => !i.wf) = true := by decide +kernel

/-! ## Single steps -/

/-- Core 0 after its bundle `w`, with scalars as given. -/
def after (w : Nat) (l : List (Nat × Word) := []) : Core :=
  let s : State := { State.reset with cores := [(0, { Core.drained with s := l })] }
  (next (step (s.withFetchWord 512 w))).core 0

-- Table 4-12: bundle 0 adds 6; R30: a result of latency 1 lands before the next bundle.
theorem test_step_addi :
    let c := after (0x604A10 * 2 ^ 64) [(1, 2 ^ 64 - 7)]
    c.pc = 1 ∧ c.sreg 10 = 2 ^ 64 - 1 ∧ c.pend = [] := by decide +kernel
-- Table 4-4: the most negative number divided by -1, and a division by zero; 18 bundles.
theorem test_step_div :
    (after ((0x06 + 5 * 2 ^ 8 + 1 * 2 ^ 14 + 2 * 2 ^ 20) * 2 ^ 64) [(1, 2 ^ 63), (2, 2 ^ 64 - 1)]).pend.map (fun x => (x.reg, x.val)) =
      [(5, Word.toVec (2 ^ 63))] ∧
    (after ((0x06 + 5 * 2 ^ 8 + 1 * 2 ^ 14 + 2 * 2 ^ 20) * 2 ^ 64) [(1, 7)]).pend.map (fun x => (x.reg, x.val)) =
      [(5, Word.toVec (2 ^ 64 - 1))] := by decide +kernel
-- R14, Table 1-3: a tree bundle whose test holds goes to its target; R12: one whose test does not falls through.
theorem test_step_tree :
    (after (1 + 0x20 * 2 ^ 11 + 0xA * 2 ^ 144)).pc = 10 ∧ (after (0x11801 + 0xA * 2 ^ 144)).pc = 1 := by decide +kernel
-- R98: `call` links the next bundle.
theorem test_step_call :
    let c := after ((0x51 + 63 * 2 ^ 8 + 5 * 2 ^ 14) * 2 ^ 64)
    c.pc = 5 ∧ c.sreg 63 = 1 := by decide +kernel
-- R29: a reserved bit traps ILLB; TINFO names the bit, and nothing else of the bundle takes effect.
theorem test_step_illegal :
    let c := after (0x40 + 0x604A10 * 2 ^ 64)
    c.cr 9 = 1 ∧ c.cr 0xB = 6 ∧ c.atH = true ∧ c.pend = [] := by decide +kernel
-- Tables 5-4 and 5-5: the worked cases of `vbfpe` and `vrsum`.
theorem test_vbfpe :
    let v : Vec := 0x3EC00000 + 0xBF800000 * 2 ^ 32 + 0x3F600000 * 2 ^ 64 + 0xBE000000 * 2 ^ 96
    (next (exec (.vbfpe ⟨6, 2, 2, .f32, .rne, 0⟩) (with0 { plain with v := [(2, v)] } .vb))).cur.pend.map (fun x => (x.reg, x.val)) =
      [(6, 0x00F7837E)] := by decide +kernel
theorem test_vrsum :
    let v : Vec := 0x4B800000 + 0x3F800000 * 2 ^ 32 + 0x3F800000 * 2 ^ 64 + 0xCB800000 * 2 ^ 96
    (next (exec (.vrsum ⟨0, 1, 8, 1, .f32, .rne⟩) (with0 { plain with v := [(1, v)], k := [(1, 0xF)] } .va))).cur.pend.map
      (fun x => (x.reg, x.val)) = [(8, 0x3F800000)] := by decide +kernel
-- The worked cases under R77: draws of 0x12345678 and 0xC0000000, and RNE.
theorem test_convert :
    convert .f32 .bf16 .rsr 0x12345678 0x3F80C000 = 0x3F81 ∧ convert .f32 .bf16 .rsr 0xC0000000 0x3F80C000 = 0x3F80 ∧
    convert .f32 .bf16 .rne 0 0x3F80C000 = 0x3F81 := by decide +kernel

-- The worked header under Table 19-2, and the wiring worked under R304: module 13 sends to module 42.
theorem test_header :
    let x : Sent := ⟨0, 3, 3, 1, 0, 8, 3, 3, 0x2A, 0x15, .pod, true, false, 0x558018, 0x558100, leBytes 8 4⟩
    x.header = 0x0003900A98152043 + 0x8018000000558100 * 2 ^ 64 + 0x55 * 2 ^ 128 ∧ x.payload = leBytes 32 4 := by decide +kernel
theorem test_wiring : fibreOf 42 = 5 ∧ waveOf 13 42 = 5 ∧ gratingPort (13 % 8) 5 = 2 ∧ sourceOf 42 (13 / 8) 5 = 13 := by decide

end Sys2Proof.Tests
end

section
/-! Every step keeps the memories in their canonical form (O60; R4, R279).

`State.MemWf` says that both memories of a state are in that form. For every function of the model from which a step is
built, a lemma `State.MemWf.f` says that `f` leads from such a state to such a state. Its proof follows the branches of `f`
and cites the lemmas of what `f` calls, so that `h.f.g` reads as `f`, then `g`. Only `writeLine`, `queueStore`,
`structWrite`, `moveFrame`, `execHostWrite`, `dropHbm`, `forget`, `execMemoryRestore` and `wipe` change a memory
themselves: there the laws of memories do the work. -/

namespace Sys2Proof.Machine

/-! ## The invariant -/

/-- Both memories, the module's and the host's, are in the canonical form. -/
def State.MemWf (s : State) : Prop := s.mem.wf = true ∧ s.hostMem.wf = true

/-- The invariant of the next state, where a result has one. -/
inductive Result.MemWf : Result → Prop
  | next {s : State} (h : s.MemWf) : Result.MemWf (.next s)
  | fault {r : Fault} : Result.MemWf (.fault r)
  | refused {r : Refusal} : Result.MemWf (.refused r)

/-- The invariant of a result that may be missing. -/
inductive ResultOption.MemWf : Option Result → Prop
  | none : ResultOption.MemWf none
  | some {r : Result} (h : Result.MemWf r) : ResultOption.MemWf (some r)

/-- The invariant of a state that may be missing. -/
inductive StateOption.MemWf : Option State → Prop
  | none : StateOption.MemWf none
  | some {s : State} (h : s.MemWf) : StateOption.MemWf (some s)

/-- The invariant of a state that comes with a value and may be missing. -/
inductive PairOption.MemWf {α : Type} : Option (State × α) → Prop
  | none : PairOption.MemWf none
  | some {p : State × α} (h : p.1.MemWf) : PairOption.MemWf (some p)

/-- The invariant of a state that comes with a value where there is no error. -/
inductive PairOk.MemWf {ε α : Type} : Except ε (State × α) → Prop
  | ok {p : State × α} (h : p.1.MemWf) : PairOk.MemWf (.ok p)
  | error {e : ε} : PairOk.MemWf (.error e)

/-- The invariant of a state that comes with an error. -/
inductive PairError.MemWf {α β : Type} : Except (State × α) β → Prop
  | ok {b : β} : PairError.MemWf (.ok b)
  | error {p : State × α} (h : p.1.MemWf) : PairError.MemWf (.error p)

/-! ## How the invariant passes through the ways in which states are put together -/

/-- A fold keeps the canonical form of a memory where each of its steps does. -/
theorem Memory.wf_foldl {α : Type} {m : Memory} {f : Memory → α → Memory} {l : List α}
    (hf : ∀ (m : Memory) x, m.wf = true → (f m x).wf = true) (h : m.wf = true) : (l.foldl f m).wf = true := by
  induction l generalizing m with
  | nil => exact h
  | cons x l ih => exact ih (hf m x h)

section
variable {α β ε : Type} {s t : State}

/-- Only the memories matter: every other field may change. -/
theorem State.MemWf.update (h : s.MemWf) :
    State.MemWf { s with
      me := me', cores := cores', dies := dies', bulks := bulks', parts := parts', worlds := worlds',
      lines := lines', lost := lost', kept := kept', tlb := tlb', dtlb := dtlb', shoots := shoots',
      windows := windows', winReqs := winReqs', corrected := corrected', badFrames := badFrames', badSeq := badSeq',
      quarantine := quarantine', quarSeq := quarSeq', listCopies := listCopies', retiring := retiring',
      taken := taken', saves := saves', reams := reams', nextRid := nextRid', bars := bars', watches := watches',
      dirty := dirty', heldFields := heldFields', queues := queues', keys := keys', keyOrder := keyOrder',
      keyOps := keyOps', keysMade := keysMade', lanes := lanes', lit := lit', changing := changing', held := held',
      resend := resend', dropped := dropped', selfState := selfState', mig := mig', moves := moves',
      arrivals := arrivals', heldReqs := heldReqs', seqNo := seqNo', mon := mon', host := host', us := us',
      tick := tick', agenda := agenda', ctx := ctx', out := out' } :=
  h

theorem State.MemWf.foldl {f : State → α → State} {l : List α} (h : s.MemWf)
    (hf : ∀ (t : State) x, t.MemWf → (f t x).MemWf) : (l.foldl f s).MemWf := by
  induction l generalizing s with
  | nil => exact h
  | cons x l ih => exact ih (hf s x h)

theorem State.MemWf.foldl_fst {f : State × β → α → State × β} {l : List α} {p : State × β} (h : p.1.MemWf)
    (hf : ∀ p x, p.1.MemWf → (f p x).1.MemWf) : (l.foldl f p).1.MemWf := by
  induction l generalizing p with
  | nil => exact h
  | cons x l ih => exact ih (hf p x h)

theorem State.MemWf.of_pair {p : State × α} {a : α} (h : p.1.MemWf) (e : p = (t, a)) : t.MemWf := by
  subst e
  exact h

theorem Result.MemWf.ite {c : Prop} [Decidable c] {a b : Result} (ha : Result.MemWf a) (hb : Result.MemWf b) :
    Result.MemWf (if c then a else b) := by
  split
  · exact ha
  · exact hb

theorem ResultOption.MemWf.get {o : Option Result} {r : Result} (h : ResultOption.MemWf o) (e : o = Option.some r) :
    Result.MemWf r := by
  subst e
  cases h with
  | some h => exact h

theorem StateOption.MemWf.get {o : Option State} (h : StateOption.MemWf o) (e : o = Option.some t) : t.MemWf := by
  subst e
  cases h with
  | some h => exact h

theorem StateOption.MemWf.getD {o : Option State} (h : StateOption.MemWf o) (ht : t.MemWf) : (o.getD t).MemWf := by
  cases h with
  | none => exact ht
  | some h => exact h

theorem StateOption.MemWf.bind {o : Option State} {f : State → Option State} (h : StateOption.MemWf o)
    (hf : ∀ t, t.MemWf → StateOption.MemWf (f t)) : StateOption.MemWf (o >>= f) := by
  cases h with
  | none => exact .none
  | some h => exact hf _ h

theorem PairOption.MemWf.get {o : Option (State × α)} {p : State × α} (h : PairOption.MemWf o)
    (e : o = Option.some p) : p.1.MemWf := by
  subst e
  cases h with
  | some h => exact h

theorem PairOption.MemWf.getD {o : Option (State × α)} {p : State × α} (h : PairOption.MemWf o) (hp : p.1.MemWf) :
    (o.getD p).1.MemWf := by
  cases h with
  | none => exact hp
  | some h => exact h

theorem PairOption.MemWf.map {o : Option (State × α)} {f : State × α → State × β} (h : PairOption.MemWf o)
    (hf : ∀ p, p.1.MemWf → (f p).1.MemWf) : PairOption.MemWf (o.map f) := by
  cases h with
  | none => exact .none
  | some h => exact .some (hf _ h)

theorem PairOption.MemWf.bind {o : Option (State × α)} {f : State × α → Option (State × β)} (h : PairOption.MemWf o)
    (hf : ∀ p, p.1.MemWf → PairOption.MemWf (f p)) : PairOption.MemWf (o >>= f) := by
  cases h with
  | none => exact .none
  | some h => exact hf _ h

theorem PairOk.MemWf.get {o : Except ε (State × α)} {p : State × α} (h : PairOk.MemWf o) (e : o = .ok p) :
    p.1.MemWf := by
  subst e
  cases h with
  | ok h => exact h

theorem PairOk.MemWf.bind {o : Except ε (State × α)} {f : State × α → Except ε (State × β)} (h : PairOk.MemWf o)
    (hf : ∀ p, p.1.MemWf → PairOk.MemWf (f p)) : PairOk.MemWf (o >>= f) := by
  cases h with
  | ok h => exact hf _ h
  | error => exact .error

theorem PairError.MemWf.get {o : Except (State × α) β} {p : State × α} (h : PairError.MemWf o) (e : o = .error p) :
    p.1.MemWf := by
  subst e
  cases h with
  | error h => exact h

theorem PairError.MemWf.map {o : Except (State × α) β} {f : β → ε} (h : PairError.MemWf o) :
    PairError.MemWf (o.map f) := by
  cases h with
  | ok => exact .ok
  | error h => exact .error h

end

section
variable {s : State}

/-! ## Places in the state, results in flight, and stops (Machine/Ops.lean) -/

theorem State.MemWf.setCore (h : s.MemWf) : (s.setCore c x).MemWf :=
  h.update

theorem State.MemWf.modCore (h : s.MemWf) : (s.modCore c f).MemWf :=
  h.setCore

theorem State.MemWf.modCur (h : s.MemWf) : (s.modCur f).MemWf :=
  h.modCore

theorem State.MemWf.modDie (h : s.MemWf) : (s.modDie d f).MemWf :=
  h.update

theorem State.MemWf.modBulk (h : s.MemWf) : (s.modBulk b f).MemWf :=
  h.update

theorem State.MemWf.modPart (h : s.MemWf) : (s.modPart p f).MemWf :=
  h.update

theorem State.MemWf.modWorld (h : s.MemWf) : (s.modWorld v f).MemWf :=
  h.update

theorem State.MemWf.emit (h : s.MemWf) : (s.emit o).MemWf :=
  h.update

theorem State.MemWf.putS (h : s.MemWf) : (s.putS r lat v).MemWf := by
  unfold State.putS
  split
  · exact h
  · exact h.modCur

theorem State.MemWf.putV (h : s.MemWf) : (s.putV r lat v p).MemWf :=
  h.modCur

theorem State.MemWf.putP (h : s.MemWf) : (s.putP r b).MemWf := by
  unfold State.putP
  split
  · exact h
  · exact h.modCur

theorem State.MemWf.putK (h : s.MemWf) : (s.putK r lat v).MemWf := by
  unfold State.putK
  split
  · exact h
  · exact h.modCur

theorem State.MemWf.setP15 (h : s.MemWf) : s.setP15.MemWf :=
  h.modCur

theorem State.MemWf.putCr (h : s.MemWf) : (s.putCr a v).MemWf :=
  h.modCur

theorem State.MemWf.outOfStep (h : s.MemWf) : (s.outOfStep c).MemWf := by
  unfold State.outOfStep
  split
  · exact h.foldl fun _ _ h1 => h1.modCore
  · exact h

theorem State.MemWf.dropWait (h : s.MemWf) : (s.dropWait c).MemWf :=
  h.update

theorem State.MemWf.trapEntry (h : s.MemWf) : (s.trapEntry c cause info resume).MemWf :=
  h.dropWait.modCore.outOfStep

theorem State.MemWf.freezeCore (h : s.MemWf) : (s.freezeCore c cause info hf holding).MemWf :=
  h.dropWait.modCore.outOfStep

theorem State.MemWf.consume (h : s.MemWf) : (s.consume c u info pc).MemWf := by
  unfold State.consume
  extract_lets
  split
  · exact h.trapEntry
  · exact h.modCore.outOfStep

theorem State.MemWf.stopPartners (h : s.MemWf) : (s.stopPartners c).MemWf := by
  unfold State.stopPartners
  split
  · exact h
  · refine h.foldl fun t1 _ h1 => ?_
    extract_lets
    split
    · exact h1.freezeCore
    · split
      · exact h1.modCore
      · exact h1

theorem State.MemWf.katf (h : s.MemWf) : (s.katf c).MemWf := by
  unfold State.katf
  extract_lets _ s1 s2
  have hs1 : s1.MemWf := h.modCore
  have hs2 : s2.MemWf := h.modCore.stopPartners
  split
  · split
    · exact hs1.freezeCore
    · exact hs1.modCore.outOfStep
  · split
    · exact hs2.modCore
    · exact hs2.modCore.outOfStep

theorem State.MemWf.want (h : s.MemWf) : (s.want c u tid unit wr).MemWf :=
  h.modDie

theorem State.MemWf.takeStop (h : s.MemWf) : (s.takeStop k).MemWf := by
  unfold State.takeStop
  extract_lets _ _ s1
  have hs1 : s1.MemWf := h.modCore
  split
  · exact h.modCore
  · exact h.want.modCore
  · split
    · exact hs1.freezeCore
    · exact hs1.trapEntry
  · split
    · exact hs1.freezeCore
    · exact hs1.consume
  · exact h.freezeCore
  · split
    · exact hs1.freezeCore
    · exact hs1.katf

theorem State.MemWf.issueOp {eff : State → State} (h : s.MemWf) (heff : ∀ t, t.MemWf → State.MemWf (eff t)) :
    Result.MemWf (issueOp stops eff s) := by
  unfold Machine.issueOp
  extract_lets
  split
  · exact .next h.update
  · exact .next (heff _ h)
  · split
    · exact .next (heff _ h)
    · exact .next h.takeStop
  · exact .next h

theorem State.MemWf.lateOp {act eff : State → State} (h : s.MemWf) (hact : ∀ t, t.MemWf → State.MemWf (act t))
    (heff : ∀ t, t.MemWf → State.MemWf (eff t)) : Result.MemWf (lateOp closes stops act eff s) := by
  unfold Machine.lateOp
  extract_lets _ _ s1
  have hs1 : s1.MemWf := hact _ h
  split
  · exact .next h.update
  · exact .next (heff _ h)
  · exact .next (hact _ h)
  · split
    · exact .next (heff _ h)
    · split
      · split
        · exact .next (heff _ hs1)
        · exact .next hs1.takeStop
      · exact .next h.takeStop

/-! ## Translation (Machine/Translate.lean) -/

theorem State.MemWf.seek (h : s.MemWf) : (s.seek c u tid unit wr).MemWf := by
  unfold State.seek
  split
  · exact h.want
  · exact h

theorem State.MemWf.fillTlb (h : s.MemWf) : (s.fillTlb e).MemWf :=
  h.update

theorem State.MemWf.fillDesc (h : s.MemWf) : (s.fillDesc e).MemWf :=
  h.update

theorem State.MemWf.bring (h : s.MemWf) : (s.bring w c u).MemWf := by
  unfold State.bring
  extract_lets s1 s2
  have hs1 : s1.MemWf := by
    unfold s1
    split
    · exact h.fillDesc
    · exact h
  have hs2 : s2.MemWf := by
    unfold s2
    split
    · exact hs1.fillTlb
    · exact hs1
  exact hs2.modCore

/-! ## Lines, units and the flat space (Machine/MemPath.lean) -/

theorem State.MemWf.raise (h : s.MemWf) : (s.raise what n).MemWf :=
  h.update

theorem State.MemWf.raiseRetirement (h : s.MemWf) : (s.raiseRetirement frame).MemWf :=
  h.update

theorem State.MemWf.afterRead (h : s.MemWf) : (s.afterRead l cause).MemWf := by
  unfold State.afterRead
  split
  · exact h.update.raiseRetirement
  · exact h

theorem State.MemWf.readLine (h : s.MemWf) : (s.readLine d fill l vf t).1.MemWf := by
  unfold State.readLine
  extract_lets _ cached _ _ s1 s2
  have hs1 : s1.MemWf := h.afterRead
  have hs2 : s2.MemWf := by
    unfold s2
    split
    · exact hs1
    · exact hs1.modDie
  clear_value cached
  split
  · exact h
  · exact hs2

theorem State.MemWf.readLines (h : s.MemWf) : (s.readLines d fill frame vf tag k n).1.MemWf := by
  induction n generalizing s k with
  | zero => exact h
  | succ n ih => exact ih h.readLine

theorem State.MemWf.readUnit (h : s.MemWf) : PairOption.MemWf (s.readUnit d fill vf tid unit x off n own) := by
  unfold State.readUnit
  extract_lets
  split
  · exact .none
  · split
    · exact .some h
    · extract_lets p1
      have hp1 : p1.1.MemWf := h.readLines
      split
      · exact .none
      · exact .some h
      · exact .some hp1

theorem State.MemWf.touch (h : s.MemWf) : (s.touch pa n).MemWf :=
  h.update

theorem State.MemWf.rewrote (h : s.MemWf) : (s.rewrote vf tid unit off n).MemWf :=
  h.update

theorem State.MemWf.writeLine (h : s.MemWf) : (s.writeLine d l tag o bs).MemWf := by
  unfold State.writeLine
  extract_lets _ st _ s1 _ _ _ s2
  have hs1 : s1.MemWf := ⟨Memory.wf_write _ _ _ h.1, h.2⟩
  have hs2 : s2.MemWf := by
    unfold s2
    split
    · exact hs1
    · exact hs1.modDie
  split
  · split
    · exact h
    · exact h.update.raiseRetirement
  · exact hs2.touch

theorem State.MemWf.writeLines (h : s.MemWf) : (s.writeLines d frame tag n off bs).MemWf := by
  induction n generalizing s off bs with
  | zero => exact h
  | succ n ih =>
    unfold State.writeLines
    split
    · exact h
    · exact ih h.writeLine

theorem State.MemWf.writeUnit (h : s.MemWf) : (s.writeUnit d vf tid unit x off bs own).1.MemWf := by
  unfold State.writeUnit
  split
  · exact h
  · split
    · exact h
    · split
      · exact h
      · exact h
      · split
        · exact h
        · exact h.writeLines.rewrote

theorem State.MemWf.flatBytes (h : s.MemWf) : PairOption.MemWf (s.flatBytes vf a n) := by
  unfold State.flatBytes
  split
  · exact .none
  · exact h.readUnit

theorem State.MemWf.seen (h : s.MemWf) : (s.seen vf a n).MemWf := by
  unfold State.seen
  split
  · rename_i e1
    exact h.flatBytes.get e1
  · exact h

theorem State.MemWf.flatWrite (h : s.MemWf) : (s.flatWrite d vf a bs).1.MemWf := by
  unfold State.flatWrite
  split
  · exact h
  · exact h.writeUnit

theorem State.MemWf.flatStore (h : s.MemWf) : (s.flatStore d vf a bs).1.MemWf :=
  h.flatWrite

theorem State.MemWf.execWalkStart (h : s.MemWf) : Result.MemWf (execWalkStart d s) := by
  unfold Machine.execWalkStart
  extract_lets
  split
  · exact .next h
  · extract_lets _ s1
    have hs1 : s1.MemWf := h.modDie
    split
    · exact .next h
    · refine .next ?_
      split
      · exact hs1.afterRead
      · exact hs1

theorem State.MemWf.refuse (h : s.MemWf) : (s.refuse vf).MemWf :=
  h.modWorld

theorem State.MemWf.countSealed (h : s.MemWf) : (s.countSealed vf).MemWf :=
  h.modWorld

theorem State.MemWf.acquire (h : s.MemWf) : (s.acquire d sc).MemWf := by
  unfold State.acquire
  split
  · exact h.modDie
  · exact h.modDie
  · exact h

theorem State.MemWf.dropLine (h : s.MemWf) : (s.dropLine d l).MemWf :=
  h.modDie

theorem State.MemWf.writeLists (h : s.MemWf) : s.writeLists.MemWf :=
  h.update

theorem State.MemWf.report (h : s.MemWf) : (s.report pid r).MemWf :=
  h.modPart

/-! ## Requests to other modules (Machine/Requests.lean) -/

theorem State.MemWf.modLane (h : s.MemWf) : (s.modLane plane peer f).MemWf :=
  h.update

theorem State.MemWf.onLane (h : s.MemWf) : (s.onLane x).MemWf :=
  h.modLane.emit

theorem State.MemWf.sendAgain (h : s.MemWf) : s.sendAgain.MemWf := by
  unfold State.sendAgain
  refine h.update.foldl fun t1 _ h1 => ?_
  extract_lets
  split
  · exact h1.onLane
  · exact h1.update

theorem State.MemWf.leaveLane (h : s.MemWf) : (s.leaveLane plane peer).MemWf := by
  unfold State.leaveLane
  extract_lets _ s1
  have hs1 : s1.MemWf := h.update
  split
  · exact h
  · exact hs1.modLane.emit.sendAgain

theorem State.MemWf.failPacket (h : s.MemWf) : (s.failPacket plane peer count mac).MemWf := by
  unfold State.failPacket
  extract_lets _ _ _ s1
  have hs1 : s1.MemWf := h.modLane
  split
  · exact h
  · split
    · exact hs1.leaveLane
    · exact hs1.emit

theorem State.MemWf.release (h : s.MemWf) : s.release.MemWf := by
  unfold State.release
  extract_lets s1
  have hs1 : s1.MemWf := h.sendAgain
  refine hs1.update.foldl fun t1 _ h1 => ?_
  extract_lets
  split
  · exact h1.onLane
  · exact h1.update

theorem State.MemWf.transmit (h : s.MemWf) : (s.transmit h' x).MemWf := by
  unfold State.transmit
  split
  · exact h
  · exact h.update.release

theorem State.MemWf.noteTag (h : s.MemWf) : (s.noteTag r).MemWf := by
  unfold State.noteTag
  extract_lets
  split
  · exact h.modCore
  · split
    · exact h.modCore
    · exact h
  · exact h

theorem State.MemWf.tagReq (h : s.MemWf) : PairOption.MemWf (s.tagReq d r) := by
  unfold State.tagReq
  split
  · exact .some h
  · cases (s.die d).takeTag with
    | none => exact .none
    | some x => exact .some h.modDie

theorem State.MemWf.unsentReq (h : s.MemWf) : (s.unsentReq d r).1.MemWf := by
  unfold State.unsentReq
  split
  · exact h.modDie
  · exact h

theorem State.MemWf.sendReq (h : s.MemWf) : (s.sendReq d earlier r).1.MemWf := by
  unfold State.sendReq
  split
  · exact h
  · split
    · exact h.tagReq.getD h
    · split
      · exact h
      · split
        · split
          · exact h
          · exact h.unsentReq
        · split
          · exact h
          · rename_i e1
            exact (h.tagReq.get e1).noteTag.transmit

theorem State.MemWf.pumpGo (h : s.MemWf) : (State.pumpGo d rs s done).1.MemWf := by
  induction rs generalizing s done with
  | nil => exact h
  | cons r rs ih => exact ih h.sendReq

theorem State.MemWf.pump (h : s.MemWf) : (s.pump d).MemWf :=
  h.pumpGo.modDie

theorem State.MemWf.ask (h : s.MemWf) : (s.ask d op target vf addr caddr data sc rel f behind).MemWf :=
  h.modDie.pump

theorem State.MemWf.abandon (h : s.MemWf) : (s.abandon d p).MemWf :=
  h.modDie

theorem State.MemWf.askTile (h : s.MemWf) : (s.askTile d op vf tid tile off l o data sc f).MemWf :=
  h.ask

theorem State.MemWf.fabricReport (h : s.MemWf) : (s.fabricReport vf cause op target tag addr).MemWf :=
  h.refuse.report

theorem State.MemWf.answerLoad (h : s.MemWf) : (s.answerLoad c seq cause val).MemWf := by
  unfold State.answerLoad
  split
  · exact h.modCore
  · exact h.modCore

theorem State.MemWf.leavePort (h : s.MemWf) : (s.leavePort c i).MemWf :=
  h.modCore

theorem State.MemWf.deliver (h : s.MemWf) : (s.deliver r cause data).MemWf := by
  unfold State.deliver
  split
  · split
    · exact h.answerLoad
    · exact h
  · extract_lets
    split
    · exact h
    · split
      · exact h.modCore
      · split
        · split
          · exact h.modCore
          · exact h.countSealed.modCore.modCore
        · exact h.modCore.fabricReport
  · extract_lets s1
    have hs1 : s1.MemWf := by
      unfold s1
      split
      · exact h.modDie
      · exact h
    split
    · split
      · exact hs1
      · exact hs1.fabricReport
    · extract_lets s2 s3
      have hs2 : s2.MemWf := by
        unfold s2
        split
        · exact hs1.answerLoad
        · split
          · exact hs1
          · exact hs1.fabricReport
      have hs3 : s3.MemWf := by
        unfold s3
        split
        · exact hs2.acquire
        · exact hs2
      exact hs3.leavePort
  · exact h

theorem State.MemWf.deliverDone (h : s.MemWf) : (s.deliverDone d).MemWf :=
  h.modDie.foldl fun _ _ h1 => h1.deliver

theorem State.MemWf.closeReq (h : s.MemWf) : (s.closeReq d r cause data).MemWf :=
  h.modDie

theorem State.MemWf.selfReply (h : s.MemWf) : (s.selfReply tag gen fwid cause data).MemWf := by
  unfold State.selfReply
  extract_lets
  split
  · exact h
  · exact h.modDie.closeReq.deliverDone.pump.deliverDone

theorem State.MemWf.askNow (h : s.MemWf) : (s.askNow d op target vf addr caddr data sc rel f).MemWf :=
  h.ask.deliverDone

/-! ## Stores, atomics, loads and their commit (Machine/Commit.lean) -/

theorem State.MemWf.atomic (h : s.MemWf) : PairOption.MemWf (s.atomic vf tid unit x off new own) := by
  unfold State.atomic
  extract_lets
  split
  · exact .none
  · rename_i t1 _ e1
    have ht1 : t1.MemWf := h.readUnit.get e1
    extract_lets _ p1
    have hp1 : p1.1.MemWf := ht1.writeUnit
    split
    · exact .some ht1
    · split
      · exact .none
      · exact .some hp1
      · exact .some hp1
      · exact .some hp1

theorem State.MemWf.countLanded (h : s.MemWf) : (s.countLanded vf ctr n find own).MemWf := by
  unfold State.countLanded
  split
  · exact h
  · split
    · exact h
    · split
      · rename_i e1
        exact h.atomic.get e1
      · exact h

theorem State.MemWf.landUnder (h : s.MemWf) : PairOption.MemWf (s.landUnder d vf a bs ctr find own) := by
  unfold State.landUnder
  extract_lets
  split
  · exact .none
  · split
    · exact .some h
    · split
      · exact .some h
      · extract_lets p1
        have hp1 : p1.1.MemWf := h.writeUnit
        split
        · exact .some hp1
        · exact .some hp1.countLanded
        · exact .some hp1

theorem State.MemWf.landWrite (h : s.MemWf) : PairOption.MemWf (s.landWrite vf a bs ctr) :=
  h.landUnder

theorem State.MemWf.badStore (h : s.MemWf) : (s.badStore c pos).MemWf := by
  unfold State.badStore
  extract_lets _ s1
  have hs1 : s1.MemWf := h.modCore
  split
  · exact hs1.freezeCore
  · exact hs1.consume

theorem State.MemWf.spoilRange (h : s.MemWf) : (s.spoilRange frame off n).MemWf :=
  h.foldl fun _ _ h1 => h1.update

theorem State.MemWf.spoilUnit (h : s.MemWf) : (s.spoilUnit vf x off n).MemWf := by
  unfold State.spoilUnit
  split
  · exact h.spoilRange
  · exact h.refuse

theorem State.MemWf.commitPiece (h : s.MemWf) : StateOption.MemWf (s.commitPiece c e p) := by
  unfold State.commitPiece
  extract_lets _ _ _ _ _ s1
  have hs1 : s1.MemWf := h.modCore
  split
  · exact .some h.modCore.refuse
  · split
    · exact .some h.want
    · split
      · exact .some h.want
      · exact .some h.modCore.refuse
      · extract_lets p1
        have hp1 : p1.1.MemWf := h.writeUnit
        split
        · refine .some ?_
          split
          · exact h.modCore.spoilUnit
          · exact h.modCore.refuse
        · split
          · exact .some hs1.askTile.deliverDone
          · split
            · exact .none
            · exact .some hp1.modCore
            · exact .some hp1.modCore.refuse
            · refine .some ?_
              split
              · exact hp1.modCore
              · exact hp1.countSealed.modCore.modCore

theorem State.MemWf.commitOne (h : s.MemWf) : StateOption.MemWf (s.commitOne c) := by
  unfold State.commitOne
  extract_lets
  split
  · exact .none
  · split
    · exact .none
    · split
      · refine .some ?_
        split
        · exact h.badStore
        · exact h.modCore
      · split
        · exact .some h.modCore
        · exact h.commitPiece

theorem State.MemWf.commitN (h : s.MemWf) : (State.commitN n c s).MemWf := by
  induction n generalizing s with
  | zero => exact h
  | succ n ih =>
    unfold State.commitN
    split
    · exact h
    · rename_i e
      exact ih (h.commitOne.get e)

theorem State.MemWf.drainStores (h : s.MemWf) : (s.drainStores c).MemWf :=
  h.commitN

theorem State.MemWf.finishPort (h : s.MemWf) : (s.finishPort c p).MemWf := by
  unfold State.finishPort
  refine .leavePort ?_
  split
  · exact h.acquire
  · exact h

theorem State.MemWf.lateFault (h : s.MemWf) : (s.lateFault c u f).MemWf := by
  unfold State.lateFault
  extract_lets s1
  have hs1 : s1.MemWf := h.modCore
  split
  · exact hs1.freezeCore
  · exact hs1

theorem State.MemWf.performed (h : s.MemWf) : (s.performed c p old cause unit).MemWf := by
  unfold State.performed
  extract_lets s1 _ _ s2
  have hs1 : s1.MemWf := by
    unfold s1
    split
    · exact h.refuse
    · exact h
  have hs2 : s2.MemWf := by
    unfold s2
    split
    · exact h.fabricReport
    · exact h.refuse
  split
  · exact hs1.modCore.modCore
  · refine .finishPort ?_
    split
    · exact h
    · exact hs2

theorem State.MemWf.performPort (h : s.MemWf) : StateOption.MemWf (s.performPort c) := by
  unfold State.performPort
  extract_lets
  split
  · exact .none
  · extract_lets _ s1 s2
    have hs1 : s1.MemWf := h.leavePort
    have hs2 : s2.MemWf := h.modCore
    split
    · split
      · exact .none
      · exact .some h.finishPort
    · split
      · exact .none
      · split
        · split
          · exact .some hs1.askNow
          · exact .some hs2.askNow
        · split
          · split
            · exact .some h.want
            · split
              · exact .some h.want
              · split
                · exact .none
                · rename_i t1 _ e1
                  have ht1 : t1.MemWf := h.landUnder.get e1
                  extract_lets s3
                  have hs3 : s3.MemWf := by
                    unfold s3
                    split
                    · exact ht1
                    · exact ht1.fabricReport
                  exact .some hs3.leavePort
          · split
            · exact .some h.want
            · split
              · exact .some h.performed
              · exact .some h.modCore.lateFault
            · split
              · exact .none
              · rename_i t2 _ _ _ e2
                have ht2 : t2.MemWf := h.atomic.get e2
                extract_lets s4
                have hs4 : s4.MemWf := by
                  unfold s4
                  split
                  · exact ht2.dropLine
                  · exact ht2
                exact .some hs4.performed

theorem State.MemWf.portN (h : s.MemWf) : (State.portN n c s).MemWf := by
  induction n generalizing s with
  | zero => exact h
  | succ n ih =>
    unfold State.portN
    split
    · exact h
    · rename_i e
      exact ih (h.performPort.get e)

theorem State.MemWf.readOver (h : s.MemWf) : PairOption.MemWf (State.readOver c fwd unit e l s) := by
  induction l generalizing s with
  | nil => exact .some h
  | cons x l ih =>
    unfold State.readOver
    extract_lets k own spoilt rest
    have hrest : ∀ p : State × Got, p.1.MemWf → PairOption.MemWf (rest p) :=
      fun p hp => (ih hp).bind fun q hq => .some hq
    split
    · exact hrest _ h
    · exact h.readUnit.bind hrest

theorem State.MemWf.fixLoad (h : s.MemWf) : (s.fixLoad c seq val cause unit zero).MemWf :=
  h.modCore

theorem State.MemWf.performFlat (h : s.MemWf) : (s.performFlat c x).MemWf := by
  unfold State.performFlat
  extract_lets
  split
  · exact h.want
  · exact h.lateFault
  · split
    · exact h
    · rename_i e1
      exact (h.readOver.get e1).fixLoad

theorem State.MemWf.runsReady (h : s.MemWf) : PairOk.MemWf (State.runsReady c u purpose tid runs s) := by
  induction runs generalizing s with
  | nil => exact .ok h
  | cons r runs ih =>
    unfold State.runsReady
    extract_lets rest
    have hrest : ∀ p : State × Bool, p.1.MemWf → PairOk.MemWf (rest p) :=
      fun p hp => (ih hp).bind fun q hq => .ok hq
    split
    · exact hrest _ h.want
    · exact .error
    · split
      · exact hrest _ h
      · split
        · exact hrest _ h.askTile
        · exact hrest _ h

theorem State.MemWf.readRunLine (h : s.MemWf) : (s.readRunLine c u purpose tid r i).1.MemWf := by
  unfold State.readRunLine
  extract_lets
  split
  · split
    · exact h.readUnit.getD h
    · split
      · exact h
      · split
        · exact h
        · exact h
  · exact h

theorem State.MemWf.readRuns (h : s.MemWf) : (s.readRuns c u purpose tid runs).1.MemWf :=
  .foldl_fst h fun _ _ hp => hp.readRunLine

theorem State.MemWf.dropDone (h : s.MemWf) : (s.dropDone d purpose).MemWf :=
  h.modDie

theorem State.MemWf.gathered (h : s.MemWf) : (s.gathered c x d rows).MemWf := by
  unfold State.gathered
  extract_lets
  split
  · exact h.modCore
  · split
    · exact h.fixLoad
    · split
      · exact h.fixLoad
      · exact h.fixLoad

theorem State.MemWf.performGath (h : s.MemWf) : (s.performGath c x).MemWf := by
  unfold State.performGath
  extract_lets
  split
  · exact h.want
  · exact h.lateFault
  · extract_lets
    split
    · exact h.fixLoad
    · split
      · exact h.lateFault
      · split
        · split
          · exact h.fixLoad.dropDone
          · exact h.lateFault
        · rename_i e1
          exact h.runsReady.get e1
        · rename_i e2
          exact (h.runsReady.get e2).readRuns.gathered.dropDone

theorem State.MemWf.performLoad (h : s.MemWf) : (s.performLoad c x).MemWf := by
  unfold State.performLoad
  extract_lets
  split
  · exact h
  · split
    · exact h.performGath
    · split
      · exact h.performFlat
      · split
        · split
          · exact h
          · exact h.performFlat
        · split
          · exact h.modCore
          · split
            · exact h
            · exact h.askNow

theorem State.MemWf.performUpTo (h : s.MemWf) : (s.performUpTo c seq).MemWf :=
  h.foldl fun _ _ h1 => h1.performLoad

theorem State.MemWf.pushLoads (h : s.MemWf) : (s.pushLoads c).MemWf := by
  unfold State.pushLoads
  refine h.foldl fun t1 _ h1 => ?_
  split
  · exact h1
  · exact h1.performLoad

theorem State.MemWf.execSegmentCommit (h : s.MemWf) : Result.MemWf (execSegmentCommit c s) := by
  unfold Machine.execSegmentCommit
  extract_lets
  split
  · exact .next h
  · split
    · exact .next h
    · rename_i e1
      exact .next (h.commitOne.get e1).pushLoads

theorem State.MemWf.execAtomicPerform (h : s.MemWf) : Result.MemWf (execAtomicPerform c s) := by
  unfold Machine.execAtomicPerform
  split
  · exact .next h
  · rename_i e1
    exact .next (h.performPort.get e1).pushLoads

theorem State.MemWf.execLoadReplyArrival (h : s.MemWf) : Result.MemWf (execLoadReplyArrival c idx s) := by
  unfold Machine.execLoadReplyArrival
  extract_lets
  split
  · exact .next h
  · extract_lets s1 s2 s3
    have hs1 : s1.MemWf := by
      unfold s1
      split
      · exact h
      · exact h.performUpTo
    have hs2 : s2.MemWf := hs1.modCore
    have hs3 : s3.MemWf := by
      unfold s3
      split
      · exact hs2.finishPort
      · exact hs2
    split
    · exact .next h
    · exact .next hs3.pushLoads

theorem State.MemWf.closeStores (h : s.MemWf) : (s.closeStores cs).MemWf :=
  h.foldl fun _ _ h1 => h1.modCore

theorem State.MemWf.passSpan (h : s.MemWf) : (s.passSpan lead).MemWf := by
  unfold State.passSpan
  split
  · exact h.closeStores
  · exact h

theorem State.MemWf.execRendezvousCommit (h : s.MemWf) : Result.MemWf (execRendezvousCommit quad s) := by
  unfold Machine.execRendezvousCommit
  extract_lets _ s1 s2
  have hs1 : s1.MemWf := by
    unfold s1
    refine h.foldl fun t1 _ h1 => ?_
    split
    · exact h1.drainStores
    · exact h1
  have hs2 : s2.MemWf := by
    unfold s2
    refine hs1.foldl fun t2 _ h2 => ?_
    extract_lets s3
    have hs3 : s3.MemWf := h2.modCore
    split
    · exact hs3.portN
    · exact h2
  split
  · exact .next h
  · split
    · exact .next hs1
    · exact .next (hs2.foldl fun _ _ h3 => h3.pushLoads)

/-! ## Memory ops (Machine/MemInstr.lean) -/

theorem State.MemWf.owe (h : s.MemWf) : (s.owe n).MemWf := by
  unfold State.owe
  split
  · exact h
  · exact h.modCur

theorem State.MemWf.takeLoad (h : s.MemWf) : (s.takeLoad x).MemWf :=
  h.modCur.pushLoads

theorem State.MemWf.execLd (h : s.MemWf) : Result.MemWf (execLd x s) := by
  unfold Machine.execLd
  exact h.issueOp fun _ h1 => h1.takeLoad

theorem State.MemWf.execLdts (h : s.MemWf) : Result.MemWf (execLdts x s) := by
  unfold Machine.execLdts
  refine h.issueOp fun t1 h1 => ?_
  extract_lets _ s1
  have hs1 : s1.MemWf := by
    unfold s1
    split
    · exact h1
    · exact h1.modCur
  exact hs1.owe

theorem State.MemWf.execLdq (h : s.MemWf) : Result.MemWf (execLdq x s) := by
  unfold Machine.execLdq
  refine h.issueOp fun t1 h1 => ?_
  extract_lets
  split
  · exact h1
  · exact h1.modCur.modCur.owe

theorem State.MemWf.bufferStore (h : s.MemWf) : (s.bufferStore tid entries).MemWf :=
  h.modCur

theorem State.MemWf.bufferFlat (h : s.MemWf) : (s.bufferFlat a bs).MemWf :=
  h.bufferStore

theorem State.MemWf.stored (h : s.MemWf) : (s.stored n).MemWf := by
  unfold State.stored
  extract_lets s1
  have hs1 : s1.MemWf := by
    unfold s1
    refine .owe ?_
    split
    · exact h
    · exact h.modCur
  split
  · exact hs1.drainStores
  · exact hs1

theorem State.MemWf.execSt (h : s.MemWf) : Result.MemWf (execSt x s) := by
  unfold Machine.execSt
  exact h.issueOp fun _ h1 => h1.bufferFlat.stored

theorem State.MemWf.execStts (h : s.MemWf) : Result.MemWf (execStts x s) := by
  unfold Machine.execStts
  exact h.issueOp fun _ h1 => h1.modCur.owe

theorem State.MemWf.execScat (h : s.MemWf) : Result.MemWf (execScat x s) := by
  unfold Machine.execScat
  refine h.issueOp fun t1 h1 => ?_
  extract_lets
  split
  · exact (h1.foldl fun _ _ h2 => h2.bufferStore).stored
  · exact h1

theorem State.MemWf.toPort (h : s.MemWf) : (s.toPort p).MemWf := by
  unfold State.toPort
  extract_lets _ _ s1
  have hs1 : s1.MemWf := h.modCur
  split
  · exact hs1.portN
  · exact hs1

theorem State.MemWf.atomLocal (h : s.MemWf) : Result.MemWf (atomLocal f x s) := by
  unfold Machine.atomLocal
  extract_lets
  refine h.issueOp fun t1 h1 => ?_
  extract_lets s1
  have hs1 : s1.MemWf := by
    unfold s1
    split
    · exact h1
    · exact h1.takeLoad
  split
  · exact hs1.toPort
  · exact h1

theorem State.MemWf.atomRemote (h : s.MemWf) : Result.MemWf (atomRemote f x s) := by
  unfold Machine.atomRemote
  extract_lets
  refine h.issueOp fun t1 h1 => ?_
  extract_lets _ _ s1
  have hs1 : s1.MemWf := by
    unfold s1
    split
    · exact h1
    · exact h1.takeLoad
  exact hs1.toPort

theorem State.MemWf.remLoad (h : s.MemWf) : Result.MemWf (remLoad vec x s) := by
  unfold Machine.remLoad
  exact h.issueOp fun _ h1 => h1.takeLoad

theorem State.MemWf.remStore (h : s.MemWf) : Result.MemWf (remStore vec x s) := by
  unfold Machine.remStore
  exact h.issueOp fun _ h1 => h1.toPort

/-! ## Vector ops (Machine/Vector.lean) -/

theorem State.MemWf.vElem (h : s.MemWf) : Result.MemWf (vElem n lat f x s) :=
  h.issueOp fun _ h1 => h1.putV

theorem State.MemWf.vElemS (h : s.MemWf) : Result.MemWf (vElemS lat readVa f x s) :=
  h.issueOp fun _ h1 => h1.putV

theorem State.MemWf.vCmp (h : s.MemWf) : Result.MemWf (vCmp r x s) :=
  h.issueOp fun _ h1 => h1.putK

theorem State.MemWf.vMask (h : s.MemWf) : Result.MemWf (vMask two f x s) :=
  h.issueOp fun _ h1 => h1.putK

theorem State.MemWf.vPerm (h : s.MemWf) : Result.MemWf (vPerm n f x s) :=
  h.issueOp fun _ h1 => h1.putV

theorem State.MemWf.vPermS (h : s.MemWf) : Result.MemWf (vPermS f x s) :=
  h.issueOp fun _ h1 => h1.putV

theorem State.MemWf.vRed (h : s.MemWf) : Result.MemWf (vRed rm f x s) :=
  h.issueOp fun _ h1 => h1.putS

theorem State.MemWf.vSpecial (h : s.MemWf) : Result.MemWf (vSpecial lat f x s) :=
  h.vElem

/-! ## Packets at their home, and reductions (Machine/Reduce.lean) -/

theorem State.MemWf.replyTo (h : s.MemWf) : (s.replyTo orig plane tag gen fwid op caddr data).MemWf := by
  unfold State.replyTo
  split
  · exact h.selfReply
  · exact h.transmit

theorem State.MemWf.answer (h : s.MemWf) : (s.answer p op caddr data).MemWf :=
  h.replyTo

theorem State.MemWf.acked (h : s.MemWf) : (s.acked p cause).MemWf := by
  unfold State.acked
  split
  · exact h.answer
  · exact h.answer

theorem State.MemWf.settleReq (h : s.MemWf) : (s.settleReq vf p cause).MemWf := by
  unfold State.settleReq
  refine .acked ?_
  split
  · exact h.report
  · exact h

theorem State.MemWf.answerTo (h : s.MemWf) : (s.answerTo who cause).MemWf := by
  unfold State.answerTo
  split
  · exact h.modCore
  · split
    · exact h.replyTo
    · exact h.replyTo

theorem State.MemWf.reduceUnder (h : s.MemWf) : PairOption.MemWf (s.reduceUnder d vf a func bs x own) := by
  unfold State.reduceUnder
  split
  · exact .none
  · rename_i t1 _ e1
    have ht1 : t1.MemWf := h.readUnit.get e1
    extract_lets p1 s1
    have hp1 : p1.1.MemWf := ht1.writeUnit
    have hs1 : s1.MemWf := by
      unfold s1
      split
      · exact hp1.dropLine
      · exact hp1
    split
    · exact .some ht1
    · split
      · exact .some hs1
      · exact .some hs1
      · exact .some hs1
      · exact .none

theorem State.MemWf.reduceFlat (h : s.MemWf) : PairOption.MemWf (s.reduceFlat d vf a func bs) := by
  unfold State.reduceFlat
  split
  · exact .some h
  · exact h.reduceUnder

theorem State.MemWf.reduceScratch (h : s.MemWf) : PairOption.MemWf (s.reduceScratch c a func bs h') := by
  unfold State.reduceScratch
  extract_lets
  split
  · exact .none
  · split
    · exact .some h
    · split
      · exact .some h
      · exact .some h.modCore

theorem State.MemWf.reduceAt (h : s.MemWf) : PairOption.MemWf (s.reduceAt d x) := by
  unfold State.reduceAt
  split
  · exact h.reduceFlat
  · exact h.reduceScratch

theorem State.MemWf.applyPiece (h : s.MemWf) : PairOption.MemWf (s.applyPiece d x) := by
  unfold State.applyPiece
  split
  · exact .none
  · rename_i e1
    exact .some (h.reduceAt.get e1).modDie

theorem State.MemWf.answerStaged (h : s.MemWf) : (s.answerStaged x cause).MemWf := by
  unfold State.answerStaged
  split
  · exact h.report.answerTo
  · exact h.answerTo

theorem State.MemWf.endStaged (h : s.MemWf) : (s.endStaged d x cause).MemWf := by
  unfold State.endStaged
  extract_lets _ s1
  have hs1 : s1.MemWf := h.modDie
  split
  · exact hs1.modDie
  · exact hs1.answerStaged

theorem State.MemWf.applyStaged (h : s.MemWf) : (State.applyStaged n d s).MemWf := by
  induction n generalizing s with
  | zero => exact h
  | succ n ih =>
    unfold State.applyStaged
    split
    · exact h
    · split
      · exact h
      · rename_i e
        exact ih (h.applyPiece.get e).endStaged

theorem State.MemWf.applyLines (h : s.MemWf) : PairOption.MemWf (State.applyLines d l s) := by
  induction l generalizing s with
  | nil => exact .some h
  | cons x l ih =>
    unfold State.applyLines
    exact h.applyPiece.bind fun p hp => (ih hp).bind fun q hq => .some hq

theorem State.MemWf.ordered (h : s.MemWf) : PairOption.MemWf (s.ordered x) := by
  unfold State.ordered
  extract_lets _ _ _ _ s1
  have hs1 : s1.MemWf := h.modDie
  split
  · exact .some h
  · split
    · exact .some h
    · split
      · exact .none
      · rename_i e1
        exact .some (hs1.applyLines.get e1).modDie.applyStaged

theorem State.MemWf.holdReq (h : s.MemWf) : (s.holdReq op p).MemWf :=
  h.update

theorem State.MemWf.serveRead (h : s.MemWf) : (s.serveRead op n vf p).MemWf := by
  unfold State.serveRead
  extract_lets
  split
  · exact h.settleReq
  · exact h.settleReq
  · split
    · exact h.holdReq
    · rename_i t1 _ e1
      have ht1 : t1.MemWf := h.readUnit.get e1
      split
      · exact ht1.answer
      · exact ht1.settleReq

theorem State.MemWf.serveWrite (h : s.MemWf) : (s.serveWrite op n ctr vf p).MemWf := by
  unfold State.serveWrite
  split
  · exact h.holdReq
  · rename_i e1
    exact (h.landWrite.get e1).settleReq

theorem State.MemWf.serveAtom (h : s.MemWf) : (s.serveAtom vf p).MemWf := by
  unfold State.serveAtom
  extract_lets
  split
  · exact h.settleReq
  · exact h.settleReq
  · split
    · exact h.holdReq
    · rename_i t1 _ _ _ e1
      have ht1 : t1.MemWf := h.atomic.get e1
      split
      · exact ht1.settleReq
      · split
        · exact ht1.answer
        · exact ht1.acked

theorem State.MemWf.serveRcp (h : s.MemWf) : (s.serveRcp vf p).MemWf := by
  unfold State.serveRcp
  extract_lets
  split
  · exact h.holdReq
  · rename_i e1
    exact (h.reduceFlat.get e1).settleReq

theorem State.MemWf.serveRcpo (h : s.MemWf) : (s.serveRcpo vf p).MemWf := by
  unfold State.serveRcpo
  extract_lets
  split
  · exact h.holdReq
  · rename_i e1
    exact (h.ordered.get e1).settleReq
  · rename_i e2
    exact h.ordered.get e2

theorem State.MemWf.serveFlat (h : s.MemWf) : (s.serveFlat op vf p).MemWf := by
  unfold State.serveFlat
  split
  · exact h.holdReq
  · split
    · exact h.serveRead
    · exact h.serveRead
    · exact h.serveWrite
    · exact h.serveWrite
    · exact h.serveAtom
    · exact h.serveWrite
    · exact h.serveRcp
    · exact h.serveRcpo

/-! ## Arrivals, and the migration of tiles (Machine/Migrate.lean) -/

theorem State.MemWf.shoot (h : s.MemWf) : (s.shoot vf tid range c after).MemWf :=
  h.update

theorem State.MemWf.shootDrop (h : s.MemWf) : (s.shootDrop f).MemWf :=
  h.update.foldl fun _ _ h1 => h1.modCore

theorem State.MemWf.hwStore (h : s.MemWf) : (s.hwStore vf a bs).MemWf := by
  unfold State.hwStore
  split
  · exact h
  · exact h.writeUnit

theorem State.MemWf.writePeers (h : s.MemWf) : (s.writePeers vf).MemWf := by
  unfold State.writePeers
  extract_lets
  split
  · exact h
  · exact h.foldl fun _ _ h1 => h1.hwStore

theorem State.MemWf.setTile (h : s.MemWf) : (s.setTile vf tid tile f).MemWf := by
  unfold State.setTile
  split
  · exact h
  · exact h.hwStore

theorem State.MemWf.acceptOn (h : s.MemWf) : (s.acceptOn op p).MemWf :=
  h.modLane.emit

theorem State.MemWf.creditFor (h : s.MemWf) : (s.creditFor op p).MemWf := by
  unfold State.creditFor
  split
  · exact h
  · exact h.emit

theorem State.MemWf.forgetCopy (h : s.MemWf) : (s.forgetCopy op p).MemWf := by
  unfold State.forgetCopy
  refine h.foldl fun t1 _ h1 => ?_
  split
  · exact h1.modLane
  · exact h1

theorem State.MemWf.dropPacket (h : s.MemWf) : (s.dropPacket op).MemWf :=
  h.update.emit

theorem State.MemWf.accept {f : Nat → State → State} (h : s.MemWf) (hf : ∀ x1 t, t.MemWf → State.MemWf (f x1 t)) :
    Result.MemWf (s.accept op p f) := by
  unfold State.accept
  extract_lets s1
  have hs1 : s1.MemWf := h.acceptOn
  split
  · exact .next h
  · split
    · exact .next h.failPacket
    · split
      · exact .next hs1.forgetCopy.creditFor
      · split
        · exact .next hs1.dropPacket.creditFor
        · split
          · exact .next hs1.dropPacket.creditFor
          · extract_lets s2
            have hs2 : s2.MemWf := hf _ _ hs1
            refine .next ?_
            split
            · exact hs2
            · exact hs2.creditFor

theorem State.MemWf.receive {f : Nat → State → State} (h : s.MemWf) (hf : ∀ x1 t, t.MemWf → State.MemWf (f x1 t))
    : Result.MemWf (s.receive op p f) := by
  unfold State.receive
  refine h.accept fun _ t1 h1 => ?_
  split
  · exact h1.acked
  · exact hf _ _ h1

theorem State.MemWf.stubUsed (h : s.MemWf) : (s.stubUsed fwid tid tile).MemWf := by
  unfold State.stubUsed
  split
  · exact h
  · split
    · exact h
    · exact h.update

theorem State.MemWf.redirect (h : s.MemWf) : (s.redirect p new).MemWf :=
  h.stubUsed.answer

theorem State.MemWf.relay (h : s.MemWf) : (s.relay p vf new).MemWf :=
  h.stubUsed.transmit

theorem State.MemWf.serveTrd (h : s.MemWf) : (s.serveTrd vf p).MemWf := by
  unfold State.serveTrd
  extract_lets
  split
  · exact h.redirect
  · split
    · exact h.settleReq
    · split
      · exact h.redirect
      · split
        · exact h.acked
        · split
          · exact h.settleReq
          · split
            · exact h.update
            · rename_i t1 _ e1
              have ht1 : t1.MemWf := h.readUnit.get e1
              split
              · exact ht1.answer
              · exact ht1.acked

theorem State.MemWf.serveTwr (h : s.MemWf) : (s.serveTwr relayed vf p).MemWf := by
  unfold State.serveTwr
  extract_lets
  split
  · exact h.relay
  · split
    · exact h.settleReq
    · extract_lets p1
      have hp1 : p1.1.MemWf := h.writeUnit
      split
      · exact h.relay
      · split
        · exact h.acked
        · split
          · exact h.settleReq
          · split
            · exact h.update
            · split
              · exact hp1.answer
              · exact hp1.acked
            · exact hp1.acked
            · exact hp1.acked

theorem State.MemWf.dropArrival (h : s.MemWf) : (s.dropArrival a).MemWf :=
  h.update.hwStore

theorem State.MemWf.serveAlloc (h : s.MemWf) : (s.serveAlloc vf p).MemWf := by
  unfold State.serveAlloc
  extract_lets _ _ s1
  have hs1 : s1.MemWf := by
    unfold s1
    split
    · exact h.dropArrival
    · exact h
  split
  · exact hs1.acked
  · split
    · exact hs1.acked
    · split
      · exact hs1.acked
      · exact hs1.update.hwStore.acked

theorem State.MemWf.serveLine (h : s.MemWf) : (s.serveLine vf p).MemWf := by
  unfold State.serveLine
  extract_lets
  split
  · exact h.acked
  · extract_lets
    split
    · exact h.dropArrival.settleReq
    · split
      · exact h.dropArrival.acked
      · split
        · exact h.dropArrival.acked
        · exact h.update
        · exact h.writeLines.acked

theorem State.MemWf.serveCommit (h : s.MemWf) : (s.serveCommit vf p).MemWf := by
  unfold State.serveCommit
  extract_lets
  split
  · exact h.acked
  · extract_lets s1 s2 s3
    have hs1 : s1.MemWf := h.setTile
    have hs2 : s2.MemWf := hs1.shootDrop
    have hs3 : s3.MemWf := hs2.update
    split
    · exact h.dropArrival.acked
    · split
      · exact h.update
      · exact hs3.update.acked

theorem State.MemWf.serveQuery (h : s.MemWf) : (s.serveQuery vf p).MemWf := by
  unfold State.serveQuery
  extract_lets _ _ _ s1 s2 s3
  have hs1 : s1.MemWf := h.setTile
  have hs2 : s2.MemWf := hs1.shootDrop
  have hs3 : s3.MemWf := by
    unfold s3
    split
    · exact hs1
    · exact hs1.shoot
  split
  · split
    · exact hs2.update
    · exact hs2.acked
  · exact hs3.update

theorem State.MemWf.serveRelease (h : s.MemWf) : (s.serveRelease p).MemWf := by
  unfold State.serveRelease
  extract_lets
  split
  · exact h.update.transmit
  · split
    · exact h.acked
    · exact h.update.acked

theorem State.MemWf.serveMig (h : s.MemWf) : (s.serveMig vf p).MemWf := by
  unfold State.serveMig
  split
  · exact h.serveAlloc
  · exact h.serveLine
  · exact h.serveCommit
  · exact h.serveQuery
  · exact h.serveRelease
  · exact h.dropPacket

theorem State.MemWf.serveHeld (h : s.MemWf) : (s.serveHeld op vf p).MemWf := by
  unfold State.serveHeld
  split
  · exact h.serveTrd
  · exact h.serveTwr
  · exact h.serveTwr
  · exact h.serveMig
  · exact h.serveFlat

theorem State.MemWf.retryHeld (h : s.MemWf) : s.retryHeld.MemWf := by
  unfold State.retryHeld
  refine h.update.foldl fun t1 _ h1 => ?_
  extract_lets s1
  have hs1 : s1.MemWf := by
    unfold s1
    split
    · exact h1
    · exact h1.serveHeld
  split
  · exact hs1
  · exact hs1.creditFor

theorem State.MemWf.dropMove (h : s.MemWf) : (s.dropMove m).MemWf := by
  unfold State.dropMove
  extract_lets s1
  have hs1 : s1.MemWf := h.update
  refine .retryHeld ?_
  split
  · exact hs1
  · exact hs1.setTile

theorem State.MemWf.setMove (h : s.MemWf) : (s.setMove m).MemWf :=
  h.update

theorem State.MemWf.leaveStub (h : s.MemWf) : (s.leaveStub m d).MemWf := by
  unfold State.leaveStub
  extract_lets _ s1 s2 _ _ s3
  have hs1 : s1.MemWf := h.setTile.shootDrop
  have hs2 : s2.MemWf := by
    unfold s2
    split
    · exact hs1.update
    · exact hs1
  have hs3 : s3.MemWf := hs2.update
  exact hs3.update.retryHeld

theorem State.MemWf.moveStep (h : s.MemWf) : (s.moveStep co ch c dst).1.MemWf := by
  unfold State.moveStep
  extract_lets _ _ r _ s1
  have hs1 : s1.MemWf := h.modDie
  clear_value r
  split
  · extract_lets
    split
    · exact h
    · extract_lets
      split
      · split
        · exact h
        · exact h.update.ask
      · extract_lets
        split
        · split
          · exact h
          · split
            · exact h.modDie.dropMove
            · split
              · exact hs1.setTile.setMove
              · split
                · exact hs1.setMove
                · exact hs1
        · split
          · split
            · exact h.shootDrop.setMove
            · exact h
          · split
            · split
              · split
                · exact h.modDie.dropMove
                · exact h.setMove.ask
              · split
                · split
                  · exact h.modDie.dropMove
                  · exact h.setMove.ask
                · exact h.setMove
            · split
              · exact h.ask
              · split
                · exact h.modDie.dropMove
                · split
                  · exact h.leaveStub
                  · exact h

theorem State.MemWf.roundEnd (h : s.MemWf) : (s.roundEnd idx vf).MemWf := by
  unfold State.roundEnd
  extract_lets _ s1 s2
  have hs1 : s1.MemWf := h.setTile.shootDrop
  have hs2 : s2.MemWf := hs1.update
  split
  · exact hs2.ask
  · exact h

theorem State.MemWf.roundAsk (h : s.MemWf) : (s.roundAsk idx vf).MemWf :=
  (h.update.foldl fun _ _ h1 => h1.ask).roundEnd

theorem State.MemWf.learned (h : s.MemWf) : (s.learned idx m ok).MemWf := by
  unfold State.learned
  extract_lets _ _ s1
  have hs1 : s1.MemWf := h.update
  split
  · exact h
  · split
    · exact hs1
    · exact hs1.roundEnd

theorem State.MemWf.execStubRoundStart (h : s.MemWf) : Result.MemWf (execStubRoundStart idx s) := by
  unfold Machine.execStubRoundStart
  extract_lets
  split
  · exact .next h
  · split
    · exact .next h
    · split
      · exact .next h.roundAsk
      · split
        · exact .next h
        · split
          · exact .next h.update.roundAsk
          · exact .next h

theorem State.MemWf.execStubRoundTimeout (h : s.MemWf) : Result.MemWf (execStubRoundTimeout idx s) := by
  unfold Machine.execStubRoundTimeout
  extract_lets
  split
  · exact .next h
  · split
    · exact .next h.update.raise.report
    · exact .next h

theorem State.MemWf.execStubRoundRequest (h : s.MemWf) : Result.MemWf (execStubRoundRequest idx s) := by
  unfold Machine.execStubRoundRequest
  extract_lets
  split
  · exact .next h
  · split
    · exact .next h.update.roundAsk
    · exact .next h

theorem State.MemWf.execTranslationWalk (h : s.MemWf) : Result.MemWf (execTranslationWalk d s) := by
  unfold Machine.execTranslationWalk
  split
  · exact .next h
  · refine .next (.retryHeld ?_)
    refine h.modDie.foldl fun t1 _ h1 => ?_
    split
    · exact h1.bring
    · exact h1

theorem State.MemWf.execOwnerCacheRelease (h : s.MemWf) : Result.MemWf (execOwnerCacheRelease d idx s) := by
  unfold Machine.execOwnerCacheRelease
  split
  · exact .next h
  · extract_lets _ s1
    have hs1 : s1.MemWf := h.modDie
    split
    · exact .next h
    · exact .next hs1.pump.deliverDone

/-! ## Copies (Machine/Copy.lean) -/

theorem State.MemWf.queue (h : s.MemWf) : (s.queue ch late m).MemWf :=
  h.modCur

theorem State.MemWf.ccOp (h : s.MemWf) : Result.MemWf (ccOp kind late dk sk align bytes bad x s) := by
  unfold Machine.ccOp
  exact h.issueOp fun _ h1 => h1.queue

theorem State.MemWf.execTdrain (h : s.MemWf) : Result.MemWf (execTdrain x s) := by
  unfold Machine.execTdrain
  refine h.issueOp fun t1 h1 => ?_
  extract_lets _ s1
  have hs1 : s1.MemWf := h1.modCur
  split
  · exact h1.owe
  · exact hs1.queue

theorem State.MemWf.execTfree (h : s.MemWf) : Result.MemWf (execTfree x s) := by
  unfold Machine.execTfree
  refine h.issueOp fun t1 h1 => ?_
  refine .owe ?_
  split
  · exact h1.modCur
  · exact h1

theorem State.MemWf.execMigrate (h : s.MemWf) : Result.MemWf (execMigrate x s) := by
  unfold Machine.execMigrate
  exact h.issueOp fun _ h1 => h1.queue

theorem State.MemWf.finishCmd (h : s.MemWf) : (s.finishCmd c ch m ok).MemWf :=
  h.modCore

theorem State.MemWf.setCmd (h : s.MemWf) : (s.setCmd c ch m).MemWf :=
  h.modCore

theorem State.MemWf.endCmd (h : s.MemWf) : (s.endCmd c ch m ok).MemWf := by
  unfold State.endCmd
  extract_lets s1
  have hs1 : s1.MemWf := by
    unfold s1
    split
    · exact h.modCore
    · exact h
  split
  · exact hs1.setCmd
  · exact hs1.finishCmd

theorem State.MemWf.completeCmd (h : s.MemWf) : (s.completeCmd c ch m).MemWf :=
  h.endCmd

theorem State.MemWf.failCmd (h : s.MemWf) : (s.failCmd c ch m).MemWf :=
  h.endCmd

theorem State.MemWf.chanXl (h : s.MemWf) : PairError.MemWf (s.chanXl c ch tid unit wr) := by
  unfold State.chanXl
  split
  · exact .ok
  · exact .error h
  · exact .error h.want

theorem State.MemWf.freeLine (h : s.MemWf) : (s.freeLine c ch i).MemWf :=
  h.modDie

theorem State.MemWf.readSource (h : s.MemWf) : (s.readSource c ch m).1.MemWf := by
  unfold State.readSource
  extract_lets
  split
  · extract_lets
    split
    · exact h
    · split
      · exact h
      · exact h
  · exact h
  · split
    · split
      · rename_i e1
        exact h.chanXl.get e1
      · extract_lets
        split
        · split
          · exact h
          · rename_i t1 _ e2
            have ht1 : t1.MemWf := h.readUnit.get e2
            split
            · exact ht1
            · exact ht1
        · split
          · exact h.askTile
          · split
            · exact h
            · split
              · exact h.freeLine
              · exact h.freeLine

theorem State.MemWf.writeDest (h : s.MemWf) : (s.writeDest c ch m bs h').1.MemWf := by
  unfold State.writeDest
  extract_lets
  split
  · split
    · rename_i e
      exact h.chanXl.get e
    · split
      · exact h
      · rename_i e
        exact h.reduceUnder.get e
  · split
    · exact h
    · rename_i e
      exact h.reduceScratch.get e
  · exact h.modDie.ask
  · exact h.modDie.ask
  · extract_lets
    split
    · rename_i e
      split at e
      · exact h.chanXl.map.get e
      · cases e
    · split
      · exact h
      · rename_i e
        exact h.ordered.get e
      · rename_i e
        exact h.ordered.get e
      · rename_i e
        exact (h.ordered.get e).setCmd
  · split
    · exact h
    · exact h.modCore
  · split
    · exact h
    · exact h.modCore
  · exact h.ask
  · split
    · split
      · rename_i e
        exact h.chanXl.get e
      · extract_lets r
        have hr : r.1.MemWf := h.writeUnit
        split
        · exact h.askTile
        · split
          · exact hr
          · exact h
          · exact hr.refuse
          · exact hr

theorem State.MemWf.moveLine (h : s.MemWf) : (s.moveLine c ch m).1.MemWf := by
  unfold State.moveLine
  split
  · extract_lets s1
    have hs1 : s1.MemWf := by
      unfold s1
      split
      · exact h.modDie
      · exact h
    split
    · exact h
    · exact hs1.freeLine
  · split
    · exact h
    · split
      · exact h.setCmd
      · split
        · rename_i e1
          exact h.readSource.of_pair e1
        · rename_i e2
          exact (h.readSource.of_pair e2).writeDest

theorem State.MemWf.startCmd (h : s.MemWf) : (s.startCmd c ch m).MemWf := by
  unfold State.startCmd
  extract_lets s1 s2
  have hs1 : s1.MemWf := by
    unfold s1
    split
    · exact h.acquire
    · exact h
  have hs2 : s2.MemWf := hs1.modCore
  exact hs2.setCmd

theorem State.MemWf.endRecord (h : s.MemWf) : (s.endRecord c ch m).MemWf := by
  unfold State.endRecord
  extract_lets
  split
  · rename_i e1
    exact (h.chanXl.get e1).failCmd
  · rename_i e2
    exact h.chanXl.get e2
  · extract_lets p1 s1
    have hp1 : p1.1.MemWf := h.writeUnit
    have hs1 : s1.MemWf := hp1.modCore
    split
    · exact h
    · split
      · exact hs1.completeCmd
      · exact hs1.setCmd
    · exact hp1.refuse.failCmd
    · exact hp1.failCmd

theorem State.MemWf.advanceCmd (h : s.MemWf) : (s.advanceCmd c ch m).MemWf := by
  unfold State.advanceCmd
  extract_lets _ s1 _ s2
  have hs1 : s1.MemWf := h.modCore
  have hs2 : s2.MemWf := hs1.setCmd
  split
  · split
    · exact h.setCmd
    · exact h.completeCmd
  · split
    · exact hs2
    · split
      · exact hs2.endRecord
      · exact hs2.completeCmd

theorem State.MemWf.execCopyLine (h : s.MemWf) : Result.MemWf (execCopyLine c ch s) := by
  unfold Machine.execCopyLine
  split
  · exact .next h
  · extract_lets s1 _ p1
    have hs1 : s1.MemWf := by
      unfold s1
      split
      · exact h
      · exact h.startCmd
    have hp1 : p1.1.MemWf := by
      unfold p1
      split
      · split
        · exact hs1.moveLine
        · exact hs1
      · exact hs1.moveStep
      · exact hs1.moveLine
    split
    · exact .next h
    · split
      · exact .next h.endCmd
      · split
        · exact .next h.endRecord
        · refine .next ?_
          split
          · exact hp1
          · exact hp1.advanceCmd
          · exact hp1.failCmd

theorem State.MemWf.chanUnits (h : s.MemWf) : PairError.MemWf (s.chanUnits c ch l) := by
  induction l with
  | nil => exact .ok
  | cons u l ih =>
    unfold State.chanUnits
    cases e : s.chanXl c ch u.1.1 u.1.2 u.2 with
    | error p => exact .error (h.chanXl.get e)
    | ok x => exact ih

theorem State.MemWf.takeTransfer (h : s.MemWf) : (s.takeTransfer c ch m g).MemWf := by
  unfold State.takeTransfer
  split
  · exact h.failCmd
  · extract_lets dst
    clear_value dst
    split
    · exact h.completeCmd
    · split
      · split
        · exact h.failCmd
        · split
          · rename_i e1
            exact (h.chanUnits.get e1).failCmd
          · rename_i e2
            exact h.chanUnits.get e2
          · exact h.setCmd
      · split
        · exact h.failCmd
        · split
          · rename_i e3
            exact (h.chanUnits.get e3).failCmd
          · rename_i e4
            exact h.chanUnits.get e4
          · exact h.setCmd

theorem State.MemWf.execCcopyRecord (h : s.MemWf) : Result.MemWf (execCcopyRecord c ch s) := by
  unfold Machine.execCcopyRecord
  split
  · exact .next h
  · extract_lets s1 _ _ s2
    have hs1 : s1.MemWf := by
      unfold s1
      split
      · exact h
      · exact h.startCmd
    have hs2 : s2.MemWf := hs1.setCmd
    split
    · exact .next h
    · split
      · exact .next hs1.completeCmd
      · refine .next ?_
        split
        · rename_i e1
          exact (hs1.chanXl.get e1).failCmd
        · rename_i e2
          exact hs1.chanXl.get e2
        · split
          · exact hs2
          · rename_i e3
            exact (hs2.readUnit.get e3).takeTransfer

theorem State.MemWf.execSlotZeroed (h : s.MemWf) : Result.MemWf (execSlotZeroed c slot s) :=
  .next h.modCore

/-! ## Reams, records and barriers (Machine/Sched.lean) -/

theorem State.MemWf.modReam (h : s.MemWf) : (s.modReam rid f).MemWf :=
  h.update

theorem State.MemWf.sweep (h : s.MemWf) : s.sweep.MemWf :=
  h.update

theorem State.MemWf.counter (h : s.MemWf) : StateOption.MemWf (s.counter vf a f) := by
  unfold State.counter
  split
  · exact .none
  · split
    · exact .some h.refuse
    · split
      · exact .none
      · rename_i t1 _ _ _ e1
        have ht1 : t1.MemWf := h.atomic.get e1
        refine .some ?_
        split
        · exact ht1
        · exact ht1.refuse

theorem State.MemWf.recField (h : s.MemWf) : (s.recField vf a lo w v).MemWf := by
  unfold State.recField
  split
  · exact h.update
  · split
    · exact h.seen
    · exact h.seen.hwStore

theorem State.MemWf.setStat (h : s.MemWf) : (s.setStat vf a v).MemWf :=
  h.recField

theorem State.MemWf.writeRec (h : s.MemWf) : (s.writeRec vf a ws).MemWf :=
  h.hwStore

theorem State.MemWf.sawPool (h : s.MemWf) : (s.sawPool vf).MemWf :=
  h.foldl fun _ _ h1 => h1.seen

theorem State.MemWf.barGo (h : s.MemWf) : (s.barGo b poison).MemWf := by
  unfold State.barGo
  refine h.foldl fun t1 _ h1 => ?_
  split
  · exact h1.modReam
  · exact h1.foldl fun _ _ h2 => h2.modCore

theorem State.MemWf.barDone (h : s.MemWf) : (s.barDone b).MemWf :=
  h.update.barGo

theorem State.MemWf.tellMembers (h : s.MemWf) : (s.tellMembers vf op i st).MemWf := by
  unfold State.tellMembers
  extract_lets
  refine h.foldl fun t1 _ h1 => ?_
  extract_lets
  split
  · exact h1.transmit
  · exact h1.modWorld

theorem State.MemWf.podStep (h : s.MemWf) : (s.podStep vf i).MemWf :=
  h.modWorld

theorem State.MemWf.barSpoil (h : s.MemWf) : (s.barSpoil b).MemWf :=
  h.update.barGo

theorem State.MemWf.podPoison (h : s.MemWf) : (s.podPoison vf i).MemWf :=
  h.tellMembers.podStep

theorem State.MemWf.barPoison (h : s.MemWf) : (s.barPoison b).MemWf := by
  unfold State.barPoison
  extract_lets s1
  have hs1 : s1.MemWf := h.barSpoil
  split
  · exact h
  · split
    · exact hs1.podPoison
    · exact hs1

theorem State.MemWf.poisonBars (h : s.MemWf) : (s.poisonBars p).MemWf :=
  h.foldl fun _ _ h1 => h1.barPoison

theorem State.MemWf.poisonPeers (h : s.MemWf) : (s.poisonPeers vf here).MemWf := by
  unfold State.poisonPeers
  split
  · exact h.foldl fun _ _ h1 => h1.podPoison
  · exact h

theorem State.MemWf.podSend (h : s.MemWf) : (s.podSend b r).MemWf := by
  unfold State.podSend
  split
  · exact h.update.tellMembers
  · exact h

theorem State.MemWf.barArrive (h : s.MemWf) : (s.barArrive lead sc i).MemWf := by
  unfold State.barArrive
  extract_lets
  split
  · exact h.foldl fun _ _ h1 => h1.modCore
  · extract_lets _ _ s1
    have hs1 : s1.MemWf := h.update
    split
    · exact h.modReam.foldl fun _ _ h2 => h2.modCore
    · split
      · exact h.foldl fun _ _ h3 => h3.modCore
      · split
        · extract_lets _ s2
          have hs2 : s2.MemWf := by
            unfold s2
            split
            · exact h.update
            · exact h.update
          exact hs2.foldl fun _ _ h4 => h4.modCore
        · split
          · split
            · split
              · exact h.foldl fun _ _ h5 => h5.modCore
              · exact h
            · exact (h.update.foldl fun _ _ h6 => h6.modCore).podSend
          · split
            · exact (hs1.modWorld.foldl fun _ _ h7 => h7.modCore).barSpoil
            · split
              · exact (hs1.foldl fun _ _ h8 => h8.modCore).barPoison
              · exact (hs1.foldl fun _ _ h9 => h9.modCore).podSend

theorem State.MemWf.execBarrierComplete (h : s.MemWf) : Result.MemWf (execBarrierComplete idx s) := by
  unfold Machine.execBarrierComplete
  split
  · exact .next h
  · split
    · exact .next h.update
    · extract_lets
      split
      · exact .next h
      · split
        · split
          · exact .next h.barDone.podStep
          · exact .next h
        · split
          · exact .next h.barDone
          · exact .next h

theorem State.MemWf.discard (h : s.MemWf) : (s.discard c).MemWf :=
  h.modCore.abandon

theorem State.MemWf.quarantineCore (h : s.MemWf) : (s.quarantineCore c).MemWf := by
  unfold State.quarantineCore
  extract_lets _ _ _ s1
  have hs1 : s1.MemWf := h.raise.setCore
  split
  · exact hs1
  · exact hs1.update.writeLists

theorem State.MemWf.freeCore (h : s.MemWf) : (s.freeCore c).MemWf := by
  unfold State.freeCore
  split
  · exact h.discard.quarantineCore
  · exact h.discard.modCore

theorem State.MemWf.giveBack (h : s.MemWf) : (s.giveBack rid is).MemWf :=
  h.modReam

theorem State.MemWf.orAborted (h : s.MemWf) : (s.orAborted rid).MemWf := by
  unfold State.orAborted
  split
  · exact h
  · split
    · split
      · rename_i e1
        exact (h.counter.get e1).modReam
      · exact h
    · exact h

theorem State.MemWf.endUnit (h : s.MemWf) : (s.endUnit lead back).MemWf := by
  unfold State.endUnit
  split
  · exact h
  · extract_lets s1
    have hs1 : s1.MemWf := by
      unfold s1
      split
      · exact h.giveBack
      · exact h
    exact (hs1.foldl fun _ _ h1 => h1.freeCore).orAborted.sweep

theorem State.MemWf.abortReam (h : s.MemWf) : (s.abortReam rid).MemWf := by
  unfold State.abortReam
  extract_lets s1
  have hs1 : s1.MemWf := h.modReam
  split
  · exact h
  · extract_lets _ s2 s3 s4 s5 s6 s7
    have hs2 : s2.MemWf := hs1.foldl fun _ _ h1 => h1.setStat
    have hs3 : s3.MemWf := hs2.modReam
    have hs4 : s4.MemWf := hs3.update
    have hs5 : s5.MemWf := hs4.foldl fun _ _ h2 => h2.modDie
    have hs6 : s6.MemWf := hs5.foldl fun _ _ h3 => h3.modCore
    have hs7 : s7.MemWf := hs6.poisonBars
    split
    · exact h.orAborted
    · exact hs7.orAborted.sweep

theorem State.MemWf.endAborted (h : s.MemWf) : (s.endAborted lead).MemWf := by
  unfold State.endAborted
  extract_lets
  split
  · exact h
  · extract_lets s1
    have hs1 : s1.MemWf := by
      unfold s1
      split
      · exact h
      · exact h.setStat.modReam
    exact hs1.endUnit

theorem State.MemWf.watchDeps (h : s.MemWf) : (s.watchDeps r).MemWf :=
  h.update

theorem State.MemWf.depsSeen (h : s.MemWf) : (s.depsSeen rid u se).MemWf := by
  unfold State.depsSeen
  extract_lets s1
  have hs1 : s1.MemWf := h.modReam
  split
  · exact h
  · extract_lets
    split
    · exact h.abortReam
    · split
      · exact hs1
      · exact hs1.modReam

theorem State.MemWf.lookDeps (h : s.MemWf) : (s.lookDeps rid).MemWf := by
  unfold State.lookDeps
  split
  · exact h
  · exact (h.foldl fun _ _ h1 => h1.seen).modReam.depsSeen

theorem State.MemWf.afterReset (h : s.MemWf) : s.afterReset.MemWf := by
  unfold State.afterReset
  extract_lets _ s1
  have hs1 : s1.MemWf := h.update.foldl fun _ _ h1 => h1.recField
  refine .sweep ?_
  extract_lets
  refine hs1.foldl fun t1 _ h2 => ?_
  extract_lets s2
  have hs2 : s2.MemWf := by
    unfold s2
    split
    · exact h2.lookDeps
    · exact h2
  exact hs2.orAborted

theorem State.MemWf.createReam (h : s.MemWf) : (s.createReam vf rda r q).MemWf := by
  unfold State.createReam
  extract_lets _ _ _ s1 s2
  have hs1 : s1.MemWf := h.update
  have hs2 : s2.MemWf := hs1.lookDeps
  split
  · exact hs2.watchDeps
  · exact hs2

theorem PairOption.MemWf.map_reamFrom {o : Option (State × Got)} (h : PairOption.MemWf o) :
    PairOption.MemWf (o.map (reamFrom vf)) :=
  h.map fun _ hp => hp

theorem State.MemWf.readReam (h : s.MemWf) : PairOption.MemWf (s.readReam vf a) :=
  h.flatBytes.map_reamFrom

theorem State.MemWf.makeReady (h : s.MemWf) : (s.makeReady vf a d rid quad u t).MemWf :=
  h.setStat.recField.modDie

theorem State.MemWf.lookWrite (h : s.MemWf) : (s.lookWrite x).MemWf := by
  unfold State.lookWrite
  split
  · extract_lets s1
    have hs1 : s1.MemWf := h.makeReady
    split
    · exact h
    · split
      · exact hs1.update
      · exact h
  · split
    · exact h.update
    · extract_lets _ s2
      have hs2 : s2.MemWf := h.depsSeen
      split
      · exact hs2.update
      · exact hs2
  · split
    · exact h.update
    · exact h

theorem State.MemWf.execWatchedWordReread (h : s.MemWf) : Result.MemWf (execWatchedWordReread phys s) := by
  unfold Machine.execWatchedWordReread
  split
  · exact .next h
  · exact .next h.update.lookWrite

theorem State.MemWf.execTaskStart (h : s.MemWf) : Result.MemWf (execTaskStart c s) := by
  unfold Machine.execTaskStart
  extract_lets
  split
  · exact .next h
  · split
    · exact .next h
    · split
      · exact .next h.endUnit
      · split
        · extract_lets
          split
          · exact .next h.abortReam.endUnit
          · extract_lets s1
            have hs1 : s1.MemWf := h.foldl fun _ _ h1 => h1.modCore
            split
            · exact .next h
            · split
              · exact .next h.seen.abortReam.endUnit
              · exact .next hs1.acquire
        · exact .next h.endUnit

theorem State.MemWf.refuseRecord (h : s.MemWf) : (s.refuseRecord x).MemWf :=
  h.setStat.modReam.abortReam

theorem State.MemWf.takeRecord (h : s.MemWf) : (s.takeRecord lead d x).MemWf := by
  unfold State.takeRecord
  extract_lets ws s1
  have hs1 : s1.MemWf := h.seen.modDie
  clear_value ws
  split
  · exact h
  · split
    · extract_lets s2
      have hs2 : s2.MemWf := hs1.recField.setStat
      split
      · exact hs1.refuseRecord
      · extract_lets s3
        have hs3 : s3.MemWf := hs2.foldl fun _ _ h1 => h1.modCore
        split
        · exact hs1.refuseRecord
        · exact hs3.acquire
    · exact hs1.refuseRecord

theorem State.MemWf.ageRecord (h : s.MemWf) : (s.ageRecord d x).MemWf := by
  unfold State.ageRecord
  extract_lets
  split
  · exact h
  · exact h.recField.modDie

theorem State.MemWf.ageRecords (h : s.MemWf) : s.ageRecords.MemWf :=
  h.foldl fun _ _ h1 => h1.foldl fun _ _ h2 => h2.ageRecord

theorem State.MemWf.execPriorityAging (h : s.MemWf) : Result.MemWf (execPriorityAging t s) := by
  unfold Machine.execPriorityAging
  split
  · split
    · exact .next h
    · exact .next h.ageRecord
  · exact .next h

theorem State.MemWf.execSchedulingSettingWrite (h : s.MemWf) : Result.MemWf
    (execSchedulingSettingWrite pid x value s) := by
  unfold Machine.execSchedulingSettingWrite
  extract_lets within world
  have hwithin : ∀ lo hi f, Result.MemWf (within lo hi f) := fun _ _ _ => .ite (.next h.modPart) (.next h)
  have hworld : ∀ vf ok f, Result.MemWf (world vf ok f) := fun _ _ _ => .ite (.next h.modWorld) (.next h)
  refine .ite (.next h) ?_
  cases x with
  | age | qmq | tto | staging | rwt | apn | stq | srt | rjt | hostTimeout => exact hwithin _ _ _
  | crpb vf | crpn vf => exact hworld _ _ _
  | cplm => exact .ite (.next h) (.next h.modPart)
  | psta vf => exact .ite (.next h.modWorld.writePeers) (.next h)
  | apb | spare vf => exact .ite (.next h.modPart) (.next h)
  | shootdown vf tid => exact .ite (.next h.shoot) (.next h)

theorem State.MemWf.execQuadCouplingChange (h : s.MemWf) : Result.MemWf (execQuadCouplingChange quad s) := by
  unfold Machine.execQuadCouplingChange
  extract_lets
  split
  · exact .next h
  · extract_lets _ s1
    have hs1 : s1.MemWf := h.foldl fun _ _ h1 => h1.modCore
    split
    · exact .next hs1.modPart
    · exact .next h

/-! ## Synchronisation, suspension and launch (Machine/Sync.lean) -/

theorem State.MemWf.semLater (h : s.MemWf) : (s.semLater o).MemWf :=
  h.modCur

theorem State.MemWf.execSwait (h : s.MemWf) : Result.MemWf (execSwait x s) := by
  unfold Machine.execSwait
  extract_lets
  refine h.issueOp fun t1 h1 => ?_
  extract_lets s1
  have hs1 : s1.MemWf := h1.modCur
  split
  · split
    · exact hs1.setP15
    · exact hs1
  · exact h1

theorem State.MemWf.barTry (h : s.MemWf) : (s.barTry sc i).MemWf := by
  unfold State.barTry
  extract_lets s1
  have hs1 : s1.MemWf := h.modCur
  split
  · exact hs1.barArrive
  · exact hs1

theorem State.MemWf.execBar (h : s.MemWf) : Result.MemWf (execBar x s) := by
  unfold Machine.execBar
  refine h.lateOp (fun _ h1 => h1.barTry) fun t1 h2 => ?_
  extract_lets _ s1
  have hs1 : s1.MemWf := h2.modCur.acquire
  split
  · exact hs1.setP15
  · exact hs1

theorem State.MemWf.execBcl (h : s.MemWf) : Result.MemWf (execBcl x s) := by
  unfold Machine.execBcl
  refine h.issueOp fun t1 h1 => ?_
  split
  · split
    · exact h1.modCur
    · exact h1.setP15
  · exact h1.setP15

theorem State.MemWf.fenceOp (h : s.MemWf) : Result.MemWf (fenceOp kind x s) :=
  h.issueOp fun _ h1 => h1.modCur

theorem State.MemWf.fenceDone (h : s.MemWf) : (s.fenceDone c f).MemWf := by
  unfold State.fenceDone
  extract_lets s1
  have hs1 : s1.MemWf := h.modCore
  split
  · exact hs1
  · exact hs1.acquire

theorem State.MemWf.issueRead {see eff : State → State} (h : s.MemWf) (hsee : ∀ t, t.MemWf → State.MemWf (see t))
    (heff : ∀ t, t.MemWf → State.MemWf (eff t)) : Result.MemWf (issueRead stops see eff s) := by
  unfold Machine.issueRead
  extract_lets
  split
  · exact .next (hsee _ h.update)
  · exact .next (heff _ h)
  · split
    · exact .next (heff _ (hsee _ h))
    · exact .next ((hsee _ h).takeStop)
  · exact .next h

theorem State.MemWf.readNow (h : s.MemWf) : PairOption.MemWf (s.readNow a n) := by
  unfold State.readNow
  split
  · exact h.readUnit
  · exact .none

theorem State.MemWf.seenNow (h : s.MemWf) : (s.seenNow a n).MemWf := by
  unfold State.seenNow
  split
  · rename_i e1
    exact h.readNow.get e1
  · exact h

theorem State.MemWf.watchWord (h : s.MemWf) : (s.watchWord a v).MemWf := by
  unfold State.watchWord
  extract_lets s1
  have hs1 : s1.MemWf := h.dropWait
  split
  · exact h
  · exact hs1.update

theorem State.MemWf.freshen (h : s.MemWf) : (s.freshen d vf a).MemWf := by
  unfold State.freshen
  split
  · exact h.dropLine
  · exact h

theorem State.MemWf.execWaitc (h : s.MemWf) : Result.MemWf (execWaitc x s) := by
  unfold Machine.execWaitc
  extract_lets
  refine h.issueRead (fun t1 h1 => ?_) fun _ h2 => h2.dropWait.acquire
  split
  · exact h1.seenNow.freshen.watchWord
  · exact h1

theorem State.MemWf.closeTask (h : s.MemWf) : (s.closeTask x).MemWf :=
  h.modCur

theorem State.MemWf.suspendTask (h : s.MemWf) : (s.suspendTask wait).MemWf := by
  unfold State.suspendTask
  split
  · exact h.closeTask
  · exact h.closeTask

theorem State.MemWf.suspendBegin (h : s.MemWf) : s.suspendBegin.MemWf := by
  unfold State.suspendBegin
  extract_lets _ s1
  have hs1 : s1.MemWf := by
    unfold s1
    split
    · exact h.sawPool
    · exact h
  exact hs1.modCur

theorem State.MemWf.putRecord (h : s.MemWf) : (s.putRecord lead a rid words).MemWf := by
  unfold State.putRecord
  extract_lets _ _ _ _ s1 _ s2
  have hs1 : s1.MemWf := h.writeRec.modReam
  have hs2 : s2.MemWf := hs1.seen
  split
  · exact hs2.makeReady
  · exact hs2.update

theorem State.MemWf.retireTask (h : s.MemWf) : StateOption.MemWf (s.retireTask lead) := by
  unfold State.retireTask
  extract_lets s1
  have hs1 : s1.MemWf := h.foldl fun _ _ h1 => h1.discard
  split
  · exact .some (h.foldl fun _ _ h1 => h1.freeCore)
  · split
    · exact .some hs1.endUnit
    · refine hs1.counter.bind fun t ht => ?_
      extract_lets s2
      have hs2 : s2.MemWf := by
        unfold s2
        split
        · exact ht
        · exact ht.setStat.modReam
      refine .some ?_
      split
      · exact hs2.endUnit
      · exact hs2.foldl fun _ _ h1 => h1.modCore

theorem State.MemWf.parkTask (h : s.MemWf) : (s.parkTask lead a words).MemWf := by
  unfold State.parkTask
  split
  · exact h.foldl fun _ _ h1 => h1.freeCore
  · split
    · exact h.endAborted
    · exact h.putRecord.endUnit

theorem State.MemWf.holdUnit (h : s.MemWf) : (s.holdUnit cs k).MemWf :=
  h.foldl fun _ _ h1 => h1.modCore

theorem State.MemWf.closeStep (h : s.MemWf) : (s.closeStep lead).MemWf := by
  unfold State.closeStep
  extract_lets
  split
  · exact h
  · split
    · exact h.holdUnit
    · split
      · split
        · exact h.holdUnit
        · exact h.parkTask
      · exact h.retireTask.getD h.holdUnit

theorem State.MemWf.execLaunch (h : s.MemWf) : Result.MemWf (execLaunch x s) := by
  refine h.lateOp (fun _ h1 => h1.modCur) fun t ht => ?_
  split
  · exact ht
  · split
    · rename_i e
      exact (ht.readNow.map_reamFrom.get e).createReam
    · exact ht

/-! ## The matrix engine (Machine/Matrix.lean) -/

theorem State.MemWf.mcallOp (h : s.MemWf) : Result.MemWf (mcallOp i x s) :=
  h.issueOp fun _ h1 => h1.modCur

theorem State.MemWf.execMstop (h : s.MemWf) : Result.MemWf (execMstop x s) := by
  unfold Machine.execMstop
  exact h.issueOp fun _ h1 => h1.modCur.owe

theorem State.MemWf.payReleased (h : s.MemWf) : (s.payReleased c).MemWf :=
  h.modCore

theorem State.MemWf.execRoutineStep (h : s.MemWf) : Result.MemWf (execRoutineStep c s) := by
  unfold Machine.execRoutineStep
  extract_lets s1
  have hs1 : s1.MemWf := h.payReleased
  split
  · exact .next hs1
  · extract_lets s2
    have hs2 : s2.MemWf := by
      unfold s2
      split
      · exact hs1.acquire
      · exact hs1
    split
    · exact .next hs1
    · split
      · exact .next hs2
      · exact .next hs2.setCore

/-! ## The handler, keys and shootdowns (Machine/System.lean) -/

theorem State.MemWf.execSnwr (h : s.MemWf) : Result.MemWf (execSnwr x s) := by
  unfold Machine.execSnwr
  refine h.issueOp fun t1 h1 => ?_
  extract_lets
  split
  · exact h1.modCur
  · exact h1.setP15

theorem State.MemWf.sendReplays (h : s.MemWf) : (s.sendReplays c).MemWf :=
  h.modCore.pushLoads

theorem State.MemWf.dropLoads (h : s.MemWf) : (s.dropLoads c xs).MemWf :=
  h.abandon.modCore

theorem State.MemWf.leaveHandler (h : s.MemWf) : (s.leaveHandler c).MemWf :=
  h.dropLoads.modCore.sendReplays

theorem State.MemWf.setKey (h : s.MemWf) : (s.setKey n k).MemWf :=
  h.update

theorem State.MemWf.installKey (h : s.MemWf) : (s.installKey n gen vf reach k mine).MemWf :=
  h.update

theorem State.MemWf.destroyKey (h : s.MemWf) : (s.destroyKey n).MemWf :=
  h.update

theorem State.MemWf.holdKey (h : s.MemWf) : (s.holdKey vf f).MemWf :=
  h.modWorld

theorem State.MemWf.beginOpen (h : s.MemWf) : (s.beginOpen mask).MemWf := by
  unfold State.beginOpen
  extract_lets
  split
  · exact h.modCur
  · split
    · exact h.modCur
    · extract_lets _ s1 _ s2
      have hs1 : s1.MemWf := h.installKey
      have hs2 : s2.MemWf := by
        unfold s2
        split
        · exact hs1.holdKey
        · exact hs1.update
      exact hs2.modCur

theorem State.MemWf.execSeqopen (h : s.MemWf) : Result.MemWf (execSeqopen x s) := by
  unfold Machine.execSeqopen
  refine h.lateOp (fun t1 h1 => ?_) fun t2 h2 => ?_
  · extract_lets s1
    have hs1 : s1.MemWf := h1.modCur
    split
    · exact hs1.beginOpen
    · exact hs1
  · extract_lets key s2
    have hs2 : s2.MemWf := h2.modCur
    clear_value key
    split
    · split
      · exact hs2.putS
      · exact hs2.putS.setP15
    · exact hs2

theorem State.MemWf.beginEnd (h : s.MemWf) : (s.beginEnd h').MemWf := by
  unfold State.beginEnd
  extract_lets
  split
  · exact h.modCur
  · exact h.update.modCur

theorem State.MemWf.execSeqend (h : s.MemWf) : Result.MemWf (execSeqend x s) := by
  unfold Machine.execSeqend
  refine h.lateOp (fun t1 h1 => ?_) fun t2 h2 => ?_
  · extract_lets s1
    have hs1 : s1.MemWf := h1.modCur
    split
    · exact hs1.beginEnd
    · exact hs1
  · extract_lets _ s2
    have hs2 : s2.MemWf := h2.modCur
    split
    · exact hs2.setP15
    · exact hs2

theorem State.MemWf.execSeqbind (h : s.MemWf) : Result.MemWf (execSeqbind x s) := by
  unfold Machine.execSeqbind
  refine h.issueOp fun t1 h1 => ?_
  split
  · exact h1.putCr
  · exact h1.setP15

theorem State.MemWf.settleKey (h : s.MemWf) : (s.settleKey op).MemWf := by
  unfold State.settleKey
  extract_lets s1 s2
  have hs1 : s1.MemWf := h.update
  have hs2 : s2.MemWf := by
    unfold s2
    split
    · exact hs1
    · split
      · exact hs1.holdKey
      · exact hs1.destroyKey
  split
  · exact h
  · exact hs2.modCore

theorem State.MemWf.answerKey (h : s.MemWf) : (s.answerKey op m ok).MemWf :=
  h.update.settleKey

theorem State.MemWf.execKeyInstall (h : s.MemWf) : Result.MemWf (execKeyInstall x s) := by
  unfold Machine.execKeyInstall
  split
  · split
    · exact .next h
    · split
      · exact .next h.answerKey
      · exact .next h
  · extract_lets
    split
    · exact .next h
    · split
      · exact .next h.emit
      · exact .next h.installKey.holdKey.emit

theorem State.MemWf.sealKey (h : s.MemWf) : (s.sealKey h').MemWf :=
  ((h.raise.foldl fun _ _ h1 => h1.modCore.abandon).foldl fun _ _ h2 => h2.modDie).update.destroyKey.holdKey.modWorld

theorem State.MemWf.execSealPoint (h : s.MemWf) : Result.MemWf (execSealPoint handle s) := by
  unfold Machine.execSealPoint
  extract_lets
  split
  · exact .next h
  · split
    · exact .next h
    · exact .next (h.sealKey.foldl fun _ _ h1 => h1.answerKey)

theorem State.MemWf.beginTinv (h : s.MemWf) : (s.beginTinv a b).MemWf :=
  h.shoot.modCur

theorem State.MemWf.execTinv (h : s.MemWf) : Result.MemWf (execTinv x s) := by
  unfold Machine.execTinv
  refine h.lateOp (fun t1 h1 => ?_) fun _ h2 => h2.modCur
  split
  · exact h1.beginTinv
  · exact h1

theorem State.MemWf.extendWM (h : s.MemWf) : (s.extendWM vf item).MemWf := by
  unfold State.extendWM
  split
  · exact h.modWorld
  · exact h

theorem State.MemWf.afterShoot (h : s.MemWf) : (s.afterShoot vf x).MemWf := by
  unfold State.afterShoot
  split
  · exact h
  · split
    · exact h.update.extendWM.extendWM
    · exact h
  · split
    · exact h.emit
    · exact h.modWorld.extendWM

theorem State.MemWf.execShootdownComplete (h : s.MemWf) : Result.MemWf (execShootdownComplete idx s) := by
  unfold Machine.execShootdownComplete
  split
  · exact .next h
  · extract_lets s1 s2 s3
    have hs1 : s1.MemWf := h.shootDrop
    have hs2 : s2.MemWf := hs1.update
    have hs3 : s3.MemWf := hs2.afterShoot.retryHeld
    split
    · exact .next h
    · refine .next ?_
      split
      · exact hs3.modCore
      · exact hs3

/-! ## The fabric (Machine/Fabric.lean) -/

theorem State.MemWf.pumpAll (h : s.MemWf) : s.pumpAll.MemWf :=
  h.foldl fun _ _ h1 => h1.pump.deliverDone

theorem State.MemWf.sendWaiting (h : s.MemWf) : (s.sendWaiting vf m).MemWf :=
  h.update.release

theorem State.MemWf.refuseHeld (h : s.MemWf) : (s.refuseHeld vf m).MemWf :=
  h.update.foldl fun _ _ h1 => h1.foldl fun _ _ h2 => h2.closeReq

theorem State.MemWf.setPeer (h : s.MemWf) : (s.setPeer vf m st told).MemWf := by
  unfold State.setPeer
  extract_lets _ _ _ s1 s2 s3
  have hs1 : s1.MemWf := h.modWorld
  have hs2 : s2.MemWf := by
    unfold s2
    split
    · exact hs1
    · exact hs1.hwStore
  have hs3 : s3.MemWf := hs2.modWorld
  split
  · exact h
  · refine .pumpAll ?_
    split
    · exact hs3.sendWaiting
    · exact hs3.refuseHeld

theorem State.MemWf.execLaneTraining (h : s.MemWf) : Result.MemWf (execLaneTraining plane peer ok s) := by
  unfold Machine.execLaneTraining
  extract_lets s1
  have hs1 : s1.MemWf := h.leaveLane
  refine .next ?_
  split
  · exact hs1.modLane.emit
  · exact hs1

theorem State.MemWf.execLinkAck (h : s.MemWf) : Result.MemWf (execLinkAck plane peer count s) := by
  unfold Machine.execLinkAck
  extract_lets
  split
  · exact .next h
  · exact .next h.modLane.release

theorem State.MemWf.execReplayRequest (h : s.MemWf) : Result.MemWf (execReplayRequest plane peer count s) := by
  unfold Machine.execReplayRequest
  extract_lets _ _ s1
  have hs1 : s1.MemWf := h.modLane
  split
  · exact .next h
  · split
    · exact .next h.leaveLane
    · exact .next (hs1.foldl fun _ _ h1 => h1.emit)

theorem State.MemWf.execLitSetChange (h : s.MemWf) : Result.MemWf (execLitSetChange peer s) := by
  unfold Machine.execLitSetChange
  extract_lets _ _ s1 s2
  have hs1 : s1.MemWf := h.update
  have hs2 : s2.MemWf := by
    unfold s2
    split
    · exact hs1
    · exact hs1.foldl fun _ _ h1 => h1.setPeer
  split
  · exact .next h
  · split
    · exact .next h
    · exact .next hs2.release.pumpAll

theorem State.MemWf.execFabricWorldInstall (h : s.MemWf) : Result.MemWf (execFabricWorldInstall x s) := by
  unfold Machine.execFabricWorldInstall
  extract_lets
  split
  · exact .next h
  · split
    · exact .next h.emit
    · exact .next h.update.modWorld.writePeers

theorem State.MemWf.modMon (h : s.MemWf) : (s.modMon f).MemWf :=
  h.update

theorem State.MemWf.takeBar (h : s.MemWf) : (s.takeBar x vf).MemWf := by
  unfold State.takeBar
  extract_lets
  split
  · exact h.modWorld
  · exact h.dropPacket

theorem State.MemWf.poisonPod (h : s.MemWf) : (s.poisonPod vf i).MemWf := by
  unfold State.poisonPod
  extract_lets
  refine .podStep ?_
  split
  · exact h.barSpoil
  · exact h.modWorld

theorem State.MemWf.takeBpoi (h : s.MemWf) : (s.takeBpoi x vf).MemWf := by
  unfold State.takeBpoi
  extract_lets _ s1
  have hs1 : s1.MemWf := h.raise
  split
  · exact hs1.poisonPod
  · split
    · exact hs1.modWorld
    · exact hs1.dropPacket

theorem State.MemWf.acceptBar {f : Nat → State → State} (h : s.MemWf)
    (hf : ∀ x1 t, t.MemWf → State.MemWf (f x1 t)) : Result.MemWf (s.acceptBar op x f) := by
  unfold State.acceptBar
  split
  · exact .next h.acceptOn.modMon
  · exact h.accept fun _ _ h1 => hf _ _ h1

theorem State.MemWf.takeDiap (h : s.MemWf) : (s.takeDiap x vf).MemWf := by
  unfold State.takeDiap
  extract_lets _ s1
  have hs1 : s1.MemWf := by
    unfold s1
    split
    · exact h
    · exact h.raise
  exact hs1.setPeer

theorem State.MemWf.sendResume (h : s.MemWf) : (s.sendResume vf m).MemWf :=
  h.foldl fun _ _ h1 => h1.transmit

theorem State.MemWf.takeResume (h : s.MemWf) : (s.takeResume x vf).MemWf := by
  unfold State.takeResume
  extract_lets _ s1 s2
  have hs1 : s1.MemWf := by
    unfold s1
    refine h.foldl fun t1 _ h1 => ?_
    split
    · exact h1.sealKey
    · exact h1
  have hs2 : s2.MemWf := by
    unfold s2
    split
    · exact hs1.modWorld
    · exact hs1.sendResume
  split
  · exact hs1
  · exact hs2.setPeer

theorem State.MemWf.takeControl (h : s.MemWf) : (s.takeControl op x vf).MemWf := by
  unfold State.takeControl
  split
  · exact h.takeBar
  · exact h.takeBpoi
  · exact h.takeDiap
  · exact h.takeResume

theorem State.MemWf.takeWaiting (h : s.MemWf) : s.takeWaiting.MemWf := by
  unfold State.takeWaiting
  refine h.modMon.foldl fun t1 _ h1 => ?_
  split
  · exact h1.modMon
  · split
    · exact h1.dropPacket
    · exact h1.takeControl

theorem State.MemWf.lateReply (h : s.MemWf) : (s.lateReply x).MemWf := by
  unfold State.lateReply
  extract_lets
  split
  · exact h.modDie
  · exact h.modDie

theorem State.MemWf.settleQueries (h : s.MemWf) : (s.settleQueries d).MemWf := by
  unfold State.settleQueries
  extract_lets _ _ s1
  have hs1 : s1.MemWf := h.modDie
  refine hs1.foldl fun t1 _ h1 => ?_
  split
  · split
    · exact h1.learned
    · split
      · exact h1
      · exact h1.ask
  · exact h1

theorem State.MemWf.afterReply (h : s.MemWf) : (s.afterReply d).MemWf :=
  h.deliverDone.settleQueries.pump.deliverDone.retryHeld

theorem State.MemWf.endReq (h : s.MemWf) : (s.endReq d r cause data).MemWf :=
  h.modDie.closeReq.afterReply

theorem State.MemWf.reply {f : Nat → Req → State → State} (h : s.MemWf)
    (hf : ∀ x1 x2 t, t.MemWf → State.MemWf (f x1 x2 t)) : Result.MemWf (s.reply op x f) := by
  unfold State.reply
  refine h.accept fun _ t1 h1 => ?_
  split
  · exact hf _ _ _ h1
  · exact h1.lateReply

theorem State.MemWf.execData (h : s.MemWf) : Result.MemWf (execData x s) := by
  unfold Machine.execData
  refine h.reply fun _ _ t1 h1 => ?_
  extract_lets _ s1
  have hs1 : s1.MemWf := by
    unfold s1
    split
    · exact h1.modDie
    · exact h1
  exact hs1.endReq

theorem State.MemWf.execNack (h : s.MemWf) : Result.MemWf (execNack x s) := by
  unfold Machine.execNack
  extract_lets
  refine h.reply fun _ _ t1 h1 => ?_
  split
  · exact h1.dropPacket
  · split
    · exact h1.modDie.pump
    · exact h1.endReq

theorem State.MemWf.learnOwner (h : s.MemWf) : (s.learnOwner d r new).MemWf := by
  unfold State.learnOwner
  extract_lets
  split
  · exact h
  · exact h.modDie

theorem State.MemWf.execRedirect (h : s.MemWf) : Result.MemWf (execRedirect x s) := by
  unfold Machine.execRedirect
  extract_lets
  refine h.reply fun _ _ t1 h1 => ?_
  extract_lets s1 s2
  have hs1 : s1.MemWf := h1.modDie.shootDrop
  have hs2 : s2.MemWf := h1.modDie
  split
  · exact h1.learnOwner.closeReq.afterReply
  · split
    · exact h1.dropPacket
    · split
      · exact hs1.afterReply
      · split
        · exact h1.modDie.pump
        · exact hs2.learnOwner

theorem State.MemWf.execTagTimeout (h : s.MemWf) : Result.MemWf (execTagTimeout d tag s) := by
  unfold Machine.execTagTimeout
  split
  · exact .next h
  · extract_lets s1 s2
    have hs1 : s1.MemWf := h.modDie
    have hs2 : s2.MemWf := by
      unfold s2
      split
      · exact hs1.fabricReport
      · exact hs1
    split
    · exact .next h
    · exact .next hs2.deliverDone.settleQueries.pump

theorem State.MemWf.execTagQuarantineExpiry (h : s.MemWf) : Result.MemWf (execTagQuarantineExpiry d tag s) := by
  unfold Machine.execTagQuarantineExpiry
  split
  · exact .next h
  · extract_lets s1
    have hs1 : s1.MemWf := h.modDie
    split
    · exact .next h
    · exact .next hs1.pump.deliverDone

theorem State.MemWf.execBusyResend (h : s.MemWf) : Result.MemWf (execBusyResend d tag s) := by
  unfold Machine.execBusyResend
  split
  · exact .next h
  · extract_lets s1
    have hs1 : s1.MemWf := h.modDie
    split
    · exact .next h
    · exact .next hs1.pump.deliverDone

theorem State.MemWf.execRcpoGroupAbandon (h : s.MemWf) : Result.MemWf (execRcpoGroupAbandon d idx s) := by
  unfold Machine.execRcpoGroupAbandon
  split
  · exact .next h
  · extract_lets _ _ _ s1 s2
    have hs1 : s1.MemWf := h.modDie
    have hs2 : s2.MemWf := by
      unfold s2
      refine hs1.foldl fun t1 _ h1 => ?_
      split
      · exact h1.endStaged
      · exact h1
    split
    · exact .next h
    · exact .next hs2.report

/-! ## Queues (Machine/Queues.lean) -/

theorem State.MemWf.modQueue (h : s.MemWf) : (s.modQueue q f).MemWf :=
  h.update

theorem State.MemWf.askHost (h : s.MemWf) : (s.askHost vf page).MemWf := by
  unfold State.askHost
  extract_lets
  split
  · exact h
  · exact h.update.emit

theorem State.MemWf.askRange (h : s.MemWf) : (s.askRange vf a n).MemWf :=
  h.askHost.askHost

theorem State.MemWf.hostAsk (h : s.MemWf) : (s.hostAsk i).MemWf := by
  unfold State.hostAsk
  extract_lets _ s1
  have hs1 : s1.MemWf := h.modQueue
  split
  · exact h
  · split
    · exact h.modQueue
    · split
      · exact h.modQueue
      · split
        · exact hs1.update
        · exact h

theorem State.MemWf.queueBytes (h : s.MemWf) : (s.queueBytes q a n).1.MemWf := by
  unfold State.queueBytes
  extract_lets s1
  have hs1 : s1.MemWf := h.askRange
  split
  · split
    · exact hs1
    · exact h
  · split
    · rename_i e1
      exact h.flatBytes.get e1
    · exact h

theorem State.MemWf.queueStore (h : s.MemWf) : (s.queueStore q a bs).MemWf := by
  unfold State.queueStore
  extract_lets s1 r
  have hs1 : s1.MemWf := h.askRange
  have hr : r.1.MemWf := h.flatStore
  split
  · split
    · exact ⟨hs1.1, Memory.wf_foldl (fun _ _ hm => Memory.wf_setByte _ _ _ hm) hs1.2⟩
    · exact h
  · split
    · exact hr
    · exact h.refuse

theorem State.MemWf.completeEntry (h : s.MemWf) : (s.completeEntry id' i ok).MemWf := by
  unfold State.completeEntry
  extract_lets
  split
  · rename_i t1 t2 _ e1
    have ht2 : t2.MemWf := h.queueBytes.of_pair e1
    extract_lets _ p1 s1
    have hp1 : p1.1.MemWf := ht2.flatStore
    have hs1 : s1.MemWf := by
      unfold s1
      split
      · exact ht2
      · split
        · exact ht2.refuse
        · split
          · exact hp1
          · exact ht2.refuse
    exact hs1.queueStore.emit

theorem State.MemWf.execQueueMap (h : s.MemWf) : Result.MemWf (execQueueMap q x s) := by
  unfold Machine.execQueueMap
  extract_lets
  split
  · split
    · exact .next h.modQueue
    · exact .next h
  · split
    · exact .next h.modQueue
    · exact .next h
  · exact .next h.modQueue

theorem State.MemWf.execDoorbellWrite (h : s.MemWf) : Result.MemWf (execDoorbellWrite vf q tail s) := by
  unfold Machine.execDoorbellWrite
  extract_lets _ _ s1
  have hs1 : s1.MemWf := h.raise
  split
  · exact .next h
  · split
    · exact .next hs1.modQueue
    · exact .next hs1

theorem State.MemWf.abortEntry (h : s.MemWf) : (s.abortEntry i).MemWf :=
  h.completeEntry.modQueue

theorem State.MemWf.execQueueDispatch (h : s.MemWf) : Result.MemWf (execQueueDispatch q s) := by
  unfold Machine.execQueueDispatch
  extract_lets _ _ s1
  have hs1 : s1.MemWf := h.hostAsk
  split
  · exact .next h
  · split
    · exact .next h.hostAsk
    · split
      · exact .next h.abortEntry
      · split
        · rename_i e1
          exact .next (hs1.queueBytes.of_pair e1).completeEntry.modQueue
        · rename_i t1 t2 _ e2
          have ht2 : t2.MemWf := hs1.queueBytes.of_pair e2
          extract_lets
          split
          · exact .next ht2.completeEntry.modQueue
          · split
            · exact .next ht2
            · split
              · rename_i e3
                exact .next (ht2.readReam.get e3).createReam.modQueue
              · rename_i e4
                exact .next (ht2.readReam.get e4).completeEntry.modQueue
              · exact .next ht2.completeEntry.modQueue

theorem State.MemWf.execQueueEntryComplete (h : s.MemWf) : Result.MemWf (execQueueEntryComplete rid s) := by
  unfold Machine.execQueueEntryComplete
  split
  · exact .next h
  · split
    · exact .next h
    · split
      · exact .next h
      · split
        · exact .next h.hostAsk
        · exact .next h.hostAsk.modReam.completeEntry.sweep

theorem State.MemWf.abortEntries (h : s.MemWf) : (State.abortEntries q n s).MemWf := by
  induction n generalizing s with
  | zero => exact h
  | succ n ih =>
    unfold State.abortEntries
    extract_lets
    split
    · exact h
    · exact ih h.abortEntry

theorem State.MemWf.tearQueue (h : s.MemWf) : (s.tearQueue i).MemWf := by
  unfold State.tearQueue
  extract_lets _ _ s1
  have hs1 : s1.MemWf := by
    unfold s1
    refine h.foldl fun t1 _ h1 => ?_
    extract_lets
    split
    · exact h1.abortReam
    · exact h1.modReam.completeEntry.abortReam
  exact hs1.modQueue.abortEntries

/-! ## Stream engines (Machine/Engines.lean) -/

theorem State.MemWf.execStreamAddressPlace (h : s.MemWf) : Result.MemWf (execStreamAddressPlace c q s) := by
  unfold Machine.execStreamAddressPlace
  extract_lets
  split
  · exact .next h
  · split
    · exact .next h
    · exact .next h.modCore

theorem State.MemWf.execStreamFetchSend (h : s.MemWf) : Result.MemWf (execStreamFetchSend c q s) := by
  unfold Machine.execStreamFetchSend
  extract_lets
  split
  · exact .next h
  · extract_lets
    split
    · exact .next h
    · split
      · exact .next h.want
      · exact .next h.lateFault
      · extract_lets s1
        have hs1 : s1.MemWf := h.modCore
        refine .next ?_
        split
        · exact hs1
        · refine hs1.foldl fun t1 _ h1 => ?_
          split
          · exact h1
          · exact h1.seek

theorem State.MemWf.dropOld (h : s.MemWf) : (s.dropOld c q now).MemWf :=
  h.abandon.modDie

theorem State.MemWf.execStreamFetchLand (h : s.MemWf) : Result.MemWf (execStreamFetchLand c q s) := by
  unfold Machine.execStreamFetchLand
  extract_lets _ _ _ _ s1
  have hs1 : s1.MemWf := h.dropOld
  split
  · exact .next h
  · extract_lets
    split
    · exact .next h
    · split
      · exact .next hs1.modCore
      · split
        · exact .next hs1.modCore
        · split
          · split
            · exact .next hs1
            · exact .next hs1.modCore
          · split
            · refine .next ?_
              split
              · exact hs1.modCore.dropDone
              · exact hs1.lateFault
            · rename_i e1
              exact .next (hs1.runsReady.get e1)
            · rename_i t1 e2
              have ht1 : t1.MemWf := hs1.runsReady.get e2
              extract_lets p1
              have hp1 : p1.1.MemWf := ht1.readRuns
              split
              · exact .next ht1.dropDone.lateFault
              · exact .next hp1.modCore.dropDone

theorem State.MemWf.writeFar (h : s.MemWf) : (s.writeFar c m tid o p).1.MemWf := by
  unfold State.writeFar
  extract_lets _ _ s1
  have hs1 : s1.MemWf := h.modDie
  split
  · exact h.askTile
  · split
    · exact h
    · split
      · exact hs1
      · exact hs1.fabricReport

theorem State.MemWf.writePiece (h : s.MemWf) : (s.writePiece c q x bad p).1.MemWf := by
  unfold State.writePiece
  extract_lets
  split
  · split
    · exact h.setCore
    · exact h
  · split
    · exact h.want
    · exact h.refuse
    · extract_lets p1
      have hp1 : p1.1.MemWf := h.writeUnit
      split
      · split
        · exact h.spoilUnit
        · exact h.refuse
      · split
        · exact h.writeFar
        · split
          · exact hp1
          · exact hp1
          · exact hp1.refuse
          · exact hp1.countSealed

theorem State.MemWf.writePieces (h : s.MemWf) : (State.writePieces c q x bad l n s).1.MemWf := by
  induction l generalizing n s with
  | nil => exact h
  | cons p l ih =>
    unfold State.writePieces
    extract_lets w
    have hw : w.1.MemWf := h.writePiece
    split
    · exact ih hw
    · exact hw

theorem State.MemWf.execStreamOutputWrite (h : s.MemWf) : Result.MemWf (execStreamOutputWrite c q s) := by
  unfold Machine.execStreamOutputWrite
  extract_lets
  split
  · exact .next h
  · split
    · exact .next h
    · split
      · exact .next h.want
      · split
        · exact .next h.lateFault
        · exact .next h.refuse.modCore
      · extract_lets _ p1
        have hp1 : p1.1.MemWf := h.writePieces
        split
        · exact .next hp1.modCore
        · exact .next ((hp1.foldl fun _ _ h1 => h1.refuse).modCore)

theorem State.MemWf.execInstructionRefetch (h : s.MemWf) : Result.MemWf (execInstructionRefetch c s) :=
  .next h.modCore

theorem State.MemWf.execEviction (h : s.MemWf) : Result.MemWf (execEviction x s) := by
  unfold Machine.execEviction
  refine .next ?_
  split
  · exact h.modDie
  · exact h.modDie
  · exact h.update
  · exact h.update
  · exact h.modDie

theorem State.MemWf.countCorrected (h : s.MemWf) : (s.countCorrected frame).MemWf := by
  unfold State.countCorrected
  extract_lets _ s1
  have hs1 : s1.MemWf := h.update
  split
  · exact hs1.raiseRetirement
  · exact hs1

theorem State.MemWf.spoilLine (h : s.MemWf) : (s.spoilLine l ecc).MemWf :=
  h.update

theorem State.MemWf.execSoftError (h : s.MemWf) : Result.MemWf (execSoftError x s) := by
  unfold Machine.execSoftError
  extract_lets
  refine .next ?_
  extract_lets
  split
  · exact h.modCore
  · exact h.modCore
  · exact h.modCore
  · exact h.modCore
  · exact h.modCore
  · exact h.modCore
  · exact h.modCore
  · exact h.modCore
  · exact h.modCore
  · exact h.modCore
  · exact h.modCore
  · exact h.modCore
  · exact h.modCore
  · exact h.spoilLine
  · exact h.countCorrected
  · exact h
  · exact h.spoilLine
  · exact h.modDie
  · exact h.update

/-! ## Scalar and control ops (Machine/Scalar.lean) -/

theorem State.MemWf.scRR (h : s.MemWf) : Result.MemWf (scRR lat f x s) :=
  h.issueOp fun _ h1 => h1.putS

theorem State.MemWf.scR (h : s.MemWf) : Result.MemWf (scR f x s) :=
  h.issueOp fun _ h1 => h1.putS

theorem State.MemWf.scRI (h : s.MemWf) : Result.MemWf (scRI lat f x s) :=
  h.issueOp fun _ h1 => h1.putS

theorem State.MemWf.scCmp (h : s.MemWf) : Result.MemWf (scCmp f x s) :=
  h.issueOp fun _ h1 => h1.putP

theorem State.MemWf.scCmpI (h : s.MemWf) : Result.MemWf (scCmpI f x s) :=
  h.issueOp fun _ h1 => h1.putP

theorem State.MemWf.scPL (h : s.MemWf) : Result.MemWf (scPL f x s) :=
  h.issueOp fun _ h1 => h1.putP

theorem State.MemWf.execPmovs (h : s.MemWf) : Result.MemWf (execPmovs x s) := by
  unfold Machine.execPmovs
  refine h.issueOp fun t1 h1 => ?_
  extract_lets
  refine h1.foldl fun t2 _ h2 => ?_
  split
  · exact h2.putP
  · exact h2

theorem State.MemWf.goto (h : s.MemWf) : (s.goto t).MemWf :=
  h.modCur

/-! ## Freezes, saves and restores (Machine/Traps.lean) -/

theorem State.MemWf.execBudgetExhausted (h : s.MemWf) : Result.MemWf (execBudgetExhausted c s) := by
  unfold Machine.execBudgetExhausted
  extract_lets
  split
  · split
    · exact .next h.freezeCore
    · exact .next h.update
  · exact .next h

theorem State.MemWf.stopCore (h : s.MemWf) : (s.stopCore c r l).MemWf :=
  h.dropWait.modCore

theorem State.MemWf.dropReads (h : s.MemWf) : (s.dropReads c).MemWf :=
  h.abandon

theorem State.MemWf.unsave (h : s.MemWf) : (s.unsave c).MemWf :=
  h.update

theorem State.MemWf.killUnit (h : s.MemWf) : (s.killUnit lead).MemWf := by
  unfold State.killUnit
  extract_lets s1
  have hs1 : s1.MemWf := h.foldl fun _ _ h1 => h1.modCore
  split
  · exact h
  · extract_lets s2
    have hs2 : s2.MemWf := by
      unfold s2
      split
      · exact hs1
      · exact hs1.setStat.modReam
    exact (hs2.foldl fun _ _ h2 => h2.unsave).abortReam.endUnit

theorem State.MemWf.tryKill (h : s.MemWf) : (s.tryKill c).MemWf := by
  unfold State.tryKill
  split
  · exact h.killUnit
  · exact h

theorem State.MemWf.stopSpan (h : s.MemWf) : (s.stopSpan c).MemWf := by
  unfold State.stopSpan
  extract_lets
  split
  · exact h
  · exact h.modCore

theorem State.MemWf.execFreezeLatch (h : s.MemWf) : Result.MemWf (execFreezeLatch c s) := by
  unfold Machine.execFreezeLatch
  extract_lets
  split
  · exact .next h
  · extract_lets p1 s1
    have hp1 : p1.1.MemWf := by
      unfold p1
      split
      · exact h.raise
      · exact h
    have hs1 : s1.MemWf := hp1.dropReads.modCore
    split
    · refine .next ?_
      split
      · exact h.stopSpan
      · exact h
    · exact .next hs1.report.tryKill

theorem State.MemWf.execHandlerQuietTimeout (h : s.MemWf) : Result.MemWf (execHandlerQuietTimeout c s) := by
  unfold Machine.execHandlerQuietTimeout
  extract_lets
  split
  · exact .next h
  · split
    · exact .next h.dropLoads.modCore.stopCore
    · exact .next h

theorem State.MemWf.request (h : s.MemWf) : (s.request c r).MemWf := by
  unfold State.request
  refine h.foldl fun t1 _ h1 => ?_
  extract_lets _ s1
  have hs1 : s1.MemWf := h1.modCore
  split
  · split
    · exact hs1
    · exact hs1.report
  · exact hs1

theorem State.MemWf.execPreempt (h : s.MemWf) : Result.MemWf (execPreempt c s) := by
  unfold Machine.execPreempt
  extract_lets _ s1
  have hs1 : s1.MemWf := h.raise
  split
  · exact .next h
  · split
    · exact .next hs1.report
    · exact .next hs1.request

theorem State.MemWf.endStep (h : s.MemWf) : (s.endStep lead).MemWf := by
  unfold State.endStep
  extract_lets
  split
  · exact h.killUnit
  · exact h.closeStep

theorem State.MemWf.orderKill (h : s.MemWf) : (s.orderKill n c).MemWf := by
  unfold State.orderKill
  extract_lets s1
  have hs1 : s1.MemWf := h.request
  split
  · exact h
  · split
    · exact hs1.killUnit
    · exact hs1.tryKill

theorem State.MemWf.execSupervisorKill (h : s.MemWf) : Result.MemWf (execSupervisorKill c s) := by
  unfold Machine.execSupervisorKill
  split
  · exact .next h
  · exact .next h.raise.orderKill

theorem State.MemWf.execRewind (h : s.MemWf) : Result.MemWf (execRewind c s) := by
  unfold Machine.execRewind
  extract_lets
  split
  · exact .next h
  · extract_lets _ s1
    have hs1 : s1.MemWf := h.abandon
    split
    · exact .next h
    · exact .next hs1.modCore

theorem State.MemWf.hwStoreUnder (h : s.MemWf) : (s.hwStoreUnder vf a h' bs).MemWf := by
  unfold State.hwStoreUnder
  split
  · exact h
  · exact h.writeUnit

theorem State.MemWf.saveLines (h : s.MemWf) : (s.saveLines c vf addr k n i).MemWf := by
  induction n generalizing s i with
  | zero => exact h
  | succ n ih => exact ih h.hwStore

theorem State.MemWf.execSaveAreaWrite (h : s.MemWf) : Result.MemWf (execSaveAreaWrite c addr s) := by
  unfold Machine.execSaveAreaWrite
  extract_lets _ _ s1 s2 s3
  have hs1 : s1.MemWf := h.saveLines
  have hs2 : s2.MemWf := hs1.foldl fun _ _ h1 => h1.hwStore
  have hs3 : s3.MemWf := by
    unfold s3
    refine hs2.foldl fun t1 _ h2 => ?_
    split
    · exact h2.hwStoreUnder
    · exact h2
  split
  · exact .next h
  · exact .next hs3.update

theorem State.MemWf.sawImage (h : s.MemWf) : (s.sawImage vf addr).MemWf :=
  h.foldl fun _ _ h1 => h1.seen

theorem State.MemWf.loadSlot (h : s.MemWf) : (s.loadSlot c vf addr n).MemWf := by
  unfold State.loadSlot
  extract_lets
  split
  · exact h
  · split
    · exact h.modCore
    · split
      · exact h.modCore
      · split
        · exact h.modCore
        · rename_i t1 _ e1
          have ht1 : t1.MemWf := h.readUnit.get e1
          split
          · exact ht1.modCore
          · exact ht1.modCore

theorem State.MemWf.restoreCore (h : s.MemWf) : (s.restoreCore c vf addr).MemWf :=
  (h.unsave.setCore.foldl fun _ _ h1 => h1.loadSlot).sendReplays

theorem State.MemWf.vacate (h : s.MemWf) : (s.vacate lead).MemWf :=
  h.foldl fun _ _ h1 => h1.unsave.freeCore.modCore

theorem State.MemWf.restoreAll (h : s.MemWf) : StateOption.MemWf (s.restoreAll vf l) := by
  unfold State.restoreAll
  extract_lets _ s1 _ s2 _ _ _ s3
  have hs1 : s1.MemWf := h.foldl fun _ _ h1 => h1.restoreCore
  have hs2 : s2.MemWf := hs1.foldl fun _ _ h2 => h2.vacate
  have hs3 : s3.MemWf := hs2.update
  split
  · exact .none
  · exact .some hs3.update

theorem State.MemWf.placeImage (h : s.MemWf) : (s.placeImage c).MemWf := by
  unfold State.placeImage
  split
  · exact h
  · split
    · exact h
    · exact h.modCore

theorem State.MemWf.execSnapshotRestore (h : s.MemWf) : Result.MemWf (execSnapshotRestore c addr s) := by
  unfold Machine.execSnapshotRestore
  extract_lets _ _ s1
  have hs1 : s1.MemWf := by
    unfold s1
    split
    · exact h.foldl fun _ _ h1 => h1.sawImage
    · exact h
  split
  · exact .next h
  · split
    · exact .next hs1.report
    · rename_i t e
      have ht : t.MemWf := by
        split at e
        · cases e
        · exact hs1.restoreAll.get e
      refine .next (ht.foldl fun t _ h1 => ?_)
      split
      · exact h1.placeImage
      · exact h1

theorem State.MemWf.execBudgetRefill (h : s.MemWf) : Result.MemWf (execBudgetRefill c budget s) := by
  unfold Machine.execBudgetRefill
  extract_lets
  split
  · split
    · exact .next h.raise.modCore.unsave.pushLoads
    · exact .next h
  · exact .next h

theorem State.MemWf.execContinuationRecordWrite (h : s.MemWf) : Result.MemWf
    (execContinuationRecordWrite c addr s) := by
  unfold Machine.execContinuationRecordWrite
  extract_lets
  split
  · extract_lets
    split
    · exact .next h
    · extract_lets _ _ s1 s2
      have hs1 : s1.MemWf := h.writeRec.modReam
      have hs2 : s2.MemWf := hs1.giveBack.vacate
      split
      · exact .next h
      · split
        · exact .next h.killUnit
        · exact .next hs2.makeReady.orAborted
  · exact .next h

theorem State.MemWf.takeSaved (h : s.MemWf) : (s.takeSaved lead d x area).MemWf := by
  unfold State.takeSaved
  extract_lets _ s1
  have hs1 : s1.MemWf := (h.foldl fun _ _ h1 => h1.sawImage).modDie
  split
  · exact h
  · split
    · exact hs1
    · split
      · exact hs1.refuseRecord
      · rename_i e1
        exact ((hs1.restoreAll.get e1).recField.recField.setStat.foldl fun _ _ h2 => h2.modCore.placeImage).acquire

theorem State.MemWf.chooseOn (h : s.MemWf) : (s.chooseOn lead ds).MemWf := by
  induction ds with
  | nil => exact h
  | cons d ds ih =>
    unfold State.chooseOn
    split
    · exact ih
    · split
      · extract_lets
        split
        · exact h.takeSaved
        · exact h.takeRecord
      · exact h.takeRecord
    · exact h.modReam.foldl fun _ _ h1 => h1.modCore

theorem State.MemWf.execUnitChoice (h : s.MemWf) : Result.MemWf (execUnitChoice c s) := by
  unfold Machine.execUnitChoice
  extract_lets
  split
  · exact .next h
  · exact .next h.chooseOn

theorem State.MemWf.execControlInterfaceWrite (h : s.MemWf) : Result.MemWf
    (execControlInterfaceWrite c cr value s) := by
  unfold Machine.execControlInterfaceWrite
  extract_lets
  split
  · split
    · exact .next h.modCore
    · exact .next h
  · split
    · exact .next h.modCore
    · split
      · exact .next h.modWorld
      · split
        · refine .next ?_
          split
          · exact h.modWorld
          · exact h
        · split
          · refine .next ?_
            split
            · exact h.modWorld
            · exact h
          · split
            · exact .next h.modCore
            · exact .next h

/-! ## Bulkheads, partitions and frames (Machine/Bulkheads.lean) -/

theorem State.MemWf.extendMM (h : s.MemWf) : (s.extendMM i d).MemWf :=
  h.modMon

theorem State.MemWf.raiseAC (h : s.MemWf) : (s.raiseAC i v).MemWf := by
  unfold State.raiseAC
  extract_lets
  split
  · exact h.modMon
  · exact h

theorem State.MemWf.deriveKey (h : s.MemWf) : s.deriveKey.MemWf :=
  h.modMon

theorem State.MemWf.killAll (h : s.MemWf) : (s.killAll n p).MemWf :=
  h.foldl fun _ _ h1 => h1.orderKill

theorem State.MemWf.endKeys (h : s.MemWf) : (s.endKeys vf all).MemWf := by
  unfold State.endKeys
  extract_lets _ s1 s2
  have hs1 : s1.MemWf := h.update
  have hs2 : s2.MemWf := by
    unfold s2
    refine hs1.foldl fun t1 _ h1 => ?_
    split
    · exact h1.destroyKey
    · split
      · exact h1.sealKey.emit
      · exact h1
  exact hs2.foldl fun _ _ h2 => h2.sealKey.emit

theorem State.MemWf.revokeWindows (h : s.MemWf) : (s.revokeWindows vf).MemWf :=
  h.foldl fun _ _ h1 => h1.shoot

theorem State.MemWf.dropPart (h : s.MemWf) : (s.dropPart pid).MemWf := by
  unfold State.dropPart
  extract_lets _ s1
  have hs1 : s1.MemWf := h.foldl fun _ _ h1 => h1.modBulk
  split
  · exact h
  · exact hs1.update

theorem State.MemWf.finishWorld (h : s.MemWf) : (s.finishWorld vf).MemWf := by
  unfold State.finishWorld
  extract_lets _ s1 s2
  have hs1 : s1.MemWf := h.poisonPeers.endKeys.revokeWindows
  have hs2 : s2.MemWf := hs1.update
  split
  · exact h
  · split
    · exact hs2.update.dropPart
    · exact hs2.modWorld

theorem State.MemWf.finishWorlds (h : s.MemWf) : s.finishWorlds.MemWf :=
  h.foldl fun _ _ h1 => h1.finishWorld

theorem State.MemWf.endWorld (h : s.MemWf) : (s.endWorld n vf del).MemWf := by
  unfold State.endWorld
  extract_lets _ s1 s2 s3
  have hs1 : s1.MemWf := h.foldl fun _ _ h1 => h1.tearQueue
  have hs2 : s2.MemWf := hs1.foldl fun _ _ h2 => h2.abortReam
  have hs3 : s3.MemWf := hs2.modWorld
  split
  · exact h
  · exact hs3.killAll.finishWorld

theorem State.MemWf.drainBulk (h : s.MemWf) : (s.drainBulk b).MemWf := by
  unfold State.drainBulk
  split
  · exact h.modBulk
  · exact h

theorem State.MemWf.execWorldDrain (h : s.MemWf) : Result.MemWf (execWorldDrain c s) := by
  unfold Machine.execWorldDrain
  extract_lets _ _ s1 _ s2
  have hs1 : s1.MemWf := h.setCore
  have hs2 : s2.MemWf := by
    unfold s2
    split
    · exact hs1.modPart
    · exact hs1
  split
  · exact .next h.drainBulk.finishWorlds
  · split
    · exact .next h
    · exact .next hs2.drainBulk.finishWorlds

theorem State.MemWf.execPartitionCreate (h : s.MemWf) : Result.MemWf (execPartitionCreate x s) := by
  unfold Machine.execPartitionCreate
  extract_lets s1
  have hs1 : s1.MemWf := h.raiseAC
  split
  · exact .next h.emit
  · extract_lets _ s2 s3
    have hs2 : s2.MemWf := hs1.foldl fun _ _ h1 => h1.modBulk
    have hs3 : s3.MemWf := hs2.foldl fun _ _ h2 => h2.setCore
    split
    · exact .next h.emit
    · exact .next hs3.modPart

theorem State.MemWf.execPartitionDelete (h : s.MemWf) : Result.MemWf (execPartitionDelete pid s) := by
  unfold Machine.execPartitionDelete
  extract_lets _ _ s1
  have hs1 : s1.MemWf := h.raise.modPart
  split
  · exact .next h
  · exact .next ((hs1.foldl fun _ _ h1 => h1.endWorld).dropPart)

theorem State.MemWf.resetBulkhead (h : s.MemWf) : (s.resetBulkhead n bulkhead).MemWf := by
  unfold State.resetBulkhead
  extract_lets _ _ s1 s2
  have hs1 : s1.MemWf := h.modBulk
  have hs2 : s2.MemWf := by
    unfold s2
    split
    · exact hs1.modPart
    · exact hs1
  exact hs2.killAll

theorem State.MemWf.execBulkheadReset (h : s.MemWf) : Result.MemWf (execBulkheadReset bulkhead s) := by
  unfold Machine.execBulkheadReset
  split
  · exact .next h.raise.resetBulkhead
  · exact .next h

theorem State.MemWf.execBulkheadResetRelease (h : s.MemWf) : Result.MemWf (execBulkheadResetRelease bulkhead s) := by
  unfold Machine.execBulkheadResetRelease
  extract_lets _ s1
  have hs1 : s1.MemWf := h.modBulk
  split
  · exact .next h
  · extract_lets s2
    have hs2 : s2.MemWf := by
      unfold s2
      split
      · exact hs1.modPart
      · exact hs1
    split
    · exact .next h
    · exact .next hs2.afterReset.retryHeld.pumpAll.finishWorlds

theorem State.MemWf.losePart (h : s.MemWf) : (s.losePart pid).MemWf :=
  ((h.foldl fun _ _ h1 => h1.abandon.modDie).foldl fun _ _ h2 => h2.setCore).update.modPart

theorem State.MemWf.fault (h : s.MemWf) : (s.fault hit gone).MemWf :=
  (h.foldl fun _ _ h1 => (h1.foldl fun _ _ h2 => h2.tearQueue).losePart).foldl fun _ _ h3 => h3.modBulk

theorem State.MemWf.execBulkheadFault (h : s.MemWf) : Result.MemWf (execBulkheadFault bulkhead s) :=
  .next h.raise.fault

theorem State.MemWf.execSecondStageWrite (h : s.MemWf) : Result.MemWf (execSecondStageWrite vf record s) := by
  unfold Machine.execSecondStageWrite
  split
  · exact .next h.emit
  · exact .next h.shoot

theorem State.MemWf.execWindowRequest (h : s.MemWf) : Result.MemWf (execWindowRequest pid record s) := by
  unfold Machine.execWindowRequest
  extract_lets
  split
  · exact .next h.report
  · split
    · exact .next h.update
    · extract_lets s1
      have hs1 : s1.MemWf := h.update
      split
      · split
        · exact .next hs1.update.extendWM.extendWM
        · exact .next hs1.report.report
      · exact .next hs1.report.report

theorem State.MemWf.execWindowRequestTimeout (h : s.MemWf) : Result.MemWf (execWindowRequestTimeout idx s) := by
  unfold Machine.execWindowRequestTimeout
  split
  · exact .next h
  · extract_lets _ s1
    have hs1 : s1.MemWf := h.update
    split
    · exact .next h
    · exact .next hs1.report.report

theorem State.MemWf.execWindowRevoke (h : s.MemWf) : Result.MemWf (execWindowRevoke idx s) := by
  unfold Machine.execWindowRevoke
  split
  · exact .next h
  · exact .next h.shoot

theorem State.MemWf.execFirmwareUpdate (h : s.MemWf) : Result.MemWf (execFirmwareUpdate x s) := by
  unfold Machine.execFirmwareUpdate
  split
  · exact .next h.emit
  · exact .next h.raiseAC.extendMM.modMon.deriveKey

theorem State.MemWf.hwStoreAll (h : s.MemWf) : (s.hwStoreAll vf n a bs).MemWf := by
  induction n generalizing s a bs with
  | zero => exact h
  | succ n ih =>
    unfold State.hwStoreAll
    extract_lets
    split
    · exact h
    · exact ih h.hwStore

theorem State.MemWf.execImageLoad (h : s.MemWf) : Result.MemWf (execImageLoad vf x s) := by
  unfold Machine.execImageLoad
  extract_lets _ _ _ _ _ _ s1
  have hs1 : s1.MemWf := h.modWorld
  split
  · exact .next h.emit
  · exact .next hs1.hwStoreAll.emit

theorem State.MemWf.execPatrolScrub (h : s.MemWf) : Result.MemWf (execPatrolScrub frame s) :=
  .next (h.foldl fun _ _ h1 => h1.afterRead)

theorem State.MemWf.structWrite (h : s.MemWf) : (s.structWrite vf sa v).MemWf := by
  unfold State.structWrite
  split
  · exact h
  · exact ⟨Memory.wf_setVal _ _ _ _ h.1, h.2⟩

theorem State.MemWf.moveFrame (h : s.MemWf) : (s.moveFrame a b).MemWf :=
  ⟨Memory.wf_foldl (fun _ _ hm => Memory.wf_setByte _ _ _ hm) (Memory.wf_zero _ _ _ h.1), h.2⟩

theorem State.MemWf.replaceFrame (h : s.MemWf) : (s.replaceFrame vf f g).MemWf := by
  unfold State.replaceFrame
  extract_lets _ _ _ _ _ s1 s2 s3 s4 s5
  have hs1 : s1.MemWf := h.foldl fun _ _ h1 => h1.setTile
  have hs2 : s2.MemWf := by
    unfold s2
    refine hs1.foldl fun t1 _ h2 => ?_
    split
    · exact h2
    · exact h2.structWrite
  have hs3 : s3.MemWf := hs2.modWorld
  have hs4 : s4.MemWf := hs3.moveFrame
  have hs5 : s5.MemWf := hs4.update
  exact hs5.shootDrop

theorem State.MemWf.listFrame (h : s.MemWf) : (s.listFrame pid frame seq).MemWf := by
  unfold State.listFrame
  split
  · exact h
  · split
    · exact h.update.writeLists
    · exact h.report

theorem State.MemWf.execFrameRetirement (h : s.MemWf) : Result.MemWf (execFrameRetirement frame s) := by
  unfold Machine.execFrameRetirement
  extract_lets
  split
  · exact .next h
  · exact .next h.update
  · extract_lets
    split
    · split
      · exact .next h.update
      · split
        · exact .next h.update.replaceFrame.listFrame
        · exact .next h
    · split
      · exact .next h.update.report
      · exact .next (h.update.foldl fun _ _ h1 => h1.setTile)

theorem State.MemWf.execLockInterface (h : s.MemWf) : Result.MemWf (execLockInterface vf x s) := by
  unfold Machine.execLockInterface
  extract_lets _ _ _ s1
  have hs1 : s1.MemWf := h.update
  split
  · exact .next h.emit
  · exact .next hs1.update.modWorld

theorem State.MemWf.execStartInterface (h : s.MemWf) : Result.MemWf (execStartInterface vf s) := by
  unfold Machine.execStartInterface
  split
  · exact .next h.modWorld
  · exact .next h

/-! ## The host interface (Machine/HostLink.lean) -/

theorem State.MemWf.modHost (h : s.MemWf) : (s.modHost f).MemWf :=
  h.update

theorem State.MemWf.hostStore (h : s.MemWf) : (s.hostStore vf n a bs).MemWf := by
  induction n generalizing s a bs with
  | zero => exact h
  | succ n ih =>
    unfold State.hostStore
    extract_lets
    split
    · exact h
    · exact ih h.flatStore

theorem State.MemWf.execHostWrite (h : s.MemWf) : Result.MemWf (execHostWrite x s) := by
  unfold Machine.execHostWrite
  split
  · exact .next ⟨h.1, Memory.wf_write _ _ _ h.2⟩
  · extract_lets
    split
    · exact .next h
    · exact .next h.hostStore

theorem State.MemWf.execAtsInvalidation (h : s.MemWf) : Result.MemWf (execAtsInvalidation vf base len s) := by
  unfold Machine.execAtsInvalidation
  extract_lets
  split
  · exact .next h
  · exact .next h.raise.modHost

theorem State.MemWf.execAtsInvalidationComplete (h : s.MemWf) : Result.MemWf (execAtsInvalidationComplete vf s) := by
  unfold Machine.execAtsInvalidationComplete
  split
  · exact .next h
  · split
    · exact .next h
    · exact .next h.modHost.emit

theorem State.MemWf.endSessions (h : s.MemWf) : (s.endSessions p).MemWf :=
  h.update

theorem State.MemWf.dropLink (h : s.MemWf) : (s.dropLink n spared).MemWf :=
  (h.foldl fun _ _ h1 => h1.tearQueue).endSessions.modHost.foldl fun _ _ h2 => h2.modWorld.endWorld

theorem State.MemWf.execPcieLinkTrained (h : s.MemWf) : Result.MemWf (execPcieLinkTrained s) := by
  unfold Machine.execPcieLinkTrained
  split
  · exact .next h
  · exact .next h.modHost

theorem State.MemWf.modSpdm (h : s.MemWf) : (s.modSpdm p f).MemWf :=
  h.modHost

theorem State.MemWf.respond (h : s.MemWf) : (s.respond x body).MemWf :=
  h.emit

theorem State.MemWf.spdmError (h : s.MemWf) : (s.spdmError x what).MemWf :=
  h.emit

theorem State.MemWf.plainAnswer (h : s.MemWf) : Result.MemWf (s.plainAnswer x) := by
  unfold State.plainAnswer
  split
  · exact .next h
  · split
    · exact .next h.spdmError
    · exact .next h.respond

theorem State.MemWf.execNegotiateAlgorithms (h : s.MemWf) : Result.MemWf (execNegotiateAlgorithms x s) := by
  unfold Machine.execNegotiateAlgorithms
  split
  · exact .next h
  · split
    · exact .next h.spdmError
    · exact .next h.respond.emit

theorem State.MemWf.execGetCertificate (h : s.MemWf) : Result.MemWf (execGetCertificate x s) := by
  unfold Machine.execGetCertificate
  split
  · exact .next h
  · split
    · exact .next h.spdmError
    · exact .next h.respond

theorem State.MemWf.execChallenge (h : s.MemWf) : Result.MemWf (execChallenge x s) := by
  unfold Machine.execChallenge
  extract_lets
  split
  · exact .next h
  · split
    · exact .next h.spdmError
    · exact .next h.respond

theorem State.MemWf.execGetMeasurements (h : s.MemWf) : Result.MemWf (execGetMeasurements x index s) := by
  unfold Machine.execGetMeasurements
  extract_lets
  split
  · exact .next h
  · split
    · exact .next h.spdmError
    · split
      · exact .next h.spdmError
      · exact .next h.respond

theorem State.MemWf.execKeyExchange (h : s.MemWf) : Result.MemWf (execKeyExchange x s) := by
  unfold Machine.execKeyExchange
  extract_lets
  split
  · exact .next h
  · split
    · exact .next h.spdmError
    · exact .next h.modSpdm.respond

theorem State.MemWf.execFinish (h : s.MemWf) : Result.MemWf (execFinish x s) := by
  unfold Machine.execFinish
  split
  · exact .next h
  · split
    · split
      · exact .next h.modSpdm.respond
      · exact .next h.spdmError
    · exact .next h.spdmError

theorem State.MemWf.sessionAnswer {f : Nat → State → State} (h : s.MemWf)
    (hf : ∀ x1 t, t.MemWf → State.MemWf (f x1 t)) : Result.MemWf (s.sessionAnswer x f) := by
  unfold State.sessionAnswer
  split
  · exact .next h
  · split
    · split
      · exact .next (hf _ _ h.respond)
      · exact .next h.spdmError
    · exact .next h.spdmError

theorem State.MemWf.execEndSession (h : s.MemWf) : Result.MemWf (execEndSession x s) := by
  unfold Machine.execEndSession
  refine h.sessionAnswer fun _ t1 h1 => ?_
  refine .modSpdm ?_
  split
  · exact h1.endSessions
  · exact h1

theorem State.MemWf.execSpdmUnsupportedRequest (h : s.MemWf) : Result.MemWf (execSpdmUnsupportedRequest x s) := by
  unfold Machine.execSpdmUnsupportedRequest
  split
  · exact .next h
  · exact .next h.spdmError

theorem State.MemWf.execGetDeviceInterfaceReport (h : s.MemWf) : Result.MemWf (execGetDeviceInterfaceReport x s) := by
  unfold Machine.execGetDeviceInterfaceReport
  split
  · exact .next h
  · split
    · exact .next h.modWorld.emit
    · exact .next h.emit

theorem State.MemWf.execTelemetryRead (h : s.MemWf) : Result.MemWf (execTelemetryRead d sensor s) := by
  unfold Machine.execTelemetryRead
  split
  · exact .next h
  · exact .next h.raise.emit

theorem State.MemWf.execSidebandResetRequest (h : s.MemWf) : Result.MemWf (execSidebandResetRequest t s) := by
  unfold Machine.execSidebandResetRequest
  extract_lets
  split
  · exact .next h
  · split
    · split
      · exact .next h.raise.emit
      · split
        · exact .next h.raise.resetBulkhead
        · exact .next h.raise
    · split
      · exact .next h.raise.emit
      · exact .next h.raise.endWorld
    · exact .next h.raise.dropLink

theorem State.MemWf.execPowerCapSet (h : s.MemWf) : Result.MemWf (execPowerCapSet cap10 s) := by
  unfold Machine.execPowerCapSet
  split
  · exact .next h
  · split
    · exact .next h.raise.modHost
    · exact .next h.raise.emit

/-! ## Power (Machine/Power.lean) -/

theorem State.MemWf.execSensorSample (h : s.MemWf) : Result.MemWf (execSensorSample d sensor reading s) := by
  unfold Machine.execSensorSample
  extract_lets s1 s2
  have hs1 : s1.MemWf := by
    unfold s1
    split
    · exact h.update.ageRecords
    · exact h
  have hs2 : s2.MemWf := hs1.modDie
  exact .next hs2.modBulk

theorem State.MemWf.execEmgClear (h : s.MemWf) : Result.MemWf (execEmgClear bulkhead s) := by
  unfold Machine.execEmgClear
  extract_lets _ s1
  have hs1 : s1.MemWf := h.modBulk
  split
  · exact .next h
  · exact .next (hs1.foldl fun _ _ h1 => h1.modCore)

theorem State.MemWf.execOvertempFault (h : s.MemWf) : Result.MemWf (execOvertempFault bulkhead s) := by
  unfold Machine.execOvertempFault
  extract_lets
  split
  · exact .next h
  · exact h.execBulkheadFault

theorem State.MemWf.execClockChangeRequest (h : s.MemWf) : Result.MemWf (execClockChangeRequest bulkhead steps s)
    := by
  unfold Machine.execClockChangeRequest
  extract_lets
  split
  · exact .next h.modBulk
  · exact .next h.emit

theorem State.MemWf.execClockChangeComplete (h : s.MemWf) : Result.MemWf (execClockChangeComplete bulkhead s) :=
  .next h.modBulk

theorem State.MemWf.execDegradeSet (h : s.MemWf) : Result.MemWf (execDegradeSet c planes s) := by
  unfold Machine.execDegradeSet
  extract_lets
  split
  · exact .next h.emit
  · exact .next h.modBulk.modCore

/-! ## Diapause and eclosion (Machine/Diapause.lean) -/

theorem State.MemWf.execPriorityListSet (h : s.MemWf) : Result.MemWf (execPriorityListSet x s) := by
  unfold Machine.execPriorityListSet
  extract_lets
  split
  · exact .next h.emit
  · exact .next h.modPart

theorem State.MemWf.freezeAll (h : s.MemWf) : (s.freezeAll n pids).MemWf := by
  unfold State.freezeAll
  refine h.foldl fun t1 _ h1 => ?_
  extract_lets
  split
  · exact h1
  · split
    · exact h1.endUnit
    · exact h1.request

theorem State.MemWf.trigger (h : s.MemWf) : (s.trigger n reserve).MemWf := by
  unfold State.trigger
  extract_lets _ s1
  have hs1 : s1.MemWf := h.modMon
  split
  · split
    · exact h.modMon
    · exact h
  · split
    · exact h.modMon
    · exact hs1.freezeAll

theorem State.MemWf.sendDiap (h : s.MemWf) : (s.sendDiap vfs st).MemWf :=
  h.foldl fun _ _ h1 => h1.foldl fun _ _ h2 => h2.foldl fun _ _ h3 => h3.transmit

theorem State.MemWf.lookAll (h : s.MemWf) : s.lookAll.MemWf :=
  h.update.foldl fun _ _ h1 => h1.lookWrite

theorem State.MemWf.settleEnds (h : s.MemWf) : (s.settleEnds mine).MemWf := by
  unfold State.settleEnds
  extract_lets s1
  have hs1 : s1.MemWf := by
    unfold s1
    refine h.foldl fun t1 _ h1 => ?_
    extract_lets _ s2
    have hs2 : s2.MemWf := by
      unfold s2
      split
      · exact h1.sealKey
      · exact h1
    split
    · exact h1.destroyKey.modCore
    · split
      · exact hs2.modCore
      · exact h1.modCore
  exact hs1.update

theorem State.MemWf.execDiapauseDrain (h : s.MemWf) : Result.MemWf (execDiapauseDrain s) := by
  unfold Machine.execDiapauseDrain
  extract_lets _ _ s1 _ s2 s3
  have hs1 : s1.MemWf := h.settleEnds.lookAll
  have hs2 : s2.MemWf := hs1.sendDiap.foldl fun _ _ h1 => h1.modPart
  have hs3 : s3.MemWf := by
    unfold s3
    split
    · exact hs2.update
    · exact hs2
  split
  · exact .next h
  · exact .next hs3.modMon

theorem State.MemWf.dropHbm (h : s.MemWf) : (s.dropHbm d).MemWf :=
  ⟨Tab.wf_filter (0 : Byte) _ _ h.1, h.2⟩

theorem State.MemWf.thaw (h : s.MemWf) : (s.thaw c).MemWf := by
  unfold State.thaw
  extract_lets
  split
  · exact h.unsave.modCore.pushLoads
  · split
    · exact h.modCore
    · exact h.modCore

theorem State.MemWf.resumeAll (h : s.MemWf) : (s.resumeAll vfs).MemWf :=
  h.foldl fun _ _ h1 => h1.modWorld.foldl fun _ _ h2 => h2.sendResume

theorem State.MemWf.resumeShed (h : s.MemWf) : s.resumeShed.MemWf := by
  unfold State.resumeShed
  extract_lets _ s1 s2
  have hs1 : s1.MemWf := h.update
  have hs2 : s2.MemWf := hs1.foldl fun _ _ h1 => h1.modPart
  split
  · exact hs2.takeWaiting.resumeAll
  · exact h

theorem State.MemWf.leaveBrownout (h : s.MemWf) : s.leaveBrownout.MemWf := by
  unfold State.leaveBrownout
  extract_lets s1 _ s2
  have hs1 : s1.MemWf := h.foldl fun _ _ h1 => h1.modDie
  have hs2 : s2.MemWf := hs1.modMon
  split
  · exact h
  · split
    · exact hs2
    · exact hs2.resumeShed

theorem State.MemWf.execManifestSeal (h : s.MemWf) : Result.MemWf (execManifestSeal s) := by
  unfold Machine.execManifestSeal
  extract_lets _ _ s1 s2
  have hs1 : s1.MemWf := h.modMon
  have hs2 : s2.MemWf := hs1.foldl fun _ _ h1 => h1.losePart
  split
  · exact .next h
  · split
    · exact .next hs1
    · exact .next ((hs2.foldl fun _ _ h2 => h2.modDie.dropHbm).leaveBrownout)

theorem State.MemWf.shedDie (h : s.MemWf) : (s.shedDie n d).MemWf :=
  (h.foldl fun _ _ h1 => h1.modPart).modMon.freezeAll

theorem State.MemWf.execBrownoutEntry (h : s.MemWf) : Result.MemWf (execBrownoutEntry s) := by
  unfold Machine.execBrownoutEntry
  extract_lets _ s1
  have hs1 : s1.MemWf := h.raise
  split
  · exact .next hs1
  · exact .next hs1.modMon.shedDie

theorem State.MemWf.execBrownoutSecondShed (h : s.MemWf) : Result.MemWf (execBrownoutSecondShed s) := by
  unfold Machine.execBrownoutSecondShed
  split
  · split
    · exact .next h
    · exact .next h.shedDie
  · exact .next h

theorem State.MemWf.retain (h : s.MemWf) : (s.retain pid on).MemWf :=
  h.modPart.foldl fun _ _ h1 => h1.modBulk

theorem State.MemWf.execBrownoutRetention (h : s.MemWf) : Result.MemWf (execBrownoutRetention s) := by
  unfold Machine.execBrownoutRetention
  extract_lets _ s1 s2 s3 s4
  have hs1 : s1.MemWf := h.foldl fun _ _ h1 => h1.retain
  have hs2 : s2.MemWf := hs1.freezeAll
  have hs3 : s3.MemWf := hs2.sendDiap
  have hs4 : s4.MemWf := hs3.update
  split
  · exact .next h
  · exact .next (hs4.foldl fun _ _ h2 => h2.foldl fun _ _ h3 => h3.leaveLane)

theorem State.MemWf.execBrownoutExit (h : s.MemWf) : Result.MemWf (execBrownoutExit s) := by
  unfold Machine.execBrownoutExit
  extract_lets s1 _ s2 s3
  have hs1 : s1.MemWf := h.raise
  have hs2 : s2.MemWf := hs1.foldl fun _ _ h1 => h1.thaw
  have hs3 : s3.MemWf := hs2.foldl fun _ _ h2 => h2.retain
  split
  · exact .next hs1
  · exact .next hs3.modMon.leaveBrownout

theorem State.MemWf.wipe (h : s.MemWf) : s.wipe.MemWf :=
  ⟨rfl, h.2⟩

theorem State.MemWf.powerOn (h : s.MemWf) : s.powerOn.MemWf :=
  h.wipe.update

theorem State.MemWf.bootStop (h : s.MemWf) : s.bootStop.MemWf :=
  h.modMon

theorem State.MemWf.bootNext (h : s.MemWf) : s.bootNext.MemWf :=
  h.modMon

theorem State.MemWf.execPowerGoodBoot (h : s.MemWf) : Result.MemWf (execPowerGoodBoot x s) := by
  unfold Machine.execPowerGoodBoot
  extract_lets s1
  have hs1 : s1.MemWf := h.powerOn
  split
  · refine .next ?_
    split
    · exact hs1.bootNext
    · exact hs1.bootStop
  · split
    · exact .next h
    · split
      · split
        · exact .next h.bootStop
        · exact .next h.extendMM.modMon.bootNext
      · split
        · exact .next h.bootStop
        · exact .next ((h.foldl fun _ _ h1 => h1.modMon).bootNext)
      · split
        · exact .next h.raiseAC.extendMM.modMon.deriveKey.bootNext
        · split
          · exact .next h.modMon
          · exact .next h.bootStop
      · split
        · exact .next h.raiseAC.extendMM.bootNext
        · exact .next h.bootStop
      · split
        · exact .next h.bootStop
        · exact .next h.extendMM.bootNext
      · split
        · exact .next h.bootStop
        · exact .next h.modHost.bootNext
      · exact .next h

theorem State.MemWf.forget (h : s.MemWf) : (s.forget pid).MemWf := by
  unfold State.forget
  extract_lets _ _ _ s1 s2
  have hs1 : s1.MemWf := h.foldl fun _ _ h1 => h1.endKeys
  have hs2 : s2.MemWf := ⟨Tab.wf_filter (0 : Byte) _ _ hs1.1, hs1.2⟩
  exact hs2.modPart

theorem State.MemWf.execEclosion (h : s.MemWf) : Result.MemWf (execEclosion x s) := by
  unfold Machine.execEclosion
  extract_lets _ _ s1 s2
  have hs1 : s1.MemWf := h.wipe
  have hs2 : s2.MemWf := by
    unfold s2
    split
    · exact h.foldl fun _ _ h1 => h1.forget
    · exact hs1.update
  split
  · exact .next h
  · split
    · exact .next hs2.modMon.resumeShed
    · extract_lets _ _ s3 s4 s5
      have hs3 : s3.MemWf := by
        unfold s3
        split
        · exact h.foldl fun _ _ h2 => h2.forget
        · exact hs1.update
      have hs4 : s4.MemWf := hs3.extendMM.extendMM
      have hs5 : s5.MemWf := hs4.update
      exact .next hs5.modMon

theorem State.MemWf.execMemoryRestore (h : s.MemWf) : Result.MemWf (execMemoryRestore s) := by
  unfold Machine.execMemoryRestore
  extract_lets _ _ _ _ _ _ _ _ _ s1 s2 s3 s4 s5 _ _ s6 s7 s8 _ s9
  have hs1 : s1.MemWf :=
    ⟨Memory.wf_foldl (fun _ _ hm => Memory.wf_setByte _ _ _ hm) (Tab.wf_filter (0 : Byte) _ _ h.1), h.2⟩
  have hs2 : s2.MemWf := hs1.foldl fun _ _ h1 => (h1.foldl fun _ _ h2 => h2.modBulk).modPart
  have hs3 : s3.MemWf := hs2.update
  have hs4 : s4.MemWf := hs3.update
  have hs5 : s5.MemWf := hs4.foldl fun _ _ h1 => h1.modDie
  have hs6 : s6.MemWf := hs5.update.foldl fun _ _ h1 => h1.destroyKey
  have hs7 : s7.MemWf := by
    unfold s7
    split
    · exact hs6.update
    · exact hs5.update
  have hs8 : s8.MemWf := hs7.foldl fun _ _ h1 => h1.writeRec
  have hs9 : s9.MemWf := by
    unfold s9
    refine hs8.foldl fun t _ ht => ?_
    extract_lets
    split
    · exact ht
    · exact ht.modPart.replaceFrame
  split
  · exact .next h
  · split
    · exact .next h
    · exact .next hs9.modMon

theorem State.MemWf.reseal (h : s.MemWf) : (s.reseal c).MemWf := by
  unfold State.reseal
  refine h.foldl fun t1 _ h1 => ?_
  extract_lets
  split
  · exact h1.modCore
  · exact h1

theorem State.MemWf.execCoreRestore (h : s.MemWf) : Result.MemWf (execCoreRestore reserve s) := by
  unfold Machine.execCoreRestore
  extract_lets
  split
  · exact .next h
  · extract_lets s1 _ s2 s3 _ s4
    have hs1 : s1.MemWf := h.modMon
    have hs2 : s2.MemWf := hs1.foldl fun _ _ h1 => h1.setCore.reseal.pushLoads
    have hs3 : s3.MemWf := by
      unfold s3
      refine hs2.foldl fun t1 _ h2 => ?_
      split
      · exact h2.abortReam
      · exact h2
    have hs4 : s4.MemWf := hs3.foldl fun _ _ h3 => h3.modWorld
    split
    · exact .next h
    · refine .next ?_
      split
      · exact hs4.update.takeWaiting.resumeAll
      · exact hs4.resumeShed

theorem State.MemWf.execRejoinComplete (h : s.MemWf) : Result.MemWf (execRejoinComplete vf s) := by
  unfold Machine.execRejoinComplete
  extract_lets s1
  have hs1 : s1.MemWf := h.resumeShed
  split
  · exact .next hs1.modWorld
  · exact .next hs1

theorem State.MemWf.execRjtExpiry (h : s.MemWf) : Result.MemWf (execRjtExpiry pid s) := by
  unfold Machine.execRjtExpiry
  extract_lets s1
  have hs1 : s1.MemWf := h.resumeShed
  refine .next ?_
  extract_lets
  refine hs1.foldl fun t1 _ h1 => ?_
  extract_lets
  split
  · exact h1.modWorld
  · exact h1

/-! ## Every instruction and event (Machine/Dispatch.lean) -/

theorem State.MemWf.exec (h : s.MemWf) : Result.MemWf (exec i s) := by
  unfold Machine.exec
  cases i with
  | nop | katc _ => exact h.issueOp fun _ h1 => h1
  | treeBranch _ | jmp _ | jr _ => exact h.issueOp fun _ h1 => h1.goto
  | add _ | sub _ | mul _ | mulh _ | mulhn _ | div _ | divn _ | rem _ | remn _ | and _ | or _ | xor _ | shl _ | shr _
    | sra _ | min _ | minn _ | max _ | maxn _ => exact h.scRR
  | addi _ | andi _ | ori _ | xori _ | shli _ | shri _ | srai _ | muli _ => exact h.scRI
  | lui _ | lpc _ | movl _ | addl _ | andl _ | lea _ | madd _ | sel _ | bext _ | bextn _ | bins _ | movp _ | kmov _
    | crr _ | snrd _ | vmovs _ | srd _ => exact h.issueOp fun _ h1 => h1.putS
  | abs _ | clz _ | ctz _ | popc _ | bswap _ | brev _ => exact h.scR
  | ceq _ | cne _ | clt _ | cltn _ | cle _ | clen _ | ctst _ => exact h.scCmp
  | ceqi _ | cnei _ | clti _ | cltni _ | clei _ | cleni _ => exact h.scCmpI
  | pand _ | por _ | pxor _ | pnot _ | pmov _ => exact h.scPL
  | pmovs _ => exact h.execPmovs
  | movk _ => exact h.issueOp fun _ h1 => h1.putK
  | call _ | jalr _ => exact h.issueOp fun _ h1 => h1.putS.goto
  | crw _ => exact h.issueOp fun _ h1 => h1.putCr
  | snwr _ => exact h.execSnwr
  | eret | diapack => exact h.issueOp fun _ h1 => h1.leaveHandler
  | halt => exact h.lateOp (fun _ h1 => h1.modCur) fun _ h2 => h2.closeTask
  | seqopen _ => exact h.execSeqopen
  | seqend _ => exact h.execSeqend
  | seqbind _ => exact h.execSeqbind
  | tinv _ => exact h.execTinv
  | ifence | qalign | bcx _ => exact h.issueOp fun _ h1 => h1.modCur
  | vadd _ | vsub _ | vmul _ | vfma _ | vfms _ | vfnma _ | vmin _ | vmax _ | vabs _ | vneg _ | vand _ | vor _ | vxor _
    | vshl _ | vshr _ | vqadd _ | vqsub _ | vmulh _ | vavg _ | vclz _ | vpopc _ | vmov _ => exact h.vElem
  | vaddsc _ | vsubsc _ | vmulsc _ | vminsc _ | vmaxsc _ | vbcast _ => exact h.vElemS
  | vceq _ | vcne _ | vclt _ | vcle _ | vcgt _ | vcge _ => exact h.vCmp
  | vsel _ | vbrd _ | vcomp _ | vins _ | vcvt _ | vbfpe _ | vbfpd _ | vrng _ => exact h.issueOp fun _ h1 => h1.putV
  | kand _ | kor _ | kxor _ | knot _ => exact h.vMask
  | vperm _ | vzip _ | vunzip _ => exact h.vPerm
  | vrot _ | vslide _ => exact h.vPermS
  | vrsum _ | vrmin _ | vrmax _ => exact h.vRed
  | vrcp _ | vrsqrt _ | vexp2 _ | vlog2 _ => exact h.vSpecial
  | mpw _ | mclr _ | mgix _ | ldqs _ | stt _ | stq _ | stqs _ | chset _ | cpfence _ =>
    exact h.issueOp fun _ h1 => h1.modCur.owe
  | mpr _ | mwm _ | mflg _ | tstat _ | chq _ => exact h.issueOp fun _ h1 => h1.putS.owe
  | mrow _ | ldt _ => exact h.issueOp fun _ h1 => h1.putV.owe
  | mwait _ => exact h.issueOp fun _ h1 => h1.owe
  | mstop _ => exact h.execMstop
  | mcallBmm _ | mcallBmmz _ | mcallBmmg _ | mcallBmmgz _ | mcallHmm _ | mcallHmmz _ | mcallFmm _ | mcallFmmz _
    | mcallImm _ | mcallImmz _ | mcallGrouped _ | mcallGroupedh _ | mcallEbias _ | mcallEscale _ | mcallErelu _
    | mcallEadd _ | mcallEload _ | mcallEcvt _ | mcallEbfp _ | mcallErowmax _ => exact h.mcallOp
  | ld _ => exact h.execLd
  | ldv _ | gath _ => exact h.issueOp fun _ h1 => h1.takeLoad
  | ldts _ => exact h.execLdts
  | ldq _ => exact h.execLdq
  | st _ => exact h.execSt
  | stv _ => exact h.issueOp fun _ h1 => h1.bufferFlat.stored
  | stts _ => exact h.execStts
  | scat _ => exact h.execScat
  | aadd _ | amin _ | aminn _ | amax _ | amaxn _ | aand _ | aor _ | axor _ | axch _ | acas _ | abinc _ =>
    exact h.atomLocal
  | rld _ | rldv _ => exact h.remLoad
  | rst _ | rstv _ => exact h.remStore
  | raadd _ | ramin _ | raminn _ | ramax _ | ramaxn _ | raand _ | raor _ | raxor _ | raxch _ | racas _ | rabinc _ =>
    exact h.atomRemote
  | tcopy _ | xcopy _ | rcp _ | rcpo _ => exact h.ccOp
  | ccopy _ => exact h.issueOp fun _ h1 => h1.queue
  | tfill _ => exact h.issueOp fun _ h1 => h1.modCur.queue
  | tdrain _ => exact h.execTdrain
  | tfree _ => exact h.execTfree
  | migrate _ => exact h.execMigrate
  | ssig _ | sset _ | spoi _ | sunp _ => exact h.issueOp fun _ h1 => h1.semLater
  | swait _ => exact h.execSwait
  | bar _ => exact h.execBar
  | bcl _ => exact h.execBcl
  | fenceFull _ | fenceAcq _ | fenceRel _ => exact h.fenceOp
  | waitc _ => exact h.execWaitc
  | suspend _ | yield => exact h.lateOp (fun _ h1 => h1.suspendBegin) fun _ h2 => h2.suspendTask
  | launch _ => exact h.execLaunch
  | trap _ => exact h.issueOp fun _ h1 => h1.modCur.trapEntry
  | resultLanding _ | loadOutcome _ => exact .next h.modCore
  | budgetExhausted _ => exact h.execBudgetExhausted
  | segmentCommit _ => exact h.execSegmentCommit
  | rendezvousCommit _ => exact h.execRendezvousCommit
  | atomicPerform _ => exact h.execAtomicPerform
  | copyLine _ _ => exact h.execCopyLine
  | ccopyRecord _ _ => exact h.execCcopyRecord
  | slotZeroed _ _ => exact h.execSlotZeroed
  | routineStep _ => exact h.execRoutineStep
  | streamAddressPlace _ _ => exact h.execStreamAddressPlace
  | streamFetchSend _ _ => exact h.execStreamFetchSend
  | streamFetchLand _ _ => exact h.execStreamFetchLand
  | streamOutputWrite _ _ => exact h.execStreamOutputWrite
  | instructionRefetch _ => exact h.execInstructionRefetch
  | walkStart _ => exact h.execWalkStart
  | translationWalk _ => exact h.execTranslationWalk
  | shootdownComplete _ => exact h.execShootdownComplete
  | watchedWordReread _ => exact h.execWatchedWordReread
  | unitChoice _ => exact h.execUnitChoice
  | taskStart _ => exact h.execTaskStart
  | priorityAging _ => exact h.execPriorityAging
  | queueDispatch _ => exact h.execQueueDispatch
  | queueEntryComplete _ => exact h.execQueueEntryComplete
  | reamAbort _ => exact .next h.abortReam
  | barrierComplete _ => exact h.execBarrierComplete
  | worldDrain _ => exact h.execWorldDrain
  | rewind _ => exact h.execRewind
  | freezeLatch _ => exact h.execFreezeLatch
  | handlerQuietTimeout _ => exact h.execHandlerQuietTimeout
  | preempt _ => exact h.execPreempt
  | supervisorKill _ => exact h.execSupervisorKill
  | budgetRefill _ _ => exact h.execBudgetRefill
  | snapshotRestore _ _ => exact h.execSnapshotRestore
  | saveAreaWrite _ _ => exact h.execSaveAreaWrite
  | continuationRecordWrite _ _ => exact h.execContinuationRecordWrite
  | schedulingSettingWrite _ _ _ => exact h.execSchedulingSettingWrite
  | quadCouplingChange _ => exact h.execQuadCouplingChange
  | degradeSet _ _ => exact h.execDegradeSet
  | secondStageWrite _ _ => exact h.execSecondStageWrite
  | priorityListSet _ => exact h.execPriorityListSet
  | queueMap _ _ => exact h.execQueueMap
  | controlInterfaceWrite _ _ _ => exact h.execControlInterfaceWrite
  | sealPoint _ => exact h.execSealPoint
  | keyInstall _ => exact h.execKeyInstall
  | frameRetirement _ => exact h.execFrameRetirement
  | patrolScrub _ => exact h.execPatrolScrub
  | bulkheadFault _ => exact h.execBulkheadFault
  | bulkheadReset _ => exact h.execBulkheadReset
  | bulkheadResetRelease _ => exact h.execBulkheadResetRelease
  | partitionCreate _ => exact h.execPartitionCreate
  | partitionDelete _ => exact h.execPartitionDelete
  | windowRequest _ _ => exact h.execWindowRequest
  | windowRequestTimeout _ => exact h.execWindowRequestTimeout
  | windowRevoke _ => exact h.execWindowRevoke
  | firmwareUpdate _ => exact h.execFirmwareUpdate
  | imageLoad _ _ => exact h.execImageLoad
  | fabricWorldInstall _ => exact h.execFabricWorldInstall
  | laneTraining _ _ _ => exact h.execLaneTraining
  | laneRekey _ _ | laneDark _ _ => exact .next h.leaveLane
  | linkAck _ _ _ => exact h.execLinkAck
  | replayRequest _ _ _ => exact h.execReplayRequest
  | creditReturn _ _ _ _ => exact .next h.modLane.release
  | litSetChange _ => exact h.execLitSetChange
  | rd8 _ | rd256 _ | wr8 _ | wr256 _ | atom _ | cpw _ | rcpPacket _ | rcpoPacket _ =>
    exact h.receive fun _ _ h1 => h1.serveFlat
  | trd _ => exact h.receive fun _ _ h1 => h1.serveTrd
  | twr _ | relay _ => exact h.receive fun _ _ h1 => h1.serveTwr
  | migAlloc _ => exact h.receive fun _ _ h1 => h1.serveAlloc
  | migLine _ => exact h.receive fun _ _ h1 => h1.serveLine
  | migCommit _ => exact h.receive fun _ _ h1 => h1.serveCommit
  | migQuery _ => exact h.receive fun _ _ h1 => h1.serveQuery
  | migRelease _ => exact h.receive fun _ _ h1 => h1.serveRelease
  | barPacket _ => exact h.acceptBar fun _ _ h1 => h1.takeBar
  | bpoi _ => exact h.acceptBar fun _ _ h1 => h1.takeBpoi
  | diapPacket _ => exact h.acceptBar fun _ _ h1 => h1.takeDiap
  | resumePacket _ => exact h.acceptBar fun _ _ h1 => h1.takeResume
  | mon _ => exact h.accept fun _ _ h1 => h1.emit
  | data _ => exact h.execData
  | ack _ => exact h.reply fun _ _ _ h1 => h1.endReq
  | nack _ => exact h.execNack
  | redirect _ => exact h.execRedirect
  | ownerCacheRelease _ _ => exact h.execOwnerCacheRelease
  | tagTimeout _ _ => exact h.execTagTimeout
  | tagQuarantineExpiry _ _ => exact h.execTagQuarantineExpiry
  | busyResend _ _ => exact h.execBusyResend
  | rcpoGroupAbandon _ _ => exact h.execRcpoGroupAbandon
  | stubRoundStart _ => exact h.execStubRoundStart
  | stubRoundTimeout _ => exact h.execStubRoundTimeout
  | arbiterEvent _ => exact .next h.raise
  | powerFailWarning _ | inputUndervoltage _ => exact .next h.raise.trigger
  | diapauseDrain => exact h.execDiapauseDrain
  | manifestSeal => exact h.execManifestSeal
  | brownoutEntry => exact h.execBrownoutEntry
  | brownoutSecondShed => exact h.execBrownoutSecondShed
  | brownoutRetention => exact h.execBrownoutRetention
  | brownoutExit => exact h.execBrownoutExit
  | powerGoodBoot _ => exact h.execPowerGoodBoot
  | eclosion _ => exact h.execEclosion
  | memoryRestore => exact h.execMemoryRestore
  | coreRestore _ => exact h.execCoreRestore
  | rejoinComplete _ => exact h.execRejoinComplete
  | rjtExpiry _ => exact h.execRjtExpiry
  | sensorSample _ _ _ => exact h.execSensorSample
  | railOvercurrent _ | droopStretch _ _ => exact .next h.modBulk
  | emgClear _ => exact h.execEmgClear
  | overtempFault _ => exact h.execOvertempFault
  | clockChangeRequest _ _ => exact h.execClockChangeRequest
  | clockChangeComplete _ => exact h.execClockChangeComplete
  | powerReport _ _ => exact .next h.modHost
  | doorbellWrite _ _ _ => exact h.execDoorbellWrite
  | atsInvalidation _ _ _ => exact h.execAtsInvalidation
  | atsInvalidationComplete _ => exact h.execAtsInvalidationComplete
  | hotReset | linkDown => exact .next h.raise.dropLink
  | vfReset _ => exact .next h.raise.endWorld
  | lockInterface _ _ => exact h.execLockInterface
  | stopInterface _ => exact .next h.update.raise.endWorld
  | getDeviceInterfaceReport _ => exact h.execGetDeviceInterfaceReport
  | getVersion _ | getCapabilities _ | getDigests _ => exact h.plainAnswer
  | negotiateAlgorithms _ => exact h.execNegotiateAlgorithms
  | getCertificate _ => exact h.execGetCertificate
  | challenge _ => exact h.execChallenge
  | getMeasurements _ _ => exact h.execGetMeasurements
  | keyExchange _ => exact h.execKeyExchange
  | finish _ => exact h.execFinish
  | keyUpdate _ | heartbeat _ => exact h.sessionAnswer fun _ _ h1 => h1
  | endSession _ => exact h.execEndSession
  | spdmUnsupportedRequest _ => exact h.execSpdmUnsupportedRequest
  | telemetryRead _ _ => exact h.execTelemetryRead
  | sidebandResetRequest _ => exact h.execSidebandResetRequest
  | powerCapSet _ => exact h.execPowerCapSet
  | loadReplyArrival _ _ => exact h.execLoadReplyArrival
  | eviction _ => exact h.execEviction
  | softError _ => exact h.execSoftError
  | hostWrite _ => exact h.execHostWrite
  | startInterface _ => exact h.execStartInterface
  | pcieLinkTrained => exact h.execPcieLinkTrained
  | crcOrMacFailure _ _ _ => exact .next h.failPacket
  | stubRoundRequest _ => exact h.execStubRoundRequest
  | bridgeFault _ => exact .next h.fault
  | hbmStackFault _ => exact .next h.raise.fault
  | dieSharedPartFault _ => exact .next h.modDie.fault

/-! ## The issue of bundles (Machine/Issue.lean) -/

theorem State.MemWf.runOp (h : s.MemWf) : Result.MemWf (runOp r m o s) :=
  h.update.exec

theorem Result.MemWf.andThen {r : Result} {f : State → Result} (h : r.MemWf)
    (hf : ∀ t, t.MemWf → Result.MemWf (f t)) :
    Result.MemWf (andThen r f) := by
  cases h with
  | next h => exact hf _ h
  | fault => exact .fault
  | refused => exact .refused

theorem State.MemWf.runOps (h : s.MemWf) : Result.MemWf (runOps r m l s) := by
  induction l generalizing s with
  | nil => exact .next h
  | cons o l ih => exact h.runOp.andThen fun _ ht => ih ht

theorem State.MemWf.runRanks (h : s.MemWf) : Result.MemWf (runRanks m p rs s) := by
  induction rs generalizing s with
  | nil => exact .next h
  | cons r rs ih => exact h.runOps.andThen fun _ ht => ih ht

theorem State.MemWf.inHand (h : s.MemWf) : (s.inHand r).MemWf :=
  h.update

theorem State.MemWf.probe (h : s.MemWf) : Result.MemWf (Machine.probe s1 rs r s) := by
  unfold Machine.probe
  extract_lets s2 _ s3
  have hs2 : s2.MemWf := h.inHand
  have hs3 : s3.MemWf := hs2.update
  exact hs3.modCore.runOps.andThen fun _ ht => .next ht.update

theorem State.MemWf.withProbes {k : State → List (Rank × Option Stop) → Result} (h : s.MemWf)
    (hk : ∀ t l, t.MemWf → Result.MemWf (k t l)) : Result.MemWf (withProbes s1 all rs s acc k) := by
  induction rs generalizing s acc with
  | nil => exact hk _ _ h
  | cons r rs ih => exact h.probe.andThen fun _ ht => ih ht

theorem State.MemWf.holdRanks (h : s.MemWf) : (holdRanks l s).MemWf := by
  unfold Machine.holdRanks
  refine h.foldl fun t1 _ h1 => ?_
  split
  · exact h1.inHand.takeStop
  · exact h1.inHand.takeStop
  · exact h1.inHand.takeStop

theorem State.MemWf.trapRanks (h : s.MemWf) : (trapRanks l s).MemWf := by
  unfold Machine.trapRanks
  refine h.foldl fun t1 _ h1 => ?_
  extract_lets
  split
  · extract_lets s1
    have hs1 : s1.MemWf := h1.modCore
    split
    · exact h1
    · exact hs1.inHand.takeStop
  · exact h1

theorem State.MemWf.closeRanks (h : s.MemWf) : (closeRanks rs s1 s).MemWf := by
  unfold Machine.closeRanks
  extract_lets _ s2
  have hs2 : s2.MemWf := h.foldl fun _ _ h1 => h1.modCore
  split
  · exact hs2.closeStores
  · exact hs2

theorem State.MemWf.endRank (h : s.MemWf) : Result.MemWf (endRank r s) := by
  refine h.runOps.andThen fun t ht => ?_
  split
  · exact ht.modCore.runOps
  · exact ht.runOps

theorem State.MemWf.endRanks (h : s.MemWf) : Result.MemWf (endRanks rs s) := by
  induction rs generalizing s with
  | nil => exact .next h
  | cons r rs ih => exact h.endRank.andThen fun _ ht => ih ht

theorem State.MemWf.issueRanks (h : s.MemWf) : Result.MemWf (issueRanks rs s) := by
  unfold Machine.issueRanks
  extract_lets s1 s2
  have hs2 : s2.MemWf := h.foldl fun _ _ h1 => h1.modCore
  refine hs2.runRanks.andThen fun t ht => ht.runRanks.andThen fun u hu => ?_
  extract_lets s3
  have hs3 : s3.MemWf := hu.foldl fun _ _ h1 => h1.modCore
  exact hs3.closeRanks.endRanks

theorem State.MemWf.settleRanks {late : State → Result} (h : s.MemWf)
    (hlate : ∀ t, t.MemWf → Result.MemWf (late t)) : Result.MemWf (settleRanks rs s1 s l late) := by
  unfold Machine.settleRanks
  extract_lets
  split
  · exact .next h.update.holdRanks
  · split
    · exact .next h.update.closeStores.holdRanks
    · split
      · exact .next h.update.trapRanks
      · split
        · exact .next h.update.trapRanks
        · split
          · exact .next h.update.trapRanks
          · split
            · exact hlate _ h
            · exact h.issueRanks

theorem State.MemWf.lateRanks (h : s.MemWf) : Result.MemWf (lateRanks rs s1 s) := by
  refine h.runRanks.andThen fun t ht => ?_
  extract_lets s2 _ s3
  have hs2 : s2.MemWf := ht.foldl fun _ _ h1 => h1.modCore
  have hs3 : s3.MemWf := by
    unfold s3
    split
    · exact hs2.closeStores
    · exact hs2
  refine hs3.runRanks.andThen fun u hu => ?_
  extract_lets s4 s5
  have hs4 : s4.MemWf := hu.foldl fun _ _ h1 => h1.modCore
  have hs5 : s5.MemWf := hs4.foldl fun _ _ h1 => h1.modCore
  exact hs5.withProbes fun _ _ h1 => h1.settleRanks fun _ h2 => .next h2.update.holdRanks

theorem State.MemWf.attempt (h : s.MemWf) : Result.MemWf (attempt rs s) := by
  unfold Machine.attempt
  extract_lets s1 s2
  have hs1 : s1.MemWf := by
    unfold s1
    refine h.foldl fun t _ ht => ?_
    split
    · split
      · exact ht.fenceDone
      · exact ht
    · exact ht
  have hs2 : s2.MemWf := hs1.foldl fun _ _ h1 => h1.modCore
  exact hs2.withProbes fun _ _ h1 => h1.settleRanks fun _ h2 => h2.lateRanks

theorem State.MemWf.passBubble (h : s.MemWf) : (s.passBubble cs).MemWf :=
  h.foldl fun _ _ h1 => h1.modCore

theorem State.MemWf.takeIllegal (h : s.MemWf) : (s.takeIllegal l).MemWf :=
  h.foldl fun _ _ h1 => h1.update.takeStop

theorem State.MemWf.abortStep (h : s.MemWf) : (s.abortStep cs lead).MemWf := by
  unfold State.abortStep
  extract_lets _ s1
  have hs1 : s1.MemWf := h.closeStores
  split
  · exact hs1.endAborted
  · exact hs1.foldl fun _ _ h1 => h1.modCore

theorem State.MemWf.arbiterStop (h : s.MemWf) : ResultOption.MemWf (s.arbiterStop c) := by
  unfold State.arbiterStop
  extract_lets
  split
  · exact .none
  · split
    · refine .some (.next (h.foldl fun t _ ht => ?_))
      split
      · exact ht.stopCore
      · exact ht
    · split
      · exact .some (.next h)
      · split
        · exact .some h.execHandlerQuietTimeout
        · exact .none

theorem State.MemWf.boundary (h : s.MemWf) : Result.MemWf (boundary cs s) := by
  unfold Machine.boundary
  extract_lets
  split
  · exact .next h.takeIllegal
  · split
    · rename_i e
      obtain ⟨c, -, hc⟩ := List.exists_of_findSome?_eq_some e
      exact h.arbiterStop.get hc
    · split
      · exact .next h.passBubble
      · split
        · exact .next h.abortStep
        · exact h.attempt

theorem State.MemWf.turn (h : s.MemWf) : Result.MemWf (turn c s) := by
  unfold Machine.turn
  extract_lets
  split
  · exact h.execRewind
  · exact h.execFreezeLatch
  · exact h.execUnitChoice
  · split
    · exact .next h.endStep
    · exact h.execTaskStart
  · exact .next h
  · exact .next h
  · exact .next h
  · split
    · exact h.boundary
    · split
      · exact h.boundary
      · split
        · exact (h.passSpan.foldl fun _ _ h1 => h1.modCore).boundary
        · split
          · exact .next h.passSpan.modCore
          · exact h.boundary.andThen fun _ ht => .next ht.passSpan

/-! ## A step (Machine/Step.lean) -/

theorem State.MemWf.ownStep (h : s.MemWf) : Result.MemWf (s.ownStep n) := by
  unfold State.ownStep
  extract_lets
  split
  · exact h.execSegmentCommit
  · exact h.execRendezvousCommit
  · exact h.execAtomicPerform
  · exact h.execLoadReplyArrival
  · exact h.execCopyLine
  · exact h.execCcopyRecord
  · exact h.execSlotZeroed
  · exact h.execRoutineStep
  · exact h.execStreamAddressPlace
  · exact h.execStreamFetchSend
  · exact h.execStreamFetchLand
  · exact h.execStreamOutputWrite
  · exact h.execInstructionRefetch
  · exact h.execWalkStart
  · exact h.execTranslationWalk
  · exact h.execShootdownComplete
  · exact h.execWatchedWordReread
  · exact h.execPriorityAging
  · exact h.execPriorityAging
  · exact h.execQueueDispatch
  · exact h.execQueueEntryComplete
  · exact h.execBarrierComplete
  · exact h.execWorldDrain
  · exact h.execSealPoint
  · exact h.execFrameRetirement
  · exact h.execPatrolScrub
  · exact h.execWindowRequestTimeout
  · exact h.execLitSetChange
  · exact h.execOwnerCacheRelease
  · exact h.execTagTimeout
  · exact h.execTagQuarantineExpiry
  · exact h.execBusyResend
  · exact h.execRcpoGroupAbandon
  · exact h.execStubRoundStart
  · exact h.execStubRoundTimeout
  · exact h.execDiapauseDrain
  · exact h.execManifestSeal
  · exact h.execBrownoutSecondShed
  · exact h.execBrownoutRetention
  · exact h.execMemoryRestore
  · exact h.execRejoinComplete
  · exact h.execRjtExpiry
  · exact h.execEmgClear
  · exact h.execOvertempFault
  · exact h.execClockChangeComplete
  · exact h.execAtsInvalidationComplete
  · exact h.execSensorSample
  · exact h.execEviction
  · exact h.execEviction
  · exact h.execEviction
  · exact h.execEviction
  · exact h.execHandlerQuietTimeout
  · exact h.execEviction
  · exact h.turn

theorem State.MemWf.alone (h : s.MemWf) : s.alone.MemWf :=
  h.update

theorem State.MemWf.take (h : s.MemWf) : Result.MemWf (s.take t) := by
  unfold State.take
  split
  · exact h.turn
  · exact h.alone.exec

theorem State.MemWf.step (h : s.MemWf) : Result.MemWf (step s) := by
  unfold Machine.step
  split
  · exact h.update.take
  · exact h.update.alone.ownStep

end

end Sys2Proof.Machine

/-! ## The obligation -/

section
open Sys2Proof Sys2Proof.Machine

/-- Settles O60: the canonical form is an invariant of every function that a step is built from. -/
theorem everyStepKeepsMemories : Obligations.EveryStepKeepsMemories := by
  intro s t hmem hhost e
  have hstep : Result.MemWf (step s) := State.MemWf.step ⟨hmem, hhost⟩
  rw [e] at hstep
  cases hstep with
  | next ht => exact ht

end
end

section
/-! The scalar and control ops give the results of spec/04_scalar_and_control.md, and bad operands the traps of Table 14-1
(O1 to O8).

A result follows from the law of the op's form in Laws/Scalar.lean and a lemma that ties the function which the model computes
to the formula, or to the bits, of the spec's table. A trap follows from the one stop, or the first of the stops, that the op
meets. `(rfl : _ = execF x s)` names the meaning of an op, so that its form is read off from there. -/

namespace Sys2Proof.Machine

/-! ## Words as integers reduced mod 2^64 (R84, R87) -/

@[simp] theorem wrap_toInt (a : Word) : wrap a.toInt = a := BitVec.ofInt_toInt

@[simp] theorem wrap_toNat (a : Word) : wrap (a.toNat : Int) = a := by
  rw [wrap_nat, BitVec.ofNat_toNat, BitVec.setWidth_eq]

theorem wrap_add (y z : Int) : wrap (y + z) = wrap y + wrap z := BitVec.ofInt_add y z

theorem wrap_mul (y z : Int) : wrap (y * z) = wrap y * wrap z := BitVec.ofInt_mul y z

theorem wrap_neg (y : Int) : wrap (-y) = -wrap y := BitVec.ofInt_neg

/-- A product by a power of two is a left shift. -/
theorem wrap_mul_two_pow (y : Int) (n : Nat) : wrap (y * 2 ^ n) = wrap y <<< n := by
  have hpow : wrap (2 ^ n) = BitVec.twoPow 64 n := by
    rw [show (2 : Int) ^ n = ((2 ^ n : Nat) : Int) by push_cast; rfl, wrap_nat]
    exact BitVec.eq_of_toNat_eq (by rw [BitVec.toNat_ofNat, BitVec.toNat_twoPow])
  rw [wrap_mul, hpow, BitVec.shiftLeft_eq_mul_twoPow]

/-- The natural value divided by a power of two is a right shift of zeros. -/
theorem wrap_toNat_div_two_pow (a : Word) (n : Nat) : wrap ((a.toNat : Int) / 2 ^ n) = a >>> n := by
  rw [show ((a.toNat : Int) / 2 ^ n) = ((a.toNat / 2 ^ n : Nat) : Int) by push_cast; rfl, wrap_nat]
  refine BitVec.eq_of_toNat_eq ?_
  rw [BitVec.toNat_ofNat, BitVec.toNat_ushiftRight, Nat.shiftRight_eq_div_pow,
    Nat.mod_eq_of_lt (Nat.lt_of_le_of_lt (Nat.div_le_self _ _) a.isLt)]

/-- The signed value divided by a power of two is a right shift of the sign. -/
theorem wrap_toInt_div_two_pow (a : Word) (n : Nat) : wrap (a.toInt / 2 ^ n) = a.sshiftRight n := by
  rw [BitVec.sshiftRight_eq, Int.shiftRight_eq_div_pow]; push_cast; rfl

/-! ## Shifts (Table 4-1) -/

/-- A choice by either of two conditions that say the same. -/
theorem ite_of_iff {α : Type} {c d : Prop} [Decidable c] [Decidable d] (h : c ↔ d) (a b : α) :
    (if c then a else b) = if d then a else b := ite_congr (propext h) (fun _ => rfl) fun _ => rfl

theorem shlBy_eq (a b : Word) :
    shlBy a b = if b.toNat ≤ 63 then wrap ((a.toNat : Int) * 2 ^ b.toNat) else 0 := by
  rw [wrap_mul_two_pow, wrap_toNat]
  exact ite_of_iff Nat.lt_succ_iff _ _

theorem shrBy_eq (a b : Word) :
    shrBy a b = if b.toNat ≤ 63 then wrap ((a.toNat : Int) / 2 ^ b.toNat) else 0 := by
  rw [wrap_toNat_div_two_pow]
  exact ite_of_iff Nat.lt_succ_iff _ _

theorem sraBy_eq (a b : Word) : sraBy a b =
    if b.toNat ≤ 63 then wrap (a.toInt / 2 ^ b.toNat) else if a.toInt < 0 then wrap (-1) else 0 := by
  rw [wrap_toInt_div_two_pow]
  exact ite_of_iff Nat.lt_succ_iff _ _

/-! ## Upper product and division (R87, R88) -/

theorem mulHiN_eq (a b : Word) : mulHiN a b = wrap ((a.toNat : Int) * b.toNat / 2 ^ 64) := by
  rw [mulHiN, ← wrap_nat, Int.natCast_ediv, Int.natCast_mul, Int.natCast_pow]; rfl

/-- The quotient that 64 bits do not hold is reduced to the dividend. -/
theorem wrap_tdiv_of_overflow {a b : Word} (ha : a.toInt = -2 ^ 63) (hb : b.toInt = -1) :
    wrap (a.toInt.tdiv b.toInt) = a := by
  rw [← wrap_toInt a, ha, hb]; decide

theorem divS_eq (a b : Word) : divS a b =
    if b.toNat = 0 then 0xFFFFFFFFFFFFFFFF
    else if a.toInt = -2 ^ 63 ∧ b.toInt = -1 then a
    else wrap (a.toInt.tdiv b.toInt) := by
  refine ite_congr (propext BitVec.toNat_eq) (fun _ => rfl) fun _ => ?_
  split
  case isTrue h => exact wrap_tdiv_of_overflow h.1 h.2
  case isFalse => rfl

theorem remS_eq (a b : Word) : remS a b =
    if b.toNat = 0 then a
    else if a.toInt = -2 ^ 63 ∧ b.toInt = -1 then 0
    else wrap (a.toInt - b.toInt * a.toInt.tdiv b.toInt) := by
  refine ite_congr (propext BitVec.toNat_eq) (fun _ => rfl) fun _ => ?_
  split
  case isTrue h => rw [h.1, h.2]; decide
  case isFalse => rw [Int.tmod_def]

theorem divN_eq (a b : Word) : divN a b =
    if b.toNat = 0 then 0xFFFFFFFFFFFFFFFF else wrap ((a.toNat / b.toNat : Nat)) := by
  rw [wrap_nat]
  exact ite_of_iff BitVec.toNat_eq _ _

theorem remN_eq (a b : Word) : remN a b = if b.toNat = 0 then a else wrap ((a.toNat % b.toNat : Nat)) := by
  rw [wrap_nat]
  exact ite_of_iff BitVec.toNat_eq _ _

/-! ## Extrema (R92) -/

theorem sLe_iff (a b : Word) : sLe a b = true ↔ a.toInt ≤ b.toInt := decide_eq_true_iff

theorem nLe_iff (a b : Word) : nLe a b = true ↔ a.toNat ≤ b.toNat := decide_eq_true_iff

/-- `abs` gives the magnitude, reduced mod 2^64 (R92). -/
theorem abs_eq_wrap_natAbs (a : Word) : (if a.toInt < 0 then -a else a) = wrap a.toInt.natAbs := by
  split
  case isTrue h => rw [Int.ofNat_natAbs_of_nonpos (Int.le_of_lt h), wrap_neg, wrap_toInt]
  case isFalse h => rw [Int.natAbs_of_nonneg (Int.not_lt.1 h), wrap_toInt]

/-! ## Immediates (R89) -/

/-- The immediate of an op is its signed value, as a word. -/
theorem wrap_toInt_imm {w : Nat} (i : BitVec w) : wrap i.toInt = i.signExtend 64 := rfl

/-- An amount of a shift is not changed by sign extension. -/
theorem toNat_signExtend_of_le_63 {i : BitVec 20} (h : i.toNat ≤ 63) : (i.signExtend 64).toNat = i.toNat := by
  have hmsb : i.msb = false := by rw [BitVec.msb_eq_decide, decide_eq_false]; omega
  rw [BitVec.signExtend_eq_setWidth_of_msb_false hmsb, BitVec.toNat_setWidth, Nat.mod_eq_of_lt (by omega)]

/-! ## The forms with the value that an op's table gives -/

section
variable {lat : Nat} {s : State} {v : Word}

theorem scRR_gives {f : Word → Word → Word} {x : ClsSR} (h : s.acts) (ha : s.sOk x.a) (hb : s.sOk x.b)
    (hv : f (s.sv x.a) (s.sv x.b) = v) : scRR lat f x s = .next (s.putS x.d.toNat lat v) := hv ▸ scRR_next h ha hb

theorem scRI_gives {f : Word → Word → Word} {x : ClsSI} (h : s.acts) (ha : s.sOk x.a)
    (hv : f (s.sv x.a) (x.imm.signExtend 64) = v) : scRI lat f x s = .next (s.putS x.d.toNat lat v) := hv ▸ scRI_next h ha

end

/-! ## Bits of the functions of Table 4-7 and of the field ops (R93, R94) -/

/-- The signed value of `len` bits is that of the bit vector they make. -/
theorem toSigned_eq_toInt_ofNat {len m : Nat} (hlen : 0 < len) (hm : m < 2 ^ len) :
    toSigned len m = (BitVec.ofNat len m).toInt := by
  obtain ⟨k, rfl⟩ : ∃ k, len = k + 1 := ⟨len - 1, by omega⟩
  rw [toSigned, BitVec.toInt_eq_toNat_cond, BitVec.toNat_ofNat, Nat.mod_eq_of_lt hm, Nat.add_sub_cancel, Nat.pow_succ]
  by_cases h : m < 2 ^ k
  · rw [if_pos h, if_pos (by omega)]; rfl
  · rw [if_neg h, if_neg (by omega)]; rfl

/-- Bits of a field of a word, read from bit 0 of the field. -/
theorem testBit_wordField (a : Word) (pos len i : Nat) :
    (a.toNat / 2 ^ pos % 2 ^ len).testBit i = (decide (i < len) && a.getLsbD (pos + i)) := by
  rw [Nat.testBit_mod_two_pow, Nat.testBit_div_two_pow, BitVec.testBit_toNat, Nat.add_comm]

/-- `bextn` gives the bits of the field, and zeros above it (R93). -/
theorem getLsbD_naturalField (a : Word) (pos len : Nat) {i : Nat} (hi : i < 64) :
    (BitVec.ofNat 64 (a.toNat / 2 ^ pos % 2 ^ len)).getLsbD i = (decide (i < len) && a.getLsbD (pos + i)) := by
  rw [BitVec.getLsbD_ofNat, decide_eq_true hi, Bool.true_and, testBit_wordField]

/-- `bext` gives the bits of the field, and its highest bit above it (R93). -/
theorem getLsbD_signedField (a : Word) (pos : Nat) {len i : Nat} (hlen : 0 < len) (hi : i < 64) :
    (wrap (toSigned len (a.toNat / 2 ^ pos % 2 ^ len))).getLsbD i = a.getLsbD (pos + Nat.min i (len - 1)) := by
  have hext : wrap (toSigned len (a.toNat / 2 ^ pos % 2 ^ len)) =
      (BitVec.ofNat len (a.toNat / 2 ^ pos % 2 ^ len)).signExtend 64 := by
    rw [toSigned_eq_toInt_ofNat hlen (Nat.mod_lt _ (Nat.two_pow_pos len))]; rfl
  have hbit (j : Nat) (hj : j < len) :
      (BitVec.ofNat len (a.toNat / 2 ^ pos % 2 ^ len)).getLsbD j = a.getLsbD (pos + j) := by
    rw [BitVec.getLsbD_ofNat, testBit_wordField, decide_eq_true hj, Bool.true_and, Bool.true_and]
  rw [hext, BitVec.getLsbD_signExtend, decide_eq_true hi, Bool.true_and]
  by_cases h : i < len
  · rw [if_pos h, hbit i h, show Nat.min i (len - 1) = i from Nat.min_eq_left (by omega)]
  · rw [if_neg h, BitVec.msb_eq_getLsbD_last, hbit _ (by omega),
      show Nat.min i (len - 1) = len - 1 from Nat.min_eq_right (by omega)]

/-- The mask of a field has the bits of the field. -/
theorem getLsbD_fieldMask (pos len : Nat) {i : Nat} (hi : i < 64) :
    (BitVec.ofNat 64 ((2 ^ len - 1) * 2 ^ pos)).getLsbD i = decide (pos ≤ i ∧ i < pos + len) := by
  rw [BitVec.getLsbD_ofNat, Nat.testBit_mul_two_pow, Nat.testBit_two_pow_sub_one, Bool.eq_iff_iff]
  simp only [Bool.and_eq_true, decide_eq_true_eq]
  omega

/-- `bins` replaces the bits of the field and keeps the others (R93). -/
theorem getLsbD_insertField (a d : Word) (pos len : Nat) {i : Nat} (hi : i < 64) :
    ((d &&& ~~~BitVec.ofNat 64 ((2 ^ len - 1) * 2 ^ pos)) |||
      (a <<< pos &&& BitVec.ofNat 64 ((2 ^ len - 1) * 2 ^ pos))).getLsbD i =
      if pos ≤ i ∧ i < pos + len then a.getLsbD (i - pos) else d.getLsbD i := by
  rw [BitVec.getLsbD_or, BitVec.getLsbD_and, BitVec.getLsbD_not, BitVec.getLsbD_and, BitVec.getLsbD_shiftLeft,
    getLsbD_fieldMask pos len hi]
  by_cases h : pos ≤ i ∧ i < pos + len
  · simp [h, hi]
  · simp [h, hi]

/-- Bits of a reversal: the reversed bits lie below what had been collected. -/
theorem testBit_revBits (n x acc j : Nat) :
    (revBits n x acc).testBit j = if j < n then x.testBit (n - 1 - j) else acc.testBit (j - n) := by
  induction n generalizing x acc with
  | zero => rfl
  | succ n ih =>
    rw [revBits, ih]
    have hacc (k : Nat) : (acc * 2 + x % 2).testBit (k + 1) = acc.testBit k := by
      rw [Nat.testBit_add_one]; congr 1; omega
    rcases Nat.lt_trichotomy j n with h | rfl | h
    · rw [if_pos h, if_pos (by omega), ← Nat.testBit_add_one, show n - 1 - j + 1 = n + 1 - 1 - j by omega]
    · rw [if_neg (by omega), if_pos (by omega), Nat.sub_self, show j + 1 - 1 - j = 0 by omega, Nat.testBit_zero,
        Nat.testBit_zero]
      congr 2; omega
    · rw [if_neg (by omega), if_neg (by omega), show j - n = j - (n + 1) + 1 by omega, hacc]

/-- `brev` gives the bits in reverse order (R94). -/
theorem getLsbD_revBits (a : Word) {i : Nat} (hi : i < 64) :
    (BitVec.ofNat 64 (revBits 64 a.toNat 0)).getLsbD i = a.getLsbD (63 - i) := by
  rw [BitVec.getLsbD_ofNat, testBit_revBits, decide_eq_true hi, if_pos hi, Bool.true_and, BitVec.testBit_toNat]

/-- `bswap` gives the bytes in reverse order (R94). -/
theorem getLsbD_revBytes (a : Word) {i j : Nat} (hi : i < 8) (hj : j < 8) :
    (BitVec.ofNat 64 (joinNat 8 (splitNat 8 8 a.toNat).reverse)).getLsbD (8 * i + j) = a.getLsbD (8 * (7 - i) + j) := by
  have hbyte : (splitNat 8 8 a.toNat).reverse.getD i 0 = a.toNat / 2 ^ (8 * (7 - i)) % 2 ^ 8 := by
    rw [List.getD_eq_getElem?_getD, List.getElem?_reverse (by rwa [splitNat_length]), ← List.getD_eq_getElem?_getD,
      splitNat_length, splitNat_getD _ _ _ _ (by omega)]
  calc (BitVec.ofNat 64 (joinNat 8 (splitNat 8 8 a.toNat).reverse)).getLsbD (8 * i + j)
      = (joinNat 8 (splitNat 8 8 a.toNat).reverse).testBit (8 * i + j) := by
        rw [BitVec.getLsbD_ofNat, decide_eq_true (by omega), Bool.true_and]
    _ = (joinNat 8 (splitNat 8 8 a.toNat).reverse / 2 ^ (8 * i) % 2 ^ 8).testBit j := by
        rw [Nat.testBit_mod_two_pow, Nat.testBit_div_two_pow, decide_eq_true hj, Bool.true_and, Nat.add_comm]
    _ = (a.toNat / 2 ^ (8 * (7 - i)) % 2 ^ 8).testBit j := by rw [joinNat_elem, hbyte, Nat.mod_mod]
    _ = a.getLsbD (8 * (7 - i) + j) := by rw [testBit_wordField, decide_eq_true hj, Bool.true_and]

/-- `popc` counts the bits that are set (R94). -/
theorem countOnes_eq_length_filter (n x : Nat) : countOnes n x = ((List.range n).filter fun i => x.testBit i).length := by
  induction n generalizing x with
  | zero => rfl
  | succ n ih =>
    have hshift : ((fun i => x.testBit i) ∘ Nat.succ) = fun i => (x / 2).testBit i :=
      funext fun i => Nat.testBit_add_one x i
    rw [countOnes, ih, List.range_succ_eq_map, List.filter_cons, List.filter_map, hshift, Nat.testBit_zero]
    by_cases h : x % 2 = 1
    · simp [h, Nat.add_comm]
    · simp [show x % 2 = 0 by omega]

/-- `ctz` gives the place of the lowest bit that is set, or the width where none is (R94). -/
theorem trailZeros_spec (w x : Nat) : trailZeros w x ≤ w ∧ (∀ i < trailZeros w x, x.testBit i = false) ∧
    (trailZeros w x < w → x.testBit (trailZeros w x) = true) := by
  induction w generalizing x with
  | zero => exact ⟨Nat.le_refl 0, fun i hi => absurd hi (Nat.not_lt_zero i), fun h => absurd h (Nat.lt_irrefl 0)⟩
  | succ w ih =>
    rw [trailZeros]
    by_cases hodd : x % 2 = 1
    · rw [if_pos hodd]
      exact ⟨Nat.zero_le _, fun i hi => absurd hi (Nat.not_lt_zero i), fun _ => by
        rw [Nat.testBit_zero, decide_eq_true hodd]⟩
    · obtain ⟨hle, hlow, hbit⟩ := ih (x / 2)
      rw [if_neg hodd, Nat.add_comm 1]
      refine ⟨Nat.succ_le_succ hle, fun i hi => ?_, fun h => ?_⟩
      · cases i with
        | zero => rw [Nat.testBit_zero, decide_eq_false hodd]
        | succ i => rw [Nat.testBit_add_one]; exact hlow i (Nat.lt_of_succ_lt_succ hi)
      · rw [Nat.testBit_add_one]; exact hbit (Nat.lt_of_succ_lt_succ h)

/-- `clz` gives the number of bits above the highest that is set, or the width where none is (R94). -/
theorem leadZeros_spec {w x : Nat} (hx : x < 2 ^ w) : leadZeros w x ≤ w ∧
    (∀ i < leadZeros w x, x.testBit (w - 1 - i) = false) ∧
    (leadZeros w x < w → x.testBit (w - 1 - leadZeros w x) = true) := by
  rw [leadZeros]
  by_cases h0 : x = 0
  · rw [if_pos h0, h0]
    exact ⟨Nat.le_refl w, fun i _ => Nat.zero_testBit _, fun h => absurd h (Nat.lt_irrefl w)⟩
  · have hlog : x.log2 < w := (Nat.log2_lt h0).2 hx
    rw [if_neg h0]
    refine ⟨by omega, fun i hi => ?_, fun _ => ?_⟩
    · exact Nat.testBit_lt_two_pow (Nat.lt_of_lt_of_le Nat.lt_log2_self (Nat.pow_le_pow_right (by decide) (by omega)))
    · rw [show w - 1 - (w - 1 - x.log2) = x.log2 by omega]
      exact Nat.testBit_log2 h0

/-! ## Moves between files (R97) -/

/-- `movp` gives the predicates, `p0` as 1, in the low 16 bits (R40, R97). -/
theorem getLsbD_predicateWord (c : Core) (i : Nat) :
    ((c.p ||| 1).setWidth 64 : Word).getLsbD i = (decide (i < 16) && c.preg i) := by
  rw [BitVec.getLsbD_setWidth, BitVec.getLsbD_or, Core.preg]
  by_cases hi : i < 16
  · by_cases h0 : i = 0
    · subst h0; simp
    · simp [hi, h0, show i < 64 by omega]
  · rw [BitVec.getLsbD_of_ge _ _ (Nat.not_lt.1 hi), BitVec.getLsbD_of_ge _ _ (Nat.not_lt.1 hi), decide_eq_false hi]
    simp

/-- `p0` discards its move: `pmovs` begins with predicate 1 (R40, R97). -/
theorem foldl_putP_of_p0 (l : List Nat) (a b : Word) (s : State) :
    l.foldl (fun t i => if b.getLsbD i then t.putP i (a.getLsbD i) else t) s =
      (l.filter fun i => decide (1 ≤ i) && b.getLsbD i).foldl (fun t i => t.putP i (a.getLsbD i)) s := by
  rw [List.foldl_filter]
  congr 1
  funext t i
  cases i with
  | zero => simp
  | succ i => simp

/-! ## Transfer of control (R14, R98, R99) -/

/-- A target within the image's index space is reached as it is (R16). -/
theorem ofInt_13_of_range {y : Int} (h0 : 0 ≤ y) (h1 : y < 8192) : ofInt 13 y = y.toNat := by
  rw [ofInt, show Int.ofNat (2 ^ 13) = 8192 from rfl, Int.emod_eq_of_lt h0 h1]

/-- The offset of a tree's leaf from the bundle (Table 1-3): its target's, or 1 where the next bundle follows. -/
def treeOffset (t : Tree) : Nat → Int
  | 4 => t.g0.toInt
  | 5 => t.g1.toInt
  | 6 => t.g2.toInt
  | 7 => t.g3.toInt
  | _ => 1

/-- A tree leads to one of four targets, or falls through, whatever its tests say (Table 1-3). -/
theorem treeLeaf_mem (shape : Nat) (t0 t1 t2 t3 : Bool) : treeLeaf shape t0 t1 t2 t3 ∈ [4, 5, 6, 7, 8] := by
  unfold treeLeaf
  split <;> revert t0 t1 t2 t3 <;> decide

theorem leafOf_mem (t : Tree) (c : Core) : leafOf t c ∈ [4, 5, 6, 7, 8] := treeLeaf_mem _ _ _ _ _

/-- What the offset of a leaf is, leaf by leaf. -/
theorem treeOffset_eq {t : Tree} {leaf : Nat} {off : Int} (hleaf : leaf ∈ [4, 5, 6, 7, 8])
    (h0 : leaf = 4 → off = t.g0.toInt) (h1 : leaf = 5 → off = t.g1.toInt) (h2 : leaf = 6 → off = t.g2.toInt)
    (h3 : leaf = 7 → off = t.g3.toInt) (h4 : leaf = 8 → off = 1) : treeOffset t leaf = off := by
  simp only [List.mem_cons, List.not_mem_nil, or_false] at hleaf
  rcases hleaf with rfl | rfl | rfl | rfl | rfl
  · exact (h0 rfl).symm
  · exact (h1 rfl).symm
  · exact (h2 rfl).symm
  · exact (h3 rfl).symm
  · exact (h4 rfl).symm

/-- The tree's branch goes by the offset of its leaf (R14). -/
theorem execTreeBranch_next {t : Tree} {s : State} (h : s.acts) (hp : s.pOk) :
    execTreeBranch t s = .next (s.goto (ofInt 13 (Int.ofNat s.ctx.pc + treeOffset t (leafOf t s.cur)))) :=
  issueOp_of_nil _ _ s h (s.srcStops_p hp)

/-- The index of the next bundle, as a link (R98). -/
theorem wrap_pc_add_one (n : Nat) : wrap ((n : Int) + 1) = BitVec.ofNat 64 (n + 1) := wrap_nat (n + 1)

/-! ## What an op that stands alone meets (R249, R251) -/

/-- A trap at T: its handler takes it, and what a walk has brought the op is dropped (R186, R249). -/
theorem State.takeStop_trap_of_T {s : State} (hT : s.cur.atH = false) (cause : Nat) (info : Word) :
    s.takeStop (.trap cause info) =
      (s.modCur fun c => c.dropRes .issue).trapEntry s.ctx.core cause info s.ctx.pc := by
  change (if s.cur.atH = true then _ else _) = _
  rw [hT]
  rfl

/-- A poisoned register stops its consumer (R39, R256). -/
theorem State.srcStops_s_of_poison {s : State} {r : Nat} {p : Poison} (hp : s.cur.spoi r = some p)
    (hbad : BadReg.s r ∉ s.cur.bad) (bit : Nat) :
    s.srcStops [.s r bit] = [s.stop 6 bit (poisonKind p (consumerInfo s.ctx.slot r false))] := by
  simp [State.srcStops, hbad, hp]

/-- The causes that R39 names trap. -/
theorem poisonKind_of_cause {p : Poison} (hc : p.cause = 3 ∨ p.cause = 5 ∨ p.cause = 8) (info : Word) :
    poisonKind p info = .trap p.cause.toNat info := if_pos hc

/-- An op with two scalar sources whose first is poisoned traps with the poison's cause, whether the second can be read or
is the same register (R39, R251). -/
theorem scRR_trap_of_poison {lat : Nat} {f : Word → Word → Word} {x : ClsSR} {s : State} {p : Poison}
    (h : s.ctx.mode = .alone) (hp : s.cur.spoi x.a.toNat = some p) (hbad : BadReg.s x.a.toNat ∉ s.cur.bad)
    (hc : p.cause = 3 ∨ p.cause = 5 ∨ p.cause = 8) (hb : x.b = x.a ∨ s.sOk x.b) :
    scRR lat f x s = .next (s.takeStop (.trap p.cause.toNat (consumerInfo s.ctx.slot x.a.toNat false))) := by
  rw [← poisonKind_of_cause hc]
  refine issueOp_of_stop _ _ s (s.stop 6 6 (poisonKind p (consumerInfo s.ctx.slot x.a.toNat false))) h ?_
  rw [State.srcStops_cons, State.srcStops_s_of_poison hp hbad]
  rcases hb with hb | hb
  · rw [hb, State.srcStops_s_of_poison hp hbad]
    simp [pickStop, Stop.before, State.stop]
  · rw [State.srcStops_s _ _ _ hb]; rfl

/-- A register jump out of reach stops with an ILLB that names bit 78 (R99, R100). -/
theorem State.jumpStop_of_not_reaches {s : State} {a : BitVec 6} (ha : s.sOk a)
    (ht : s.cur.reaches ((s.sv a).toNat : Int) = false) : s.jumpStop a = [s.stop 4 6 (.trap 1 (illbInfo 78))] := by
  have hread : a.toNat = 0 ∨ BadReg.s a.toNat ∉ s.cur.bad := Decidable.or_iff_not_imp_left.2 ha.1
  exact if_pos ⟨hread, by rw [show s.cur.reaches (Int.ofNat (s.sv a).toNat) = false from ht]; rfl⟩

/-- A register jump within reach meets no such stop. -/
theorem State.jumpStop_of_reaches {s : State} {a : BitVec 6} (ht : s.cur.reaches ((s.sv a).toNat : Int) = true) :
    s.jumpStop a = [] :=
  if_neg fun h => by rw [show s.cur.reaches (Int.ofNat (s.sv a).toNat) = true from ht] at h; exact absurd h.2 (by decide)

/-- What stops a register jump out of reach, whatever its effect. -/
theorem issueOp_jump_of_not_reaches {a : BitVec 6} {eff : State → State} {s : State} (h : s.ctx.mode = .alone)
    (ha : s.sOk a) (ht : s.cur.reaches ((s.sv a).toNat : Int) = false) :
    issueOp (fun s => s.srcStops [.s a.toNat 6] ++ s.jumpStop a) eff s =
      .next (s.takeStop (.trap 1 (illbInfo 78))) := by
  refine issueOp_of_stop _ eff s (s.stop 4 6 (.trap 1 (illbInfo 78))) h ?_
  rw [State.srcStops_s _ _ _ ha, State.jumpStop_of_not_reaches ha ht]
  rfl

/-- A row above 127 stops `mrow` (R128). -/
theorem execMrow_of_row_gt {x : ClsMA} {s : State} (h : s.ctx.mode = .alone) (hs : s.sOk x.s) (ha : s.accOk x.acc.toNat)
    (hrow : 127 < (s.sv x.s).toNat) : execMrow x s = .next (s.takeStop (.trap 12 0x78)) := by
  refine issueOp_of_stop _ _ s (s.stop 9 7 (.trap 12 0x78)) h ?_
  rw [State.srcStops_cons_nil (s.srcStops_s _ _ hs) (s.srcStops_acc _ _ ha), if_pos (s.clean_of_sOk _ hs), if_pos hrow]
  rfl

/-! ## Addresses (R144) -/

theorem bitOf_eq_testBit (n i : Nat) : bitOf n i = n.testBit i := by rw [Nat.testBit_eq_decide_div_mod_eq]; rfl

/-- The lowest set bit of a range is found where it stands. -/
theorem lowestSet_eq_some {n lo w b : Nat} (hlo : lo ≤ b) (hb : b < lo + w) (hbit : n.testBit b = true)
    (hlow : ∀ i, lo ≤ i → i < b → n.testBit i = false) : lowestSet n lo w = some b := by
  have hfind : (List.range w).find? (fun i => bitOf n (lo + i)) = some (b - lo) := by
    rw [List.find?_range_eq_some]
    refine ⟨by rw [bitOf_eq_testBit, Nat.add_sub_cancel' hlo, hbit], List.mem_range.2 (by omega), fun i hi => ?_⟩
    rw [bitOf_eq_testBit, hlow (lo + i) (by omega) (by omega)]; rfl
  rw [lowestSet, hfind, Option.map_some, Nat.add_sub_cancel' hlo]

/-- An address that is aligned and within its space is at no fault. -/
theorem addrFault_eq_none {a align bits : Nat} (hal : a % align = 0) (hlt : a < 2 ^ bits) :
    addrFault a align bits = none := by
  rw [addrFault, if_neg (not_not_intro hal), if_neg (not_not_intro (Nat.div_eq_of_lt hlt))]

/-- A misaligned address is at fault with reason 1 and its lowest set bit (R144). -/
theorem addrFault_misaligned {a align bits b : Nat} (hal : a % align ≠ 0) (hb : b < 12) (hbit : a.testBit b = true)
    (hlow : ∀ i < b, a.testBit i = false) : addrFault a align bits = some (1, b) := by
  rw [addrFault, if_pos hal, lowBit, lowestSet_eq_some (Nat.zero_le b) (by omega) hbit fun i _ => hlow i]
  rfl

/-- An aligned address beyond its space is at fault with reason 2 and the lowest bit beyond (R144). -/
theorem addrFault_beyond {a align bits b : Nat} (hal : a % align = 0) (hlo : bits ≤ b) (hb : b < 64)
    (hbit : a.testBit b = true) (hlow : ∀ i, bits ≤ i → i < b → a.testBit i = false) :
    addrFault a align bits = some (2, b) := by
  have hge : 2 ^ bits ≤ a := Nat.le_trans (Nat.pow_le_pow_right (by decide) hlo) (Nat.ge_two_pow_of_testBit hbit)
  rw [addrFault, if_neg (not_not_intro hal), if_pos (Nat.ne_of_gt (Nat.div_pos hge (Nat.two_pow_pos bits))), lowBit,
    lowestSet_eq_some hlo (by omega) hbit hlow]
  rfl

section
variable {s : State} {a : BitVec 6}

theorem State.addrStops_of_addrOk {align bits : Nat} (h : s.addrOk a align bits) (opBit : Nat) :
    s.addrStops a opBit align bits = [] := by
  obtain ⟨hs, hal, hlt⟩ := h
  rw [State.addrStops, if_pos (s.clean_of_sOk a hs), addrFault_eq_none hal hlt]

/-- An address at fault traps ALIGN. -/
theorem State.addrStops_of_fault {align bits r b : Nat} (hs : s.sOk a)
    (hf : addrFault (s.sv a).toNat align bits = some (r, b)) (opBit : Nat) :
    s.addrStops a opBit align bits = [s.alignStop r b opBit] := by
  rw [State.addrStops, if_pos (s.clean_of_sOk a hs), hf]

/-- An address at fault is looked at no further. -/
theorem State.flatHold_of_fault {align r b : Nat} (hf : addrFault (s.sv a).toNat align 48 = some (r, b)) (n : Nat) :
    s.flatHold a align n = [] := by
  rw [State.flatHold, State.goodAddr, hf]
  simp

theorem State.flatHold_of_flatFree {n : Nat} (h : s.flatFree a n) (align : Nat) : s.flatHold a align n = [] := by
  rw [State.flatHold, show s.cur.aboveMark false (s.sv a).toNat n = false from h]
  simp

theorem State.flatXl_of_writable {e : XEntry} (h : s.writable a e) (bit align : Nat) : s.flatXl a bit align = [] := by
  rw [State.flatXl, State.xlStops, show s.look s.ctx.core .issue 0 ((s.sv a).toNat / 65536) true false = .hit e from h]
  simp

theorem State.loadOcc_of_loadRoom (h : s.loadRoom) : s.loadOcc = [] := if_neg (Nat.not_le.2 h)

/-- A store beyond the declared charge traps OCC at T (R149). -/
theorem State.chargeStop_of_full {n : Nat} (hT : s.cur.atH = false) (h : s.cur.occ.ssb < s.cur.charge + n) :
    s.chargeStop n = [s.occStop none] := if_pos (by rw [hT, decide_eq_true h]; rfl)

end

/-- A scalar store is charged 32 bytes (R149). -/
theorem chargeOf_scalar (t : Ty) : chargeOf (t.width / 8) = 32 := by cases t <;> rfl

/-- An address aligned to 8 bytes is aligned to every scalar type. -/
theorem mod_scalar_of_mod_eight (t : Ty) {a : Nat} (h : a % 8 = 0) : a % (t.width / 8) = 0 := by
  have hdvd : t.width / 8 ∣ 8 := by cases t <;> decide
  exact Nat.mod_eq_zero_of_dvd (Nat.dvd_trans hdvd (Nat.dvd_of_mod_eq_zero h))

/-- An address with one of its lowest three bits set is not aligned to 8 bytes. -/
theorem mod_eight_ne_zero_of_testBit {a b : Nat} (hb : b < 3) (hbit : a.testBit b = true) : a % 8 ≠ 0 := by
  intro hmod
  have hlow : (a % 2 ^ 3).testBit b = true := by rw [Nat.testBit_mod_two_pow, decide_eq_true hb, hbit]; rfl
  rw [show a % 2 ^ 3 = 0 from hmod, Nat.zero_testBit] at hlow
  exact absurd hlow (by decide)

/-- `st` beyond the declared charge traps OCC (R149). -/
theorem execSt_of_full {x : ClsFS} {s : State} {e : XEntry} (h : s.ctx.mode = .alone) (hT : s.cur.atH = false)
    (hs : s.sOk x.s) (ha : s.addrOk x.a (x.ty.width / 8) 48) (hfree : s.flatFree x.a (x.ty.width / 8))
    (hw : s.writable x.a e) (hfull : s.cur.occ.ssb < s.cur.charge + 32) :
    execSt x s = .next (s.takeStop (.trap 13 (fieldInfo s.ctx.slot 0))) := by
  unfold execSt
  refine issueOp_of_stop _ _ s (s.occStop none) h ?_
  rw [State.srcStops_cons_nil (s.srcStops_s _ _ hs) (s.srcStops_s _ _ ha.1), State.storeStops,
    State.addrStops_of_addrOk ha, chargeOf_scalar, State.chargeStop_of_full hT hfull,
    State.flatHold_of_flatFree hfree, State.flatXl_of_writable hw]
  rfl

/-- `ld` of an address at fault traps ALIGN with its reason and bit (R144). -/
theorem execLd_of_fault {x : ClsLL} {s : State} {r b : Nat} (h : s.ctx.mode = .alone) (ha : s.sOk x.a) (hroom : s.loadRoom)
    (hf : addrFault (s.sv x.a).toNat (x.ty.width / 8) 48 = some (r, b)) :
    execLd x s =
      .next (s.takeStop (.trap 14 (BitVec.ofNat 64 (r * 8192 + s.ctx.slot.fieldCode * 512 + b)))) := by
  unfold execLd
  refine issueOp_of_stop _ _ s (s.alignStop r b 6) h ?_
  rw [State.srcStops_s _ _ _ ha, State.addrStops_of_fault ha hf, State.loadOcc_of_loadRoom hroom,
    State.flatHold_of_fault hf]
  rfl

end Sys2Proof.Machine

/-! ## The obligations -/

section
open Sys2Proof Sys2Proof.Machine

/-- Settles O5: each op computes the bits that the lemmas above give. -/
theorem bitFieldAndCountResults : Obligations.BitFieldAndCountResults := by
  constructor
  · intro x s h ha len pos _
    refine ⟨⟨_, (rfl : _ = execBext x s).trans ?_, fun i hi => getLsbD_signedField _ _ (Nat.succ_pos _) hi⟩,
      ⟨_, (rfl : _ = execBextn x s).trans ?_, fun i hi => getLsbD_naturalField _ _ _ hi⟩,
      fun hd => ⟨_, (rfl : _ = execBins x s).trans ?_, fun i hi => getLsbD_insertField _ _ _ _ hi⟩⟩
    · exact issueOp_of_nil _ _ s h (s.srcStops_s _ _ ha)
    · exact issueOp_of_nil _ _ s h (s.srcStops_s _ _ ha)
    · exact issueOp_of_nil _ _ s h (State.srcStops_cons_nil (s.srcStops_s _ _ hd) (s.srcStops_s _ _ ha))
  · intro x s h ha A d
    have hcount : ((List.range 64).filter fun i => A.getLsbD i).length = countOnes 64 A.toNat :=
      (countOnes_eq_length_filter 64 A.toNat).symm
    simp only [hcount, wrap_nat]
    exact ⟨⟨_, (rfl : _ = execBrev x s).trans (scR_next h ha), fun i hi => getLsbD_revBits A hi⟩,
      ⟨_, (rfl : _ = execBswap x s).trans (scR_next h ha), fun i hi j hj => getLsbD_revBytes A hi hj⟩,
      (rfl : _ = execPopc x s).trans (scR_next h ha),
      ⟨_, (rfl : _ = execCtz x s).trans (scR_next h ha), trailZeros_spec 64 A.toNat⟩,
      ⟨_, (rfl : _ = execClz x s).trans (scR_next h ha), leadZeros_spec A.isLt⟩⟩

/-- Settles O8: the stop that each op meets is the only one, or the first, of those its bundle would take. -/
theorem operandTraps : Obligations.OperandTraps := by
  refine ⟨fun x s h ha ht => ?_, fun x s p h hp hbad hc hb => ?_, fun x s h hs ha hrow => ?_,
    fun x s e h hslot hT hs ha hfree hw hfull => ?_, fun x s h hT hslot ha hroom => ?_⟩
  · exact ⟨(rfl : _ = execJr x s).trans (issueOp_jump_of_not_reaches h ha ht),
      (rfl : _ = execJalr x s).trans (issueOp_jump_of_not_reaches h ha ht)⟩
  · exact ⟨(rfl : _ = execAdd x s).trans (scRR_trap_of_poison h hp hbad hc hb),
      (rfl : _ = execDiv x s).trans (scRR_trap_of_poison h hp hbad hc hb)⟩
  · exact (rfl : _ = execMrow x s).trans (execMrow_of_row_gt h hs ha hrow)
  · refine (rfl : _ = execSt x s).trans ((execSt_of_full h hT hs ha hfree hw hfull).trans ?_)
    rw [State.takeStop_trap_of_T hT, hslot]
  · have hld {r b : Nat} (hf : addrFault (s.sv x.a).toNat (x.ty.width / 8) 48 = some (r, b)) :
        exec (.ld x) s = .next ((s.modCur fun c => c.dropRes .issue).trapEntry s.ctx.core 14
          (BitVec.ofNat 64 (r * 8192 + 5 * 512 + b)) s.ctx.pc) := by
      refine (rfl : _ = execLd x s).trans ((execLd_of_fault h ha hroom hf).trans ?_)
      rw [State.takeStop_trap_of_T hT, hslot]
      rfl
    refine ⟨fun hty b hb hbit hlow => hld ?_, fun hal b hlo hb hbit hlow => hld ?_⟩
    · exact addrFault_misaligned (by rw [hty]; exact mod_eight_ne_zero_of_testBit hb hbit) (by omega) hbit hlow
    · exact addrFault_beyond (mod_scalar_of_mod_eight x.ty hal) hlo hb hbit hlow

/-- Settles O1: the form of the ops with two sources, and the formula of each. -/
theorem scalarArithmeticResults : Obligations.ScalarArithmeticResults := by
  intro x s h ha hb A B d
  exact ⟨scRR_gives h ha hb (wrap_toInt_add A B).symm, scRR_gives h ha hb (wrap_toInt_sub A B).symm,
    scRR_gives h ha hb (wrap_toInt_mul A B).symm, scRR_next h ha hb, scRR_gives h ha hb (mulHiN_eq A B),
    scRR_next h ha hb, scRR_next h ha hb, scRR_next h ha hb, scRR_gives h ha hb (shlBy_eq A B),
    scRR_gives h ha hb (shrBy_eq A B), scRR_gives h ha hb (sraBy_eq A B)⟩

/-- Settles O2: the sum reduced once, and the four divisions by the form of the ops with two sources. -/
theorem multiplyAndDivideResults : Obligations.MultiplyAndDivideResults := by
  constructor
  · intro x s h ha hb hc
    rw [wrap_add, wrap_toInt_mul, wrap_toInt]
    refine (rfl : _ = execMadd x s).trans (issueOp_of_nil _ _ s h ?_)
    exact State.srcStops_cons_nil (s.srcStops_s _ _ ha)
      (State.srcStops_cons_nil (s.srcStops_s _ _ hb) (s.srcStops_s _ _ hc))
  · intro x s h ha hb A B d
    exact ⟨scRR_gives h ha hb (divS_eq A B), scRR_gives h ha hb (remS_eq A B), scRR_gives h ha hb (divN_eq A B),
      scRR_gives h ha hb (remN_eq A B)⟩

/-- Settles O3: the form of the ops with an immediate, and the formula of each. -/
theorem immediateResults : Obligations.ImmediateResults := by
  refine ⟨?_, fun x s h => ⟨?_, ?_⟩, fun x s h => ⟨?_, fun ha => ⟨?_, ?_⟩⟩⟩
  · intro x s h ha A I d
    have hI : wrap I = x.imm.signExtend 64 := wrap_toInt_imm x.imm
    refine ⟨scRI_gives h ha ?_, scRI_gives h ha (by rw [hI]), scRI_gives h ha (by rw [hI]), scRI_gives h ha (by rw [hI]),
      scRI_gives h ha ?_, fun hsh => ⟨scRI_gives h ha ?_, scRI_gives h ha ?_, scRI_gives h ha ?_⟩⟩
    · rw [wrap_add, wrap_toInt, hI]
    · rw [wrap_mul, wrap_toInt, hI]
    · rw [shlBy_eq, toNat_signExtend_of_le_63 hsh, if_pos hsh]
    · rw [shrBy_eq, toNat_signExtend_of_le_63 hsh, if_pos hsh]
    · rw [sraBy_eq, toNat_signExtend_of_le_63 hsh, if_pos hsh]
  · rw [wrap_mul_two_pow]
    exact (rfl : _ = execLui x s).trans (issueOp_of_nil _ _ s h rfl)
  · rw [wrap_add, wrap_nat]
    exact (rfl : _ = execLpc x s).trans (issueOp_of_nil _ _ s h rfl)
  · exact (rfl : _ = execMovl x s).trans (issueOp_of_nil _ _ s h rfl)
  · rw [wrap_toInt_add]
    exact (rfl : _ = execAddl x s).trans (issueOp_of_nil _ _ s h (s.srcStops_s _ _ ha))
  · exact (rfl : _ = execAndl x s).trans (issueOp_of_nil _ _ s h (s.srcStops_s _ _ ha))

/-- Settles O4: the forms of the ops, with the shift of `lea` and the magnitude of `abs` as the spec writes them. -/
theorem addressAndExtremaResults : Obligations.AddressAndExtremaResults := by
  refine ⟨fun x s h ha hb => ?_, ?_, fun x s h ha => ?_, fun x s h ha hb hp => ?_⟩
  · rw [wrap_add, wrap_mul_two_pow, wrap_toInt, wrap_toInt]
    refine (rfl : _ = execLea x s).trans (issueOp_of_nil _ _ s h ?_)
    exact State.srcStops_cons_nil (s.srcStops_s _ _ ha) (s.srcStops_s _ _ hb)
  · intro x s h ha hb A B d
    exact ⟨(rfl : _ = execMin x s).trans (scRR_gives h ha hb (ite_of_iff (sLe_iff A B) _ _)),
      (rfl : _ = execMinn x s).trans (scRR_gives h ha hb (ite_of_iff (nLe_iff A B) _ _)),
      (rfl : _ = execMax x s).trans (scRR_gives h ha hb (ite_of_iff (sLe_iff B A) _ _)),
      (rfl : _ = execMaxn x s).trans (scRR_gives h ha hb (ite_of_iff (nLe_iff B A) _ _))⟩
  · rw [← abs_eq_wrap_natAbs]
    exact (rfl : _ = execAbs x s).trans (scR_next h ha)
  · refine (rfl : _ = execSel x s).trans (issueOp_of_nil _ _ s h ?_)
    exact State.srcStops_cons_nil (s.srcStops_s _ _ ha) (State.srcStops_cons_nil (s.srcStops_s _ _ hb) (s.srcStops_p hp))

/-- Settles O6: the forms of the compares and the predicate ops, and the moves bit by bit. -/
theorem compareAndPredicateResults : Obligations.CompareAndPredicateResults := by
  refine ⟨⟨?_, ?_⟩, ?_, fun x s h hp => ?_, fun x s h ha hb => ?_, fun x s h => ⟨fun hs => ?_, fun hk => ?_⟩⟩
  · intro x s h ha hb A B pd
    simp only [ne_eq, decide_not]
    exact ⟨(rfl : _ = execCeq x s).trans (scCmp_next h ha hb),
      (rfl : _ = execCne x s).trans (scCmp_next h ha hb),
      (rfl : _ = execClt x s).trans (scCmp_next h ha hb),
      (rfl : _ = execCltn x s).trans (scCmp_next h ha hb),
      (rfl : _ = execCle x s).trans (scCmp_next h ha hb),
      (rfl : _ = execClen x s).trans (scCmp_next h ha hb),
      (rfl : _ = execCtst x s).trans (scCmp_next h ha hb)⟩
  · intro x s h ha A J pd
    simp only [ne_eq, decide_not]
    exact ⟨(rfl : _ = execCeqi x s).trans (scCmpI_next h ha),
      (rfl : _ = execCnei x s).trans (scCmpI_next h ha),
      (rfl : _ = execClti x s).trans (scCmpI_next h ha),
      (rfl : _ = execCltni x s).trans (scCmpI_next h ha),
      (rfl : _ = execClei x s).trans (scCmpI_next h ha),
      (rfl : _ = execCleni x s).trans (scCmpI_next h ha)⟩
  · intro x s h hp X Y pd
    exact ⟨(rfl : _ = execPand x s).trans (scPL_next h hp),
      (rfl : _ = execPor x s).trans (scPL_next h hp),
      (rfl : _ = execPxor x s).trans (scPL_next h hp),
      (rfl : _ = execPnot x s).trans (scPL_next h hp),
      (rfl : _ = execPmov x s).trans (scPL_next h hp)⟩
  · refine ⟨_, (rfl : _ = execMovp x s).trans (issueOp_of_nil _ _ s h (s.srcStops_p hp)),
      fun i hi => ?_, fun i hi => ?_⟩
    · rw [getLsbD_predicateWord, decide_eq_true hi, Bool.true_and]
    · rw [getLsbD_predicateWord, decide_eq_false (Nat.not_lt.2 hi), Bool.false_and]
  · rw [← foldl_putP_of_p0]
    refine (rfl : _ = execPmovs x s).trans (issueOp_of_nil _ _ s h ?_)
    exact State.srcStops_cons_nil (s.srcStops_s _ _ ha) (s.srcStops_s _ _ hb)
  · exact (rfl : _ = execMovk x s).trans (issueOp_of_nil _ _ s h (s.srcStops_s _ _ hs))
  · exact (rfl : _ = execKmov x s).trans (issueOp_of_nil _ _ s h (s.srcStops_k _ _ hk))

/-- Settles O7: nothing stops the transfer, and a target in reach is not reduced. -/
theorem controlTransferResults : Obligations.ControlTransferResults := by
  refine ⟨?_, fun x s h ha ht => ⟨?_, ?_⟩, ?_, fun s h => ?_⟩
  · intro x s h h0 h1 t
    have ht : ofInt 13 (Int.ofNat s.ctx.pc + x.off.toInt) = t := ofInt_13_of_range h0 h1
    rw [wrap_pc_add_one, ← ht]
    exact ⟨(rfl : _ = execJmp x s).trans (issueOp_of_nil _ _ s h rfl),
      (rfl : _ = execCall x s).trans (issueOp_of_nil _ _ s h rfl)⟩
  · refine (rfl : _ = execJr x s).trans (issueOp_of_nil _ _ s h ?_)
    rw [s.srcStops_s _ _ ha, State.jumpStop_of_reaches ht]; rfl
  · rw [wrap_pc_add_one]
    refine (rfl : _ = execJalr x s).trans (issueOp_of_nil _ _ s h ?_)
    rw [s.srcStops_s _ _ ha, State.jumpStop_of_reaches ht]; rfl
  · intro x s off h hp h4 h5 h6 h7 h8 h0 h1
    have hoff := treeOffset_eq (leafOf_mem x s.cur) h4 h5 h6 h7 h8
    rw [← ofInt_13_of_range h0 h1, ← hoff]
    exact (rfl : _ = execTreeBranch x s).trans (execTreeBranch_next h hp)
  · exact (rfl : _ = execNop s).trans (issueOp_of_nil _ _ s h rfl)

end
end

section
/-! The ops of the matrix unit, the start of its routines and a step of ERELU give the results of spec/06_matrix.md (O18 to
O20).

An op that completes at once is its effect once its stops are seen to be none. A routine starts because none of the checks
of R126 and R132 finds anything: the routines without a group table and the grouped ones differ only there. A step of an
epilogue replaces four rows, each by what the epilogue makes of its elements as they stood, and then raises the watermark; both
are stated for any epilogue that writes its accumulator, and ERELU of `.s32` puts its own function in. -/

namespace Sys2Proof.Machine

/-! ## Changes of the core in hand -/

/-- Only what a change does to the core as it stands matters. -/
theorem State.modCur_congr {s : State} {f g : Core → Core} (h : f s.cur = g s.cur) : s.modCur f = s.modCur g :=
  congrArg (s.setCore s.ctx.core) h

/-- The same of an op that signals at the end of its latency. -/
theorem State.next_owe_congr {s : State} {f g : Core → Core} (h : f s.cur = g s.cur) (lat : Nat) :
    (Host.Outcome.next ((s.modCur f).owe lat) : Result) = .next ((s.modCur g).owe lat) := by
  rw [State.modCur_congr h]

/-! ## Accumulators (R42) -/

theorem State.srcStops_mp {s : State} {n : Nat} (h : s.mpOk n) (bit : Nat) : s.srcStops [.mp n bit] = [] := by
  simp [State.srcStops, show BadReg.mp n ∉ s.cur.bad from h]

/-- A table from which the places that `p` rejects are left out reads as before elsewhere, and as empty there. -/
theorem Tab.get_filter_key {α : Type} (d : α) (t : Tab α) (p : Nat → Bool) (k : Nat) :
    Tab.get d (t.filter fun x => p x.1) k = if p k then Tab.get d t k else d := by
  induction t with
  | nil => simp
  | cons x t ih =>
    rw [List.filter_cons, Tab.get_cons]
    by_cases hx : x.1 = k
    · subst hx
      by_cases hp : p x.1 <;> simp [hp, ih, Tab.get_cons]
    · by_cases hp : p x.1 <;> simp [hp, hx, ih, Tab.get_cons]

/-- `mclr` leaves its accumulator zero and every other as it was. -/
theorem Core.accRow_clearAcc (c : Core) (n m : Nat) {r : Nat} (hr : r < 128) :
    (c.clearAcc n).accRow m r = if m = n then 0 else c.accRow m r := by
  have hkey : (128 * m + r) / 128 = m := by omega
  rw [Core.accRow, Core.clearAcc, Tab.get_filter_key 0 c.acc (fun a => a / 128 != n), hkey]
  by_cases hm : m = n
  · simp [hm]
  · simp [hm, Core.accRow]

@[simp] theorem Core.accWm_clearAcc (c : Core) (n : Nat) : (c.clearAcc n).accWm n = 128 := by
  simp [Core.accWm, Core.clearAcc]

@[simp] theorem Core.accFlags_clearAcc (c : Core) (n : Nat) : (c.clearAcc n).accFlags n = 0 := by
  simp [Core.accFlags, Core.clearAcc]

/-- `mflg` gives OVF as bit 0 and SAT as bit 1 (Table 6-1). -/
theorem Core.accFlags_eq (c : Core) (n : Nat) :
    c.accFlags n = (if Tab.get false c.ovf n then 1 else 0) + (if Tab.get false c.sat n then 2 else 0) := by
  rw [Core.accFlags]
  cases Tab.get false c.ovf n <;> cases Tab.get false c.sat n <;> rfl

@[simp] theorem Core.accWm_setAccWm (c : Core) (n w : Nat) : (c.setAccWm n w).accWm n = w := Tab.get_set_same _ _ _ _

/-- A row reads back as it was written, and every other row as before. -/
theorem Core.accRow_setAccRow (c : Core) (n m : Nat) {r q : Nat} (v : Vec) (hr : r < 128) (hq : q < 128) :
    (c.setAccRow n r v).accRow m q = if m = n ∧ q = r then v else c.accRow m q := by
  have hkey : 128 * m + q = 128 * n + r ↔ m = n ∧ q = r := by omega
  rw [Core.accRow, Core.setAccRow, Tab.get_set]
  simp only [hkey, Core.accRow]

theorem Core.accRow_putRow (c : Core) (n : Nat) {r q : Nat} (int : Bool) (new : List (Nat × Bool)) (hr : r < 128)
    (hq : q < 128) :
    (c.putRow n r int new).accRow n q = if q = r then Vec.ofElems 32 (new.map (·.1)) else c.accRow n q := by
  have hmark : (c.putRow n r int new).accRow n q =
      (c.setAccRow n r (Vec.ofElems 32 (new.map (·.1)))).accRow n q := by
    unfold Core.putRow Core.markSat Core.markOvf
    split <;> split <;> rfl
  rw [hmark, Core.accRow_setAccRow c n n _ hr hq]
  simp only [true_and]

/-- Rows replaced one after another, each by a value of its own. -/
theorem Core.accRow_foldl_putRow (c : Core) (n : Nat) {q : Nat} (int : Bool) (f : Nat → List (Nat × Bool))
    (rows : List Nat) (hrows : ∀ i ∈ rows, i < 128) (hq : q < 128) :
    ((rows.map fun i => (i, f i)).foldl (fun c x => c.putRow n x.1 int x.2) c).accRow n q =
      if q ∈ rows then Vec.ofElems 32 ((f q).map (·.1)) else c.accRow n q := by
  induction rows generalizing c with
  | nil => simp
  | cons i rows ih =>
    rw [List.map_cons, List.foldl_cons, ih _ fun j hj => hrows j (List.mem_cons_of_mem i hj),
      Core.accRow_putRow c n int (f i) (hrows i List.mem_cons_self) hq]
    by_cases hmem : q ∈ rows
    · simp [hmem]
    · by_cases hqi : q = i <;> simp [hmem, hqi]

/-! ## Signals leave all but the semaphores alone (R175) -/

theorem Core.signal_eq_of {α : Type} {p : Core → α} (hsem : ∀ (c : Core) n f, p (c.modSema n f) = p c)
    (hseg : ∀ (c : Core) g, p { c with seg := g } = p c) (c : Core) (g : Sig) : p (c.signal g) = p c := by
  unfold Core.signal
  split
  · rfl
  · split
    · rfl
    · dsimp only
      split
      · rw [hseg, hsem]
      · rw [hsem]

@[simp] theorem Core.signal_acc (c : Core) (g : Sig) : (c.signal g).acc = c.acc :=
  Core.signal_eq_of (p := Core.acc) (fun _ _ _ => rfl) (fun _ _ => rfl) c g

@[simp] theorem Core.signal_accw (c : Core) (g : Sig) : (c.signal g).accw = c.accw :=
  Core.signal_eq_of (p := Core.accw) (fun _ _ _ => rfl) (fun _ _ => rfl) c g

@[simp] theorem Core.signal_routine (c : Core) (g : Sig) : (c.signal g).routine = c.routine :=
  Core.signal_eq_of (p := Core.routine) (fun _ _ _ => rfl) (fun _ _ => rfl) c g

@[simp] theorem Core.signal_run (c : Core) (g : Sig) : (c.signal g).run = c.run :=
  Core.signal_eq_of (p := Core.run) (fun _ _ _ => rfl) (fun _ _ => rfl) c g

theorem Core.foldl_signal_eq_of {α : Type} {p : Core → α} (hp : ∀ c g, p (Core.signal c g) = p c) (l : List RelSig)
    (c : Core) : p (l.foldl (fun c x => c.signal x.sig) c) = p c := by
  induction l generalizing c with
  | nil => rfl
  | cons x l ih => rw [List.foldl_cons, ih, hp]

/-- Where a released signal is made, its core keeps whatever a signal and the list of such signals are no part of (R129). -/
theorem State.core_payReleased_eq_of {α : Type} {p : Core → α} (hp : ∀ c g, p (Core.signal c g) = p c)
    (hrel : ∀ (c : Core) l, p { c with relSigs := l } = p c) (s : State) (core : Nat) :
    p ((s.payReleased core).core core) = p (s.core core) := by
  rw [State.payReleased, State.core_modCore_same, Core.foldl_signal_eq_of hp, hrel]

theorem State.core_payReleased_ne (s : State) {core d : Nat} (hd : d ≠ core) :
    (s.payReleased core).core d = s.core d := State.core_modCore_ne s _ hd

@[simp] theorem State.payReleased_accRow (s : State) (core n r : Nat) :
    ((s.payReleased core).core core).accRow n r = (s.core core).accRow n r :=
  congrArg (fun t => Tab.get 0 t (128 * n + r))
    (State.core_payReleased_eq_of (p := Core.acc) Core.signal_acc (fun _ _ => rfl) s core)

@[simp] theorem State.payReleased_routine (s : State) (core : Nat) :
    ((s.payReleased core).core core).routine = (s.core core).routine :=
  State.core_payReleased_eq_of (p := Core.routine) Core.signal_routine (fun _ _ => rfl) s core

@[simp] theorem State.payReleased_run (s : State) (core : Nat) :
    ((s.payReleased core).core core).run = (s.core core).run :=
  State.core_payReleased_eq_of (p := Core.run) Core.signal_run (fun _ _ => rfl) s core

/-! ## The ops of Table 6-1 -/

section
variable {x : ClsMA} {s : State}

/-- An op that waits for its accumulator's watermark takes effect where it stands at 128. -/
theorem State.holdIf_accWm_of_done {n : Nat} (hwm : s.cur.accWm n = 128) (cond : Nat) :
    s.holdIf (s.cur.accWm n != 128) cond = [] := by rw [hwm]; rfl

theorem execMclr_next (h : s.acts) (hwm : s.cur.accWm x.acc.toNat = 128) (he : s.cur.eaddReads x.acc.toNat = false) :
    execMclr x s = .next ((s.modCur fun c => c.clearAcc x.acc.toNat).owe 1) :=
  issueOp_of_nil _ _ s h (by rw [hwm, he]; rfl)

/-- A row below the watermark can be read. -/
theorem execMrow_next (h : s.acts) (hs : s.sOk x.s) (ha : s.accOk x.acc.toNat)
    (hwm : (s.sv x.s).toNat < s.cur.accWm x.acc.toNat) (hrow : (s.sv x.s).toNat ≤ 127) :
    execMrow x s = .next ((s.putV x.v.toNat 4 (s.cur.accRow x.acc.toNat (s.sv x.s).toNat)).owe 4) := by
  refine issueOp_of_nil _ _ s h ?_
  rw [State.srcStops_cons_nil (s.srcStops_s _ _ hs) (s.srcStops_acc _ _ ha), if_pos (s.clean_of_sOk _ hs),
    if_neg (Nat.not_lt.2 hrow), decide_eq_false (Nat.not_le.2 hwm)]
  rfl

/-- GIX can be written while no running routine gathers its rows. -/
theorem execMgix_next (h : s.acts) (hv : s.vOk x.v)
    (hr : ∀ r, s.cur.routine = some r → r.idx ≠ 2 ∧ r.idx ≠ 3) :
    execMgix x s = .next ((s.modCur fun c =>
      { c with gix := (s.cur.vreg x.v.toNat).setWidth 1024, bad := c.bad.filter (· != .gix) }).owe 1) := by
  refine (issueOp_of_nil _ _ s h ?_).trans (State.next_owe_congr rfl 1)
  rw [s.srcStops_v _ _ hv, List.nil_append]
  cases hc : s.cur.routine with
  | none => rfl
  | some r =>
    have hgather : gathered r.idx = false := by simp [gathered, hr r hc]
    exact congrArg (s.holdIf · 4) hgather

/-- A field of a word that lies below a width is the field of the word cut to that width. -/
theorem toNat_setWidth_div_mod {w n a b : Nat} (v : BitVec w) (h : a + b ≤ n) :
    (v.setWidth n).toNat / 2 ^ a % 2 ^ b = v.toNat / 2 ^ a % 2 ^ b := by
  refine Nat.eq_of_testBit_eq fun j => ?_
  simp only [Nat.testBit_mod_two_pow, Nat.testBit_div_two_pow, BitVec.testBit_toNat, BitVec.getLsbD_setWidth]
  by_cases hj : j < b
  · simp [show j + a < n by omega]
  · simp [hj]

/-- The low 128 bytes of a vector are those of its first 1,024 bits. -/
theorem byte_setWidth_1024 (v : Vec) {i : Nat} (hi : i < 128) :
    (v.setWidth 1024 : BitVec 1024).toNat / 2 ^ (8 * i) % 256 = v.toNat / 2 ^ (8 * i) % 256 :=
  toNat_setWidth_div_mod (b := 8) v (by omega)

/-- `mstop` of an accumulator that no routine targets clears it. -/
theorem execMstop_of_no_target (h : s.acts) (hr : ∀ r, s.cur.routine = some r → r.target ≠ x.acc.toNat)
    (he : s.cur.eaddReads x.acc.toNat = false) :
    execMstop x s = .next ((s.modCur fun c => c.clearAcc x.acc.toNat).owe 1) := by
  unfold execMstop
  refine (issueOp_of_nil _ _ s h (by simp only [he]; rfl)).trans (State.next_owe_congr ?_ 1)
  cases hc : s.cur.routine with
  | none => rfl
  | some r => exact if_pos (hr r hc)

/-- The routine that `mstop` ends makes its signal where its release has nothing to wait for. -/
theorem execMstop_of_released {r : Routine} (h : s.acts) (hr : s.cur.routine = some r) (ht : r.target = x.acc.toNat)
    (hfree : r.rel = false ∨ s.engineReleased s.ctx.core r.before r.scope = true) :
    execMstop x s = .next ((s.modCur fun c =>
      (({ c with routine := none } : Core).signal r.sig).clearAcc x.acc.toNat).owe 1) := by
  have hdone : (!r.rel || s.engineReleased s.ctx.core r.before r.scope) = true := by
    rcases hfree with hfree | hfree <;> simp [hfree]
  unfold execMstop
  refine (issueOp_of_nil _ _ s h (by simp [hr, ht])).trans (State.next_owe_congr ?_ 1)
  simp only [hr, ht, ne_eq, not_true_eq_false, if_false, hdone, if_true]

/-- Where the release has something to wait for, the signal waits with it (log 99). -/
theorem execMstop_of_not_released {r : Routine} (h : s.acts) (hr : s.cur.routine = some r) (ht : r.target = x.acc.toNat)
    (hrel : r.rel = true) (hwait : s.engineReleased s.ctx.core r.before r.scope = false) :
    execMstop x s = .next ((s.modCur fun c => ({ c with
      routine := none, relSigs := c.relSigs ++ [⟨r.before, r.scope, r.sig⟩] } : Core).clearAcc x.acc.toNat).owe 1) := by
  unfold execMstop
  refine (issueOp_of_nil _ _ s h (by simp [hr, ht])).trans (State.next_owe_congr ?_ 1)
  simp [hr, ht, hrel, hwait]

end

/-! ## The start of a routine (R126, R132) -/

/-- The parameters that an `mcall` of the core in hand takes (R131). -/
def State.callArgs (s : State) : MArgs := ⟨(List.range 8).map s.cur.mpreg⟩

/-- The routine that an `mcall` of the core in hand starts (R126, Table 6-8). -/
def State.calledRoutine (s : State) (i : Nat) (x : ClsMC) : Routine where
  idx := i
  target := x.acc.toNat
  mps := s.callArgs.mps
  gix := s.cur.gix
  counts := if grouped i then (s.cur.groupTable s.callArgs).map (· % 256) else []
  group := 0
  row := 0
  wb := false
  kb := 0xFFFF
  s := 0
  acqd := false
  acq := x.acq
  rel := x.rel
  scope := x.scope
  sig := s.cur.sigOf s.ctx.ws
  base := none
  seg := s.cur.seg.num
  before := s.cur.mark
  fixed := false

section
variable {i n : Nat} {s : State}

theorem mcallOp_next {x : ClsMC} (h : s.acts) (hs : s.mcallStops i x.acc.toNat = []) :
    mcallOp i x s = .next (s.modCur fun c =>
      { (c.setAccWm x.acc.toNat 0) with routine := some (s.calledRoutine i x) }) :=
  (issueOp_of_nil _ _ s h hs).trans (congrArg Host.Outcome.next (State.modCur_congr rfl))

/-- A routine without a group table is stopped by its parameters alone, once it is loaded and its registers can be read. -/
theorem State.mcallStops_of_not_grouped (hg : grouped i = false) (hr : s.cur.routine = none) (hstore : i ∈ s.cur.store)
    (hsrc : s.srcStops (s.callArgs.sources i n) = [])
    (hbad : (if isEpi i then s.callArgs.epiBad i else s.callArgs.prodBad i s.cur.gix [] []) = []) :
    s.mcallStops i n = [] := by
  unfold State.callArgs at hsrc hbad
  simp [State.mcallStops, hstore, hr, hg, hsrc, hbad, passes128, least]

/-- What R132 asks of the group table of a grouped routine's parameters `a`. -/
structure Core.TableGood (c : Core) (a : MArgs) : Prop where
  pos : 1 ≤ a.g
  le : a.g ≤ 16
  aligned : a.gAt 0 % 8 = 0
  inside : a.gAt a.g ≤ 2 ^ 22
  ready : ∀ k ∈ [a.gAt 0 / 65536, (a.gAt a.g - 1) / 65536], (c.slot k).state = .ready ∧ (c.slot k).zeroing = false
  readable : c.scratchBad (a.gAt 0) (8 * a.g) = false
  reserved : ∀ w ∈ c.groupTable a, w < 2 ^ 30
  fits : passes128 ((c.groupTable a).map (· % 256)) 0 0 = none

/-- A READY slot is not one that `seqend` has emptied. -/
theorem Core.slotSealed_of_ready {c : Core} {k : Nat} (h : (c.slot k).state = .ready) :
    c.slotSealed (k * 65536) = false := by
  simp [Core.slotSealed, h]

/-- A grouped routine with a good group table is stopped by its other parameters alone. -/
theorem State.mcallStops_of_grouped (hg : grouped i = true) (hr : s.cur.routine = none) (hstore : i ∈ s.cur.store)
    (hsrc : s.srcStops (s.callArgs.sources i n) = []) (ht : s.cur.TableGood s.callArgs)
    (hbad : s.callArgs.prodBad i s.cur.gix ((s.cur.groupTable s.callArgs).map (· % 256))
      ((s.cur.groupTable s.callArgs).map fun w => w / 256 % 2 ^ 22) = []) :
    s.mcallStops i n = [] := by
  obtain ⟨hpos, hle, haligned, hinside, hready, hreadable, hreserved, hfits⟩ := ht
  have hslots : [s.callArgs.gAt 0 / 65536, (s.callArgs.gAt s.callArgs.g - 1) / 65536].any
      (fun k => s.cur.slotSealed (k * 65536)) = false :=
    List.any_eq_false.2 fun k hk => by rw [Core.slotSealed_of_ready (hready k hk).1]; decide
  have hwait : [s.callArgs.gAt 0 / 65536, (s.callArgs.gAt s.callArgs.g - 1) / 65536].any
      (fun k => (s.cur.slot k).state != .ready || (s.cur.slot k).zeroing) = false :=
    List.any_eq_false.2 fun k hk => by rw [(hready k hk).1, (hready k hk).2]; decide
  have hwords : ((s.cur.groupTable s.callArgs).zipIdx.filter fun x => decide (2 ^ 30 ≤ x.1)) = [] :=
    List.filter_eq_nil_iff.2 fun x hx => by
      simpa using hreserved x.1 (List.fst_mem_of_mem_zipIdx hx)
  have hepi : isEpi i = false := by
    simp only [grouped, Bool.or_eq_true, beq_iff_eq] at hg
    rcases hg with rfl | rfl <;> rfl
  have htable : (grouped i && decide (1 ≤ s.callArgs.g) && decide (s.callArgs.g ≤ 16) && s.callArgs.gAt 0 % 8 == 0 &&
      decide (s.callArgs.gAt s.callArgs.g ≤ 2 ^ 22)) = true := by
    simp only [hg, decide_eq_true hpos, decide_eq_true hle, beq_iff_eq.2 haligned, decide_eq_true hinside, Bool.and_self]
  unfold State.callArgs at *
  simp only [State.mcallStops, htable, if_true, hslots, hwait, hwords, hfits, hreadable, hsrc, hbad, hepi,
    hr, List.contains_iff_mem.2 hstore]
  rfl

end

/-! ## A step of an epilogue (R136, R137) -/

section
variable {c : Core} {r : Routine}

theorem Core.acc_foldl_scratchWrite (c : Core) (h : Core → Handle) (l : List (Nat × List Byte)) :
    (l.foldl (fun c w => c.scratchWrite w.1 w.2 (h c)) c).acc = c.acc := by
  induction l generalizing c with
  | nil => rfl
  | cons w l ih =>
    rw [List.foldl_cons, ih]
    unfold Core.scratchWrite
    dsimp only
    split <;> rfl

/-- A step of an epilogue that writes its accumulator replaces four rows, each by what the epilogue makes of its elements as
they stood. -/
theorem Core.accRow_epiStep {i : Nat} (hidx : r.idx ∉ [17, 18, 19]) (hrow : r.row + 4 ≤ 128) (hi : i < 128) :
    (c.epiStep r).accRow r.target i =
      if r.row ≤ i ∧ i < r.row + 4 then
        Vec.ofElems 32 (((c.accCodes r.target i).zipIdx).map fun x => (c.epiElem r i x.2 x.1).1)
      else c.accRow r.target i := by
  have hmem : ∀ k, k ∈ (List.range 4).map (r.row + ·) ↔ r.row ≤ k ∧ k < r.row + 4 := fun k => by
    simp only [List.mem_map, List.mem_range]
    exact ⟨fun ⟨a, ha, hk⟩ => by omega, fun hk => ⟨k - r.row, by omega, by omega⟩⟩
  have hwrites : (c.epiStep r).accRow r.target i = ((((List.range 4).map (r.row + ·)).map fun i =>
      (i, ((c.accCodes r.target i).zipIdx).map fun x => c.epiElem r i x.2 x.1)).foldl
        (fun c x => c.putRow r.target x.1 (r.args.asInt r.idx) x.2) c).accRow r.target i := by
    rw [Core.epiStep, if_neg (by simpa using hidx), Core.accRow, Core.acc_foldl_scratchWrite]
    rfl
  rw [hwrites, Core.accRow_foldl_putRow c r.target _ _ _ (fun k hk => by have := (hmem k).1 hk; omega) hi]
  simp only [hmem, List.map_map]
  rfl

/-- Element by element. -/
theorem Core.elem_epiStep {i j : Nat} (hidx : r.idx ∉ [17, 18, 19]) (hrow : r.row + 4 ≤ 128) (hi : i < 128) (hj : j < 64) :
    Vec.elem 32 ((c.epiStep r).accRow r.target i) j =
      if r.row ≤ i ∧ i < r.row + 4 then
        (c.epiElem r i j (Vec.elem 32 (c.accRow r.target i) j)).1 % 2 ^ 32
      else Vec.elem 32 (c.accRow r.target i) j := by
  rw [Core.accRow_epiStep hidx hrow hi]
  split
  · have hlen : (c.accCodes r.target i).length = 64 := Vec.elems_length 32 _
    have hold : (c.accCodes r.target i).getD j 0 = Vec.elem 32 (c.accRow r.target i) j := Vec.elems_getD 32 _ j hj
    rw [Vec.elem_ofElems 32 _ j (by simp [hlen]), getD_map _ _ j (0, 0) 0 (by simpa [hlen] using hj),
      getD_zipIdx _ j 0 0 (by omega), hold]
  · rfl

/-- What raises the watermark leaves the rows alone. -/
@[simp] theorem Core.accRow_raiseWm (c : Core) (r : Routine) (w n i : Nat) :
    (c.raiseWm r w).accRow n i = c.accRow n i := by
  unfold Core.raiseWm Core.endRoutine Core.accRow
  split
  · rw [Core.signal_acc]; rfl
  · rfl

theorem Core.accWm_raiseWm (c : Core) (r : Routine) {w : Nat} (hw : w ≤ 128) : (c.raiseWm r w).accWm r.target = w := by
  unfold Core.raiseWm Core.endRoutine
  split
  · rw [Core.accWm, Core.signal_accw]
    exact (Core.accWm_setAccWm _ _ _).trans (by omega)
  · exact Core.accWm_setAccWm c r.target w

theorem Core.routine_raiseWm (c : Core) (r : Routine) (w : Nat) :
    (c.raiseWm r w).routine = if 128 ≤ w then none else some { r with row := w } := by
  unfold Core.raiseWm Core.endRoutine
  split
  · rw [Core.signal_routine]; rfl
  · rfl

/-- ERELU touches no place of the scratchpad, so that nothing holds its step or fails it. -/
theorem Core.routineStep_relu (hidx : r.idx = 14) (hwb : r.wb = true) :
    c.routineStep r = (c.epiStep r).raiseWm r (r.row + 4) := by
  have hreads : ((List.range 4).map (r.row + ·)).flatMap r.epiReads = [] := by
    simp [Routine.epiReads, hidx]
  have hwrites : ((List.range 4).map (r.row + ·)).flatMap
      (fun i => (c.epiWrites r i).map fun w => (w.1, w.2.length)) = [] := by
    simp [Core.epiWrites, hidx]
  unfold Core.routineStep
  simp only [hwb, hidx, hreads, hwrites]
  rfl

/-- ERELU of `.s32` makes an element at least 0. -/
theorem Core.epiElem_relu_s32 (hidx : r.idx = 14) (hint : r.args.fld 4 56 1 = 1) (i j : Nat) {old : Nat}
    (hold : old < 2 ^ 32) : (c.epiElem r i j old).1 % 2 ^ 32 = if 2 ^ 31 ≤ old then 0 else old := by
  have hasInt : r.args.asInt 14 = true := by simp [MArgs.asInt, isEpi, hint]
  have helem : (c.epiElem r i j old).1 = if 2 ^ 31 ≤ old then 0 else old := by simp [Core.epiElem, hidx, hasInt]
  rw [helem]
  split
  · rfl
  · exact Nat.mod_eq_of_lt hold

end

/-- A step of a routine past its setup, on a core that runs, is the routine's own step, unless it ends a routine whose
release has still something to wait for (R124, R127, R137). -/
theorem execRoutineStep_next {core : Nat} {s : State} {r : Routine} (hr : (s.core core).routine = some r)
    (hrun : (s.core core).run ∉ [.stopping, .frozen, .quarantined]) (hwb : r.wb = true)
    (hrel : ((((s.payReleased core).core core).routineStep r).routine = none → r.rel = true →
      (s.payReleased core).engineReleased core r.before r.scope = true)) :
    execRoutineStep core s =
      .next ((s.payReleased core).setCore core (((s.payReleased core).core core).routineStep r)) := by
  have hgo : ¬((s.core core).run = .stopping ∨ (s.core core).run = .frozen ∨ (s.core core).run = .quarantined) := by
    simpa using hrun
  have hend : ((((s.payReleased core).core core).routineStep r).routine.isNone && r.rel &&
      !(s.payReleased core).engineReleased core r.before r.scope) = false := by
    cases hn : (((s.payReleased core).core core).routineStep r).routine with
    | some q => rfl
    | none =>
      cases hl : r.rel with
      | false => rfl
      | true => rw [hrel hn hl]; rfl
  unfold execRoutineStep
  simp only [State.payReleased_routine, hr, State.payReleased_run, hgo, if_false, hwb, Bool.not_true, Bool.false_eq_true,
    false_and, hend]

end Sys2Proof.Machine

/-! ## The obligations -/

section
open Sys2Proof Sys2Proof.Machine

/-- Settles O20: the step of ERELU is its epilogue's step, row by row and element by element. -/
theorem reluStepResult : Obligations.ReluStepResult := by
  intro core s r hr hrun hidx hint hwb hrow hrel
  have hstep := Core.routineStep_relu (c := (s.payReleased core).core core) hidx hwb
  have hroutine := Core.routine_raiseWm (((s.payReleased core).core core).epiStep r) r (r.row + 4)
  rw [← hstep] at hroutine
  refine ⟨_, (rfl : _ = execRoutineStep core s).trans (execRoutineStep_next hr hrun hwb fun hn hl => hrel ?_ hl), ?_⟩
  · refine Nat.le_antisymm hrow (Nat.le_of_not_lt fun hlt => ?_)
    rw [hroutine, if_neg (Nat.not_le.2 hlt)] at hn
    exact Option.some_ne_none _ hn
  rw [State.core_setCore_same]
  refine ⟨fun i hi j hj => ?_, ?_, fun hlt => ?_, fun heq => ?_, fun d hd => ?_, rfl⟩
  · rw [hstep, Core.accRow_raiseWm, Core.elem_epiStep (by rw [hidx]; decide) hrow hi hj, State.payReleased_accRow,
      Core.epiElem_relu_s32 hidx hint i j (Vec.elem_lt 32 _ j)]
    by_cases hrows : r.row ≤ i ∧ i < r.row + 4
    · rw [if_pos hrows]
      simp only [hrows.1, hrows.2, true_and]
    · rw [if_neg hrows, if_neg fun hall => hrows ⟨hall.1, hall.2.1⟩]
  · rw [hstep, Core.accWm_raiseWm _ _ hrow]
  · rw [hroutine, if_neg (by omega)]
  · rw [hroutine, if_pos (by omega)]
  · rw [State.core_setCore, if_neg hd, State.core_payReleased_ne s hd]

/-- Settles O18: nothing stops the op, and what it puts into effect is what Table 6-1 says. -/
theorem matrixRegisterResults : Obligations.MatrixRegisterResults := by
  refine ⟨⟨fun x s h => ⟨fun hs => ?_, fun hm => ?_⟩, ?_⟩, ?_⟩
  · exact (rfl : _ = execMpw x s).trans (issueOp_of_nil _ _ s h (s.srcStops_s _ _ hs))
  · exact (rfl : _ = execMpr x s).trans (issueOp_of_nil _ _ s h (State.srcStops_mp hm 0))
  · intro x s h n
    refine ⟨?_, fun hs ha hwm hrow => ?_, fun hv hr => ⟨_, ?_, fun i hi => byte_setWidth_1024 _ hi⟩, fun hwm => ⟨?_, ?_⟩⟩
    · exact (rfl : _ = execMwm x s).trans (issueOp_of_nil _ _ s h rfl)
    · exact (rfl : _ = execMrow x s).trans (execMrow_next h hs ha hwm hrow)
    · exact (rfl : _ = execMgix x s).trans (execMgix_next h hv hr)
    · exact (rfl : _ = execMwait x s).trans (issueOp_of_nil _ _ s h (State.holdIf_accWm_of_done hwm 4))
    · rw [← Core.accFlags_eq]
      exact (rfl : _ = execMflg x s).trans (issueOp_of_nil _ _ s h (State.holdIf_accWm_of_done hwm 4))
  · intro x s h n
    refine ⟨fun hwm he => ?_, fun hr he => ?_, fun r hr ht => ⟨fun hfree => ?_, fun hrel hwait => ?_⟩,
      fun c m r hr => c.accRow_clearAcc n m hr, fun c => ⟨c.accWm_clearAcc n, c.accFlags_clearAcc n⟩⟩
    · exact (rfl : _ = execMclr x s).trans (execMclr_next h hwm he)
    · exact (rfl : _ = execMstop x s).trans (execMstop_of_no_target h hr he)
    · exact (rfl : _ = execMstop x s).trans (execMstop_of_released h hr ht hfree)
    · exact (rfl : _ = execMstop x s).trans (execMstop_of_not_released h hr ht hrel hwait)

/-- Settles O19: each routine starts once its checks find nothing. -/
theorem routineStarts : Obligations.RoutineStarts := by
  intro x s h hr a starts ready product epilogue words counts group
  have hstart {i : Instr} {k : Nat} {cs : List Nat} (hexec : exec i s = mcallOp k x s)
      (hs : s.mcallStops k x.acc.toNat = []) (hcs : (s.calledRoutine k x).counts = cs) : starts i k cs :=
    ⟨s.calledRoutine k x, hexec.trans (mcallOp_next h hs), rfl, rfl, rfl, rfl, hcs, rfl, rfl, rfl, rfl, rfl, rfl⟩
  have hproduct {i : Instr} {k : Nat} (hexec : exec i s = mcallOp k x s) (hg : grouped k = false) (he : isEpi k = false)
      (hp : product k) : starts i k [] := by
    obtain ⟨⟨hstore, hsrc⟩, hbad⟩ := hp
    refine hstart hexec (State.mcallStops_of_not_grouped hg hr hstore hsrc ?_) ?_
    · rw [he]; exact hbad
    · simp [State.calledRoutine, hg]
  have hepilogue {i : Instr} {k : Nat} (hexec : exec i s = mcallOp k x s) (hg : grouped k = false) (he : isEpi k = true)
      (hp : epilogue k) : starts i k [] := by
    obtain ⟨⟨hstore, hsrc⟩, hbad⟩ := hp
    refine hstart hexec (State.mcallStops_of_not_grouped hg hr hstore hsrc ?_) ?_
    · rw [he]; exact hbad
    · simp [State.calledRoutine, hg]
  have hgroup {i : Instr} {k : Nat} (hexec : exec i s = mcallOp k x s) (hg : grouped k = true) (hp : group k) :
      starts i k counts := by
    obtain ⟨⟨hstore, hsrc⟩, hpos, hle, haligned, hinside, hready, hreadable, hreserved, hfits, hbad⟩ := hp
    refine hstart hexec (State.mcallStops_of_grouped hg hr hstore hsrc
      ⟨hpos, hle, haligned, hinside, hready, hreadable, hreserved, hfits⟩ hbad) ?_
    exact if_pos hg
  exact ⟨hproduct rfl rfl rfl, hproduct rfl rfl rfl, hproduct rfl rfl rfl, hproduct rfl rfl rfl, hproduct rfl rfl rfl,
    hproduct rfl rfl rfl, hproduct rfl rfl rfl, hproduct rfl rfl rfl, hproduct rfl rfl rfl, hproduct rfl rfl rfl,
    hgroup rfl rfl, hgroup rfl rfl, hepilogue rfl rfl rfl, hepilogue rfl rfl rfl, hepilogue rfl rfl rfl,
    hepilogue rfl rfl rfl, hepilogue rfl rfl rfl, hepilogue rfl rfl rfl, hepilogue rfl rfl rfl, hepilogue rfl rfl rfl⟩

end
end

section
/-! The events of the translation, of soft errors, of the arbiter and of watched words do what their rules say (O47). A write of part
of a line that fails its ECC does not leave the line's state as it was (O59).

A walk is read as it leaves the queue (`State.runWalk`), and what it found is what `State.brought` then finds for the access that waits.
A step that ends by serving held requests changes nothing more where none are held. -/

namespace Sys2Proof.Machine

/-! ## Walks leave the queue (R275, R277, R282) -/

section
variable {s : State} {w : Walk}

theorem State.runWalk_page {e : XEntry} (htid : w.tid = 0) (hunit : w.unit ≠ descUnit) (hwalk : s.walk w.vf 0 w.unit = .ok e) :
    s.runWalk w = ({ w with entry := some e, desc := none }, none) := by
  simp [State.runWalk, htid, hunit, hwalk]

theorem State.runWalk_page_fault {f : WalkErr} (htid : w.tid = 0) (hunit : w.unit ≠ descUnit)
    (hwalk : s.walk w.vf 0 w.unit = .error f) :
    s.runWalk w = ({ w with fault := some (xfault 0 w.unit f.level false w.wr f.reason), desc := none }, f.line) := by
  simp [State.runWalk, htid, hunit, hwalk]

theorem State.runWalk_desc {b : BitVec 256} (hunit : w.unit = descUnit) (hdesc : s.descBits w.vf w.tid = .ok b) :
    s.runWalk w = ({ w with desc := some b }, none) := by
  simp [State.runWalk, hunit, hdesc]

/-- The oldest request leaves the queue where a walker is free, and runs with what its reads found. -/
theorem execWalkStart_next {die : Nat} {q : List Walk} {y : Walk} (hq : (s.die die).walkQ = w :: q)
    (hfree : (s.die die).walking.length < 128) (hrun : s.runWalk w = (y, none)) :
    execWalkStart die s = .next (s.modDie die fun x => { x with walkQ := q, walking := x.walking ++ [y] }) := by
  simp [execWalkStart, hq, Nat.not_le.mpr hfree, hrun]

end

/-! ## What a walk brings (R281, R282) -/

theorem keepFirst_succ_cons {α : Type} {mine : α → Bool} {x : α} (n : Nat) (l : List α) (hx : mine x = true) :
    keepFirst mine (n + 1) (x :: l) = x :: keepFirst mine n l := by
  simp [keepFirst, hx]

/-- A cache that takes an entry holds it first. -/
theorem State.tlb_fillTlb (s : State) (e : TlbEntry) : ∃ l, (s.fillTlb e).tlb = e :: l := by
  unfold State.fillTlb
  extract_lets _ kind
  have hkind : kind e = true := by simp [kind]
  split
  · exact ⟨_, keepFirst_succ_cons 127 _ hkind⟩
  · exact ⟨_, keepFirst_succ_cons 255 _ hkind⟩

/-- What a walk brings reaches a core's caches and results alone. -/
theorem State.bring_eq_of {α : Type} {p : State → α} (hcore : ∀ (s : State) c f, p (s.modCore c f) = p s)
    (htlb : ∀ (s : State) e, p (s.fillTlb e) = p s) (hdesc : ∀ (s : State) e, p (s.fillDesc e) = p s) (s : State) (w : Walk) (c : Nat)
    (u : XUser) : p (s.bring w c u) = p s := by
  unfold State.bring
  rw [hcore]
  cases w.entry <;> cases w.desc <;> simp only [htlb, hdesc]

@[simp] theorem State.bring_die (s : State) (w : Walk) (c : Nat) (u : XUser) : (s.bring w c u).die = s.die :=
  State.bring_eq_of (p := State.die) (fun _ _ _ => rfl) (fun _ _ => rfl) (fun _ _ => rfl) s w c u

@[simp] theorem State.bring_heldReqs (s : State) (w : Walk) (c : Nat) (u : XUser) : (s.bring w c u).heldReqs = s.heldReqs :=
  State.bring_eq_of (p := State.heldReqs) (fun _ _ _ => rfl) (fun _ _ => rfl) (fun _ _ => rfl) s w c u

section
variable {s : State} {w : Walk} {c : Nat} {u : XUser}

theorem State.bring_tlb_of_entry {e : XEntry} (hentry : w.entry = some e) :
    ∃ l, (s.bring w c u).tlb = ⟨c, w.vf, w.tid, w.unit, e⟩ :: l := by
  unfold State.bring
  rw [hentry]
  exact State.tlb_fillTlb _ _

theorem State.bring_tlb_of_no_entry (hentry : w.entry = none) : (s.bring w c u).tlb = s.tlb := by
  unfold State.bring
  rw [hentry]
  cases w.desc <;> rfl

/-- The core that a result is brought to: it changes only where the access still waits. -/
theorem State.core_bring : (s.bring w c u).core c = if (s.core c).awaits u = false then s.core c else
    { s.core c with wres := ((s.core c).wres.filter fun r => !(r.user == u && r.tid == w.tid && r.unit == w.unit)) ++
        [⟨u, w.tid, w.unit, w.desc, w.entry, w.fault⟩] } := by
  unfold State.bring
  rw [State.core_modCore_same]
  cases w.entry <;> cases w.desc <;> simp [State.fillTlb, State.fillDesc, State.core]

theorem State.bring_vf : ((s.bring w c u).core c).vf = (s.core c).vf := by
  rw [State.core_bring]
  split <;> rfl

/-- The access that waits finds what its walk brought, and nothing that an earlier one did. -/
theorem State.brought_bring (hwaits : (s.core c).awaits u = true) :
    (s.bring w c u).brought c u w.tid w.unit = some ⟨u, w.tid, w.unit, w.desc, w.entry, w.fault⟩ := by
  rw [State.brought, State.core_bring, if_neg (by simp [hwaits]), List.find?_append, List.find?_eq_none.mpr]
  · simp
  · intro r hr
    simpa only [Bool.not_eq_true', Bool.not_eq_true] using (List.mem_filter.mp hr).2

/-- The access finds the entry that was brought, with its own permissions. -/
theorem State.look_bring_of_entry {e : XEntry} {wr prb : Bool} (hvf : (s.core c).vf = w.vf) (hwaits : (s.core c).awaits u = true)
    (hentry : w.entry = some e) (hfault : w.fault = none) :
    ((s.bring w c u).permit w.vf w.tid w.unit e wr prb = none → (s.bring w c u).look c u w.tid w.unit wr prb = .hit e) ∧
    ∀ f, (s.bring w c u).permit w.vf w.tid w.unit e wr prb = some f → (s.bring w c u).look c u w.tid w.unit wr prb = .fault f := by
  have hbrought := State.brought_bring hwaits (w := w)
  rw [hentry, hfault] at hbrought
  have hlook : (s.bring w c u).look c u w.tid w.unit wr prb = (s.bring w c u).permitted c w.tid w.unit e wr prb := by
    rw [State.look, hbrought]
  rw [hlook, State.permitted, State.bring_vf, hvf]
  exact ⟨fun hp => by rw [hp], fun f hp => by rw [hp]⟩

/-- The access meets the fault that was brought, as one of its own kind. -/
theorem State.look_bring_of_fault {f : XFault} {wr prb : Bool} (hwaits : (s.core c).awaits u = true) (hfault : w.fault = some f) :
    (s.bring w c u).look c u w.tid w.unit wr prb = .fault (f.seen prb wr) := by
  have hbrought := State.brought_bring hwaits (w := w)
  rw [hfault] at hbrought
  rw [State.look, hbrought]

theorem State.retryHeld_of_nil (hheld : s.heldReqs = []) : s.retryHeld = s := by
  rw [State.retryHeld, hheld, List.foldl_nil, ← hheld]

/-- A walk that one access waits for ends: it is brought there, and nothing else happens where no request is held. -/
theorem execTranslationWalk_next {die : Nat} {q : List Walk} (hwalking : (s.die die).walking = w :: q) (hwho : w.who = [(c, u)])
    (hvf : (s.core c).vf = w.vf) (hheld : s.heldReqs = []) :
    execTranslationWalk die s = .next ((s.modDie die fun x => { x with walking := q }).bring w c u) := by
  simp only [execTranslationWalk, hwalking, hwho, List.foldl_cons, List.foldl_nil, State.modDie_core, hvf, if_true]
  rw [State.retryHeld_of_nil (by simpa using hheld)]

end

/-! ## Shootdowns (R286) -/

/-- What every step of a fold leaves alone, the fold leaves alone. -/
theorem State.foldl_eq_of {α β : Type} {p : State → β} {f : State → α → State} (hf : ∀ s x, p (f s x) = p s) (l : List α)
    (s : State) : p (l.foldl f s) = p s := by
  induction l generalizing s with
  | nil => rfl
  | cons x l ih => rw [List.foldl_cons, ih, hf]

theorem State.shootDrop_eq_of {β : Type} {p : State → β} (hcore : ∀ (s : State) c f, p (s.modCore c f) = p s)
    (hcaches : ∀ (s : State) l m, p { s with tlb := l, dtlb := m } = p s) (s : State) (f : ShootSet) : p (s.shootDrop f) = p s :=
  (State.foldl_eq_of (fun t _ => hcore t _ _) _ _).trans (hcaches s _ _)

theorem State.shootDrop_mem (s : State) (f : ShootSet) : (s.shootDrop f).mem = s.mem :=
  State.shootDrop_eq_of (p := State.mem) (fun _ _ _ => rfl) (fun _ _ _ => rfl) s f

theorem State.shootDrop_heldReqs (s : State) (f : ShootSet) : (s.shootDrop f).heldReqs = s.heldReqs :=
  State.shootDrop_eq_of (p := State.heldReqs) (fun _ _ _ => rfl) (fun _ _ _ => rfl) s f

theorem State.shootDrop_tinvHold (s : State) (f : ShootSet) (c : Nat) :
    ((s.shootDrop f).core c).tinvHold = (s.core c).tinvHold := by
  refine State.foldl_eq_of (p := fun t => (t.core c).tinvHold) (fun t d => ?_) _ _
  rw [State.core_modCore]
  split
  · next h => rw [h]
  · rfl

/-- The state once the only shootdown has dropped its entries. -/
def State.shotDown (s : State) (f : ShootSet) : State := { s.shootDrop f with shoots := [] }

theorem State.filter_shoots_eq_shotDown {s : State} {x : Shootdown} (hone : s.shoots = [x]) :
    ({ s.shootDrop x.set with shoots := s.shoots.filter fun y => y.id != x.id } : State) = s.shotDown x.set := by
  rw [State.shotDown, hone]
  simp

/-- The only shootdown ends, with nothing to follow it: its entries are dropped, and the `tinv` that began it goes on. -/
theorem execShootdownComplete_next {s : State} {x : Shootdown} {c : Nat} (hone : s.shoots = [x])
    (hready : s.shootReady x.set true = true) (hafter : x.after = .nothing) (hheld : s.heldReqs = []) (hcore : x.core = some c) :
    execShootdownComplete 0 s = .next ((s.shotDown x.set).modCore c fun k =>
      if k.tinvHold = some 0 then { k with tinvHold := some 1 } else k) := by
  have hserved : (s.shotDown x.set).retryHeld = s.shotDown x.set :=
    State.retryHeld_of_nil ((s.shootDrop_heldReqs x.set).trans hheld)
  have hat : s.shoots[0]? = some x := by rw [hone]; rfl
  simp only [execShootdownComplete, hat, hready, hafter, hcore, State.afterShoot,
    State.filter_shoots_eq_shotDown hone, hserved]
  simp

/-! ## Soft errors (R288, R289) -/

theorem Core.mem_bad_spoil (c : Core) (b : BadReg) : b ∈ (c.spoil b).bad := by
  unfold Core.spoil
  split
  · next h => simpa using h
  · simp

theorem State.mem_bad_spoil (s : State) (c : Nat) (b : BadReg) : b ∈ ((s.modCore c fun k => k.spoil b).core c).bad := by
  rw [State.core_modCore_same]
  exact Core.mem_bad_spoil _ b

/-- A value that a table lists is read back, whatever an unlisted key reads as. -/
theorem Tab.get_set_listed {α : Type} [DecidableEq α] {d v : α} (e : α) (t : Tab α) (k : Nat) (hv : v ≠ d) :
    Tab.get e (t.set d k v) k = v := by
  rw [Tab.set, if_neg hv, Tab.get_insert_same _ _ _ _ fun x hx => (Tab.erase_keys t k x hx).2]

theorem State.ecc_spoilLine (s : State) (l : Nat) {ecc : Nat} (hecc : ecc ≠ 0) : ((s.spoilLine l ecc).lineState l).ecc = ecc := by
  unfold State.lineState State.spoilLine Tab.modify
  rw [Tab.get_set_listed]
  exact fun h => hecc (congrArg LineState.ecc h)

/-! ## Watched words (R216) -/

section
variable {s : State} {x : Dirty} {vf wadr a die rid : Nat} {quad : Bool} {ws : List Nat}

/-- The state with the watches and the writes not yet looked at as given. -/
def State.watchedBy (s : State) (ws : List Watch) (l : List Dirty) : State := { s with watches := ws, dirty := l }

theorem State.watchedBy_die (s : State) (ws : List Watch) (l : List Dirty) (d : Nat) : (s.watchedBy ws l).die d = s.die d := rfl

/-- A record wakes where the word has reached its value and is still watched. -/
theorem State.lookWrite_record (hwho : x.who = .record vf wadr a die rid quad) (hws : s.recWords vf a = some ws) :
    s.lookWrite x = if ws.getD 3 0 ≤ x.val.toNat ∧ s.watches.contains x.who then
      (s.makeReady vf a die rid quad x.us x.tick).watchedBy (s.watches.erase x.who) (s.dirty.filter fun y => y.who != x.who)
    else s := by
  unfold State.lookWrite
  split
  · next h =>
    cases hwho.symm.trans h
    rw [hws]
    rfl
  · next h => cases hwho.symm.trans h
  · next h => cases hwho.symm.trans h

theorem execWatchedWordReread_of_nil {phys : Nat} (hnone : s.dirty = []) : execWatchedWordReread phys s = .next s := by
  simp [execWatchedWordReread, hnone]

/-- The only write not yet looked at is looked at, where the record that watches its word can be reached. -/
theorem execWatchedWordReread_next (hone : s.dirty = [x]) (hwho : x.who = .record vf wadr a die rid quad)
    (hreached : s.flatWaits vf a = false) :
    execWatchedWordReread x.phys s = .next (State.lookWrite { s with dirty := [] } x) := by
  simp [execWatchedWordReread, hone, State.lookWaits, hwho, hreached]

theorem State.mem_ready_makeReady (s : State) (us tick : Nat) :
    ∃ y ∈ ((s.makeReady vf a die rid quad us tick).die die).ready,
      y.vf = vf ∧ y.addr = a ∧ y.rid = rid ∧ y.since = us ∧ y.tick = tick := by
  unfold State.makeReady
  rw [State.die_modDie, if_pos rfl]
  exact ⟨_, List.mem_append_right _ (List.mem_singleton_self _), rfl, rfl, rfl, rfl, rfl⟩

end

/-! ## Part of a line that fails its ECC is written (R384) -/

section
variable {s t : State} {d vf tid unit off frame : Nat} {x : XEntry} {bs : List Byte} {r : Resolved}

theorem State.writeLines_within_line (tag : Nat → LineTag) (n : Nat) (hne : bs ≠ []) (hfit : off % 64 + bs.length ≤ 64) :
    s.writeLines d frame tag (n + 2) off bs = s.writeLine d (frame * 1024 + off / 64) (tag (off / 64)) (off % 64) bs := by
  have hroom : bs.length ≤ 64 - off % 64 := by omega
  simp [State.writeLines, hne, List.take_of_length_le hroom, List.drop_of_length_le hroom]

/-- A write that is performed leaves the states of lines that the writes of its lines leave. -/
theorem State.lines_of_writeUnit_done (hstage : s.stage vf x.frame true = some r)
    (hdone : s.writeUnit d vf tid unit x off bs = (t, .done)) :
    t.lines = (s.writeLines d r.frame (fun k => s.tagOf r.vf tid unit k x.handle) (bs.length / 64 + 2) off bs).lines := by
  unfold State.writeUnit at hdone
  rw [hstage] at hdone
  split at hdone
  · cases hdone
  · dsimp only at hdone
    split at hdone
    · cases hdone
    · cases hdone
    · split at hdone
      · cases hdone
      · cases hdone
        rfl

/-- The line keeps failing, and is written back as a poisoned line, whatever its error was. -/
theorem State.lines_of_part_written (hne : bs ≠ []) (hfit : off % 64 + bs.length ≤ 64) (hpart : ¬ (off % 64 = 0 ∧ bs.length = 64))
    (hstage : s.stage vf x.frame true = some r) (hecc : (s.lineState (r.frame * 1024 + off / 64)).ecc ≠ 0)
    (hdone : s.writeUnit d vf tid unit x off bs = (t, .done)) :
    t.lines = Tab.set ⟨none, 0⟩ s.lines (r.frame * 1024 + off / 64)
      { s.lineState (r.frame * 1024 + off / 64) with ecc := 2 } := by
  rw [State.lines_of_writeUnit_done hstage hdone, State.writeLines_within_line _ _ hne hfit]
  simp [State.writeLine, hpart, hecc, State.raiseRetirement, State.raise]

end

/-- A module with one world, of one frame, whose first line fails its ECC for a transient error, as a soft error leaves it. -/
def transientLine : State := { State.reset with worlds := [(0, { (default : World) with slen := 1 })], lines := [(0, ⟨none, 1⟩)] }

/-- The entry of a tile of this module that lies in the first frame. -/
def firstFrame : XEntry := ⟨0, 0, ⟨0, 0⟩, 1, true, true⟩

theorem stage_transientLine : transientLine.stage 0 firstFrame.frame true = some ⟨0, 0, false⟩ := by decide

/-- Part of that line is written, and the write is performed for order and coherence. -/
theorem writeUnit_transientLine : ∃ t, transientLine.writeUnit 0 0 1 0 firstFrame 0 [7] = (t, .done) := ⟨_, rfl⟩

end Sys2Proof.Machine

/-! ## The obligations -/

section
open Sys2Proof Sys2Proof.Machine

/-- Settles O47: each event is what the lemmas above give. -/
theorem translationAndErrorEvents : Obligations.TranslationAndErrorEvents := by
  refine ⟨fun die s w q hq hfree => ⟨fun htid hunit => ⟨fun e hwalk => ?_, fun f hwalk hline => ?_⟩, fun hunit b hdesc => ?_⟩,
    fun die c u s w q hwalking hwho hvf hdesc hheld => ⟨fun e hentry hfault => ?_, fun f hentry hfault => ?_⟩,
    fun s x c hone hready hafter hheld hcore htinv => ?_, fun s d i => ⟨rfl, rfl, rfl, rfl⟩, fun s c r hr => ?_,
    fun s x => ⟨_, _, rfl, rfl, rfl, rfl, rfl⟩, fun s phys hnone => ?_,
    fun s x vf wadr a die rid quad ws hone hwho hreached hws => ⟨fun hbelow => ?_, fun hval hwatched => ?_⟩⟩
  · exact (rfl : _ = execWalkStart die s).trans <| execWalkStart_next hq hfree (State.runWalk_page htid hunit hwalk)
  · exact (rfl : _ = execWalkStart die s).trans <| execWalkStart_next hq hfree ((State.runWalk_page_fault htid hunit hwalk).trans (by rw [hline]))
  · exact (rfl : _ = execWalkStart die s).trans <| execWalkStart_next hq hfree (State.runWalk_desc hunit hdesc)
  · refine ⟨_, execTranslationWalk_next hwalking hwho hvf hheld, ?_, State.bring_tlb_of_entry hentry, fun hwaits wr prb => ?_⟩
    · rw [State.bring_die, State.die_modDie, if_pos rfl]
    · have hlook := State.look_bring_of_entry (s := s.modDie die fun x => { x with walking := q }) (wr := wr) (prb := prb)
        hvf hwaits hentry hfault
      split
      · next f hp => exact hlook.2 f hp
      · next hp => exact hlook.1 hp
  · refine ⟨_, execTranslationWalk_next hwalking hwho hvf hheld, ?_, State.bring_tlb_of_no_entry hentry, fun hwaits wr prb => ?_⟩
    · rw [State.bring_die, State.die_modDie, if_pos rfl]
    · exact State.look_bring_of_fault (s := s.modDie die fun x => { x with walking := q }) hwaits hfault
  · refine ⟨_, execShootdownComplete_next hone hready hafter hheld hcore, rfl, ?_, s.shootDrop_mem x.set⟩
    have hstill : ((s.shotDown x.set).core c).tinvHold = some 0 := (s.shootDrop_tinvHold x.set c).trans htinv
    rw [State.core_modCore_same, if_pos hstill]
  · refine ⟨⟨_, rfl, ?_⟩, ⟨_, rfl, ?_⟩, ⟨_, rfl, s.mem_bad_spoil c (.v r)⟩, ⟨_, rfl, s.mem_bad_spoil c (.mp r)⟩, ⟨_, rfl, ?_⟩,
      ⟨_, rfl, s.ecc_spoilLine r (by decide), rfl⟩, rfl⟩
    · simp only [if_neg hr]
      exact s.mem_bad_spoil c (.s r)
    · simp only [if_neg hr]
      exact s.mem_bad_spoil c (.k r)
    · rw [State.core_modCore_same]
      dsimp only
      split
      · next h => exact List.contains_iff_mem.mp h
      · exact List.mem_append_right _ (List.mem_singleton_self r)
  · exact execWatchedWordReread_of_nil hnone
  · exact (execWatchedWordReread_next hone hwho hreached).trans (congrArg Host.Outcome.next ((State.lookWrite_record hwho hws).trans (if_neg fun hp => Nat.not_le.mpr hbelow hp.1)))
  · have hlook := (State.lookWrite_record hwho hws).trans (if_pos ⟨hval, List.contains_iff_mem.mpr hwatched⟩)
    refine ⟨_, (execWatchedWordReread_next hone hwho hreached).trans (congrArg Host.Outcome.next hlook), rfl, ?_⟩
    rw [State.watchedBy_die]
    exact State.mem_ready_makeReady _ x.us x.tick

/-- Refutes O59: part of a line that fails its ECC for a transient error is written. Its bytes are lost, but the line's state is not the
one that stood before, since R384 has such a line written back as a poisoned line. -/
theorem not_lineWrittenIsRead : ¬ Obligations.LineWrittenIsRead := by
  intro h
  obtain ⟨t, hdone⟩ := writeUnit_transientLine
  have hecc : (transientLine.lineState 0).ecc = 1 := rfl
  have hpoisoned : t.lines = [(0, ⟨none, 2⟩)] :=
    State.lines_of_part_written (by decide) (by decide) (by decide) stage_transientLine (by decide) hdone
  obtain ⟨-, hpart, -⟩ := h transientLine t 0 0 1 0 0 firstFrame [7] ⟨0, 0, false⟩ (by decide) (by decide) (by decide)
    stage_transientLine hdone
  have hkept : t.lines = transientLine.lines :=
    (hpart (fun hopens => absurd (hecc.symm.trans hopens.1) (by decide)) (by decide)).2
  exact absurd (hpoisoned.symm.trans hkept) (by decide)

end
end
